-- ==== Sys2Proof/Word.lean ====
section
/-!
DEFINITION. The machine's words: scalar registers, bytes, instruction words and vector registers, and the field
ranges by which the manual names parts of them (R21).
-/
namespace Sys2Proof

/-- A scalar register or doubleword, 64 bits (R29). -/
abbrev Word := BitVec 64

/-- A byte. -/
abbrev Byte := BitVec 8

/-- An instruction word, 16 bits (R64); also a program counter (R25). -/
abbrev Code := BitVec 16

/-- One FP32 or 32-bit integer lane (R31). -/
abbrev Lane := BitVec 32

/-- A vector register: 64 lanes of 32 bits, lane i in bits [32i+31:32i] (R31). -/
abbrev VReg := BitVec 2048

/-- A sparse table keyed by numbers. An absent key reads as the table's default. -/
abbrev Tbl (α : Type) := List (Nat × α)

/-- A field [lo + len - 1 : lo] of a longer word (R21). -/
structure Fld where
  lo : Nat
  len : Nat
  deriving DecidableEq, Repr

end Sys2Proof
end

