-- ==== Sys2Proof/Config.lean ====
section
/-!
DEFINITION. What the manual leaves to the part: free values, and what depends on secrets of the part. None of these
has a body: no proof can see a value of one (DESIGN CHOICE, notes/assumptions 8).
-/
namespace Sys2Proof

/-- The n-th free choice of the hardware: a number nothing constrains (a frame taken from a pool, a translation-buffer
victim, a reading of a sensor). -/
opaque Config.freeNat : Nat → Nat

/-- Whether a sweep's seed-drawn patterns find a cell whose fault shows only for rare operands or some of the time: cell, seed, occasion (R205).
Nothing constrains it. -/
opaque Config.sweepFinds : Nat × Nat × Nat × Nat → BitVec 32 → Nat → Bool

/-- The device key of a module, which is unique to the part and never leaves its SMU: modulus and private exponent of a 3072-bit RSA key (R407). -/
opaque Config.deviceKey : Nat → Nat × Nat

/-- Whether the governor picks a clock for gating a die, while the window needs it (R417). Nothing constrains it. -/
opaque Config.gates : Nat → Nat → Bool

/-- Locator of a translation-buffer entry in error, by cluster and tenant: the manual gives such entries no kind (R411). Nothing constrains it. -/
opaque Config.bufferLocator : Nat → Nat → BitVec 64

/-- SHA-256 of the SMU and sequencer ROMs, measurement block 1 (R407). -/
opaque Config.romDigest : BitVec 256

/-- Offset of the firmware restore entry in a core's instruction store, by role: the manual names the entry and gives no place (R276). -/
opaque Config.restoreEntry : Nat → BitVec 16

end Sys2Proof
end

