-- ==== Sys2Proof/Syntax.lean ====
section
/-!
DEFINITION. The instructions as syntax: prefixes, operands, variants, and the one inductive `Instr` with a constructor for
every row of spec/opcode_table.json: the instruction forms of pages 0 to 8, then the steps that the hardware, the host and the
SMU make of their own.
-/
namespace Sys2Proof

/-- A register operand, a 5-bit number (R66). -/
abbrev Reg := BitVec 5

/-- The QUAL payload (R72). -/
structure Qual where
  order : BitVec 2
  route : BitVec 2
  rounding : BitVec 3
  sat : Bool
  nf : Bool
  deriving DecidableEq, Repr

/-- The prefixes an instruction carries (R69–R74): whether a PAGE and a REG prefix stand in the chain, the QUAL prefix,
and how many IMM prefixes there are. -/
structure Pfx where
  page : Bool
  reg : Bool
  qual : Option Qual
  imms : Nat
  deriving DecidableEq, Repr

/-- Access size and extension of `ld` (R94). -/
inductive LdSz | d | w | wz | h | hz | b | bz
  deriving DecidableEq, Repr

/-- Access size of `st` (R94). -/
inductive StSz | d | w | h | b
  deriving DecidableEq, Repr

/-- Element types and formats that a variant names (R91, R99). -/
inductive Elem | fp32 | int32 | uint32 | bf16 | fp16 | e4m3 | e5m2 | int8 | e2m1 | int4
  deriving DecidableEq, Repr

/-- `vshr` fills with the sign or with zeros (R98). -/
inductive ShKind | arith | logical
  deriving DecidableEq, Repr

/-- The predicate of `vcmp` (R98). -/
inductive CmpP | eq | lt | le | ne
  deriving DecidableEq, Repr

/-- Why a word sequence is no legal instruction, with what its trap value needs (R27, R101). `fetch` names the frame and the
offset of the first absent word, `ecc` an uncorrectable instruction-store word, `chain` the position of the offending word,
`bad` the page, major opcode and first word of an encoding that is well chained. -/
inductive Fate
  | fetch (frame off : Nat)
  | ecc (off : Nat)
  | chain (pos : Nat)
  | bad (page op : Nat) (first : Code)
  deriving DecidableEq, Repr

/-- Every row of the opcode table. Immediates hold the assembled and extended field before scaling (R67). -/
inductive Instr
  -- Page 0 (R94, R119–R124).
  | add (p : Pfx) (d a b : Reg)
  | sub (p : Pfx) (d a b : Reg)
  | and (p : Pfx) (d a b : Reg)
  | or (p : Pfx) (d a b : Reg)
  | xor (p : Pfx) (d a b : Reg)
  | sll (p : Pfx) (d a b : Reg)
  | srl (p : Pfx) (d a b : Reg)
  | sra (p : Pfx) (d a b : Reg)
  | slt (p : Pfx) (d a b : Reg)
  | sltu (p : Pfx) (d a b : Reg)
  | seq (p : Pfx) (d a b : Reg)
  | mov (p : Pfx) (d a : Reg)
  | addi (p : Pfx) (d a : Reg) (imm : Int)
  | li (p : Pfx) (d : Reg) (imm : Int)
  | ld (p : Pfx) (z : LdSz) (d a : Reg) (imm : Int)
  | st (p : Pfx) (z : StSz) (d a : Reg) (imm : Int)
  | bz (p : Pfx) (d : Reg) (imm : Int)
  | bnz (p : Pfx) (d : Reg) (imm : Int)
  | blt (p : Pfx) (d a : Reg) (imm : Int)
  | bge (p : Pfx) (d a : Reg) (imm : Int)
  | bltu (p : Pfx) (d a : Reg) (imm : Int)
  | bgeu (p : Pfx) (d a : Reg) (imm : Int)
  | j (p : Pfx) (imm : Int)
  | jal (p : Pfx) (imm : Int)
  | jr (p : Pfx) (a : Reg)
  | jalr (p : Pfx) (d a : Reg)
  | nop (p : Pfx)
  -- Page 1 (R96, R140–R161).
  | ldp (p : Pfx) (d a : Reg) (imm : Int)
  | stp (p : Pfx) (d a : Reg) (imm : Int)
  | ldSync (p : Pfx) (d a : Reg) (imm : Int)
  | stFill (p : Pfx) (d a : Reg) (imm : Int)
  | take (p : Pfx) (d a : Reg) (imm : Int)
  | put (p : Pfx) (d a : Reg) (imm : Int)
  | tryt (p : Pfx) (d a : Reg) (imm : Int)
  | amoAdd (p : Pfx) (d a b : Reg)
  | amoMin (p : Pfx) (d a b : Reg)
  | amoMax (p : Pfx) (d a b : Reg)
  | amoMinu (p : Pfx) (d a b : Reg)
  | amoMaxu (p : Pfx) (d a b : Reg)
  | amoAnd (p : Pfx) (d a b : Reg)
  | amoOr (p : Pfx) (d a b : Reg)
  | amoXor (p : Pfx) (d a b : Reg)
  | amoSwap (p : Pfx) (d a b : Reg)
  | amoCas (p : Pfx) (d a b : Reg)
  | bump (p : Pfx) (d a b : Reg)
  | redAdd (p : Pfx) (a b : Reg)
  | redMin (p : Pfx) (a b : Reg)
  | redMax (p : Pfx) (a b : Reg)
  | redFadd (p : Pfx) (a b : Reg)
  | fence (p : Pfx) (imm : Nat)
  | fenceRt (p : Pfx) (imm : Nat)
  | fenceEng (p : Pfx) (imm : Nat)
  | barArv (p : Pfx) (imm : Nat)
  | barWait (p : Pfx) (imm : Nat)
  | barSync (p : Pfx) (imm : Nat)
  | barPhase (p : Pfx) (d : Reg) (imm : Nat)
  | sphX (p : Pfx) (imm : Nat)
  | sphC (p : Pfx) (imm : Nat)
  | mig (p : Pfx) (a : Reg) (imm : Int)
  -- Page 2 (R97, R119–R139).
  | mul (p : Pfx) (d a b : Reg)
  | mulh (p : Pfx) (d a b : Reg)
  | mulhu (p : Pfx) (d a b : Reg)
  | div (p : Pfx) (d a b : Reg)
  | divu (p : Pfx) (d a b : Reg)
  | rem (p : Pfx) (d a b : Reg)
  | remu (p : Pfx) (d a b : Reg)
  | min (p : Pfx) (d a b : Reg)
  | max (p : Pfx) (d a b : Reg)
  | minu (p : Pfx) (d a b : Reg)
  | maxu (p : Pfx) (d a b : Reg)
  | clz (p : Pfx) (d a : Reg)
  | ctz (p : Pfx) (d a : Reg)
  | popc (p : Pfx) (d a : Reg)
  | ror (p : Pfx) (d a b : Reg)
  | sel (p : Pfx) (d a b : Reg)
  | bfx (p : Pfx) (d a : Reg) (imm : Nat)
  | bfi (p : Pfx) (d a : Reg) (imm : Nat)
  | hstart (p : Pfx) (d a : Reg) (imm : Int)
  | hend (p : Pfx) (a : Reg)
  | hjoin (p : Pfx) (d a : Reg)
  | yield (p : Pfx)
  | csrr (p : Pfx) (d : Reg) (imm : Nat)
  | csrw (p : Pfx) (d : Reg) (imm : Nat)
  | csrs (p : Pfx) (d : Reg) (imm : Nat)
  | csrc (p : Pfx) (d : Reg) (imm : Nat)
  | trap (p : Pfx) (imm : Nat)
  | eret (p : Pfx)
  | wfe (p : Pfx)
  | sev (p : Pfx) (a : Reg)
  | brk (p : Pfx)
  | cstart (p : Pfx) (d a b : Reg)
  | cstop (p : Pfx) (d a : Reg)
  | finv (p : Pfx) (a : Reg)
  | rng (p : Pfx) (d a : Reg)
  -- Page 3 (R98, R162–R179).
  | vld (p : Pfx) (d a : Reg) (imm : Int)
  | vst (p : Pfx) (d a : Reg) (imm : Int)
  | vldx (p : Pfx) (mk : BitVec 2) (d a b : Reg)
  | vstx (p : Pfx) (mk : BitVec 2) (d a b : Reg)
  | vmov (p : Pfx) (mk : BitVec 2) (d a : Reg)
  | vabs (p : Pfx) (mk : BitVec 2) (t : Elem) (d a : Reg)
  | vneg (p : Pfx) (mk : BitVec 2) (t : Elem) (d a : Reg)
  | vbcast (p : Pfx) (mk : BitVec 2) (d a : Reg)
  | vadd (p : Pfx) (mk : BitVec 2) (t : Elem) (d a b : Reg)
  | vsub (p : Pfx) (mk : BitVec 2) (t : Elem) (d a b : Reg)
  | vmul (p : Pfx) (mk : BitVec 2) (t : Elem) (d a b : Reg)
  | vfma (p : Pfx) (mk : BitVec 2) (d a b : Reg)
  | vfms (p : Pfx) (mk : BitVec 2) (d a b : Reg)
  | vfnma (p : Pfx) (mk : BitVec 2) (d a b : Reg)
  | vmin (p : Pfx) (mk : BitVec 2) (t : Elem) (d a b : Reg)
  | vmax (p : Pfx) (mk : BitVec 2) (t : Elem) (d a b : Reg)
  | vand (p : Pfx) (mk : BitVec 2) (d a b : Reg)
  | vor (p : Pfx) (mk : BitVec 2) (d a b : Reg)
  | vxor (p : Pfx) (mk : BitVec 2) (d a b : Reg)
  | vshl (p : Pfx) (mk : BitVec 2) (d a b : Reg)
  | vshr (p : Pfx) (mk : BitVec 2) (k : ShKind) (d a b : Reg)
  | vcmp (p : Pfx) (k : CmpP) (t : Elem) (d a b : Reg)
  | vsel (p : Pfx) (mk : BitVec 2) (d a b : Reg)
  | vredsum (p : Pfx) (mk : BitVec 2) (t : Elem) (d a : Reg)
  | vredmax (p : Pfx) (mk : BitVec 2) (t : Elem) (d a : Reg)
  | vredmin (p : Pfx) (mk : BitVec 2) (t : Elem) (d a : Reg)
  | vargmax (p : Pfx) (mk : BitVec 2) (t : Elem) (d a : Reg)
  | vscan (p : Pfx) (mk : BitVec 2) (t : Elem) (d a : Reg)
  | vtopk (p : Pfx) (mk : BitVec 2) (t : Elem) (d a b : Reg)
  | vperm (p : Pfx) (mk : BitVec 2) (d a b : Reg)
  | vmskAnd (p : Pfx) (d a b : Reg)
  | vmskOr (p : Pfx) (d a b : Reg)
  | vmskXor (p : Pfx) (d a b : Reg)
  | vmskNot (p : Pfx) (d a : Reg)
  | vmskFromx (p : Pfx) (d a : Reg)
  | vmskTox (p : Pfx) (d a : Reg)
  | vrep (p : Pfx) (n : Reg) (imm : Nat)
  | vseed (p : Pfx) (a : Reg)
  | vrand (p : Pfx) (mk : BitVec 2) (d : Reg)
  -- Page 4 (R99, R180–R186).
  | cvt2 (p : Pfx) (f : Elem) (d a b : Reg)
  | cvt8 (p : Pfx) (f : Elem) (d a : Reg)
  | cvt4 (p : Pfx) (f : Elem) (d a : Reg)
  | cvtu (p : Pfx) (f : Elem) (d a part : Reg)
  | cvtiI32 (p : Pfx) (d a : Reg)
  | cvtiF32 (p : Pfx) (d a : Reg)
  | qscale (p : Pfx) (f : Elem) (d a : Reg)
  | qz (p : Pfx) (f : Elem) (d a b : Reg)
  | vexp2 (p : Pfx) (d a : Reg)
  | vlog2 (p : Pfx) (d a : Reg)
  | vrcp (p : Pfx) (d a : Reg)
  | vrsqrt (p : Pfx) (d a : Reg)
  | vtanh (p : Pfx) (d a : Reg)
  | vsig (p : Pfx) (d a : Reg)
  -- Page 5 (R100, R187–R212).
  | mzero (p : Pfx)
  | mring (p : Pfx) (f : Elem) (a : Reg)
  | mop (p : Pfx) (f : Elem) (a : Reg)
  | mwait (p : Pfx) (a b : Reg)
  | mdrain (p : Pfx) (a b : Reg)
  | dret (p : Pfx) (f : Elem) (a b : Reg)
  | attn (p : Pfx) (f : Elem) (a b : Reg)
  | aini (p : Pfx)
  | mgeom (p : Pfx) (d : Reg)
  | mtest (p : Pfx) (d a b : Reg)
  | mfmap (p : Pfx) (d a : Reg)
  | mremap (p : Pfx) (d a : Reg)
  | abind (p : Pfx) (d a b : Reg)
  | await (p : Pfx) (d a : Reg)
  | aret (p : Pfx) (a b : Reg)
  -- Page 6 (R100, R213–R223).
  | xcfg (p : Pfx) (a b : Reg)
  | xcopy (p : Pfx) (d a b : Reg)
  | xgat (p : Pfx) (d a b : Reg)
  | xsct (p : Pfx) (d a b : Reg)
  | xbins (p : Pfx) (d a b : Reg)
  | xfill (p : Pfx) (d a b : Reg)
  | xbindIn (p : Pfx) (d a b : Reg)
  | xbindOut (p : Pfx) (d a b : Reg)
  | xid (p : Pfx) (d a : Reg)
  | xwait (p : Pfx) (a b : Reg)
  | xcancel (p : Pfx) (d a : Reg)
  -- Page 7 (R100, R224–R231).
  | snew (p : Pfx) (d a : Reg)
  | sfork (p : Pfx) (d a b : Reg)
  | sbind (p : Pfx) (a : Reg)
  | sunbind (p : Pfx)
  | sstep (p : Pfx) (d : Reg)
  | smark (p : Pfx)
  | scommit (p : Pfx) (d a b : Reg)
  | sroll (p : Pfx) (d : Reg)
  | sret (p : Pfx) (a : Reg)
  | sjoin (p : Pfx) (d a b : Reg)
  | sprune (p : Pfx) (a : Reg)
  | sfree (p : Pfx) (a : Reg)
  | smig (p : Pfx) (d a b : Reg)
  | sstat (p : Pfx) (d a b : Reg)
  | shold (p : Pfx) (d a b : Reg)
  -- Page 8 (R100, R232–R237).
  | cenq (p : Pfx) (d a b : Reg)
  | cenqNb (p : Pfx) (d a b : Reg)
  | cdeq (p : Pfx) (d a b : Reg)
  | cdone (p : Pfx) (d a : Reg)
  | cocc (p : Pfx) (d a : Reg)
  | tspawn (p : Pfx) (a b : Reg)
  | tdec (p : Pfx) (d a : Reg)
  | tnext (p : Pfx) (d a : Reg)
  | tend (p : Pfx)
  | tcancel (p : Pfx) (d a : Reg)
  | frd (p : Pfx) (d a : Reg)
  | fwr (p : Pfx) (a b : Reg)
  -- Steps of the hardware, of the host and of the SMU; they have no instruction word (R101, opcode table).
  | undefinedEncoding (why : Fate)
  | barrierSurplusRetry 
  | barrierArrivalMessage 
  | accessAtHome 
  | remoteReply 
  | writeAcknowledge 
  | feRequest 
  | feReissue 
  | combiningIdleFlush 
  | translationWalkDone 
  | migrationArrive 
  | helperResultReturn 
  | vectorLaneGrant 
  | vectorRetire 
  | vectorMemoryAccess 
  | matrixCommandStart 
  | ringOperationStart 
  | matrixCommandComplete 
  | drainRowDispatch 
  | mtestSweepStart 
  | mtestSweepEnd 
  | faultMapInstall 
  | xferCommandStart 
  | enginePiece 
  | xferCommandComplete 
  | feedStripDeliver 
  | feedStripWrite 
  | frameCopyComplete 
  | frameZero 
  | spillwayEvict 
  | evictionComplete 
  | fetchBackComplete 
  | countWalk 
  | basinReduce 
  | topologyPrune 
  | remoteStreamStep 
  | smigRequestArrive 
  | smigRefuse 
  | snapshotPage 
  | smigComplete 
  | balancerEvaluate 
  | strandedToPool 
  | cascadeInstall 
  | cascadeRemove 
  | taskReadyDispatch 
  | futureReply 
  | topoLoad 
  | pealSetup 
  | pealStart 
  | pealRemove 
  | pealBlockStart 
  | pealBlockArrive 
  | pealForwardReadDone 
  | releaseMarkerArrive 
  | portUpChange 
  | flitReplay 
  | messageHop 
  | multicastAdvance 
  | hostWrite 
  | hostRead 
  | lqtailDoorbell 
  | lqcfgEnWrite 
  | launchTake 
  | takeCores 
  | clusterPrepare 
  | coreStartMessage 
  | coreStopMessage 
  | launchRetire 
  | graphStart 
  | preempt 
  | clusterSave 
  | savedCopyAccess 
  | launchResume 
  | tbinvWrite 
  | tbinvmWrite 
  | tbinvComplete 
  | spillwayAreaWrite 
  | fabcfgWrite 
  | linkstatEnWrite 
  | stripeSetWrite 
  | trapimgInstall 
  | keyctlWrite 
  | rdyclRetire 
  | pcapWrite 
  | fwmbUpdate 
  | registerWrite 
  | powerGood 
  | bringupFunctionReady 
  | powerWindow 
  | thermalShutdown 
  | patrolScrubVisit 
  | journalAppend 
  | getVersion 
  | getCapabilities 
  | negotiateAlgorithms 
  | getDigests 
  | getCertificate 
  | challenge 
  | getMeasurements 
  | spdmUnsupported 
  | mainPowerLoss 
  | topologyEntryArrive 
  deriving DecidableEq, Repr

/-- The five base-word formats (R65). -/
inductive Fmt | a3 | ai | i8 | b8 | n11
  deriving DecidableEq, Repr

/-- What a register field of the base word holds: a register of a class, a pair or run that must start even, or a fixed
value (a selector, or zero for a field the form does not use) (R66, R91). A part index lies below its limit (R182). -/
inductive Opd
  | x (r : Reg)
  | xEven (r : Reg)
  | v (r : Reg)
  | vEven (r : Reg)
  | m (r : Reg)
  | run (r : Reg)
  | part (r : Reg) (lim : Nat)
  | fixed (n : Nat)
  deriving DecidableEq, Repr

/-- The immediate of a form: none, signed, unsigned within limits, or the position and width of a bit field (R67, R97). -/
inductive Imm
  | none
  | signed (v : Int)
  | unsigned (v lo hi : Nat)
  | field (v : Nat)
  deriving DecidableEq, Repr

/-- Which order values a form accepts (R72, R143). -/
inductive OrderUse | noneOnly | acq | rel | any
  deriving DecidableEq, Repr

/-- Which route values a form accepts (R142). -/
inductive RouteUse | orderedOnly | notDeferred | any
  deriving DecidableEq, Repr

/-- The QUAL fields a form consumes. `plainDeferred`: with route deferred the order must be none (R142). -/
structure QualUse where
  order : OrderUse := .noneOnly
  route : RouteUse := .orderedOnly
  rounding : Bool := false
  sat : Bool := false
  nf : Bool := false
  plainDeferred : Bool := false
  deriving DecidableEq, Repr

/-- An instruction laid out as the opcode map gives it (R94–R100). `var` is none where the form has no such variant. -/
structure Shape where
  pfx : Pfx
  page : Nat
  op : Nat
  fmt : Fmt
  d : Opd := .fixed 0
  a : Opd := .fixed 0
  b : Opd := .fixed 0
  minor : BitVec 2 := 0
  var : Option (BitVec 3) := some 0
  imm : Imm := .none
  use : QualUse := {}
  deriving DecidableEq, Repr

end Sys2Proof
end

