-- ==== Sys2Proof/Machine/Forms.lean ====
section
/-!
DEFINITION. The opcode map (R94–R100): the page, major opcode, format, operands, minor code, variant, immediate and QUAL use of every
form, and the codes of the variants (R91).
-/
namespace Sys2Proof

def LdSz.code : LdSz → Option (BitVec 3)
  | .d => some 0 | .w => some 1 | .wz => some 2 | .h => some 3 | .hz => some 4 | .b => some 5 | .bz => some 6

def LdSz.ofCode (v : BitVec 3) : Option LdSz :=
  match v.toNat with
  | 0 => some .d | 1 => some .w | 2 => some .wz | 3 => some .h | 4 => some .hz | 5 => some .b | 6 => some .bz | _ => none

def StSz.code : StSz → Option (BitVec 3)
  | .d => some 0 | .w => some 1 | .h => some 2 | .b => some 3

def StSz.ofCode (v : BitVec 3) : Option StSz :=
  match v.toNat with
  | 0 => some .d | 1 => some .w | 2 => some .h | 3 => some .b | _ => none

def ShKind.code : ShKind → Option (BitVec 3)
  | .arith => some 1 | .logical => some 2

def ShKind.ofCode (v : BitVec 3) : Option ShKind :=
  match v.toNat with
  | 1 => some .arith | 2 => some .logical | _ => none

def CmpP.code : CmpP → BitVec 2
  | .eq => 0 | .lt => 1 | .le => 2 | .ne => 3

def CmpP.ofCode (c : BitVec 2) : CmpP :=
  match c.toNat with
  | 0 => .eq | 1 => .lt | 2 => .le | _ => .ne

/-- The code of a variant within the list of variants a form offers, by position in the list. -/
def Elem.codeIn (offer : List (Option Elem)) (e : Elem) : Option (BitVec 3) :=
  (offer.findIdx? (· == some e)).map (BitVec.ofNat 3)

/-- The variant that a code names in the list of variants a form offers. -/
def Elem.atCode (offer : List (Option Elem)) (v : BitVec 3) : Option Elem := (offer[v.toNat]?).bind id

/-- V column "T" (R91). -/
def Elem.offerT : List (Option Elem) := [some .fp32, some .int32, some .uint32]
/-- V column "F" (R91). -/
def Elem.offerF : List (Option Elem) := [some .fp32, some .bf16, some .fp16, some .e4m3, some .e5m2, some .int8, some .e2m1]
/-- `attn`: F except 101 (R187). -/
def Elem.offerAt : List (Option Elem) := [some .fp32, some .bf16, some .fp16, some .e4m3, some .e5m2, none, some .e2m1]
/-- `vtopk` (R98). -/
def Elem.offerTk : List (Option Elem) := [some .fp32, some .int32]
/-- `cvt2` (R99). -/
def Elem.offerC2 : List (Option Elem) := [some .fp16, some .bf16]
/-- `cvt8` (R99). -/
def Elem.offerC8 : List (Option Elem) := [some .e4m3, some .e5m2, some .int8]
/-- `cvt4` (R99). -/
def Elem.offerC4 : List (Option Elem) := [some .e2m1, some .int4]
/-- `cvtu` (R99). -/
def Elem.offerCu : List (Option Elem) := [some .fp16, some .bf16, some .e4m3, some .e5m2, some .e2m1, some .int8, some .int4]
/-- `qscale` and `qz` (R99). -/
def Elem.offerQ : List (Option Elem) := [none, none, none, some .e4m3, some .e5m2, none, some .e2m1]

def Elem.elT (e : Elem) : Option (BitVec 3) := Elem.codeIn Elem.offerT e
def Elem.elTOf (v : BitVec 3) : Option Elem := Elem.atCode Elem.offerT v
def Elem.elF (e : Elem) : Option (BitVec 3) := Elem.codeIn Elem.offerF e
def Elem.elFOf (v : BitVec 3) : Option Elem := Elem.atCode Elem.offerF v
def Elem.elAt (e : Elem) : Option (BitVec 3) := Elem.codeIn Elem.offerAt e
def Elem.elAtOf (v : BitVec 3) : Option Elem := Elem.atCode Elem.offerAt v
def Elem.elTk (e : Elem) : Option (BitVec 3) := Elem.codeIn Elem.offerTk e
def Elem.elTkOf (v : BitVec 3) : Option Elem := Elem.atCode Elem.offerTk v
def Elem.elC2 (e : Elem) : Option (BitVec 3) := Elem.codeIn Elem.offerC2 e
def Elem.elC2Of (v : BitVec 3) : Option Elem := Elem.atCode Elem.offerC2 v
def Elem.elC8 (e : Elem) : Option (BitVec 3) := Elem.codeIn Elem.offerC8 e
def Elem.elC8Of (v : BitVec 3) : Option Elem := Elem.atCode Elem.offerC8 v
def Elem.elC4 (e : Elem) : Option (BitVec 3) := Elem.codeIn Elem.offerC4 e
def Elem.elC4Of (v : BitVec 3) : Option Elem := Elem.atCode Elem.offerC4 v
def Elem.elCu (e : Elem) : Option (BitVec 3) := Elem.codeIn Elem.offerCu e
def Elem.elCuOf (v : BitVec 3) : Option Elem := Elem.atCode Elem.offerCu v
def Elem.elQ (e : Elem) : Option (BitVec 3) := Elem.codeIn Elem.offerQ e
def Elem.elQOf (v : BitVec 3) : Option Elem := Elem.atCode Elem.offerQ v

/-- How many parts a packed register of a format holds (R182). -/
def Elem.parts : Elem → Nat
  | .fp16 | .bf16 => 2
  | .e2m1 | .int4 => 8
  | _ => 4

/-- The layout of every form. The steps without an instruction word have none. -/
def Instr.shape : Instr → Option Shape
  | .add p d a b => some { pfx := p, page := 0, op := 1, fmt := .a3, d := .x d, a := .x a, b := .x b }
  | .sub p d a b => some { pfx := p, page := 0, op := 1, fmt := .a3, d := .x d, a := .x a, b := .x b, minor := 1 }
  | .and p d a b => some { pfx := p, page := 0, op := 1, fmt := .a3, d := .x d, a := .x a, b := .x b, minor := 2 }
  | .or p d a b => some { pfx := p, page := 0, op := 1, fmt := .a3, d := .x d, a := .x a, b := .x b, minor := 3 }
  | .xor p d a b => some { pfx := p, page := 0, op := 2, fmt := .a3, d := .x d, a := .x a, b := .x b }
  | .sll p d a b => some { pfx := p, page := 0, op := 2, fmt := .a3, d := .x d, a := .x a, b := .x b, minor := 1 }
  | .srl p d a b => some { pfx := p, page := 0, op := 2, fmt := .a3, d := .x d, a := .x a, b := .x b, minor := 2 }
  | .sra p d a b => some { pfx := p, page := 0, op := 2, fmt := .a3, d := .x d, a := .x a, b := .x b, minor := 3 }
  | .slt p d a b => some { pfx := p, page := 0, op := 3, fmt := .a3, d := .x d, a := .x a, b := .x b }
  | .sltu p d a b => some { pfx := p, page := 0, op := 3, fmt := .a3, d := .x d, a := .x a, b := .x b, minor := 1 }
  | .seq p d a b => some { pfx := p, page := 0, op := 3, fmt := .a3, d := .x d, a := .x a, b := .x b, minor := 2 }
  | .mov p d a => some { pfx := p, page := 0, op := 3, fmt := .a3, d := .x d, a := .x a, minor := 3 }
  | .addi p d a imm => some { pfx := p, page := 0, op := 4, fmt := .ai, d := .x d, a := .x a, imm := .signed imm }
  | .li p d imm => some { pfx := p, page := 0, op := 5, fmt := .i8, d := .x d, imm := .signed imm }
  | .ld p z d a imm => some { pfx := p, page := 0, op := 6, fmt := .ai, d := .x d, a := .x a, var := z.code, imm := .signed imm, use := { order := .acq, route := .any } }
  | .st p z d a imm => some { pfx := p, page := 0, op := 7, fmt := .ai, d := .x d, a := .x a, var := z.code, imm := .signed imm, use := { order := .rel, route := .any, plainDeferred := true } }
  | .bz p d imm => some { pfx := p, page := 0, op := 8, fmt := .b8, d := .x d, imm := .signed imm }
  | .bnz p d imm => some { pfx := p, page := 0, op := 9, fmt := .b8, d := .x d, imm := .signed imm }
  | .blt p d a imm => some { pfx := p, page := 0, op := 10, fmt := .ai, d := .x d, a := .x a, imm := .signed imm }
  | .bge p d a imm => some { pfx := p, page := 0, op := 11, fmt := .ai, d := .x d, a := .x a, imm := .signed imm }
  | .bltu p d a imm => some { pfx := p, page := 0, op := 12, fmt := .ai, d := .x d, a := .x a, imm := .signed imm }
  | .bgeu p d a imm => some { pfx := p, page := 0, op := 13, fmt := .ai, d := .x d, a := .x a, imm := .signed imm }
  | .j p imm => some { pfx := p, page := 0, op := 14, fmt := .n11, imm := .signed imm }
  | .jal p imm => some { pfx := p, page := 0, op := 15, fmt := .n11, imm := .signed imm }
  | .jr p a => some { pfx := p, page := 0, op := 16, fmt := .a3, a := .x a }
  | .jalr p d a => some { pfx := p, page := 0, op := 16, fmt := .a3, d := .x d, a := .x a, minor := 1 }
  | .nop p => some { pfx := p, page := 0, op := 16, fmt := .a3, minor := 2 }
  | .ldp p d a imm => some { pfx := p, page := 1, op := 1, fmt := .ai, d := .xEven d, a := .x a, imm := .signed imm, use := { order := .acq, route := .any } }
  | .stp p d a imm => some { pfx := p, page := 1, op := 2, fmt := .ai, d := .xEven d, a := .x a, imm := .signed imm, use := { order := .rel, route := .any, plainDeferred := true } }
  | .ldSync p d a imm => some { pfx := p, page := 1, op := 3, fmt := .ai, d := .x d, a := .x a, imm := .signed imm, use := { order := .acq, route := .any } }
  | .stFill p d a imm => some { pfx := p, page := 1, op := 4, fmt := .ai, d := .x d, a := .x a, imm := .signed imm, use := { order := .rel, route := .any, plainDeferred := true } }
  | .take p d a imm => some { pfx := p, page := 1, op := 5, fmt := .ai, d := .x d, a := .x a, imm := .signed imm, use := { order := .acq, route := .any } }
  | .put p d a imm => some { pfx := p, page := 1, op := 6, fmt := .ai, d := .x d, a := .x a, imm := .signed imm, use := { order := .rel, route := .any } }
  | .tryt p d a imm => some { pfx := p, page := 1, op := 7, fmt := .ai, d := .x d, a := .x a, imm := .signed imm, use := { order := .acq, route := .any } }
  | .amoAdd p d a b => some { pfx := p, page := 1, op := 8, fmt := .a3, d := .x d, a := .x a, b := .x b, use := { order := .any, route := .any } }
  | .amoMin p d a b => some { pfx := p, page := 1, op := 8, fmt := .a3, d := .x d, a := .x a, b := .x b, minor := 1, use := { order := .any, route := .any } }
  | .amoMax p d a b => some { pfx := p, page := 1, op := 8, fmt := .a3, d := .x d, a := .x a, b := .x b, minor := 2, use := { order := .any, route := .any } }
  | .amoMinu p d a b => some { pfx := p, page := 1, op := 8, fmt := .a3, d := .x d, a := .x a, b := .x b, minor := 3, use := { order := .any, route := .any } }
  | .amoMaxu p d a b => some { pfx := p, page := 1, op := 9, fmt := .a3, d := .x d, a := .x a, b := .x b, use := { order := .any, route := .any } }
  | .amoAnd p d a b => some { pfx := p, page := 1, op := 9, fmt := .a3, d := .x d, a := .x a, b := .x b, minor := 1, use := { order := .any, route := .any } }
  | .amoOr p d a b => some { pfx := p, page := 1, op := 9, fmt := .a3, d := .x d, a := .x a, b := .x b, minor := 2, use := { order := .any, route := .any } }
  | .amoXor p d a b => some { pfx := p, page := 1, op := 9, fmt := .a3, d := .x d, a := .x a, b := .x b, minor := 3, use := { order := .any, route := .any } }
  | .amoSwap p d a b => some { pfx := p, page := 1, op := 10, fmt := .a3, d := .x d, a := .x a, b := .x b, use := { order := .any, route := .any } }
  | .amoCas p d a b => some { pfx := p, page := 1, op := 10, fmt := .a3, d := .x d, a := .x a, b := .x b, minor := 1, use := { order := .any, route := .any } }
  | .bump p d a b => some { pfx := p, page := 1, op := 10, fmt := .a3, d := .x d, a := .x a, b := .x b, minor := 2, use := { order := .any, route := .any } }
  | .redAdd p a b => some { pfx := p, page := 1, op := 11, fmt := .a3, a := .x a, b := .x b, use := { order := .any, route := .any, plainDeferred := true } }
  | .redMin p a b => some { pfx := p, page := 1, op := 11, fmt := .a3, a := .x a, b := .x b, minor := 1, use := { order := .any, route := .any, plainDeferred := true } }
  | .redMax p a b => some { pfx := p, page := 1, op := 11, fmt := .a3, a := .x a, b := .x b, minor := 2, use := { order := .any, route := .any, plainDeferred := true } }
  | .redFadd p a b => some { pfx := p, page := 1, op := 11, fmt := .a3, a := .x a, b := .x b, minor := 3, use := { order := .any, route := .any, plainDeferred := true } }
  | .fence p imm => some { pfx := p, page := 1, op := 12, fmt := .i8, d := .fixed 0, imm := .unsigned imm 0 4, use := { order := .any } }
  | .fenceRt p imm => some { pfx := p, page := 1, op := 12, fmt := .i8, d := .fixed 1, imm := .unsigned imm 0 4, use := { order := .noneOnly } }
  | .fenceEng p imm => some { pfx := p, page := 1, op := 12, fmt := .i8, d := .fixed 2, imm := .unsigned imm 0 4, use := { order := .noneOnly } }
  | .barArv p imm => some { pfx := p, page := 1, op := 13, fmt := .i8, imm := .unsigned imm 0 47, use := { order := .rel } }
  | .barWait p imm => some { pfx := p, page := 1, op := 14, fmt := .i8, imm := .unsigned imm 0 47, use := { order := .acq } }
  | .barSync p imm => some { pfx := p, page := 1, op := 15, fmt := .i8, imm := .unsigned imm 0 47, use := { order := .any } }
  | .barPhase p d imm => some { pfx := p, page := 1, op := 16, fmt := .i8, d := .x d, imm := .unsigned imm 0 47 }
  | .sphX p imm => some { pfx := p, page := 1, op := 17, fmt := .i8, d := .fixed 0, imm := .unsigned imm 0 3 }
  | .sphC p imm => some { pfx := p, page := 1, op := 17, fmt := .i8, d := .fixed 1, imm := .unsigned imm 0 3 }
  | .mig p a imm => some { pfx := p, page := 1, op := 18, fmt := .ai, a := .x a, imm := .signed imm }
  | .mul p d a b => some { pfx := p, page := 2, op := 1, fmt := .a3, d := .x d, a := .x a, b := .x b }
  | .mulh p d a b => some { pfx := p, page := 2, op := 1, fmt := .a3, d := .x d, a := .x a, b := .x b, minor := 1 }
  | .mulhu p d a b => some { pfx := p, page := 2, op := 1, fmt := .a3, d := .x d, a := .x a, b := .x b, minor := 2 }
  | .div p d a b => some { pfx := p, page := 2, op := 2, fmt := .a3, d := .x d, a := .x a, b := .x b }
  | .divu p d a b => some { pfx := p, page := 2, op := 2, fmt := .a3, d := .x d, a := .x a, b := .x b, minor := 1 }
  | .rem p d a b => some { pfx := p, page := 2, op := 2, fmt := .a3, d := .x d, a := .x a, b := .x b, minor := 2 }
  | .remu p d a b => some { pfx := p, page := 2, op := 2, fmt := .a3, d := .x d, a := .x a, b := .x b, minor := 3 }
  | .min p d a b => some { pfx := p, page := 2, op := 3, fmt := .a3, d := .x d, a := .x a, b := .x b }
  | .max p d a b => some { pfx := p, page := 2, op := 3, fmt := .a3, d := .x d, a := .x a, b := .x b, minor := 1 }
  | .minu p d a b => some { pfx := p, page := 2, op := 3, fmt := .a3, d := .x d, a := .x a, b := .x b, minor := 2 }
  | .maxu p d a b => some { pfx := p, page := 2, op := 3, fmt := .a3, d := .x d, a := .x a, b := .x b, minor := 3 }
  | .clz p d a => some { pfx := p, page := 2, op := 4, fmt := .a3, d := .x d, a := .x a }
  | .ctz p d a => some { pfx := p, page := 2, op := 4, fmt := .a3, d := .x d, a := .x a, minor := 1 }
  | .popc p d a => some { pfx := p, page := 2, op := 4, fmt := .a3, d := .x d, a := .x a, minor := 2 }
  | .ror p d a b => some { pfx := p, page := 2, op := 4, fmt := .a3, d := .x d, a := .x a, b := .x b, minor := 3 }
  | .sel p d a b => some { pfx := p, page := 2, op := 5, fmt := .a3, d := .x d, a := .x a, b := .x b }
  | .bfx p d a imm => some { pfx := p, page := 2, op := 6, fmt := .ai, d := .x d, a := .x a, imm := .field imm }
  | .bfi p d a imm => some { pfx := p, page := 2, op := 7, fmt := .ai, d := .x d, a := .x a, imm := .field imm }
  | .hstart p d a imm => some { pfx := p, page := 2, op := 8, fmt := .ai, d := .x d, a := .x a, imm := .signed imm }
  | .hend p a => some { pfx := p, page := 2, op := 9, fmt := .a3, a := .x a }
  | .hjoin p d a => some { pfx := p, page := 2, op := 9, fmt := .a3, d := .x d, a := .x a, minor := 1 }
  | .yield p => some { pfx := p, page := 2, op := 9, fmt := .a3, minor := 2 }
  | .csrr p d imm => some { pfx := p, page := 2, op := 10, fmt := .i8, d := .x d, imm := .unsigned imm 0 4095 }
  | .csrw p d imm => some { pfx := p, page := 2, op := 11, fmt := .i8, d := .x d, imm := .unsigned imm 0 4095 }
  | .csrs p d imm => some { pfx := p, page := 2, op := 12, fmt := .i8, d := .x d, imm := .unsigned imm 0 4095 }
  | .csrc p d imm => some { pfx := p, page := 2, op := 13, fmt := .i8, d := .x d, imm := .unsigned imm 0 4095 }
  | .trap p imm => some { pfx := p, page := 2, op := 14, fmt := .n11, imm := .unsigned imm 0 140737488355327 }
  | .eret p => some { pfx := p, page := 2, op := 15, fmt := .a3 }
  | .wfe p => some { pfx := p, page := 2, op := 15, fmt := .a3, minor := 1 }
  | .sev p a => some { pfx := p, page := 2, op := 15, fmt := .a3, a := .x a, minor := 2 }
  | .brk p => some { pfx := p, page := 2, op := 15, fmt := .a3, minor := 3 }
  | .cstart p d a b => some { pfx := p, page := 2, op := 16, fmt := .a3, d := .x d, a := .x a, b := .x b }
  | .cstop p d a => some { pfx := p, page := 2, op := 16, fmt := .a3, d := .x d, a := .x a, minor := 1 }
  | .finv p a => some { pfx := p, page := 2, op := 16, fmt := .a3, a := .x a, minor := 2 }
  | .rng p d a => some { pfx := p, page := 2, op := 16, fmt := .a3, d := .x d, a := .x a, minor := 3 }
  | .vld p d a imm => some { pfx := p, page := 3, op := 1, fmt := .ai, d := .v d, a := .x a, imm := .signed imm, use := { route := .any } }
  | .vst p d a imm => some { pfx := p, page := 3, op := 2, fmt := .ai, d := .v d, a := .x a, imm := .signed imm, use := { route := .notDeferred } }
  | .vldx p mk d a b => some { pfx := p, page := 3, op := 3, fmt := .a3, d := .v d, a := .x a, b := .v b, minor := mk, use := { route := .any } }
  | .vstx p mk d a b => some { pfx := p, page := 3, op := 4, fmt := .a3, d := .v d, a := .x a, b := .v b, minor := mk, use := { route := .notDeferred } }
  | .vmov p mk d a => some { pfx := p, page := 3, op := 5, fmt := .a3, d := .v d, a := .v a, b := .fixed 0, minor := mk }
  | .vabs p mk t d a => some { pfx := p, page := 3, op := 5, fmt := .a3, d := .v d, a := .v a, b := .fixed 1, minor := mk, var := t.elT }
  | .vneg p mk t d a => some { pfx := p, page := 3, op := 5, fmt := .a3, d := .v d, a := .v a, b := .fixed 2, minor := mk, var := t.elT }
  | .vbcast p mk d a => some { pfx := p, page := 3, op := 6, fmt := .a3, d := .v d, a := .x a, minor := mk }
  | .vadd p mk t d a b => some { pfx := p, page := 3, op := 7, fmt := .a3, d := .v d, a := .v a, b := .v b, minor := mk, var := t.elT, use := { rounding := true, nf := true } }
  | .vsub p mk t d a b => some { pfx := p, page := 3, op := 8, fmt := .a3, d := .v d, a := .v a, b := .v b, minor := mk, var := t.elT, use := { rounding := true, nf := true } }
  | .vmul p mk t d a b => some { pfx := p, page := 3, op := 9, fmt := .a3, d := .v d, a := .v a, b := .v b, minor := mk, var := t.elT, use := { rounding := true, nf := true } }
  | .vfma p mk d a b => some { pfx := p, page := 3, op := 10, fmt := .a3, d := .v d, a := .v a, b := .v b, minor := mk, use := { rounding := true, nf := true } }
  | .vfms p mk d a b => some { pfx := p, page := 3, op := 11, fmt := .a3, d := .v d, a := .v a, b := .v b, minor := mk, use := { rounding := true, nf := true } }
  | .vfnma p mk d a b => some { pfx := p, page := 3, op := 12, fmt := .a3, d := .v d, a := .v a, b := .v b, minor := mk, use := { rounding := true, nf := true } }
  | .vmin p mk t d a b => some { pfx := p, page := 3, op := 13, fmt := .a3, d := .v d, a := .v a, b := .v b, minor := mk, var := t.elT, use := { nf := true } }
  | .vmax p mk t d a b => some { pfx := p, page := 3, op := 14, fmt := .a3, d := .v d, a := .v a, b := .v b, minor := mk, var := t.elT, use := { nf := true } }
  | .vand p mk d a b => some { pfx := p, page := 3, op := 15, fmt := .a3, d := .v d, a := .v a, b := .v b, minor := mk }
  | .vor p mk d a b => some { pfx := p, page := 3, op := 16, fmt := .a3, d := .v d, a := .v a, b := .v b, minor := mk }
  | .vxor p mk d a b => some { pfx := p, page := 3, op := 17, fmt := .a3, d := .v d, a := .v a, b := .v b, minor := mk }
  | .vshl p mk d a b => some { pfx := p, page := 3, op := 18, fmt := .a3, d := .v d, a := .v a, b := .v b, minor := mk }
  | .vshr p mk k d a b => some { pfx := p, page := 3, op := 19, fmt := .a3, d := .v d, a := .v a, b := .v b, minor := mk, var := k.code }
  | .vcmp p k t d a b => some { pfx := p, page := 3, op := 20, fmt := .a3, d := .m d, a := .v a, b := .v b, minor := k.code, var := t.elT, use := { nf := true } }
  | .vsel p mk d a b => some { pfx := p, page := 3, op := 21, fmt := .a3, d := .v d, a := .v a, b := .v b, minor := mk }
  | .vredsum p mk t d a => some { pfx := p, page := 3, op := 22, fmt := .a3, d := .x d, a := .v a, b := .fixed 0, minor := mk, var := t.elT, use := { rounding := true, nf := true } }
  | .vredmax p mk t d a => some { pfx := p, page := 3, op := 22, fmt := .a3, d := .x d, a := .v a, b := .fixed 1, minor := mk, var := t.elT, use := { rounding := true, nf := true } }
  | .vredmin p mk t d a => some { pfx := p, page := 3, op := 22, fmt := .a3, d := .x d, a := .v a, b := .fixed 2, minor := mk, var := t.elT, use := { rounding := true, nf := true } }
  | .vargmax p mk t d a => some { pfx := p, page := 3, op := 22, fmt := .a3, d := .x d, a := .v a, b := .fixed 3, minor := mk, var := t.elT, use := { rounding := true, nf := true } }
  | .vscan p mk t d a => some { pfx := p, page := 3, op := 23, fmt := .a3, d := .v d, a := .v a, minor := mk, var := t.elT, use := { rounding := true, nf := true } }
  | .vtopk p mk t d a b => some { pfx := p, page := 3, op := 24, fmt := .a3, d := .vEven d, a := .v a, b := .x b, minor := mk, var := t.elTk }
  | .vperm p mk d a b => some { pfx := p, page := 3, op := 25, fmt := .a3, d := .v d, a := .v a, b := .v b, minor := mk }
  | .vmskAnd p d a b => some { pfx := p, page := 3, op := 26, fmt := .a3, d := .m d, a := .m a, b := .m b }
  | .vmskOr p d a b => some { pfx := p, page := 3, op := 26, fmt := .a3, d := .m d, a := .m a, b := .m b, minor := 1 }
  | .vmskXor p d a b => some { pfx := p, page := 3, op := 26, fmt := .a3, d := .m d, a := .m a, b := .m b, minor := 2 }
  | .vmskNot p d a => some { pfx := p, page := 3, op := 26, fmt := .a3, d := .m d, a := .m a, minor := 3 }
  | .vmskFromx p d a => some { pfx := p, page := 3, op := 26, fmt := .a3, d := .m d, a := .x a, var := some 1 }
  | .vmskTox p d a => some { pfx := p, page := 3, op := 26, fmt := .a3, d := .x d, a := .m a, minor := 1, var := some 1 }
  | .vrep p n imm => some { pfx := p, page := 3, op := 27, fmt := .i8, d := .run n, imm := .unsigned imm 1 65535 }
  | .vseed p a => some { pfx := p, page := 3, op := 28, fmt := .a3, a := .x a }
  | .vrand p mk d => some { pfx := p, page := 3, op := 29, fmt := .a3, d := .v d, minor := mk }
  | .cvt2 p f d a b => some { pfx := p, page := 4, op := 1, fmt := .a3, d := .v d, a := .v a, b := .v b, var := f.elC2, use := { rounding := true, sat := true, nf := true } }
  | .cvt8 p f d a => some { pfx := p, page := 4, op := 2, fmt := .a3, d := .v d, a := .v a, var := f.elC8, use := { rounding := true, sat := true, nf := true } }
  | .cvt4 p f d a => some { pfx := p, page := 4, op := 3, fmt := .a3, d := .v d, a := .v a, var := f.elC4, use := { rounding := true, sat := true, nf := true } }
  | .cvtu p f d a part => some { pfx := p, page := 4, op := 4, fmt := .a3, d := .v d, a := .v a, b := .part part f.parts, var := f.elCu, use := { nf := true } }
  | .cvtiI32 p d a => some { pfx := p, page := 4, op := 5, fmt := .a3, d := .v d, a := .v a, use := { rounding := true, sat := true, nf := true } }
  | .cvtiF32 p d a => some { pfx := p, page := 4, op := 5, fmt := .a3, d := .v d, a := .v a, minor := 1, use := { rounding := true, sat := true, nf := true } }
  | .qscale p f d a => some { pfx := p, page := 4, op := 6, fmt := .a3, d := .v d, a := .v a, var := f.elQ, use := { nf := true } }
  | .qz p f d a b => some { pfx := p, page := 4, op := 7, fmt := .a3, d := .v d, a := .v a, b := .v b, var := f.elQ, use := { rounding := true, sat := true, nf := true } }
  | .vexp2 p d a => some { pfx := p, page := 4, op := 8, fmt := .a3, d := .v d, a := .v a, b := .fixed 0, use := { nf := true } }
  | .vlog2 p d a => some { pfx := p, page := 4, op := 8, fmt := .a3, d := .v d, a := .v a, b := .fixed 1, use := { nf := true } }
  | .vrcp p d a => some { pfx := p, page := 4, op := 8, fmt := .a3, d := .v d, a := .v a, b := .fixed 2, use := { nf := true } }
  | .vrsqrt p d a => some { pfx := p, page := 4, op := 8, fmt := .a3, d := .v d, a := .v a, b := .fixed 3, use := { nf := true } }
  | .vtanh p d a => some { pfx := p, page := 4, op := 8, fmt := .a3, d := .v d, a := .v a, b := .fixed 4, use := { nf := true } }
  | .vsig p d a => some { pfx := p, page := 4, op := 8, fmt := .a3, d := .v d, a := .v a, b := .fixed 5, use := { nf := true } }
  | .mzero p => some { pfx := p, page := 5, op := 1, fmt := .a3 }
  | .mring p f a => some { pfx := p, page := 5, op := 2, fmt := .a3, a := .x a, var := f.elF }
  | .mop p f a => some { pfx := p, page := 5, op := 3, fmt := .a3, a := .x a, var := f.elF }
  | .mwait p a b => some { pfx := p, page := 5, op := 4, fmt := .a3, a := .x a, b := .x b }
  | .mdrain p a b => some { pfx := p, page := 5, op := 5, fmt := .a3, a := .x a, b := .x b }
  | .dret p f a b => some { pfx := p, page := 5, op := 6, fmt := .a3, a := .x a, b := .x b, var := f.elF, use := { rounding := true, sat := true, nf := true } }
  | .attn p f a b => some { pfx := p, page := 5, op := 7, fmt := .a3, a := .x a, b := .x b, var := f.elAt }
  | .aini p => some { pfx := p, page := 5, op := 8, fmt := .a3 }
  | .mgeom p d => some { pfx := p, page := 5, op := 9, fmt := .a3, d := .x d }
  | .mtest p d a b => some { pfx := p, page := 5, op := 10, fmt := .a3, d := .x d, a := .x a, b := .x b }
  | .mfmap p d a => some { pfx := p, page := 5, op := 11, fmt := .a3, d := .x d, a := .x a }
  | .mremap p d a => some { pfx := p, page := 5, op := 12, fmt := .a3, d := .x d, a := .x a }
  | .abind p d a b => some { pfx := p, page := 5, op := 13, fmt := .a3, d := .x d, a := .x a, b := .x b }
  | .await p d a => some { pfx := p, page := 5, op := 14, fmt := .a3, d := .x d, a := .x a }
  | .aret p a b => some { pfx := p, page := 5, op := 15, fmt := .a3, a := .x a, b := .x b }
  | .xcfg p a b => some { pfx := p, page := 6, op := 1, fmt := .a3, a := .x a, b := .x b }
  | .xcopy p d a b => some { pfx := p, page := 6, op := 2, fmt := .a3, d := .x d, a := .x a, b := .x b }
  | .xgat p d a b => some { pfx := p, page := 6, op := 3, fmt := .a3, d := .x d, a := .x a, b := .x b }
  | .xsct p d a b => some { pfx := p, page := 6, op := 4, fmt := .a3, d := .x d, a := .x a, b := .x b }
  | .xbins p d a b => some { pfx := p, page := 6, op := 5, fmt := .a3, d := .x d, a := .x a, b := .x b }
  | .xfill p d a b => some { pfx := p, page := 6, op := 6, fmt := .a3, d := .x d, a := .x a, b := .x b }
  | .xbindIn p d a b => some { pfx := p, page := 6, op := 7, fmt := .a3, d := .x d, a := .x a, b := .x b }
  | .xbindOut p d a b => some { pfx := p, page := 6, op := 7, fmt := .a3, d := .x d, a := .x a, b := .x b, minor := 1 }
  | .xid p d a => some { pfx := p, page := 6, op := 8, fmt := .a3, d := .x d, a := .x a }
  | .xwait p a b => some { pfx := p, page := 6, op := 9, fmt := .a3, a := .x a, b := .x b }
  | .xcancel p d a => some { pfx := p, page := 6, op := 10, fmt := .a3, d := .x d, a := .x a }
  | .snew p d a => some { pfx := p, page := 7, op := 1, fmt := .a3, d := .x d, a := .x a }
  | .sfork p d a b => some { pfx := p, page := 7, op := 2, fmt := .a3, d := .x d, a := .x a, b := .x b }
  | .sbind p a => some { pfx := p, page := 7, op := 3, fmt := .a3, a := .x a }
  | .sunbind p => some { pfx := p, page := 7, op := 4, fmt := .a3 }
  | .sstep p d => some { pfx := p, page := 7, op := 5, fmt := .a3, d := .x d }
  | .smark p => some { pfx := p, page := 7, op := 6, fmt := .a3 }
  | .scommit p d a b => some { pfx := p, page := 7, op := 7, fmt := .a3, d := .x d, a := .x a, b := .x b }
  | .sroll p d => some { pfx := p, page := 7, op := 8, fmt := .a3, d := .x d }
  | .sret p a => some { pfx := p, page := 7, op := 9, fmt := .a3, a := .x a }
  | .sjoin p d a b => some { pfx := p, page := 7, op := 10, fmt := .a3, d := .xEven d, a := .x a, b := .x b }
  | .sprune p a => some { pfx := p, page := 7, op := 11, fmt := .a3, a := .x a }
  | .sfree p a => some { pfx := p, page := 7, op := 12, fmt := .a3, a := .x a }
  | .smig p d a b => some { pfx := p, page := 7, op := 13, fmt := .a3, d := .x d, a := .x a, b := .x b }
  | .sstat p d a b => some { pfx := p, page := 7, op := 14, fmt := .a3, d := .x d, a := .x a, b := .x b }
  | .shold p d a b => some { pfx := p, page := 7, op := 15, fmt := .a3, d := .x d, a := .x a, b := .x b }
  | .cenq p d a b => some { pfx := p, page := 8, op := 1, fmt := .a3, d := .x d, a := .x a, b := .x b }
  | .cenqNb p d a b => some { pfx := p, page := 8, op := 1, fmt := .a3, d := .x d, a := .x a, b := .x b, minor := 1 }
  | .cdeq p d a b => some { pfx := p, page := 8, op := 2, fmt := .a3, d := .x d, a := .x a, b := .x b }
  | .cdone p d a => some { pfx := p, page := 8, op := 3, fmt := .a3, d := .x d, a := .x a }
  | .cocc p d a => some { pfx := p, page := 8, op := 4, fmt := .a3, d := .x d, a := .x a }
  | .tspawn p a b => some { pfx := p, page := 8, op := 5, fmt := .a3, a := .x a, b := .x b }
  | .tdec p d a => some { pfx := p, page := 8, op := 6, fmt := .a3, d := .x d, a := .x a }
  | .tnext p d a => some { pfx := p, page := 8, op := 7, fmt := .a3, d := .x d, a := .x a }
  | .tend p => some { pfx := p, page := 8, op := 8, fmt := .a3 }
  | .tcancel p d a => some { pfx := p, page := 8, op := 9, fmt := .a3, d := .x d, a := .x a }
  | .frd p d a => some { pfx := p, page := 8, op := 10, fmt := .a3, d := .x d, a := .x a, use := { order := .acq } }
  | .fwr p a b => some { pfx := p, page := 8, op := 11, fmt := .a3, a := .x a, b := .x b, use := { order := .rel } }
  | .undefinedEncoding _ => none
  | .barrierSurplusRetry => none
  | .barrierArrivalMessage => none
  | .accessAtHome => none
  | .remoteReply => none
  | .writeAcknowledge => none
  | .feRequest => none
  | .feReissue => none
  | .combiningIdleFlush => none
  | .translationWalkDone => none
  | .migrationArrive => none
  | .helperResultReturn => none
  | .vectorLaneGrant => none
  | .vectorRetire => none
  | .vectorMemoryAccess => none
  | .matrixCommandStart => none
  | .ringOperationStart => none
  | .matrixCommandComplete => none
  | .drainRowDispatch => none
  | .mtestSweepStart => none
  | .mtestSweepEnd => none
  | .faultMapInstall => none
  | .xferCommandStart => none
  | .enginePiece => none
  | .xferCommandComplete => none
  | .feedStripDeliver => none
  | .feedStripWrite => none
  | .frameCopyComplete => none
  | .frameZero => none
  | .spillwayEvict => none
  | .evictionComplete => none
  | .fetchBackComplete => none
  | .countWalk => none
  | .basinReduce => none
  | .topologyPrune => none
  | .remoteStreamStep => none
  | .smigRequestArrive => none
  | .smigRefuse => none
  | .snapshotPage => none
  | .smigComplete => none
  | .balancerEvaluate => none
  | .strandedToPool => none
  | .cascadeInstall => none
  | .cascadeRemove => none
  | .taskReadyDispatch => none
  | .futureReply => none
  | .topoLoad => none
  | .pealSetup => none
  | .pealStart => none
  | .pealRemove => none
  | .pealBlockStart => none
  | .pealBlockArrive => none
  | .pealForwardReadDone => none
  | .releaseMarkerArrive => none
  | .portUpChange => none
  | .flitReplay => none
  | .messageHop => none
  | .multicastAdvance => none
  | .hostWrite => none
  | .hostRead => none
  | .lqtailDoorbell => none
  | .lqcfgEnWrite => none
  | .launchTake => none
  | .takeCores => none
  | .clusterPrepare => none
  | .coreStartMessage => none
  | .coreStopMessage => none
  | .launchRetire => none
  | .graphStart => none
  | .preempt => none
  | .clusterSave => none
  | .savedCopyAccess => none
  | .launchResume => none
  | .tbinvWrite => none
  | .tbinvmWrite => none
  | .tbinvComplete => none
  | .spillwayAreaWrite => none
  | .fabcfgWrite => none
  | .linkstatEnWrite => none
  | .stripeSetWrite => none
  | .trapimgInstall => none
  | .keyctlWrite => none
  | .rdyclRetire => none
  | .pcapWrite => none
  | .fwmbUpdate => none
  | .registerWrite => none
  | .powerGood => none
  | .bringupFunctionReady => none
  | .powerWindow => none
  | .thermalShutdown => none
  | .patrolScrubVisit => none
  | .journalAppend => none
  | .getVersion => none
  | .getCapabilities => none
  | .negotiateAlgorithms => none
  | .getDigests => none
  | .getCertificate => none
  | .challenge => none
  | .getMeasurements => none
  | .spdmUnsupported => none
  | .mainPowerLoss => none
  | .topologyEntryArrive => none

/-- The x registers a form reads as sources (the operand tables of the instruction chapters). -/
def Instr.xReads : Instr → List Reg
  | .add _ _ a b => [a, b]
  | .sub _ _ a b => [a, b]
  | .and _ _ a b => [a, b]
  | .or _ _ a b => [a, b]
  | .xor _ _ a b => [a, b]
  | .sll _ _ a b => [a, b]
  | .srl _ _ a b => [a, b]
  | .sra _ _ a b => [a, b]
  | .slt _ _ a b => [a, b]
  | .sltu _ _ a b => [a, b]
  | .seq _ _ a b => [a, b]
  | .mov _ _ a => [a]
  | .addi _ _ a _ => [a]
  | .ld _ _ _ a _ => [a]
  | .st _ _ d a _ => [d, a]
  | .bz _ d _ => [d]
  | .bnz _ d _ => [d]
  | .blt _ d a _ => [d, a]
  | .bge _ d a _ => [d, a]
  | .bltu _ d a _ => [d, a]
  | .bgeu _ d a _ => [d, a]
  | .jr _ a => [a]
  | .jalr _ _ a => [a]
  | .ldp _ _ a _ => [a]
  | .stp _ d a _ => [d, (d + 1), a]
  | .ldSync _ _ a _ => [a]
  | .stFill _ d a _ => [d, a]
  | .take _ _ a _ => [a]
  | .put _ d a _ => [d, a]
  | .tryt _ _ a _ => [a]
  | .amoAdd _ _ a b => [a, b]
  | .amoMin _ _ a b => [a, b]
  | .amoMax _ _ a b => [a, b]
  | .amoMinu _ _ a b => [a, b]
  | .amoMaxu _ _ a b => [a, b]
  | .amoAnd _ _ a b => [a, b]
  | .amoOr _ _ a b => [a, b]
  | .amoXor _ _ a b => [a, b]
  | .amoSwap _ _ a b => [a, b]
  | .amoCas _ d a b => [d, a, b]
  | .bump _ _ a b => [a, b]
  | .redAdd _ a b => [a, b]
  | .redMin _ a b => [a, b]
  | .redMax _ a b => [a, b]
  | .redFadd _ a b => [a, b]
  | .mig _ a _ => [a]
  | .mul _ _ a b => [a, b]
  | .mulh _ _ a b => [a, b]
  | .mulhu _ _ a b => [a, b]
  | .div _ _ a b => [a, b]
  | .divu _ _ a b => [a, b]
  | .rem _ _ a b => [a, b]
  | .remu _ _ a b => [a, b]
  | .min _ _ a b => [a, b]
  | .max _ _ a b => [a, b]
  | .minu _ _ a b => [a, b]
  | .maxu _ _ a b => [a, b]
  | .clz _ _ a => [a]
  | .ctz _ _ a => [a]
  | .popc _ _ a => [a]
  | .ror _ _ a b => [a, b]
  | .sel _ d a b => [d, a, b]
  | .bfx _ _ a _ => [a]
  | .bfi _ d a _ => [d, a]
  | .hstart _ _ a _ => [a]
  | .hend _ a => [a]
  | .hjoin _ _ a => [a]
  | .csrw _ d _ => [d]
  | .csrs _ d _ => [d]
  | .csrc _ d _ => [d]
  | .sev _ a => [a]
  | .cstart _ _ a b => [a, b]
  | .cstop _ _ a => [a]
  | .finv _ a => [a]
  | .rng _ _ a => [a]
  | .vld _ _ a _ => [a]
  | .vst _ _ a _ => [a]
  | .vldx _ _ _ a _ => [a]
  | .vstx _ _ _ a _ => [a]
  | .vbcast _ _ _ a => [a]
  | .vtopk _ _ _ _ _ b => [b]
  | .vmskFromx _ _ a => [a]
  | .vseed _ a => [a]
  | .mring _ _ a => [a]
  | .mop _ _ a => [a]
  | .mwait _ a b => [a, b]
  | .mdrain _ a b => [a, b]
  | .dret _ _ a b => [a, b]
  | .attn _ _ a b => [a, b]
  | .mtest _ _ a b => [a, b]
  | .mfmap _ _ a => [a]
  | .mremap _ _ a => [a]
  | .abind _ _ a b => [a, b]
  | .await _ _ a => [a]
  | .aret _ a b => [a, b]
  | .xcfg _ a b => [a, b]
  | .xcopy _ d a b => [d, a, b]
  | .xgat _ d a b => [d, a, b]
  | .xsct _ d a b => [d, a, b]
  | .xbins _ d a b => [d, a, b]
  | .xfill _ d a b => [d, a, b]
  | .xbindIn _ d a b => [d, a, b]
  | .xbindOut _ d a b => [d, a, b]
  | .xid _ _ a => [a]
  | .xwait _ a b => [a, b]
  | .xcancel _ _ a => [a]
  | .snew _ _ a => [a]
  | .sfork _ _ a b => [a, b]
  | .sbind _ a => [a]
  | .scommit _ _ a b => [a, b]
  | .sret _ a => [a]
  | .sjoin _ _ a b => [a, b]
  | .sprune _ a => [a]
  | .sfree _ a => [a]
  | .smig _ _ a b => [a, b]
  | .sstat _ _ a b => [a, b]
  | .shold _ _ a b => [a, b]
  | .cenq _ _ a b => [a, b]
  | .cenqNb _ _ a b => [a, b]
  | .cdeq _ d a b => [d, a, b]
  | .cdone _ _ a => [a]
  | .cocc _ _ a => [a]
  | .tspawn _ a b => [a, b]
  | .tdec _ _ a => [a]
  | .tnext _ _ a => [a]
  | .tcancel _ _ a => [a]
  | .frd _ _ a => [a]
  | .fwr _ a b => [a, b]
  | _ => []

/-- The x registers a form writes as its destination. -/
def Instr.xWrites : Instr → List Reg
  | .add _ d _ _ => [d]
  | .sub _ d _ _ => [d]
  | .and _ d _ _ => [d]
  | .or _ d _ _ => [d]
  | .xor _ d _ _ => [d]
  | .sll _ d _ _ => [d]
  | .srl _ d _ _ => [d]
  | .sra _ d _ _ => [d]
  | .slt _ d _ _ => [d]
  | .sltu _ d _ _ => [d]
  | .seq _ d _ _ => [d]
  | .mov _ d _ => [d]
  | .addi _ d _ _ => [d]
  | .li _ d _ => [d]
  | .ld _ _ d _ _ => [d]
  | .jalr _ d _ => [d]
  | .ldp _ d _ _ => [d, (d + 1)]
  | .ldSync _ d _ _ => [d]
  | .take _ d _ _ => [d]
  | .tryt _ d _ _ => [d]
  | .amoAdd _ d _ _ => [d]
  | .amoMin _ d _ _ => [d]
  | .amoMax _ d _ _ => [d]
  | .amoMinu _ d _ _ => [d]
  | .amoMaxu _ d _ _ => [d]
  | .amoAnd _ d _ _ => [d]
  | .amoOr _ d _ _ => [d]
  | .amoXor _ d _ _ => [d]
  | .amoSwap _ d _ _ => [d]
  | .amoCas _ d _ _ => [d]
  | .bump _ d _ _ => [d]
  | .barPhase _ d _ => [d]
  | .mul _ d _ _ => [d]
  | .mulh _ d _ _ => [d]
  | .mulhu _ d _ _ => [d]
  | .div _ d _ _ => [d]
  | .divu _ d _ _ => [d]
  | .rem _ d _ _ => [d]
  | .remu _ d _ _ => [d]
  | .min _ d _ _ => [d]
  | .max _ d _ _ => [d]
  | .minu _ d _ _ => [d]
  | .maxu _ d _ _ => [d]
  | .clz _ d _ => [d]
  | .ctz _ d _ => [d]
  | .popc _ d _ => [d]
  | .ror _ d _ _ => [d]
  | .sel _ d _ _ => [d]
  | .bfx _ d _ _ => [d]
  | .bfi _ d _ _ => [d]
  | .hstart _ d _ _ => [d]
  | .hjoin _ d _ => [d]
  | .csrr _ d _ => [d]
  | .cstart _ d _ _ => [d]
  | .cstop _ d _ => [d]
  | .rng _ d _ => [d]
  | .vredsum _ _ _ d _ => [d]
  | .vredmax _ _ _ d _ => [d]
  | .vredmin _ _ _ d _ => [d]
  | .vargmax _ _ _ d _ => [d]
  | .vmskTox _ d _ => [d]
  | .mgeom _ d => [d]
  | .mtest _ d _ _ => [d]
  | .mfmap _ d _ => [d]
  | .mremap _ d _ => [d]
  | .abind _ d _ _ => [d]
  | .await _ d _ => [d]
  | .xcopy _ d _ _ => [d]
  | .xgat _ d _ _ => [d]
  | .xsct _ d _ _ => [d]
  | .xbins _ d _ _ => [d]
  | .xfill _ d _ _ => [d]
  | .xbindIn _ d _ _ => [d]
  | .xbindOut _ d _ _ => [d]
  | .xid _ d _ => [d]
  | .xcancel _ d _ => [d]
  | .snew _ d _ => [d]
  | .sfork _ d _ _ => [d]
  | .sstep _ d => [d]
  | .scommit _ d _ _ => [d]
  | .sroll _ d => [d]
  | .sjoin _ d _ _ => [d, (d + 1)]
  | .smig _ d _ _ => [d]
  | .sstat _ d _ _ => [d]
  | .shold _ d _ _ => [d]
  | .cenq _ d _ _ => [d]
  | .cenqNb _ d _ _ => [d]
  | .cdeq _ d _ _ => [d]
  | .cdone _ d _ => [d]
  | .cocc _ d _ => [d]
  | .tdec _ d _ => [d]
  | .tnext _ d _ => [d]
  | .tcancel _ d _ => [d]
  | .frd _ d _ => [d]
  | _ => []

end Sys2Proof
end

