-- ==== Sys2Proof/WellFormed.lean ====
section
/-!
DEFINITION. When an instruction is well formed: one named check for each rule on its prefixes, registers, variant, immediate and
qualifiers (R66, R67, R70–R74, R91, R94–R100). An encoding that breaks one of them raises ILL or ILL_PFX.
-/
namespace Sys2Proof

/-- The register number of an operand, or the fixed value of the field. -/
def Opd.num : Opd → Reg
  | .x r | .xEven r | .v r | .vEven r | .m r | .run r | .part r _ => r
  | .fixed n => BitVec.ofNat 5 n

/-- The operand names a register of its class (R66), a pair starts even (R147, R175, R213), a run is 1 to 16 long (R178), a
selector fits its field. -/
def Opd.ok : Opd → Bool
  | .x _ => true
  | .xEven r => r.toNat % 2 == 0
  | .v r => decide (r.toNat < 16)
  | .vEven r => decide (r.toNat < 16) && r.toNat % 2 == 0
  | .m r => decide (r.toNat < 4)
  | .run r => decide (r.toNat < 16)
  | .part r lim => decide (r.toNat < lim)
  | .fixed n => decide (n < 8)

/-- Width of the immediate field of a format (R65). -/
def Fmt.width : Fmt → Nat
  | .a3 => 0 | .ai => 5 | .i8 => 8 | .b8 => 8 | .n11 => 11

/-- Width of the assembled immediate (R67). -/
def Shape.immWidth (h : Shape) : Nat := h.fmt.width + 9 * h.pfx.imms

/-- A chain holds at most four prefixes (R74). -/
def Shape.chainOk (h : Shape) : Bool :=
  decide (h.pfx.page.toNat + h.pfx.reg.toNat + h.pfx.qual.isSome.toNat + h.pfx.imms ≤ 4)

/-- A form off page 0 carries a PAGE prefix (R70). -/
def Shape.pageOk (h : Shape) : Bool := decide (h.page < 9) && (h.page == 0 || h.pfx.page)

/-- Without a REG prefix the high register bits and V are zero (R66, R71). -/
def Shape.regOk (h : Shape) : Bool :=
  h.pfx.reg || (decide (h.d.num.toNat < 8) && decide (h.a.num.toNat < 8) && decide (h.b.num.toNat < 8) && h.var == some 0)

/-- Every operand is of its class (R66). -/
def Shape.classOk (h : Shape) : Bool := h.d.ok && h.a.ok && h.b.ok

/-- A register field that the format lacks holds nothing (R71). -/
def Shape.fmtOk (h : Shape) : Bool :=
  match h.fmt with
  | .a3 => true
  | .ai => h.b == .fixed 0
  | .i8 | .b8 => h.a == .fixed 0 && h.b == .fixed 0
  | .n11 => h.d == .fixed 0 && h.a == .fixed 0 && h.b == .fixed 0

/-- The form offers the variant (R71, R91). -/
def Shape.varOk (h : Shape) : Bool := h.var.isSome

/-- The immediate fits its field and the form's limits (R67); a bit field ends within 64 bits (R97). -/
def Shape.immOk (h : Shape) : Bool :=
  match h.imm with
  | .none => h.fmt == .a3 && h.pfx.imms == 0
  | .signed v => h.fmt != .a3 && decide (-(2 ^ (h.immWidth - 1) : Int) ≤ v) && decide (v < (2 ^ (h.immWidth - 1) : Int))
  | .unsigned v lo hi => h.fmt != .a3 && decide (v < 2 ^ h.immWidth) && decide (lo ≤ v) && decide (v ≤ hi)
  | .field v => h.fmt != .a3 && decide (v < 2 ^ h.immWidth) && decide (v < 4096) && decide (v % 64 + (v / 64 + 1) ≤ 64)

def OrderUse.ok (u : OrderUse) (o : BitVec 2) : Bool :=
  match u with
  | .noneOnly => o == 0
  | .acq => o == 0 || o == 1
  | .rel => o == 0 || o == 2
  | .any => true

def RouteUse.ok (u : RouteUse) (r : BitVec 2) : Bool :=
  match u with
  | .orderedOnly => r == 0
  | .notDeferred => r == 0 || r == 1
  | .any => r != 3

/-- Every qualifier field is one that the form consumes and accepts, or zero (R72, R142, R143). -/
def Shape.qualOk (h : Shape) : Bool :=
  match h.pfx.qual with
  | none => true
  | some q =>
    h.use.order.ok q.order && h.use.route.ok q.route
      && (if h.use.rounding then q.rounding != 7 else q.rounding == 0)
      && (h.use.sat || !q.sat) && (h.use.nf || !q.nf)
      && (!h.use.plainDeferred || q.route != 2 || q.order == 0)

/-- All checks. -/
def Shape.wf (h : Shape) : Bool :=
  h.chainOk && h.pageOk && h.regOk && h.classOk && h.fmtOk && h.varOk && h.immOk && h.qualOk

/-- A well-formed instruction has a layout and passes every check. -/
def Instr.wf (i : Instr) : Bool := i.shape.any Shape.wf

end Sys2Proof
end

