-- ==== Sys2Proof/Decode.lean ====
section
/-!
DEFINITION. The decoder, from instruction words to an instruction or a named rejection, total on any words (R64–R74, R91–R101), and after it
the encoder written from the same layouts.
-/
namespace Sys2Proof

/-- A prefix chain and its base word taken apart (R65, R69): the REG and QUAL payloads, the IMM payloads earliest first, the
major opcode and the low 11 bits. -/
structure Raw where
  hasPage : Bool
  page : BitVec 4
  reg : Option (BitVec 9)
  qual : Option (BitVec 9)
  imms : List (BitVec 9)
  op : BitVec 5
  low : BitVec 11
  deriving DecidableEq, Repr

/-- What the decoder says of a word sequence (R27, R74, R101). `chain`: ILL_PFX at a position. `bad`: no legal form of this
page and major opcode, EXT_ABSENT or ILL as the context decides (R93). `short`: the words given end before the base word. -/
inductive Dec
  | ok (i : Instr) (len : Nat)
  | chain (pos : Nat)
  | bad (page op : Nat) (first : Code)
  | short
  deriving DecidableEq, Repr

/-- Bits [lo+len-1:lo] of an instruction word. -/
def Code.bits (w : Code) (lo len : Nat) : BitVec len := w.extractLsb' lo len

/-- A prefix word has bits [15:11] all ones (R64). -/
def Code.isPfx (w : Code) : Bool := w.bits 11 5 == 31

/-- The format of every assigned major opcode (R94–R100). -/
def opFmt (page op : Nat) : Option Fmt :=
  match page with
  | 0 => if op = 0 then none else if op ≤ 3 then some .a3 else if op = 4 then some .ai else if op = 5 then some .i8
         else if op ≤ 7 then some .ai else if op ≤ 9 then some .b8 else if op ≤ 13 then some .ai
         else if op ≤ 15 then some .n11 else if op = 16 then some .a3 else none
  | 1 => if op = 0 then none else if op ≤ 7 then some .ai else if op ≤ 11 then some .a3 else if op ≤ 17 then some .i8
         else if op = 18 then some .ai else none
  | 2 => if op = 0 then none else if op ≤ 5 then some .a3 else if op ≤ 8 then some .ai else if op = 9 then some .a3
         else if op ≤ 13 then some .i8 else if op = 14 then some .n11 else if op ≤ 16 then some .a3 else none
  | 3 => if op = 0 then none else if op ≤ 2 then some .ai else if op ≤ 26 then some .a3 else if op = 27 then some .i8
         else if op ≤ 29 then some .a3 else none
  | 4 => if 1 ≤ op ∧ op ≤ 8 then some .a3 else none
  | 5 => if 1 ≤ op ∧ op ≤ 15 then some .a3 else none
  | 6 => if 1 ≤ op ∧ op ≤ 10 then some .a3 else none
  | 7 => if 1 ≤ op ∧ op ≤ 15 then some .a3 else none
  | 8 => if 1 ≤ op ∧ op ≤ 11 then some .a3 else none
  | _ => none

/-- The 5-bit number of a register field: two high bits from the REG payload, three from the base word (R66). -/
def Raw.regNum (r : Raw) (hi lo : Nat) : Reg :=
  ((r.reg.getD 0).extractLsb' hi 2 ++ r.low.extractLsb' lo 3 : BitVec 5)

def Raw.d (r : Raw) : Reg := r.regNum 7 8
def Raw.a (r : Raw) : Reg := r.regNum 5 5
def Raw.b (r : Raw) : Reg := r.regNum 3 2
def Raw.minor (r : Raw) : BitVec 2 := r.low.extractLsb' 0 2
def Raw.v (r : Raw) : BitVec 3 := (r.reg.getD 0).extractLsb' 0 3

/-- QUAL payload to fields (R72). -/
def Qual.ofPayload (q : BitVec 9) : Qual where
  order := q.extractLsb' 7 2
  route := q.extractLsb' 5 2
  rounding := q.extractLsb' 2 3
  sat := q.getLsbD 1
  nf := q.getLsbD 0

/-- Fields to QUAL payload (R72). -/
def Qual.payload (q : Qual) : BitVec 9 :=
  q.order ++ q.route ++ q.rounding ++ BitVec.ofBool q.sat ++ BitVec.ofBool q.nf

def Raw.pfx (r : Raw) : Pfx where
  page := r.hasPage
  reg := r.reg.isSome
  qual := r.qual.map Qual.ofPayload
  imms := r.imms.length

/-- The immediate as an unsigned number: IMM payloads above the base field (R67). -/
def Raw.immNat (r : Raw) (w : Nat) : Nat :=
  r.imms.foldl (fun acc p => acc * 512 + p.toNat) 0 * 2 ^ w + r.low.toNat % 2 ^ w

/-- The immediate read as signed in its width (R67). -/
def Raw.immInt (r : Raw) (w : Nat) : Int :=
  let n := r.immNat w
  let width := w + 9 * r.imms.length
  if 2 * n < 2 ^ width then (n : Int) else (n : Int) - 2 ^ width

/-- The only form that the page, opcode, minor code, selectors and variant can name (R94–R100). -/
def candidate (r : Raw) : Option Instr :=
  let p := r.pfx
  let d := r.d
  let a := r.a
  let b := r.b
  let mn := r.minor
  let v := r.v
  let w := ((opFmt r.page.toNat r.op.toNat).map Fmt.width).getD 0
  let si := r.immInt w
  let ui := r.immNat w
  match r.page.toNat, r.op.toNat with
  | 0, 1 => match mn.toNat with | 0 => some (.add p d a b) | 1 => some (.sub p d a b) | 2 => some (.and p d a b) | 3 => some (.or p d a b) | _ => none
  | 0, 2 => match mn.toNat with | 0 => some (.xor p d a b) | 1 => some (.sll p d a b) | 2 => some (.srl p d a b) | 3 => some (.sra p d a b) | _ => none
  | 0, 3 => match mn.toNat with | 0 => some (.slt p d a b) | 1 => some (.sltu p d a b) | 2 => some (.seq p d a b) | 3 => some (.mov p d a) | _ => none
  | 0, 4 => some (.addi p d a si)
  | 0, 5 => some (.li p d si)
  | 0, 6 => (LdSz.ofCode v).bind fun z => some (.ld p z d a si)
  | 0, 7 => (StSz.ofCode v).bind fun z => some (.st p z d a si)
  | 0, 8 => some (.bz p d si)
  | 0, 9 => some (.bnz p d si)
  | 0, 10 => some (.blt p d a si)
  | 0, 11 => some (.bge p d a si)
  | 0, 12 => some (.bltu p d a si)
  | 0, 13 => some (.bgeu p d a si)
  | 0, 14 => some (.j p si)
  | 0, 15 => some (.jal p si)
  | 0, 16 => match mn.toNat with | 0 => some (.jr p a) | 1 => some (.jalr p d a) | 2 => some (.nop p) | _ => none
  | 1, 1 => some (.ldp p d a si)
  | 1, 2 => some (.stp p d a si)
  | 1, 3 => some (.ldSync p d a si)
  | 1, 4 => some (.stFill p d a si)
  | 1, 5 => some (.take p d a si)
  | 1, 6 => some (.put p d a si)
  | 1, 7 => some (.tryt p d a si)
  | 1, 8 => match mn.toNat with | 0 => some (.amoAdd p d a b) | 1 => some (.amoMin p d a b) | 2 => some (.amoMax p d a b) | 3 => some (.amoMinu p d a b) | _ => none
  | 1, 9 => match mn.toNat with | 0 => some (.amoMaxu p d a b) | 1 => some (.amoAnd p d a b) | 2 => some (.amoOr p d a b) | 3 => some (.amoXor p d a b) | _ => none
  | 1, 10 => match mn.toNat with | 0 => some (.amoSwap p d a b) | 1 => some (.amoCas p d a b) | 2 => some (.bump p d a b) | _ => none
  | 1, 11 => match mn.toNat with | 0 => some (.redAdd p a b) | 1 => some (.redMin p a b) | 2 => some (.redMax p a b) | 3 => some (.redFadd p a b) | _ => none
  | 1, 12 => match d.toNat with | 0 => some (.fence p ui) | 1 => some (.fenceRt p ui) | 2 => some (.fenceEng p ui) | _ => none
  | 1, 13 => some (.barArv p ui)
  | 1, 14 => some (.barWait p ui)
  | 1, 15 => some (.barSync p ui)
  | 1, 16 => some (.barPhase p d ui)
  | 1, 17 => match d.toNat with | 0 => some (.sphX p ui) | 1 => some (.sphC p ui) | _ => none
  | 1, 18 => some (.mig p a si)
  | 2, 1 => match mn.toNat with | 0 => some (.mul p d a b) | 1 => some (.mulh p d a b) | 2 => some (.mulhu p d a b) | _ => none
  | 2, 2 => match mn.toNat with | 0 => some (.div p d a b) | 1 => some (.divu p d a b) | 2 => some (.rem p d a b) | 3 => some (.remu p d a b) | _ => none
  | 2, 3 => match mn.toNat with | 0 => some (.min p d a b) | 1 => some (.max p d a b) | 2 => some (.minu p d a b) | 3 => some (.maxu p d a b) | _ => none
  | 2, 4 => match mn.toNat with | 0 => some (.clz p d a) | 1 => some (.ctz p d a) | 2 => some (.popc p d a) | 3 => some (.ror p d a b) | _ => none
  | 2, 5 => some (.sel p d a b)
  | 2, 6 => some (.bfx p d a ui)
  | 2, 7 => some (.bfi p d a ui)
  | 2, 8 => some (.hstart p d a si)
  | 2, 9 => match mn.toNat with | 0 => some (.hend p a) | 1 => some (.hjoin p d a) | 2 => some (.yield p) | _ => none
  | 2, 10 => some (.csrr p d ui)
  | 2, 11 => some (.csrw p d ui)
  | 2, 12 => some (.csrs p d ui)
  | 2, 13 => some (.csrc p d ui)
  | 2, 14 => some (.trap p ui)
  | 2, 15 => match mn.toNat with | 0 => some (.eret p) | 1 => some (.wfe p) | 2 => some (.sev p a) | 3 => some (.brk p) | _ => none
  | 2, 16 => match mn.toNat with | 0 => some (.cstart p d a b) | 1 => some (.cstop p d a) | 2 => some (.finv p a) | 3 => some (.rng p d a) | _ => none
  | 3, 1 => some (.vld p d a si)
  | 3, 2 => some (.vst p d a si)
  | 3, 3 => some (.vldx p mn d a b)
  | 3, 4 => some (.vstx p mn d a b)
  | 3, 5 => match b.toNat with | 0 => some (.vmov p mn d a) | 1 => (Elem.elTOf v).bind fun t => some (.vabs p mn t d a) | 2 => (Elem.elTOf v).bind fun t => some (.vneg p mn t d a) | _ => none
  | 3, 6 => some (.vbcast p mn d a)
  | 3, 7 => (Elem.elTOf v).bind fun t => some (.vadd p mn t d a b)
  | 3, 8 => (Elem.elTOf v).bind fun t => some (.vsub p mn t d a b)
  | 3, 9 => (Elem.elTOf v).bind fun t => some (.vmul p mn t d a b)
  | 3, 10 => some (.vfma p mn d a b)
  | 3, 11 => some (.vfms p mn d a b)
  | 3, 12 => some (.vfnma p mn d a b)
  | 3, 13 => (Elem.elTOf v).bind fun t => some (.vmin p mn t d a b)
  | 3, 14 => (Elem.elTOf v).bind fun t => some (.vmax p mn t d a b)
  | 3, 15 => some (.vand p mn d a b)
  | 3, 16 => some (.vor p mn d a b)
  | 3, 17 => some (.vxor p mn d a b)
  | 3, 18 => some (.vshl p mn d a b)
  | 3, 19 => (ShKind.ofCode v).bind fun k => some (.vshr p mn k d a b)
  | 3, 20 => (Elem.elTOf v).bind fun t => some (.vcmp p (CmpP.ofCode mn) t d a b)
  | 3, 21 => some (.vsel p mn d a b)
  | 3, 22 => match b.toNat with | 0 => (Elem.elTOf v).bind fun t => some (.vredsum p mn t d a) | 1 => (Elem.elTOf v).bind fun t => some (.vredmax p mn t d a) | 2 => (Elem.elTOf v).bind fun t => some (.vredmin p mn t d a) | 3 => (Elem.elTOf v).bind fun t => some (.vargmax p mn t d a) | _ => none
  | 3, 23 => (Elem.elTOf v).bind fun t => some (.vscan p mn t d a)
  | 3, 24 => (Elem.elTkOf v).bind fun t => some (.vtopk p mn t d a b)
  | 3, 25 => some (.vperm p mn d a b)
  | 3, 26 => match v.toNat, mn.toNat with | 0, 0 => some (.vmskAnd p d a b) | 0, 1 => some (.vmskOr p d a b) | 0, 2 => some (.vmskXor p d a b) | 0, 3 => some (.vmskNot p d a) | 1, 0 => some (.vmskFromx p d a) | 1, 1 => some (.vmskTox p d a) | _, _ => none
  | 3, 27 => some (.vrep p d ui)
  | 3, 28 => some (.vseed p a)
  | 3, 29 => some (.vrand p mn d)
  | 4, 1 => (Elem.elC2Of v).bind fun f => some (.cvt2 p f d a b)
  | 4, 2 => (Elem.elC8Of v).bind fun f => some (.cvt8 p f d a)
  | 4, 3 => (Elem.elC4Of v).bind fun f => some (.cvt4 p f d a)
  | 4, 4 => (Elem.elCuOf v).bind fun f => some (.cvtu p f d a b)
  | 4, 5 => match mn.toNat with | 0 => some (.cvtiI32 p d a) | 1 => some (.cvtiF32 p d a) | _ => none
  | 4, 6 => (Elem.elQOf v).bind fun f => some (.qscale p f d a)
  | 4, 7 => (Elem.elQOf v).bind fun f => some (.qz p f d a b)
  | 4, 8 => match b.toNat with | 0 => some (.vexp2 p d a) | 1 => some (.vlog2 p d a) | 2 => some (.vrcp p d a) | 3 => some (.vrsqrt p d a) | 4 => some (.vtanh p d a) | 5 => some (.vsig p d a) | _ => none
  | 5, 1 => some (.mzero p)
  | 5, 2 => (Elem.elFOf v).bind fun f => some (.mring p f a)
  | 5, 3 => (Elem.elFOf v).bind fun f => some (.mop p f a)
  | 5, 4 => some (.mwait p a b)
  | 5, 5 => some (.mdrain p a b)
  | 5, 6 => (Elem.elFOf v).bind fun f => some (.dret p f a b)
  | 5, 7 => (Elem.elAtOf v).bind fun f => some (.attn p f a b)
  | 5, 8 => some (.aini p)
  | 5, 9 => some (.mgeom p d)
  | 5, 10 => some (.mtest p d a b)
  | 5, 11 => some (.mfmap p d a)
  | 5, 12 => some (.mremap p d a)
  | 5, 13 => some (.abind p d a b)
  | 5, 14 => some (.await p d a)
  | 5, 15 => some (.aret p a b)
  | 6, 1 => some (.xcfg p a b)
  | 6, 2 => some (.xcopy p d a b)
  | 6, 3 => some (.xgat p d a b)
  | 6, 4 => some (.xsct p d a b)
  | 6, 5 => some (.xbins p d a b)
  | 6, 6 => some (.xfill p d a b)
  | 6, 7 => match mn.toNat with | 0 => some (.xbindIn p d a b) | 1 => some (.xbindOut p d a b) | _ => none
  | 6, 8 => some (.xid p d a)
  | 6, 9 => some (.xwait p a b)
  | 6, 10 => some (.xcancel p d a)
  | 7, 1 => some (.snew p d a)
  | 7, 2 => some (.sfork p d a b)
  | 7, 3 => some (.sbind p a)
  | 7, 4 => some (.sunbind p)
  | 7, 5 => some (.sstep p d)
  | 7, 6 => some (.smark p)
  | 7, 7 => some (.scommit p d a b)
  | 7, 8 => some (.sroll p d)
  | 7, 9 => some (.sret p a)
  | 7, 10 => some (.sjoin p d a b)
  | 7, 11 => some (.sprune p a)
  | 7, 12 => some (.sfree p a)
  | 7, 13 => some (.smig p d a b)
  | 7, 14 => some (.sstat p d a b)
  | 7, 15 => some (.shold p d a b)
  | 8, 1 => match mn.toNat with | 0 => some (.cenq p d a b) | 1 => some (.cenqNb p d a b) | _ => none
  | 8, 2 => some (.cdeq p d a b)
  | 8, 3 => some (.cdone p d a)
  | 8, 4 => some (.cocc p d a)
  | 8, 5 => some (.tspawn p a b)
  | 8, 6 => some (.tdec p d a)
  | 8, 7 => some (.tnext p d a)
  | 8, 8 => some (.tend p)
  | 8, 9 => some (.tcancel p d a)
  | 8, 10 => some (.frd p d a)
  | 8, 11 => some (.fwr p a b)
  | _, _ => none

/-- The low w bits of an immediate and its IMM payloads, most significant first (R67). -/
def immPayloads (n w : Nat) : Nat → List (BitVec 9)
  | 0 => []
  | k + 1 => BitVec.ofNat 9 (n / 2 ^ (w + 9 * k)) :: immPayloads n w k

/-- The immediate as the unsigned number in its width (R67). -/
def Shape.immBits (h : Shape) : Nat :=
  match h.imm with
  | .none => 0
  | .signed v => (v % (2 ^ h.immWidth : Int)).toNat
  | .unsigned v _ _ => v
  | .field v => v

/-- The low 11 bits of the base word (R65). -/
def Shape.low (h : Shape) : BitVec 11 :=
  let d := h.d.num.extractLsb' 0 3
  let a := h.a.num.extractLsb' 0 3
  let b := h.b.num.extractLsb' 0 3
  match h.fmt with
  | .a3 => d ++ a ++ b ++ h.minor
  | .ai => d ++ a ++ BitVec.ofNat 5 h.immBits
  | .i8 | .b8 => d ++ BitVec.ofNat 8 h.immBits
  | .n11 => BitVec.ofNat 11 h.immBits

/-- The chain and base word of a layout (R65, R69). -/
def Shape.raw (h : Shape) : Raw where
  hasPage := h.pfx.page
  page := BitVec.ofNat 4 h.page
  reg := if h.pfx.reg then
      some (h.d.num.extractLsb' 3 2 ++ h.a.num.extractLsb' 3 2 ++ h.b.num.extractLsb' 3 2 ++ h.var.getD 0)
    else none
  qual := h.pfx.qual.map Qual.payload
  imms := immPayloads h.immBits h.fmt.width h.pfx.imms
  op := BitVec.ofNat 5 h.op
  low := h.low

/-- A chain is a legal form when the form it can name is well formed and lays out to the same bits (R66, R71, R72, R101). -/
def ofRaw (r : Raw) : Option Instr :=
  (candidate r).bind fun i =>
    match i.shape with
    | some h => if h.wf && h.raw == r then some i else none
    | none => none

/-- The words of a chain (R64, R69, R74). -/
def Raw.words (r : Raw) : List Code :=
  (if r.hasPage then [(0xFC00 : Code) ||| r.page.zeroExtend 16] else [])
    ++ (match r.reg with | some p => [(0xFA00 : Code) ||| p.zeroExtend 16] | none => [])
    ++ (match r.qual with | some p => [(0xFE00 : Code) ||| p.zeroExtend 16] | none => [])
    ++ r.imms.map (fun p => (0xF800 : Code) ||| p.zeroExtend 16)
    ++ [r.op ++ r.low]

/-- Where the walk over a chain stands (R74): rank, position, and what the prefixes gave. -/
structure Chain where
  rank : Nat
  pos : Nat
  hasPage : Bool
  page : BitVec 4
  reg : Option (BitVec 9)
  regPos : Nat
  qual : Option (BitVec 9)
  imms : List (BitVec 9)
  deriving DecidableEq, Repr

def Chain.start : Chain where
  rank := 0
  pos := 0
  hasPage := false
  page := 0
  reg := none
  regPos := 0
  qual := none
  imms := []

/-- One prefix word of the walk of R74; none where the word is malformed there. -/
def Chain.push (c : Chain) (w : Code) : Option Chain :=
  let next := { c with pos := c.pos + 1 }
  match (w.bits 9 2).toNat with
  | 2 => if w.bits 4 5 != 0 || decide (1 ≤ c.rank) then none
         else some { next with rank := 1, hasPage := true, page := w.bits 0 4 }
  | 1 => if decide (2 ≤ c.rank) then none else some { next with rank := 2, reg := some (w.bits 0 9), regPos := c.pos }
  | 3 => if w.bits 5 2 == 3 || w.bits 2 3 == 7 || decide (3 ≤ c.rank) then none
         else some { next with rank := 3, qual := some (w.bits 0 9) }
  | _ => some { next with rank := 4, imms := c.imms ++ [w.bits 0 9] }

/-- The high register bits that a format lacks are zero (R71). -/
def regBitsFit (fmt : Fmt) (p : BitVec 9) : Bool :=
  match fmt with
  | .a3 => true
  | .ai => p.extractLsb' 3 2 == 0
  | .i8 | .b8 => p.extractLsb' 3 4 == 0
  | .n11 => p.extractLsb' 3 6 == 0

/-- The base word under a chain: the checks of R74 on its format, then the form (R101). -/
def decodeBase (first : Code) (c : Chain) (w : Code) : Dec :=
  let page := c.page.toNat
  let op := (w.bits 11 5).toNat
  match opFmt page op with
  | none => .bad page op first
  | some fmt =>
    if fmt == .a3 && !c.imms.isEmpty then .chain c.pos
    else if !(c.reg.all (regBitsFit fmt)) then .chain c.regPos
    else
      match ofRaw { hasPage := c.hasPage, page := c.page, reg := c.reg, qual := c.qual, imms := c.imms,
                    op := w.bits 11 5, low := w.bits 0 11 } with
      | some i => .ok i (c.pos + 1)
      | none => .bad page op first

/-- The walk of R74 over the words. -/
def decodeFrom (first : Code) (c : Chain) : List Code → Dec
  | [] => .short
  | w :: ws =>
    if w.isPfx then
      if c.pos = 4 then .chain 4
      else
        match c.push w with
        | none => .chain c.pos
        | some c' => decodeFrom first c' ws
    else decodeBase first c w

/-- The decoder. -/
def decodeWords (ws : List Code) : Dec := decodeFrom (ws.headD 0) Chain.start ws

/-- The encoder: the words of an instruction that has a layout. -/
def encode (i : Instr) : Option (List Code) := i.shape.map fun h => h.raw.words

/-- Length in words of an instruction that has a layout. -/
def Instr.len (i : Instr) : Nat := ((encode i).map List.length).getD 0

/-- Little-endian bytes of instruction words (R64). -/
def codeBytes (ws : List Code) : List Byte :=
  ws.flatMap fun w => [w.extractLsb' 0 8, w.extractLsb' 8 8]

/-- Instruction words of little-endian bytes (R64). -/
def bytesCode : List Byte → List Code
  | lo :: hi :: rest => (hi ++ lo : Code) :: bytesCode rest
  | _ => []

/-- The words that a table value stands for (DEDUCED, notes/assumptions 11): with two words, the half that is a prefix word comes
first, the low half if it is one, else the high half if it is one, else the low half. -/
def tableWords (nbits w : Nat) : List Code :=
  let lo : Code := BitVec.ofNat 16 w
  let hi : Code := BitVec.ofNat 16 (w / 65536)
  if nbits ≤ 16 then [lo]
  else if lo.isPfx then [lo, hi]
  else if hi.isPfx then [hi, lo]
  else [lo, hi]

/-- The table words with the operand words of zeros that may follow, as bytes in the instruction store. -/
def tableBytes (nbits w : Nat) : List Byte := codeBytes (tableWords nbits w ++ [0, 0, 0])

/-- The instruction the decoder reads from table bits. -/
def decodeTableWord (nbits w : Nat) : Option Instr :=
  match decodeWords (bytesCode (tableBytes nbits w)) with
  | .ok i _ => some i
  | _ => none

end Sys2Proof
end

