-- ==== Sys2Proof/Machine/State.lean ====
section
/-!
DEFINITION. The machine's state as plain data: every piece that the manual gives the modules of a fabric domain, their host and
the network between them, the reasons a step can stop, and the state at power-off (R400).

Numbering. A core is `module * 131072 + die * 8192 + cluster * 64 + index` (R6 with the module in front), a cluster is that number
divided by 64, a die divided by 8192, a module divided by 131072. A byte address is the global address of R47 as a number.
-/
namespace Sys2Proof.Machine

/-- Why a step stops. -/
inductive Fault
  /-- Raised by `step` when the schedule or `cur` names a core index 52 to 63 or a core outside the module range: no such core exists (R6,
  R47). Safe: the model stops. -/
  | noSuchCore (g : Nat)
  deriving DecidableEq, Repr

/-- Why an instruction has no meaning here. -/
inductive Refusal
  /-- Raised by `exec` for an instruction whose meaning is not written yet. Safe: the model stops. -/
  | notModelled (mnemonic : String)
  deriving DecidableEq, Repr

/-- Traffic routes (R142). -/
inductive Route | ordered | adaptive | deferred
  deriving DecidableEq, Repr

/-- What a WAITING context waits for (R125, R126). The instruction of a wait marked "again" is evaluated again when the
context has become READY; the others are completed by the step that ends the wait. -/
inductive Wait
  /-- a translation walk of this address, and the node and level that it reads next, once it has read one (R54, R430); again -/
  | walk (va : Word) (next : Option (Nat × Nat))
  /-- a copy, eviction or fetch-back of this frame of its die (R227, R286); again -/
  | frame (die fid : Nat)
  /-- a zeroed frame of the die (R282); again -/
  | zeroed (die : Nat)
  /-- the reply to this message (R25, R126) -/
  | reply (id : Nat)
  /-- its return from migration (R159) -/
  | away
  /-- a ready task (R236) -/
  | task
  /-- an arrival entry of its die (R212); again -/
  | peal (entry : Nat)
  /-- its sweep (R205) -/
  | sweep
  /-- its vector load from off the core (R164) -/
  | vector
  deriving DecidableEq, Repr

/-- Context slot states (R125). BLOCKED contexts evaluate their instruction again. -/
inductive Mode
  | free
  | ready
  | running
  | waiting (w : Wait)
  | blockedJoin (slot : Nat)
  | blockedEvent
  | ended
  deriving DecidableEq, Repr

/-- Base, helper, drain and migrant contexts (R25, R158). A migrant holds its return route, its image identity (R159) and the queue of the launch
that it comes from, which tells its origin slot from one of a launch that has taken the core meanwhile (R275). -/
inductive Kind
  | base
  | helper
  | drain
  | migrant (origin slot : Nat) (image : Word) (queue : Option Nat)
  deriving DecidableEq, Repr

/-- One context slot (R25, R29, R35). -/
structure Ctx where
  mode : Mode := .free
  kind : Kind := .helper
  pc : Code := 0
  x : Tbl Word := []
  priv : Word := 0
  strm : Word := 0
  trapCause : Word := 0
  trapPc : Word := 0
  trapVal : Word := 0
  instret : Word := 0
  /-- TRET and the running task's handle: cluster of the die and TCB index (R236) -/
  tret : Code := 0
  task : Option (Nat × Nat) := none
  /-- the running task has performed a store, atomic, cenq or tspawn (R237) -/
  dirty : Bool := false
  /-- the result word of an ENDED helper (R128) -/
  result : Word := 0
  /-- an `sph.x`, a barrier form, a gate or an enqueue has made its first part and waits for its second (R155, R157, R233) -/
  begun : Bool := false
  /-- `begun` of the instruction that a pre-emption entry interrupted (R274) -/
  begunSaved : Bool := false
  /-- the instruction that has issued and waits to be evaluated again, with the pc and INSTRET at which it issued (R77) -/
  held : Option (Code × Word × Instr) := none
  deriving DecidableEq, Repr

/-- A feed binding in force on a register v12 to v15 (R33, R223). -/
structure Feed where
  xcore : Nat
  chan : Nat
  inbound : Bool
  /-- delivered strips not yet popped, or pushed strips not yet written, oldest first -/
  strips : List VReg
  /-- no strip follows the ones listed -/
  last : Bool
  deriving DecidableEq, Repr

/-- An entry of a vector issue queue (R162, R178): the instruction, its slot, the scalar operand and the rounding mode and FTZ captured
at entry. `run` and `reps`: a run under `vrep` begins here with that many members and repetitions left; 1 and 1 for an
instruction alone. `feeds`: the transfer core and channel of the feed that each register among v12 to v15 that it names was at entry (R33, R162,
R166). -/
structure VqEntry where
  ins : Instr
  slot : Nat
  xa : Word
  rm : BitVec 3
  ftz : Bool
  run : Nat
  reps : Nat
  feeds : Tbl (Nat × Nat) := []
  deriving DecidableEq, Repr

/-- A piece of a vector memory access (R168, R169): bytes at one home, and their place in the register. `edge`: its first byte begins a page or a block
of a stripe (R168, R330). `whole`: a lane that completes a doubleword of which an earlier lane writes the rest (R164). -/
structure VPiece where
  ga : Nat
  key : Nat
  va : Word
  len : Nat
  off : Nat
  route : Nat
  edge : Bool := false
  whole : Bool := false
  deriving DecidableEq, Repr

/-- A vector memory access under way at the queue head: pieces still to perform, pieces whose read is under way with its message, bytes read, the
trap of the lowest address that met one, poison or a refusal at its home, and the number that its messages carry (R164, R168, R169). -/
structure VJob where
  left : List VPiece
  out : List (Nat × VPiece) := []
  got : Tbl Byte
  bad : Option (Nat × Word)
  part : Nat := 0
  deriving DecidableEq, Repr

/-- The forms of a matrix command (R188). -/
inductive MForm | mzero | mring | mop | attn | aini
  deriving DecidableEq, Repr

/-- A queued matrix command: its form, format, copied descriptor, positions, its number among the core's ring commands, whether a
release credit has opened its gate, and whether it runs (R188, R189, R193, R199). -/
structure MCmd where
  form : MForm
  elem : Elem
  desc : BitVec 256
  pos : Word
  ring : Nat
  gate : Bool
  started : Bool
  deriving DecidableEq, Repr

/-- A working bank: the result that the running command has computed and not yet exchanged (R34, R188, R193), with the drain shape
that comes with it (R200). -/
structure Work where
  acc : Tbl Lane
  accPoison : List Nat
  rowMax : Tbl Lane
  rowSum : Tbl Lane
  shape : Option (Nat × Nat)
  deriving DecidableEq, Repr

/-- A drain in progress (R200): rows, the row to dispatch next, handler, argument, columns, slot of the row being drained. -/
structure Drain where
  rows : Nat
  row : Nat
  pc : Code
  arg : Word
  cols : Nat
  slot : Option Nat
  deriving DecidableEq, Repr

/-- The kinds of a transfer command (R217, R223). -/
inductive XKind | copy | gat | sct | bins | fill | bindIn | bindOut
  deriving DecidableEq, Repr

/-- A read from off the core that a channel has made: the bytes' virtual address and number, its message, and what came back (R218, R219). -/
structure XAsk where
  va : Word
  len : Nat
  id : Nat
  data : Option (List Byte) := none
  bad : Option (Nat × Word) := none
  deriving DecidableEq, Repr

/-- A queued transfer command with everything copied at issue (R214) and its progress. -/
structure XCmd where
  kind : XKind
  id : Nat
  spat : BitVec 256
  dpat : BitVec 256
  tbase : Word
  nb : Nat
  xa : Word
  xb : Word
  slot : Nat
  priv : Word
  strm : Word
  /-- next element, bytes written, and whether the command executes -/
  pos : Nat
  bytes : Nat
  begun : Bool
  /-- a binding that has ended (R222, R223) -/
  ended : Bool
  /-- where the token of a made bump goes (R217) -/
  place : Option Word
  /-- reads from off the core for the piece being gathered (R218) -/
  asks : List XAsk := []
  /-- a token's bump that is under way: its bin and its message; and one that has been made: its bin and what it returned (R217) -/
  bumping : Option (Nat × Nat) := none
  bumped : Option (Nat × Word) := none
  /-- cause and bytes done of a fault that shows once every earlier byte has been performed (R219) -/
  fault : Option (Nat × Nat) := none
  deriving DecidableEq, Repr

/-- A transfer channel (R214). -/
structure Chan where
  spat : BitVec 256 := 0
  dpat : BitVec 256 := 0
  tbase : Word := 0
  nb : Nat := 1
  next : Nat := 1
  w : Nat := 1
  pid : Option Nat := none
  frec : Word := 0
  queue : List XCmd := []
  /-- commands that a waiting `xcancel` has cancelled (R222) -/
  cancelled : Nat := 0
  deriving DecidableEq, Repr

/-- An entry of a combining buffer: the line's global address, its key index, its route, the buffered bytes, the doublewords that one store
wrote whole (R146), the slots whose stores it holds, the clock of its last store (R144), the quadwords that one `stp` wrote (R147), and of a line of
the state window its stream and virtual address (R55, R248). -/
structure Comb where
  line : Nat
  key : Nat
  adaptive : Bool
  bytes : Tbl Byte
  whole : List Nat
  slots : List Nat
  since : Nat
  quads : List Nat := []
  strm : Word := 0
  va : Word := 0
  deriving DecidableEq, Repr

/-- Read-modify-write operations at a home (R150–R152). -/
inductive Rmw | add | min | max | minu | maxu | and | or | xor | swap | cas | bump | fadd
  deriving DecidableEq, Repr

/-- Full/empty and future requests (R149, R237). -/
inductive FeOp | ldSync | take | tryt | put (v : Word) | fill (v : Word) | frd | fwr (v : Word)
  deriving DecidableEq, Repr

/-- What a memory-side access does at its home. -/
inductive MemOp
  | load (size : Nat)
  | store (bytes : List Host.Cell)
  /-- stores that a combining entry merged: the bytes of one home, and the doublewords among them that one store wrote whole (R144, R146) -/
  | merged (bytes : List Host.Cell) (whole : List Nat)
  /-- an engine write that sets the full bit of every doubleword it writes whole (R218) -/
  | fillStore (bytes : List Host.Cell)
  | rmw (op : Rmw) (src cmp : Word)
  | red (op : Rmw) (src : Word)
  | fe (op : FeOp)
  deriving DecidableEq, Repr

/-- What a reply does with the value it carries: nothing, or writes registers of its context (R122, R147). `sext`: the width
to sign-extend from, 0 for none. -/
structure Dest where
  reg : Option Reg := none
  pair : Option Reg := none
  sext : Nat := 0
  next : Code := 0
  /-- the virtual address of the access, for a trap that its reply brings -/
  va : Word := 0
  /-- the reply answers an `frd`; it found the future empty and its wake follows it (R237) -/
  future : Bool := false
  wake : Bool := false
  /-- inbound port queues that the instruction pops when it retires (R131) -/
  pops : List Nat := []
  /-- the stream of an access through the state window, which finds its page when it is performed (R55, R248) -/
  strm : Word := 0
  /-- of a vector access, its number in its core; of an engine access, the bytes of its command before it (R169, R219) -/
  part : Option Nat := none
  /-- of the reply to an `sjoin`, the stream that is BOUND again once its registers are written; 0 for any other (R279) -/
  join : Word := 0
  deriving DecidableEq, Repr

/-- An entry of an exchange buffer (R145). -/
structure XEnt where
  slot : Nat
  ga : Nat
  key : Nat
  va : Word
  op : MemOp
  /-- the stream through whose state window it goes, 0 for none (R55) -/
  strm : Word := 0
  /-- Levels at which the core was in EXCHANGE when the entry was made: bit L (R157). -/
  hold : BitVec 4 := 0
  deriving DecidableEq, Repr

/-- Steps at a stream table (R224, R225). -/
inductive SStep
  | sfork | sbind | sunbind | sstep | smark | scommit | sroll | sret | sjoin | sprune | sfree | smig | sstat | shold
  deriving DecidableEq, Repr

/-- What a message carries. -/
inductive Body
  /-- an access to memory and what its reply does (R141) -/
  | access (op : MemOp) (ga : Nat) (va : Word) (dest : Dest)
  /-- the value that answers an access, or none where it is refused (R149) -/
  | reply (val : List Byte) (trap : Option (Nat × Word)) (dest : Dest)
  /-- the acknowledgement of a store or reduction, with the doublewords that it wrote and whether it travelled on the adaptive route (R144,
  R154) -/
  | ack (ga : Nat) (dws : List Nat) (adaptive : Bool)
  /-- an arrival at a fabric-group barrier instance, with its number (R155) -/
  | arrive (name inst : Nat)
  /-- a member's arrival at the exchange of a fabric group, on its way to the group's home; the beginning of that exchange, multicast to the
  members' modules (R43, R157, R328) -/
  | exchange (key : Nat)
  | exchangeBegin (key epoch : Nat)
  /-- a start or stop message (R136, R137) -/
  | start (target : Nat) (xb : Word) (dest : Dest)
  | stop (target : Nat) (dest : Dest) (did : Bool)
  /-- the launch unit's start message (R267, R276) -/
  | launchStart (target : Nat) (entry : Code) (restore : Bool)
  /-- a migration packet: resume PC, x0–x15, INSTRET, tenant, image, return route, and the load that an implicit migration
  would issue (R159, R161) -/
  | migrate (pc : Code) (x : Tbl Word) (instret : Word) (tenant : Nat) (image : Word) (origin slot : Nat)
      (queue : Option Nat) (load : Option (Nat × Nat × Word × Dest)) (va : Word) (next : Code)
  /-- a helper result on the return route, with the queue of the launch that it goes to (R128, R275) -/
  | result (origin slot : Nat) (queue : Option Nat) (val : Word)
  /-- a stream step for another die, with its operands and the caller's STRM (R224) -/
  | stream (step : SStep) (xa xb strm : Word) (dest : Dest)
  /-- a Basin deposit from a set of the topology (R292) -/
  | deposit (die set slot : Nat) (val weight : Lane) (sid : Word)
  /-- a prune of a winner's SID and the set whose join waits for it; its acknowledgement (R293) -/
  | prune (sid : Word) (die set : Nat) (acked : Bool)
  /-- a topology entry on its way to its set's Basin, with the die that loads it; its acknowledgement (R291) -/
  | topo (loader node : Nat) (entry : Word) (acked : Bool)
  /-- snapshot migration: the request, the refusal, a page, the completion (R294) -/
  | smigAsk (scb : BitVec 2048) (sid : Word)
  | smigRefused (sid : Word)
  | smigPage (sid newSid : Word) (page : Nat)
  | smigDone (sid newSid : Word)
  /-- a Peal block, with the bytes of it that have arrived, its bytes that are not 0 and its poisoned doublewords by offset; a release marker
  (R334, R336) -/
  | block (ring slot off : Nat) (data : List Host.Cell) (poison : List Nat) (eobw : Word)
  | marker (ring slot : Nat)
  /-- an operation on a Peal ring on its way round the line: what it does, the ring, the module that started it and its descriptor there, and the
  members visited (R332) -/
  | peal (op ring start : Nat) (own : BitVec 512) (visited : List Nat)
  /-- the completion of a fabric-group barrier phase, multicast to the members' modules (R328) -/
  | phaseDone (inst : Nat) (value : BitVec 128)
  deriving DecidableEq, Repr

/-- A message in flight (R141, R240, R321–R328). -/
structure Msg where
  id : Nat
  /-- key index of the page that the access went through (R52, R408) -/
  key : Nat
  /-- source core, and the slots whose access it carries -/
  src : Nat
  slots : List Nat
  cls : Nat
  route : Route
  /-- key of the home for the ordering of R240 -/
  home : Nat
  /-- module it is at (here), module it goes to (dst), and the detour dimension it has taken (R322) -/
  here : Nat
  dst : Nat
  detour : Option Nat
  /-- exchange it belongs to: group key and epoch (R157) -/
  exch : Option (Nat × Nat)
  /-- it is a request listed at a full/empty unit, or refused and waiting for its reissue (R149) -/
  listed : Bool
  refused : Bool
  /-- a reduction with an acquire side: its context issues no access until it is performed (R143) -/
  acq : Bool
  /-- remaining branches of a multicast (R328); the request of a task that waits on a future (R237) -/
  branches : List Nat
  body : Body
  /-- the port by which it entered the switch it is at; it has fallen back onto the ordered channels, and it travels on the second of them (R323,
  R326) -/
  inPort : Option Nat := none
  fallen : Bool := false
  second : Bool := false
  /-- the launch queue of the core whose task waits on a future (R237, R275) -/
  queue : Option Nat := none
  deriving DecidableEq, Repr

/-- One core (R5, R25–R45). -/
structure Core where
  run : Bool := false
  /-- slots 0–10 (R25) -/
  ctx : Tbl Ctx := []
  /-- the slot that runs or ran last (R126) -/
  slot : Nat := 0
  /-- queue that launched it, image header facts (R89) -/
  launch : Option Nat := none
  helpers : Nat := 0
  image : Word := 0
  /-- instruction store and its frame bits (R76) -/
  code : Tbl Byte := []
  frameV : BitVec 64 := 0
  frameX : BitVec 64 := 0
  /-- migrant tenant and image of a K-core (R90) -/
  migTenant : Option Nat := none
  migImage : Word := 0
  /-- inbound port queues 0 and 1, and the words deposited in this clock with their senders, which are readable from the next (R30, R42) -/
  port0 : List Word := []
  port1 : List Word := []
  deposit0 : List (Nat × Word) := []
  deposit1 : List (Nat × Word) := []
  v : Tbl VReg := []
  m : Tbl Word := []
  vq : List VqEntry := []
  /-- member of the run at the queue head that executes next (R178) -/
  vpos : Nat := 0
  /-- members of a run that have been captured while its `vrep` waits for port words of the others (R178, R179) -/
  capture : List VqEntry := []
  /-- the members of that run, once it has been checked, and the pc behind it -/
  runLeft : Option (List Instr × Code) := none
  vjob : Option VJob := none
  /-- lane group that the queue was granted last, the clock of that grant, which holds the group for 4 clocks, executions granted and not yet retired,
  and the arbiter's credit (R255, R256) -/
  lane : Option Nat := none
  laneAt : Nat := 0
  flight : Nat := 0
  credit : Int := 0
  /-- feed bindings of v12–v15 (R33) -/
  feeds : Tbl (Option Feed) := []
  gen : Tbl Lane := []
  /-- scalar generator, never zero (R139; DESIGN CHOICE, notes/assumptions 3) -/
  rng : Word := 1
  /-- committed accumulator, its poison bits, and the row state (R34, R192) -/
  acc : Tbl Lane := []
  accPoison : List Nat := []
  /-- accumulator words with an uncorrectable error that no read has found (R342, R411) -/
  accLatent : List Nat := []
  rowMax : Tbl Lane := []
  rowSum : Tbl Lane := []
  cmds : List MCmd := []
  work : Option Work := none
  rings : Nat := 0
  /-- numbers of ring operations discarded before this member has entered its command of them (R197, R199) -/
  ringsLost : List Nat := []
  credits : Nat := 0
  drain : Option Drain := none
  /-- columns and local rows of the latest completed operation (R200) -/
  drainShape : Option (Nat × Nat) := none
  mfault : Option (Nat × Word) := none
  /-- an uncorrectable error in the vector queue or a vector register: slot and locator, to be taken once the slot's queue is empty (R165,
  R411) -/
  vfault : Option (Nat × Word) := none
  /-- map generation of the cluster when the core's launch started it (R203) -/
  mapBase : Nat := 0
  fmode : Word := 0
  vqw : Word := 4
  porten : Word := 0
  portmap : Word := 0
  migen : Word := 0
  dommem : Word := 0
  trapvec : Word := 0
  barmap : Tbl Word := []
  cycle : Word := 0
  ev : Bool := false
  /-- a `sev` of this clock sets EV at its end (R135) -/
  evNext : Bool := false
  comb : List Comb := []
  xbuf : List XEnt := []
  /-- EXCHANGE at level L, and the exchange it arrived for (R156, R157) -/
  phase : BitVec 4 := 0
  phaseAt : Tbl Nat := []
  /-- slot and destination of a `cdone` of this clock, whose result the evaluation at the clock's end completes (R305) -/
  boundary : Option (Nat × Reg) := none
  chans : Tbl Chan := []
  /-- told to stop for pre-emption; its save record has been written and its save routine runs (R274) -/
  preempting : Bool := false
  saved : Bool := false
  deriving DecidableEq, Repr

/-- An entry of a translation buffer: tenant, page base, page size, leaf (R52, R54), and of a striped page the peers of its stripe-set
entry, which later changes to that entry do not reach (R329). `bad`: an uncorrectable error of the entry that no access has met (R411). -/
structure TlbEntry where
  tenant : Nat
  base : Nat
  size : Nat
  leaf : BitVec 128
  peers : List Nat
  bad : Bool := false
  deriving DecidableEq, Repr

/-- An error of a block's arithmetic that its next command meets: cluster and block, the phase (0 a command's products or an `attn`'s scores, 1 an
`attn`'s products with values, 2 an `attn`'s products with the correction c: its words row by row, then its row sums), the word of the core's result,
the depth index, and the amount by which the product changes (R207, R342). `cell`: the failed cell, by row and column, that makes the error: it makes
it again in every command as long as the fault map leaves the cell in use (R344). -/
structure Upset where
  cluster : Nat
  block : Nat
  phase : Nat
  word : Nat
  depth : Nat
  amount : Int
  cell : Option (Nat × Nat) := none
  deriving DecidableEq, Repr

/-- A sweep or remap in issue order (R205, R206, R343): the context, its destination, pops and Next, the block and the seed of a sweep or no block
for a remap, the new map, and whether the sweep runs. -/
structure MapOp where
  core : Nat
  slot : Nat
  dest : Reg
  pops : List Nat
  next : Code
  block : Option Nat
  seed : BitVec 32 := 0
  map : List Word
  running : Bool
  deriving DecidableEq, Repr

/-- A READY task of a cluster: TCB index and readiness clock (R272). -/
structure ReadyTask where
  idx : Nat
  clock : Nat
  deriving DecidableEq, Repr

/-- A context that waits in `tnext`: core, slot, destination, Next, and the inbound port queues that it pops when it retires (R131, R236). -/
structure TaskWait where
  core : Nat
  slot : Nat
  dest : Reg
  next : Code
  pops : List Nat
  deriving DecidableEq, Repr

/-- One cluster (R5). -/
structure Cluster where
  tenant : Nat := 0
  fmap : Tbl Word := []
  mapGen : Nat := 0
  mapOps : List MapOp := []
  tlb : List TlbEntry := []
  ready : List ReadyTask := []
  /-- contexts waiting in `tnext`, in the order they began to wait (R272) -/
  taskWait : List TaskWait := []
  tcbBase : Nat := 0
  tcbCount : Nat := 0
  saveBase : Word := 0
  tbinv : Word := 0
  /-- launch queues for which the cluster is still to be prepared (R267) -/
  prepare : List Nat := []
  /-- the cluster has been retired: its journal records say so from then on (R421, R422) -/
  retired : Bool := false
  /-- queue to which the cluster is being given up (R273) -/
  preemptFor : Option Nat := none
  deriving DecidableEq, Repr

/-- What is saved of a cluster that launches have been pre-empted from, beside the bytes in its save area (R274, R275). -/
structure SavedCluster where
  queues : List Nat
  cluster : Nat
  area : Nat
  tenant : Nat
  /-- cores of those launches with their queues, the save records, and those among them that had stopped before the pre-emption -/
  owned : List (Nat × Nat)
  cores : Tbl Core
  stopped : List Nat
  ready : List ReadyTask
  tcbBase : Nat
  tcbCount : Nat
  deriving DecidableEq, Repr

/-- A deposit in a Basin set: slot, value, weight, SID (R229). -/
structure Deposit where
  slot : Nat
  val : Lane
  weight : Lane
  sid : Word
  node : Bool
  deriving DecidableEq, Repr

/-- A Basin set that is not IDLE, or that a topology names (R229, R290). -/
structure BSet where
  opened : Bool := false
  joining : Bool := false
  parent : Word := 0
  /-- members that have neither deposited nor left: slot, SID -/
  members : List (Nat × Word) := []
  /-- every slot taken since the set opened -/
  slots : List Nat := []
  deposits : List Deposit := []
  /-- the message of the `sjoin` that waits, its reduction, k and pruning -/
  join : Option Nat := none
  red : Nat := 0
  k : Nat := 0
  prune : Bool := false
  /-- the die that loaded the set's topology and its entry there; die, set and slot of its parent node; the slots that its child nodes
  fill (R290, R292) -/
  topo : Option (Nat × Word) := none
  above : Option (Nat × Nat × Nat) := none
  childSlots : List Nat := []
  /-- the result that waits for prunes sent to winners, and how many are not acknowledged (R293) -/
  result : Option (Word × Word) := none
  pruneLeft : Nat := 0
  deriving DecidableEq, Repr

/-- Work on a BUSY frame (R224, R227, R285, R286). -/
inductive FrameWork
  /-- copy of a frame into a new one for the page of a stream -/
  | copy (src dst : Nat) (scb page : Nat)
  | evict (fid hbm : Nat)
  | fetch (fid sram : Nat)
  /-- a copy is installed and the write that caused it, of this context at this pc, is still to be performed (R297); slot + 16: it is
  under way -/
  | granted (scb core slot : Nat) (pc : Code)
  deriving DecidableEq, Repr

/-- A snapshot migration that this die sends: the stream and its state before the `smig` (R231, R294). -/
structure Snapshot where
  sid : Word
  before : Nat
  deriving DecidableEq, Repr

/-- A stream step that has arrived at its die's stream table and waits there: its SCB, and its context at its instruction (R224, R297). -/
structure StepWait where
  scb : Nat
  core : Nat
  slot : Nat
  pc : Code
  instret : Word
  deriving DecidableEq, Repr

/-- Where a core of a cascade stands (R305). -/
inductive Place
  | none
  | pool (cascade : Nat)
  | stage (cascade stage : Nat)
  deriving DecidableEq, Repr

/-- Where a graph stands (R397). -/
structure GraphRun where
  base : Nat
  nodes : Nat
  node : Nat
  /-- node after the LAUNCH node whose launch runs -/
  next : Nat
  runs : Nat
  idle : Nat
  iter : Tbl Nat
  deriving DecidableEq, Repr

/-- A launch that a queue has taken (R264–R276, R391, R392). -/
structure Launch where
  /-- the 128 bytes of the record that runs, and of the record taken -/
  rcd : List Byte
  tag : Word
  head : Nat
  prio : Nat
  tenant : Nat
  order : Nat
  /-- it has taken its cores; the first of its clusters has been prepared -/
  taken : Bool
  begun : Bool
  clusters : List Nat
  graph : Option GraphRun
  /-- the firmware trap images that it started with (R269, R406) -/
  trapTriad : List Byte := []
  trapK : List Byte := []
  deriving DecidableEq, Repr

/-- One launch queue (R390). -/
structure LQueue where
  base : Word := 0
  cfg : Word := 0
  tail : BitVec 32 := 0
  head : BitVec 32 := 0
  cq : Word := 0
  cqt : BitVec 32 := 0
  cqh : BitVec 32 := 0
  qerr : Bool := false
  launch : Option Launch := none
  deriving DecidableEq, Repr

/-- One die (R4). -/
structure Die where
  scb : Tbl (BitVec 2048) := []
  frames : Tbl Word := []
  age : Tbl Nat := []
  zeroing : List Nat := []
  work : List FrameWork := []
  /-- frames whose count the walk still has to lower (R230) -/
  walk : List Nat := []
  /-- BUSY frames that a step gives one more reference when their work ends (R224) -/
  owed : List Nat := []
  /-- stream steps that wait, in arrival order (R297) -/
  steps : List StepWait := []
  spillUsed : List Nat := []
  evicting : Bool := false
  spBase : Word := 0
  spCount : Word := 0
  arrival : Tbl (BitVec 256) := []
  /-- operations completed on the current block: key 128 × entry + cluster (R211) -/
  pealOps : Tbl Nat := []
  sets : Tbl BSet := []
  topoAddr : Word := 0
  topoCtl : Word := 0
  topoStat : Word := 0
  /-- entries sent and not acknowledged, once a load has been checked -/
  topoLeft : Option Nat := none
  topoNodes : List Word := []
  /-- snapshots being sent, and SCBs taken for snapshots that arrive (R294) -/
  snaps : List Snapshot := []
  incoming : List Nat := []
  qdesc : Tbl (BitVec 512) := []
  sdesc : Tbl (BitVec 512) := []
  cblk : Tbl (BitVec 512) := []
  cascCtl : Word := 0
  cascStat : Word := 0
  place : Tbl Place := []
  offered : List Nat := []
  belowMin : List Nat := []
  lq : Tbl LQueue := []
  rdy : Word := 0
  rdyCl : BitVec 128 := 0
  dtel0 : Word := 0
  dtel1 : Word := 0
  dtel2 : Word := 0
  /-- clocks of this window in which the governor is still to hold the die's issue, and whether it holds it in this clock (R417) -/
  gateLeft : Nat := 0
  gated : Bool := false
  cltel : Tbl Word := []
  deriving DecidableEq, Repr

/-- A forward that waits in a ring's sender: slot, end-of-block word (R336). -/
structure Forward where
  slot : Nat
  eobw : Word
  deriving DecidableEq, Repr

/-- A Peal ring at one member (R331–R337). -/
structure Ring where
  desc : BitVec 512 := 0
  /-- usable markers in arrival order, forwards, the next local block, the forward whose read has not ended -/
  markers : List Nat := []
  forwards : List Forward := []
  nextLocal : Nat := 0
  reading : Option Nat := none
  /-- slot frames: die, slot, FID -/
  frames : List (Nat × Nat × Nat) := []
  /-- slots that hold a block: bytes arrived, and the end-of-block word once it has; the dies that have released their copy -/
  blocks : Tbl (Nat × Option Word) := []
  released : List (Nat × Nat) := []
  deriving DecidableEq, Repr

/-- A host access that the endpoint has received (R389): BAR, offset, bytes written or count to read. -/
structure HostAccess where
  bar : Nat
  off : Nat
  write : Bool
  data : List Byte
  len : Nat
  deriving DecidableEq, Repr

/-- What a module retains without power (R400): the bytes of the two bundle copies (R405), the journal records of the half in use (R420), the
signing keys of slots 0 to 3, and the fuses: their digests, their revocation, and the minimum SVN (R405). -/
structure Flash where
  bundleA : List Byte := []
  bundleB : List Byte := []
  journal : List (List Byte) := []
  seq : Nat := 0
  keys : Tbl (List Byte) := []
  keyDigest : Tbl (BitVec 256) := []
  revoked : List Nat := []
  minSvn : Nat := 0
  deriving DecidableEq, Repr

/-- Power state (R400, R401): off, or on with the bring-up functions still to finish. -/
inductive Power
  | off
  | on (left : List Nat)
  deriving DecidableEq, Repr

/-- A fault-map record that the SMU is to append: cluster of the module, generation, retirement, whether a changed map brings it, and map (R414, R420,
R422). -/
structure JournalRec where
  cl : Nat
  gen : Nat
  retire : Bool
  change : Bool := true
  map : List Word
  deriving DecidableEq, Repr

/-- One module (R1). -/
structure Mod where
  power : Power := .off
  rdyMod : Word := 0
  rdyPort : Word := 0
  fabcfg : Word := 0
  linkstat : Word := 0
  ringsOf : Tbl Ring := []
  pealCtl : Word := 0
  pealStat : Word := 0
  stripeMem : Tbl (BitVec 16) := []
  stripeCtl : Tbl Word := []
  tenants : Tbl Word := []
  tbinvm : Word := 0
  apbase : Word := 0
  evqBase : Word := 0
  evqCfg : Word := 0
  evqTail : BitVec 32 := 0
  evqHead : BitVec 32 := 0
  evLost : BitVec 32 := 0
  seqs : Tbl (BitVec 32) := []
  trapimg : Word := 0
  trapstat : Word := 0
  trapTriad : List Byte := []
  trapK : List Byte := []
  keywr : BitVec 512 := 0
  keys : Tbl (BitVec 512) := []
  flash : Flash := {}
  /-- bundle copy accepted at this bring-up: false A, true B -/
  booted : Option Bool := none
  fwmbAddr : Word := 0
  fwmbCtl : Word := 0
  fwmbStat : Word := 0
  /-- FWMBADDR and FWMBCTL as they stood when the operation in progress began (R425) -/
  fwmbJob : Word × Word := (0, 0)
  /-- fault-map records to be appended, oldest first -/
  journalDue : List JournalRec := []
  ptel : Tbl Word := []
  /-- the power cap written, and the one of the window that runs (R415, R417) -/
  pcap : Nat := 5400
  pcapNow : Nat := 5400
  pwr : Nat := 0
  ppeak : Nat := 0
  cool : Word := 0
  /-- steps of 5 % by which the effective cap is reduced, and windows in a row with too little flow (R417, R418) -/
  capSteps : Nat := 0
  lowFlow : Nat := 0
  hostQ : List HostAccess := []
  hostReads : List (List Byte) := []
  msix : List Nat := []
  /-- SPDM requests received, responses sent, the stages of the connection passed, and the transcripts that signatures cover (R407) -/
  spdmIn : List (List Byte) := []
  spdmOut : List (List Byte) := []
  spdmStage : Nat := 0
  spdmA : List Byte := []
  spdmB : List Byte := []
  spdmL : List Byte := []
  deriving DecidableEq, Repr

/-- A superstep group (R43, R156, R314): member count, members that have arrived for the exchange, members that stopped,
exchanges begun. -/
structure Group where
  count : Nat := 0
  arrived : List Nat := []
  gone : List Nat := []
  epoch : Nat := 0
  deriving DecidableEq, Repr

/-- Who acts in a turn of the free schedule: a core issues, or a step of the hardware, the host or the SMU happens, with its
operands (a message, core, cluster, die or module, and a value written). -/
inductive Act
  | core (g : Nat)
  | event (i : Instr) (a b : Nat) (v : Word)
  deriving DecidableEq, Repr

/-- A turn: clocks that pass before it, and who acts. -/
structure Turn where
  dt : Nat
  act : Act
  deriving DecidableEq, Repr

/-- An arrival beyond EXPECT, presented again in the next clock: the core and slot, the barrier name, the message where it came from
another module, and the clock in which it was presented (R63). -/
structure Surplus where
  core : Nat
  slot : Nat
  name : Nat
  inst : Nat
  msg : Option Nat
  clock : Nat
  deriving DecidableEq, Repr

/-- The machine. -/
structure State where
  cores : Tbl Core
  clusters : Tbl Cluster
  dies : Tbl Die
  mods : Tbl Mod
  /-- HBM, state frames, scratchpads and TCMs of every module by global address (R47, R48) -/
  mem : List Host.Cell
  /-- doublewords whose full bit is set, whose poison is set, and that hold an uncorrectable error not yet found, as rising
  lists of address / 8 (R146, R148, R411) -/
  full : List Nat
  poison : List Nat
  latent : List Nat
  /-- doublewords that hold a correctable error not yet found (R411) -/
  soft : List Nat
  /-- key material under which the bytes listed for a block of HBM, address / 16, were written; a block without an entry stands as stored (R408) -/
  memKey : Tbl (BitVec 512)
  /-- barrier instances of every level by the global address of their window (R49, R63) -/
  bars : Tbl (BitVec 128)
  /-- superstep groups (R43) -/
  groups : Tbl Group
  /-- structures with an uncorrectable error, by module and locator, and those of them that have been reported (R411) -/
  ue : List (Nat × Word)
  ueFound : List (Nat × Word)
  /-- failed cells of MAC blocks: cluster, block, row, column; those whose fault shows only for rare operands or some of the time; and the errors
  of products that are to come (R205, R207) -/
  cells : List (Nat × Nat × Nat × Nat)
  rareCells : List (Nat × Nat × Nat × Nat)
  upsets : List Upset
  net : List Msg
  nextId : Nat
  /-- arrivals presented again at the next clock (R63) -/
  surplus : List Surplus
  /-- core save records that hardware has written of clusters not yet saved, and the clusters saved (R274, R275) -/
  records : Tbl Core
  saves : List SavedCluster
  /-- fabric-group barrier instances that a launch on their home module has set, with its queue (R314) -/
  fabSet : Tbl Nat
  /-- host memory by bus address (R389) -/
  host : List Host.Cell
  launches : Nat
  /-- the model's own: clock, free values taken, free values given, free schedule, the core that issues, and the operands of the
  step of the hardware, the host or the SMU that happens -/
  now : Nat
  draws : Nat
  oracle : List Nat
  sched : List Turn
  /-- place in the order of R141 of what was performed last in this clock -/
  turnKey : Nat
  cur : Nat
  argA : Nat
  argB : Nat
  argV : Word
  deriving DecidableEq, Repr

/-- Power is off and nothing holds state but flash (R400): every function's READY bit is 0, no core runs, memory lists
nothing. -/
def State.reset : State where
  cores := []
  clusters := []
  dies := []
  mods := []
  mem := []
  full := []
  poison := []
  latent := []
  soft := []
  memKey := []
  bars := []
  groups := []
  ue := []
  ueFound := []
  cells := []
  rareCells := []
  upsets := []
  net := []
  nextId := 0
  surplus := []
  records := []
  saves := []
  fabSet := []
  host := []
  launches := 0
  now := 0
  draws := 0
  oracle := []
  sched := []
  turnKey := 0
  cur := 0
  argA := 0
  argB := 0
  argV := 0

end Sys2Proof.Machine
end

