-- ==== Sys2Proof/Machine/Fields.lean ====
section
/-!
DEFINITION. Sparse tables, bit fields, little-endian bytes, and the places of the fields that the manual's field maps name (chapter 1, R25–R63).
-/
namespace Sys2Proof.Machine

/-- Value of a key, or the default. -/
def tget {α : Type} (d : α) : Tbl α → Nat → α
  | [], _ => d
  | (k', v) :: rest, k => if k' = k then v else tget d rest k

/-- Remove every entry of a key. -/
def tdel {α : Type} (t : Tbl α) (k : Nat) : Tbl α := t.filter fun e => e.1 ≠ k

/-- Insert before the first greater key. -/
def tins {α : Type} (k : Nat) (v : α) : Tbl α → Tbl α
  | [] => [(k, v)]
  | e :: rest => if k < e.1 then (k, v) :: e :: rest else e :: tins k v rest

/-- Set a key. -/
def tput {α : Type} (t : Tbl α) (k : Nat) (v : α) : Tbl α := tins k v (tdel t k)

/-- Set a key, leaving out the default. -/
def tset {α : Type} [DecidableEq α] (d : α) (t : Tbl α) (k : Nat) (v : α) : Tbl α :=
  if v = d then tdel t k else tput t k v

/-- Read a field as a number (R21). -/
def fget {n : Nat} (f : Fld) (x : BitVec n) : Nat := x.toNat / 2 ^ f.lo % 2 ^ f.len

/-- Write a field, the value taken modulo its width. -/
def fput {n : Nat} (f : Fld) (x : BitVec n) (v : Nat) : BitVec n :=
  BitVec.ofNat n (x.toNat - fget f x * 2 ^ f.lo + v % 2 ^ f.len * 2 ^ f.lo)

/-- Bits [lo+len-1:lo] of a number. -/
def bitsOf (x lo len : Nat) : Nat := x / 2 ^ lo % 2 ^ len

/-- Little-endian number of bytes (R21). -/
def leNat : List Byte → Nat
  | [] => 0
  | b :: rest => b.toNat + 256 * leNat rest

/-- The low n bytes of a number, lowest first (R21). -/
def leBytes (v : Nat) : Nat → List Byte
  | 0 => []
  | n + 1 => BitVec.ofNat 8 v :: leBytes (v / 256) n

/-- Numbers from a on. -/
def upFrom (a : Nat) : Nat → List Nat
  | 0 => []
  | n + 1 => a :: upFrom (a + 1) n

/-- A sparse table as a rising set of numbers: member, add, remove. -/
def sadd (k : Nat) : List Nat → List Nat
  | [] => [k]
  | a :: rest => if k < a then k :: a :: rest else if k = a then a :: rest else a :: sadd k rest

def sdel (k : Nat) (l : List Nat) : List Nat := l.filter fun a => a ≠ k

namespace F
/-! CSR fields (R36–R45). -/
def lvl : Fld := ⟨0, 1⟩
def plvl : Fld := ⟨1, 1⟩
def ten : Fld := ⟨16, 12⟩
def rm : Fld := ⟨0, 3⟩
def ftz : Fld := ⟨3, 1⟩
def flags : Fld := ⟨8, 5⟩
def vqwW : Fld := ⟨0, 4⟩
def en : Fld := ⟨0, 1⟩
def p0 : Fld := ⟨0, 2⟩
def p1 : Fld := ⟨2, 2⟩
def fansel : Fld := ⟨4, 12⟩
def bmV : Fld := ⟨63, 1⟩
def bmLvl : Fld := ⟨32, 2⟩
def bmArrn : Fld := ⟨16, 16⟩
def bmInst : Fld := ⟨0, 8⟩
def tvBase : Fld := ⟨6, 10⟩
def tcPre : Fld := ⟨63, 1⟩
def tcCode : Fld := ⟨0, 8⟩
/-! Leaf and pointer entries (R52, R53). -/
def lfV : Fld := ⟨0, 1⟩
def lfL : Fld := ⟨1, 1⟩
def lfSz : Fld := ⟨2, 2⟩
def lfRd : Fld := ⟨4, 1⟩
def lfWr : Fld := ⟨5, 1⟩
def lfUsr : Fld := ⟨6, 1⟩
def lfAtm : Fld := ⟨7, 1⟩
def lfFe : Fld := ⟨8, 1⟩
def lfSt : Fld := ⟨9, 1⟩
def lfRoute : Fld := ⟨10, 2⟩
def lfKey : Fld := ⟨12, 6⟩
def lfPfn : Fld := ⟨18, 30⟩
def lfHome : Fld := ⟨48, 16⟩
def lfOwner : Fld := ⟨96, 12⟩
def lfRsv : Fld := ⟨108, 20⟩
/-! Stream identities (R56). -/
def sidGen : Fld := ⟨48, 16⟩
def sidMod : Fld := ⟨32, 16⟩
def sidDie : Fld := ⟨16, 4⟩
def sidIdx : Fld := ⟨0, 12⟩
/-! Stream control blocks (R57). -/
def scFetches : Fld := ⟨1024, 64⟩
def scCopies : Fld := ⟨992, 32⟩
def scForks : Fld := ⟨960, 32⟩
def scSteps : Fld := ⟨896, 64⟩
def scRefs : Fld := ⟨832, 64⟩
def scFwd : Fld := ⟨768, 64⟩
def scMarkTok : Fld := ⟨736, 32⟩
def scMarkPg : Fld := ⟨704, 13⟩
def scCommit : Fld := ⟨672, 32⟩
def scNpg : Fld := ⟨640, 13⟩
def scCtxLen : Fld := ⟨608, 32⟩
def scNewTok : Fld := ⟨576, 32⟩
def scHorizon : Fld := ⟨512, 32⟩
def scAqTail : Fld := ⟨480, 16⟩
def scAqHead : Fld := ⟨464, 16⟩
def scAqEsize : Fld := ⟨456, 8⟩
def scAqLogCap : Fld := ⟨448, 5⟩
def scAqBase : Fld := ⟨384, 64⟩
def scRv : Fld := ⟨383, 1⟩
def scRdie : Fld := ⟨368, 4⟩
def scRfid : Fld := ⟨320, 16⟩
def scSlot : Fld := ⟨272, 8⟩
def scSset : Fld := ⟨256, 16⟩
def scParent : Fld := ⟨192, 64⟩
def scBcore : Fld := ⟨160, 32⟩
def scBslot : Fld := ⟨144, 5⟩
def scMarkV : Fld := ⟨131, 1⟩
def scState : Fld := ⟨128, 3⟩
def scSid : Fld := ⟨0, 64⟩
/-! Frame-table entries (R58). -/
def frCnt : Fld := ⟨48, 16⟩
def frQ : Fld := ⟨47, 1⟩
def frKind : Fld := ⟨44, 3⟩
def frLoc : Fld := ⟨43, 1⟩
def frBusy : Fld := ⟨42, 1⟩
def frPins : Fld := ⟨36, 6⟩
def frPlace : Fld := ⟨0, 32⟩
/-! State-table entries (R59). -/
def teV : Fld := ⟨63, 1⟩
def teProv : Fld := ⟨62, 1⟩
def teDie : Fld := ⟨48, 4⟩
def teFid : Fld := ⟨0, 16⟩
/-! Task control blocks (R60), as bit places in the 64 bytes. -/
def tcbFcause : Fld := ⟨464, 8⟩
def tcbFpc : Fld := ⟨448, 16⟩
def tcbArg (i : Nat) : Fld := ⟨192 + 64 * i, 64⟩
def tcbSucc : Fld := ⟨64, 64⟩
def tcbEntry : Fld := ⟨32, 16⟩
def tcbNsucc : Fld := ⟨24, 8⟩
def tcbStatus : Fld := ⟨18, 3⟩
def tcbPrio : Fld := ⟨16, 2⟩
def tcbDep : Fld := ⟨0, 16⟩
/-! Stage queue descriptors (R61). -/
def qdRsv : Fld := ⟨256, 256⟩
def qdBase : Fld := ⟨192, 64⟩
def qdStalls : Fld := ⟨128, 64⟩
def qdTail : Fld := ⟨96, 32⟩
def qdHead : Fld := ⟨64, 32⟩
def qdLow : Fld := ⟨48, 13⟩
def qdHigh : Fld := ⟨32, 13⟩
def qdCasc : Fld := ⟨29, 3⟩
def qdCons : Fld := ⟨24, 5⟩
def qdProd : Fld := ⟨16, 5⟩
def qdLoop : Fld := ⟨15, 1⟩
def qdEsize : Fld := ⟨8, 7⟩
def qdLogCap : Fld := ⟨0, 5⟩
/-! Fault-map entries (R62). -/
def fmShape : Fld := ⟨62, 2⟩
def fmColx : Fld := ⟨34, 18⟩
def fmRowx : Fld := ⟨0, 34⟩
/-! Barrier instances (R63). -/
def biCnt1 : Fld := ⟨96, 32⟩
def biCnt0 : Fld := ⟨64, 32⟩
def biExpect : Fld := ⟨32, 32⟩
def biGen : Fld := ⟨0, 16⟩
/-! Bump counters (R151). -/
def buOvf : Fld := ⟨48, 16⟩
def buLimit : Fld := ⟨24, 24⟩
def buCount : Fld := ⟨0, 24⟩
/-! Matrix operation descriptors (R189). -/
def mdAent : Fld := ⟨248, 7⟩
def mdVbase : Fld := ⟨192, 17⟩
def mdSb : Fld := ⟨160, 17⟩
def mdSa : Fld := ⟨128, 17⟩
def mdB : Fld := ⟨96, 17⟩
def mdA : Fld := ⟨64, 17⟩
def mdK : Fld := ⟨48, 16⟩
def mdN : Fld := ⟨32, 11⟩
def mdM : Fld := ⟨16, 10⟩
def mdCausal : Fld := ⟨15, 1⟩
def mdTs : Fld := ⟨8, 7⟩
def mdBsrc : Fld := ⟨4, 2⟩
def mdHold : Fld := ⟨3, 1⟩
def mdSc : Fld := ⟨2, 1⟩
def mdZ : Fld := ⟨1, 1⟩
/-! Arrival entries (R209). -/
def arEobw : Fld := ⟨128, 64⟩
def arFin : Fld := ⟨120, 8⟩
def arBseq : Fld := ⟨104, 16⟩
def arEob : Fld := ⟨103, 1⟩
def arArr : Fld := ⟨64, 19⟩
def arV : Fld := ⟨63, 1⟩
def arRing : Fld := ⟨59, 4⟩
def arSlot : Fld := ⟨56, 3⟩
def arCl0 : Fld := ⟨49, 7⟩
def arNcl : Fld := ⟨41, 8⟩
def arNeed : Fld := ⟨33, 8⟩
def arFid : Fld := ⟨0, 16⟩
/-! Patterns (R215). -/
def paS (l : Nat) : Fld := ⟨128 + 32 * l, 32⟩
def paC (l : Nat) : Fld := ⟨64 + 16 * l, 16⟩
def paRsv1 : Fld := ⟨8, 56⟩
def paRsv0 : Fld := ⟨2, 5⟩
def paFill : Fld := ⟨7, 1⟩
def paEs : Fld := ⟨0, 2⟩
/-! Cascade control blocks (R299). -/
def cbMask : Fld := ⟨384, 128⟩
def cbMoves : Fld := ⟨320, 64⟩
def cbBelow : Fld := ⟨304, 16⟩
def cbNextIv : Fld := ⟨256, 32⟩
def cbQcount : Fld := ⟨96, 10⟩
def cbQfirst : Fld := ⟨64, 9⟩
def cbV : Fld := ⟨63, 1⟩
def cbIvm1 : Fld := ⟨32, 16⟩
def cbHyst : Fld := ⟨23, 9⟩
def cbNstage : Fld := ⟨17, 6⟩
/-! Stage descriptors (R300). -/
def sdRecv : Fld := ⟨192, 32⟩
def sdCount : Fld := ⟨160, 16⟩
def sdPress : Fld := ⟨128, 16⟩
def sdMax : Fld := ⟨96, 12⟩
def sdMin : Fld := ⟨64, 12⟩
def sdInit : Fld := ⟨48, 12⟩
def sdGminl : Fld := ⟨16, 5⟩
def sdGwhole : Fld := ⟨9, 1⟩
def sdRing : Fld := ⟨8, 1⟩
def sdKind : Fld := ⟨0, 2⟩
/-! Topology entries (R290). -/
def toParent : Fld := ⟨54, 10⟩
def toPslot : Fld := ⟨46, 8⟩
def toRed : Fld := ⟨43, 3⟩
def toK : Fld := ⟨35, 8⟩
def toPrune : Fld := ⟨34, 1⟩
def toDie : Fld := ⟨30, 4⟩
def toRsv : Fld := ⟨26, 4⟩
def toSet : Fld := ⟨16, 10⟩
def toMod : Fld := ⟨0, 16⟩
/-! Peal ring descriptors (R331). -/
def prBlkOut : Fld := ⟨448, 64⟩
def prBlkIn : Fld := ⟨384, 64⟩
def prMstall : Fld := ⟨320, 64⟩
def prRsv4 : Fld := ⟨256, 64⟩
def prSrcBase : Fld := ⟨192, 64⟩
def prSrcN : Fld := ⟨184, 8⟩
def prRsv3 : Fld := ⟨176, 8⟩
def prDieMask : Fld := ⟨160, 16⟩
def prFdie : Fld := ⟨156, 4⟩
def prRsv2 : Fld := ⟨150, 6⟩
def prPf : Fld := ⟨140, 10⟩
def prRf : Fld := ⟨136, 4⟩
def prRsv1 : Fld := ⟨132, 4⟩
def prS : Fld := ⟨128, 4⟩
def prMembers : Fld := ⟨96, 32⟩
def prRsv0 : Fld := ⟨64, 32⟩
def prState : Fld := ⟨62, 2⟩
def prRsvB : Fld := ⟨57, 5⟩
def prDir : Fld := ⟨56, 1⟩
def prDim : Fld := ⟨55, 1⟩
def prRsvA : Fld := ⟨0, 55⟩
/-! Launch queue registers (R390). -/
def lqEn : Fld := ⟨63, 1⟩
def lqTen : Fld := ⟨16, 12⟩
def lqLogCq : Fld := ⟨8, 4⟩
def lqLogSz : Fld := ⟨0, 4⟩
end F

end Sys2Proof.Machine
end

