-- ==== Sys2Proof/Machine/Aes.lean ====
section
/-!
DEFINITION. AES-256 and its XTS mode, which the manual names by standard for HBM under a key (R408) (PRESUMED, notes/assumptions 10). A block is its 16
bytes in their order.
-/
namespace Sys2Proof.Machine

/-! ### The field of 256 elements -/

/-- Product by x modulo x⁸ + x⁴ + x³ + x + 1, and a product. -/
def gfDouble (a : Byte) : Byte := (a <<< 1) ^^^ (if a.getLsbD 7 then 0x1B else 0)
def gfMul (a b : Byte) : Byte :=
  ((upFrom 0 8).foldl (fun (r : Byte × Byte) i => (if b.getLsbD i then r.1 ^^^ r.2 else r.1, gfDouble r.2)) (0, a)).1

/-- The inverse of an element, 0 for 0: its power 254, the product of its powers 2, 4, …, 128. -/
def gfInv (a : Byte) : Byte := ((upFrom 0 7).foldl (fun (r : Byte × Byte) _ => (gfMul r.1 (gfMul r.2 r.2), gfMul r.2 r.2)) (1, a)).1

/-- The substitution of a byte and its inverse: the affine map over the field's inverse. -/
def subByte (b : Byte) : Byte :=
  let i := gfInv b
  i ^^^ i.rotateLeft 1 ^^^ i.rotateLeft 2 ^^^ i.rotateLeft 3 ^^^ i.rotateLeft 4 ^^^ 0x63
def invSubByte (b : Byte) : Byte := gfInv (b.rotateLeft 1 ^^^ b.rotateLeft 3 ^^^ b.rotateLeft 6 ^^^ 0x05)

/-! ### AES-256 -/

def xorBytes (a b : List Byte) : List Byte := (a.zip b).map fun x => x.1 ^^^ x.2

/-- Row r, column c of a block is byte r + 4c: the rows turn left by their number, or back. -/
def shiftRows (l : List Byte) : List Byte := (upFrom 0 16).map fun i => l.getD (i % 4 + 4 * ((i / 4 + i % 4) % 4)) 0
def invShiftRows (l : List Byte) : List Byte := (upFrom 0 16).map fun i => l.getD (i % 4 + 4 * ((i / 4 + 4 - i % 4) % 4)) 0

/-- Every column is multiplied by the circulant matrix of a first row. -/
def mixColumns (row : List Byte) (l : List Byte) : List Byte :=
  (upFrom 0 16).map fun i => ((upFrom 0 4).zip row).foldl (fun r x => r ^^^ gfMul x.2 (l.getD (i / 4 * 4 + (i % 4 + x.1) % 4) 0)) 0

/-- The key schedule's words, latest first: from word i on. -/
def keyWords (w : List (List Byte)) (i : Nat) : Nat → List (List Byte)
  | 0 => w
  | n + 1 =>
    let last := w.headD []
    let t :=
      if i % 8 = 0 then xorBytes ((last.drop 1 ++ last.take 1).map subByte) [BitVec.ofNat 8 (2 ^ (i / 8 - 1)), 0, 0, 0]
      else if i % 8 = 4 then last.map subByte
      else last
    keyWords (xorBytes (w.getD 7 []) t :: w) (i + 1) n

/-- The fifteen round keys of a key of 32 bytes. -/
def roundKeys (key : List Byte) : List (List Byte) :=
  let first := (upFrom 0 8).map fun i => (key.drop (4 * i)).take 4
  let w := (keyWords first.reverse 8 52).reverse
  (upFrom 0 15).map fun r => ((w.drop (4 * r)).take 4).flatten

/-- A block enciphered and deciphered under round keys. -/
def encipher (keys : List (List Byte)) (l : List Byte) : List Byte :=
  let mid := ((keys.drop 1).take 13).foldl (fun b k => xorBytes (mixColumns [2, 3, 1, 1] (shiftRows (b.map subByte))) k) (xorBytes l (keys.headD []))
  xorBytes (shiftRows (mid.map subByte)) (keys.getD 14 [])
def decipher (keys : List (List Byte)) (l : List Byte) : List Byte :=
  let mid := ((keys.drop 1).take 13).reverse.foldl
    (fun b k => mixColumns [14, 11, 13, 9] (xorBytes ((invShiftRows b).map invSubByte) k)) (xorBytes l (keys.getD 14 []))
  xorBytes ((invShiftRows mid).map invSubByte) (keys.headD [])

/-! ### XTS -/

/-- Product by x modulo x¹²⁸ + x⁷ + x² + x + 1, on numbers whose lowest byte is a block's first. -/
def tweakDouble (t : Nat) : Nat := if t < 2 ^ 127 then 2 * t else (2 * t - 2 ^ 128) ^^^ 0x87

/-- The two halves of key material: the data key, then the tweak key. -/
def dataKey (key : BitVec 512) : List (List Byte) := roundKeys (leBytes key.toNat 32)
def tweakKey (key : BitVec 512) : List (List Byte) := roundKeys (leBytes (key.toNat / 2 ^ 256) 32)

/-- Tweak of block j of a data unit. -/
def xtsTweak (key : BitVec 512) (unit j : Nat) : List Byte :=
  leBytes ((upFrom 0 j).foldl (fun t _ => tweakDouble t) (leNat (encipher (tweakKey key) (leBytes unit 16)))) 16

/-- Block j of a data unit under key material, of which 0 stands for no key: as it is stored, and as it is read. -/
def xtsEncrypt (key : BitVec 512) (unit j : Nat) (l : List Byte) : List Byte :=
  if key = 0 then l
  else let t := xtsTweak key unit j; xorBytes (encipher (dataKey key) (xorBytes l t)) t
def xtsDecrypt (key : BitVec 512) (unit j : Nat) (l : List Byte) : List Byte :=
  if key = 0 then l
  else let t := xtsTweak key unit j; xorBytes (decipher (dataKey key) (xorBytes l t)) t

end Sys2Proof.Machine
end

