-- ==== Sys2Proof/Machine/Memory.lean ====
section
/-!
DEFINITION. Memory: the module physical map (R47, R48), bytes, poison and full bits, encryption keys, saved clusters (R275), host memory, and
event records (R398).
-/
namespace Sys2Proof.Machine

/-- Bytes as cells at consecutive addresses. -/
def cellsAt (a : Nat) : List Byte → List Host.Cell
  | [] => []
  | b :: rest => (a, b) :: cellsAt (a + 1) rest

/-- Where a global address lies (R48). Cores, clusters and dies are numbered as State says. -/
inductive Region
  | hbm (die off : Nat)
  | frame (die off : Nat)
  | spad (cluster off : Nat)
  | tcm (core off : Nat)
  | dieWin (die off : Nat)
  | modWin (mod off : Nat)
  | hole
  deriving DecidableEq, Repr

def moduleOf (ga : Nat) : Nat := ga / 2 ^ 48
def paOf (ga : Nat) : Nat := ga % 2 ^ 48

/-- The module physical map (R48). -/
def region (ga : Nat) : Region :=
  let m := moduleOf ga
  let pa := paOf ga
  if pa < 0x010000000000 then .hbm (m * 16 + pa / 2 ^ 36) (pa % 2 ^ 36)
  else if pa < 0x010800000000 then
    let o := pa - 0x010000000000
    if o % 2 ^ 31 < 0x60000000 then .frame (m * 16 + o / 2 ^ 31) (o % 2 ^ 31) else .hole
  else if 0x011000000000 ≤ pa ∧ pa < 0x011200000000 then
    let o := pa - 0x011000000000
    if o % 2 ^ 22 < 2 ^ 21 then .spad (m * 2048 + o / 2 ^ 22) (o % 2 ^ 22) else .hole
  else if 0x012000000000 ≤ pa ∧ pa < 0x012400000000 then
    let o := pa - 0x012000000000
    if o % 2 ^ 23 / 2 ^ 17 < 52 then .tcm ((m * 2048 + o / 2 ^ 23) * 64 + o % 2 ^ 23 / 2 ^ 17) (o % 2 ^ 17) else .hole
  else if 0x013000000000 ≤ pa ∧ pa < 0x013100000000 then
    let o := pa - 0x013000000000
    .dieWin (m * 16 + o / 2 ^ 28) (o % 2 ^ 28)
  else if 0x013100000000 ≤ pa ∧ pa < 0x013110000000 then .modWin m (pa - 0x013100000000)
  else .hole

/-- Global address of a place in HBM, a state frame, a scratchpad, a TCM or a window (R48). -/
def gaHbm (die off : Nat) : Nat := die / 16 * 2 ^ 48 + die % 16 * 2 ^ 36 + off
def gaFrame (die off : Nat) : Nat := die / 16 * 2 ^ 48 + 0x010000000000 + die % 16 * 2 ^ 31 + off
def gaSpad (cl off : Nat) : Nat := cl / 2048 * 2 ^ 48 + 0x011000000000 + cl % 2048 * 2 ^ 22 + off
def gaTcm (core off : Nat) : Nat :=
  core / 131072 * 2 ^ 48 + 0x012000000000 + core % 131072 / 64 * 2 ^ 23 + core % 64 * 2 ^ 17 + off
def gaDieWin (die off : Nat) : Nat := die / 16 * 2 ^ 48 + 0x013000000000 + die % 16 * 2 ^ 28 + off
def gaModWin (m off : Nat) : Nat := m * 2 ^ 48 + 0x013100000000 + off

/-- Global address of a barrier instance (R49, R63): cluster, die, module and fabric-group level. -/
def gaBarCluster (cl i : Nat) : Nat := gaDieWin (cl / 128) (0x1000000 + cl % 128 * 0x20000 + 0x1000 + 16 * i)
def gaBarDie (die i : Nat) : Nat := gaDieWin die (0x190000 + 16 * i)
def gaBarModule (m i : Nat) : Nat := gaModWin m (16 * i)
def gaBarFabric (grp i : Nat) : Nat := gaModWin (grp / 32) (0x10000 + grp % 32 * 0x400 + 16 * i)

/-! ### Units of the machine -/

def getCore (s : State) (g : Nat) : Core := tget {} s.cores g
def putCore (s : State) (g : Nat) (c : Core) : State := { s with cores := tput s.cores g c }
def modCore (s : State) (g : Nat) (f : Core → Core) : State := putCore s g (f (getCore s g))

def getCluster (s : State) (q : Nat) : Cluster := tget {} s.clusters q
def modCluster (s : State) (q : Nat) (f : Cluster → Cluster) : State :=
  { s with clusters := tput s.clusters q (f (getCluster s q)) }

def getDie (s : State) (d : Nat) : Die := tget {} s.dies d
def modDie (s : State) (d : Nat) (f : Die → Die) : State := { s with dies := tput s.dies d (f (getDie s d)) }

def getMod (s : State) (m : Nat) : Mod := tget {} s.mods m
def modMod (s : State) (m : Nat) (f : Mod → Mod) : State := { s with mods := tput s.mods m (f (getMod s m)) }

def getCtx (s : State) (g k : Nat) : Ctx := tget {} (getCore s g).ctx k
def putCtx (s : State) (g k : Nat) (x : Ctx) : State := modCore s g fun c => { c with ctx := tput c.ctx k x }
def modCtx (s : State) (g k : Nat) (f : Ctx → Ctx) : State := putCtx s g k (f (getCtx s g k))

def clusterOf (g : Nat) : Nat := g / 64
def dieOf (g : Nat) : Nat := g / 8192
def modOf (g : Nat) : Nat := g / 131072
def indexOf (g : Nat) : Nat := g % 64

/-- Role code of a core: 0 X, 1 C, 2 M, 3 K (R5, R36). -/
def roleOf (g : Nat) : Nat := if indexOf g < 48 then indexOf g % 3 else 3
/-- Triad of a triad core (R5). -/
def triadOf (g : Nat) : Nat := indexOf g / 3
/-- The core of a role in a triad of a cluster (R5). -/
def coreAt (q triad role : Nat) : Nat := q * 64 + 3 * triad + role
/-- K-core k of a cluster (R5). -/
def kcoreAt (q k : Nat) : Nat := q * 64 + 48 + k

/-! ### Free values -/

/-- A value nothing constrains: the next one given from outside, else the next free constant (DESIGN CHOICE, notes/assumptions 7). -/
def draw (s : State) : Nat × State :=
  match s.oracle with
  | v :: rest => (v, { s with oracle := rest, draws := s.draws + 1 })
  | [] => (Config.freeNat s.draws, { s with draws := s.draws + 1 })

/-! ### Saved clusters (R275) -/

/-- A launch runs on a cluster. -/
def runsOn (s : State) (q : Nat) (launch : Option Nat) : Bool :=
  launch.isSome && (upFrom 0 52).any fun i => (getCore s (q * 64 + i)).launch == launch

/-- The launch that holds a core. -/
def launchOf (s : State) (g : Nat) : Option Nat := (getCore s g).launch

/-- The saved copy that stands for a cluster as a launch sees it: its own, else the oldest; none where it runs there (R275; DEDUCED,
notes/assumptions 22). -/
def savedFrom (s : State) (mine : Option Nat) (q : Nat) : Option SavedCluster :=
  match s.saves.find? fun v => v.cluster == q && mine.any fun l => v.queues.contains l with
  | some v => some v
  | none => if runsOn s q mine then none else s.saves.find? fun v => v.cluster == q

/-- That copy as a core's present launch sees it. -/
def savedFor (s : State) (g q : Nat) : Option SavedCluster := savedFrom s (launchOf s g) q

/-- Where an access of a launch goes: a cluster that a launch has been taken from answers from its save area (R275). -/
def redirectFrom (s : State) (mine : Option Nat) (ga : Nat) : Nat :=
  let go (q i : Nat) : Nat :=
    match savedFrom s mine q with
    | some v => v.area + i
    | none => ga
  match region ga with
  | .tcm c off => go (c / 64) (c % 64 * 2 ^ 17 + off)
  | .spad q off => go q (52 * 2 ^ 17 + off)
  | _ => ga

/-- Where an access by a core goes. -/
def redirect (s : State) (g ga : Nat) : Nat := redirectFrom s (launchOf s g) ga

/-- The save in force whose TCM and scratchpad copies hold this address. -/
def areaOf (s : State) (ga : Nat) : Option SavedCluster :=
  s.saves.find? fun v => decide (v.area ≤ ga) && decide (ga < v.area + 0x880000)

/-! ### Bytes -/

/-- Key material of key index k on the module of an address: nothing for index 0 and outside HBM (R52, R408) (PRESUMED, notes/assumptions 10). -/
def keyMaterial (s : State) (ga k : Nat) : BitVec 512 :=
  match region ga with
  | .hbm _ _ => if k = 0 then 0 else tget 0 (getMod s (moduleOf ga)).keys k
  | _ => 0

/-- A byte as it stands (DESIGN CHOICE, notes/assumptions 2). -/
def rawByte (s : State) (ga : Nat) : Byte := tget 0 s.mem ga

/-- The key index that an access to an address goes under: only HBM has keys, and the saved copy of a TCM or scratchpad is accessed by the rules of
that home (R275, R408). -/
def keyAt (ga key : Nat) : Nat := match region ga with | .hbm _ _ => key | _ => 0

/-- An HBM access under a key whose entry is cleared (R408). -/
def keyCleared (s : State) (ga k : Nat) : Bool :=
  match region ga with
  | .hbm _ _ => k != 0 && tget 0 (getMod s (moduleOf ga)).keys k == 0
  | _ => false

/-- The 16 bytes of a block as key material sees them: as they were written under the same material, else what AES-XTS makes of the stored bytes
(R408) (PRESUMED, notes/assumptions 10). -/
def blockUnder (s : State) (key : BitVec 512) (blk : Nat) : List Byte :=
  let old := tget 0 s.memKey blk
  let l := (upFrom (16 * blk) 16).map (rawByte s)
  if old = key then l
  else
    let unit := paOf (16 * blk) / 256
    xtsDecrypt key unit (blk % 16) (xtsEncrypt old unit (blk % 16) l)

/-- A byte read under key material (R408). -/
def readByte (s : State) (key : BitVec 512) (ga : Nat) : Byte :=
  if tget 0 s.memKey (ga / 16) = key then rawByte s ga else (blockUnder s key (ga / 16)).getD (ga % 16) 0

def readBytes (s : State) (key : BitVec 512) (ga n : Nat) : List Byte := (upFrom ga n).map (readByte s key)

/-- A block is held under key material: its bytes are what that material sees (R408). -/
def rekey (s : State) (key : BitVec 512) (blk : Nat) : State :=
  if tget 0 s.memKey blk = key then s
  else
    { s with
      mem := (upFrom 0 16).foldl (fun t i => tset 0 t (16 * blk + i) ((blockUnder s key blk).getD i 0)) s.mem
      memKey := tset 0 s.memKey blk key }

/-- Write one byte under key material: the block that it lies in is read, merged and written under that material (R408). -/
def writeByte (s : State) (key : BitVec 512) (ga : Nat) (b : Byte) : State :=
  let s1 := rekey s key (ga / 16)
  { s1 with mem := tset 0 s1.mem ga b }

/-- A store writes every byte of a doubleword. -/
def wholeDword (cells : List Host.Cell) (dw : Nat) : Bool := (upFrom (8 * dw) 8).all fun a => cells.any fun c => c.1 == a

/-- Full and poison bits of the doubleword of an address; those of a saved cluster lie in its save area (R395). -/
def bitAt (s : State) (base : Nat) (v : SavedCluster) (ga : Nat) : Bool :=
  let i := (ga - v.area) / 8
  (rawByte s (v.area + base + i / 8)).getLsbD (i % 8)

def setBitAt (s : State) (base : Nat) (v : SavedCluster) (ga : Nat) (b : Bool) : State :=
  let i := (ga - v.area) / 8
  let a := v.area + base + i / 8
  let m : Byte := BitVec.ofNat 8 (2 ^ (i % 8))
  writeByte s 0 a (if b then rawByte s a ||| m else rawByte s a &&& ~~~m)

def fullAt (s : State) (ga : Nat) : Bool :=
  match areaOf s ga with
  | some v => bitAt s 0x880000 v ga
  | none => s.full.contains (ga / 8)

def setFull (s : State) (ga : Nat) (b : Bool) : State :=
  match areaOf s ga with
  | some v => setBitAt s 0x880000 v ga b
  | none => { s with full := if b then sadd (ga / 8) s.full else sdel (ga / 8) s.full }

def poisonAt (s : State) (ga : Nat) : Bool :=
  match areaOf s ga with
  | some v => bitAt s 0x980000 v ga
  | none => s.poison.contains (ga / 8)

def setPoison (s : State) (ga : Nat) (b : Bool) : State :=
  match areaOf s ga with
  | some v => setBitAt s 0x980000 v ga b
  | none => { s with poison := if b then sadd (ga / 8) s.poison else sdel (ga / 8) s.poison }

/-- A doubleword written whole loses its poison and an error not yet found (R146, R411). -/
def overwritten (s : State) (dw : Nat) : State :=
  let t := setPoison s (8 * dw) false
  { t with latent := sdel dw t.latent, soft := sdel dw t.soft }

/-- Perform a store: write the bytes (R146, R411). -/
def writeCells (s : State) (key : BitVec 512) (cells : List Host.Cell) : State :=
  let s1 := cells.foldl (fun s c => writeByte s key c.1 c.2) s
  let dws := (cells.map fun c => c.1 / 8).dedup.filter (wholeDword cells)
  dws.foldl overwritten s1

/-- Store consecutive bytes. -/
def writeBytes (s : State) (key : BitVec 512) (ga : Nat) (bs : List Byte) : State :=
  let s1 := (cellsAt ga bs).foldl (fun s c => writeByte s key c.1 c.2) s
  (upFrom ((ga + 7) / 8) ((ga + bs.length) / 8 - (ga + 7) / 8)).foldl overwritten s1

/-- Number read from n bytes, without a key. -/
def readNat (s : State) (ga n : Nat) : Nat := leNat (readBytes s 0 ga n)
def writeNat (s : State) (ga n v : Nat) : State := writeBytes s 0 ga (leBytes v n)

/-! ### Host memory and events -/

def hostWrite (s : State) (a : Nat) (bs : List Byte) : State :=
  { s with host := (cellsAt a bs).foldl (fun h c => tset 0 h c.1 c.2) s.host }
def hostRead (s : State) (a n : Nat) : List Byte := (upFrom a n).map (tget 0 s.host)

/-- Source of an event (R398): die, cluster, unit, kind. -/
structure Source where
  die : Nat := 0
  cluster : Nat := 0
  unit : Nat := 0
  kind : Nat
  deriving DecidableEq, Repr

def Source.word (m : Nat) (r : Source) : Nat := m + r.die * 2 ^ 16 + r.cluster * 2 ^ 20 + r.unit * 2 ^ 27 + r.kind * 2 ^ 36

/-- EVENT_POST: write an event record to the module's ring, or drop it and count it; SEQ advances either way (R398). -/
def postEvent (s : State) (m : Nat) (r : Source) (type data0 data1 : Nat) : State :=
  let md := getMod s m
  let key := r.word m
  let seq := tget 0 md.seqs key
  let s1 := modMod s m fun md => { md with seqs := tset 0 md.seqs key (seq + 1) }
  let size := 2 ^ bitsOf md.evqCfg.toNat 0 4
  if md.evqCfg.getLsbD 63 && decide ((md.evqTail - md.evqHead).toNat < size) then
    let a := md.evqBase.toNat / 32 * 32 + 32 * (md.evqTail.toNat % size)
    let s2 := hostWrite s1 a (leBytes key 8 ++ leBytes (seq.toNat + type * 2 ^ 32) 8 ++ leBytes data0 8 ++ leBytes data1 8)
    modMod s2 m fun md => { md with evqTail := md.evqTail + 1, msix := md.msix ++ [64] }
  else modMod s1 m fun md => { md with evLost := if md.evLost = BitVec.allOnes 32 then md.evLost else md.evLost + 1 }

/-- The source of a core, of a cluster, of a unit of a die (R398). -/
def srcCore (g : Nat) : Source := { die := g / 8192 % 16, cluster := g / 64 % 128, unit := g % 64, kind := 0 }
def srcCluster (q : Nat) : Source := { die := q / 128 % 16, cluster := q % 128, kind := 1 }
def srcDie (d kind : Nat) : Source := { die := d % 16, kind := kind }

/-- The event source of the memory that holds an address. -/
def srcMem (ga : Nat) : Source :=
  match region ga with
  | .hbm d _ => srcDie d 6
  | .frame d _ => srcDie d 5
  | .spad q _ => srcCluster q
  | .tcm c _ => srcCore c
  | _ => { kind := 9 }

/-- The die of an address, for telemetry. -/
def dieOfGa (ga : Nat) : Nat :=
  match region ga with
  | .hbm d _ | .frame d _ | .dieWin d _ => d
  | .spad q _ => q / 128
  | .tcm c _ => c / 8192
  | _ => moduleOf ga * 16

/-- Raise a saturating counter held in a field. -/
def fbump {n : Nat} (f : Fld) (x : BitVec n) : BitVec n :=
  if fget f x + 1 < 2 ^ f.len then fput f x (fget f x + 1) else x

/-- An uncorrectable error, or a corrected one, is counted on its die (R411, R415). -/
def countUe (s : State) (d : Nat) : State := modDie s d fun x => { x with dtel0 := fbump ⟨32, 32⟩ x.dtel0 }
def countCe (s : State) (d : Nat) : State := modDie s d fun x => { x with dtel0 := fbump ⟨0, 32⟩ x.dtel0 }

/-- A correctable error of a data doubleword is corrected and counted (R411). -/
def correct (s : State) (dw : Nat) : State :=
  if s.soft.contains dw then countCe { s with soft := sdel dw s.soft } (dieOfGa (8 * dw)) else s

/-- UNCORRECTABLE_ERROR of a data doubleword (R411): it becomes poisoned, the error is counted and one event is posted; `by_` is 0 for
the patrol scrubber and 1 for an access. -/
def findError (s : State) (dw by_ : Nat) : State :=
  if s.latent.contains dw then
    let ga := 8 * dw
    let s1 := setPoison { s with latent := sdel dw s.latent } ga true
    postEvent (countUe s1 (dieOfGa ga)) (moduleOf ga) (srcMem ga) 0x10 (paOf ga) by_
  else s

/-- An address lies in an SRAM that the patrol scrubber covers (R412). -/
def scrubbed (ga : Nat) : Bool :=
  match region ga with
  | .tcm _ _ | .spad _ _ | .frame _ _ => true
  | _ => false

/-- The doublewords of n bytes from an address. -/
def dwords (ga n : Nat) : List Nat := upFrom (ga / 8) ((ga + n - 1) / 8 + 1 - ga / 8)

/-- An access reads these doublewords: errors not yet found are found, and correctable ones corrected (R411) (DESIGN CHOICE, notes/assumptions 114). -/
def findErrors (s : State) (ga n : Nat) : State := (dwords ga n).foldl (fun s dw => findError (correct s dw) dw 1) s

/-- A block of memory is read whole: the errors of its doublewords are found, as an access finds them (R411) (DESIGN CHOICE, notes/assumptions 114). -/
def findWhere (s : State) (p : Nat → Bool) : State :=
  ((s.soft ++ s.latent).filter fun dw => p (8 * dw)).foldl (fun s dw => findError (correct s dw) dw 1) s

/-- A doubleword holds one of n bytes from an address. -/
def within (a n ga : Nat) : Bool := decide (a / 8 * 8 ≤ ga) && decide (ga < a + n)

/-- The lowest poisoned doubleword of an access, if any (R146). -/
def poisoned (s : State) (ga n : Nat) : Option Nat := ((dwords ga n).find? fun dw => poisonAt s (8 * dw)).map (8 * ·)

/-- The state frame that an address lies in is used: its age stamp is renewed (R285). -/
def touchFrame (s : State) (ga : Nat) : State :=
  match region ga with
  | .frame d off =>
    match (getDie s d).frames.find? fun e => fget F.frKind e.2 == 1 && fget F.frLoc e.2 == 0 && fget F.frPlace e.2 == off / 2 ^ 18 with
    | some e => modDie s d fun x => { x with age := tset 0 x.age e.1 (s.now / 1024) }
    | none => s
  | _ => s

end Sys2Proof.Machine
end

