-- ==== Sys2Proof/Machine/Ops.lean ====
section
/-!
DEFINITION. The operations every instruction shares: registers and ports, messages and what is outstanding, context switching, stopping a core,
taking an exception and returning from one, and the issue of an instruction with its checks in the order of R27.
-/
namespace Sys2Proof.Machine

/-- What an instruction's effect comes to: the state it leaves, a trap that performs nothing, or a stall in which the context
stays RUNNING and the instruction is evaluated again (R126). -/
inductive Eff
  | done (s : State)
  | trap (code : Nat) (val : Word)
  | stall
  deriving DecidableEq, Repr

/-! ### Trap causes (R45) -/
def causeILL : Nat := 0x01
def causeILLPFX : Nat := 0x02
def causeEXT : Nat := 0x03
def causePRIV : Nat := 0x04
def causeALIGN : Nat := 0x05
def causeXLAT : Nat := 0x06
def causePROT : Nat := 0x07
def causeFETCH : Nat := 0x08
def causeECC : Nat := 0x09
def causePOISON : Nat := 0x0A
def causeMAC : Nat := 0x0B
def causeDEP : Nat := 0x0C
def causeOOM : Nat := 0x0D
def causeFUT : Nat := 0x0E
def causePORT : Nat := 0x0F
def causeHREGS : Nat := 0x10
def causeSTREAM : Nat := 0x11
def causeQUEUE : Nat := 0x12
def causeMIG : Nat := 0x13
def causeSWTRAP : Nat := 0x20
def causeBREAK : Nat := 0x21

/-! ### Ports (R30, R42, R131) -/

/-- Cores that outbound port p of a core delivers to; none where the wiring is off (R42). -/
def portOut (s : State) (g p : Nat) : Option (List Nat) :=
  let q := clusterOf g
  let map := (getCore s g).portmap
  if roleOf g < 3 then
    let t := triadOf g
    let r := roleOf g
    match p, fget (if p = 0 then F.p0 else F.p1) map with
    | 0, 1 => some [coreAt q t ((r + 1) % 3)]
    | 0, 2 => some [coreAt q ((t + 1) % 16) r]
    | 1, 1 => some [coreAt q t ((r + 2) % 3)]
    | 1, 2 => some [coreAt q ((t + 15) % 16) r]
    | 1, 3 => some [kcoreAt q (t / 4)]
    | _, _ => none
  else
    let k := indexOf g - 48
    match p, fget (if p = 0 then F.p0 else F.p1) map with
    | 0, 1 => some [kcoreAt q ((k + 1) % 4)]
    | 1, 3 => some (((upFrom 0 12).filter fun b => fget F.fansel map / 2 ^ b % 2 == 1).map fun b => coreAt q (4 * k + b / 3) (b % 3))
    | _, _ => none

/-- Cores that inbound port p of a core accepts words from (R42). -/
def portIn (s : State) (g p : Nat) : Option (List Nat) :=
  let q := clusterOf g
  let map := (getCore s g).portmap
  if roleOf g < 3 then
    let t := triadOf g
    let r := roleOf g
    match p, fget (if p = 0 then F.p0 else F.p1) map with
    | 0, 1 => some [coreAt q t ((r + 2) % 3)]
    | 0, 2 => some [coreAt q ((t + 15) % 16) r]
    | 1, 1 => some [coreAt q t ((r + 1) % 3)]
    | 1, 2 => some [coreAt q ((t + 1) % 16) r]
    | 1, 3 => some [kcoreAt q (t / 4)]
    | _, _ => none
  else
    let k := indexOf g - 48
    match p, fget (if p = 0 then F.p0 else F.p1) map with
    | 0, 1 => some [kcoreAt q ((k + 3) % 4)]
    | 1, 3 => some (((upFrom 0 12).filter fun b => fget F.fansel map / 2 ^ b % 2 == 1).map fun b => coreAt q (4 * k + b / 3) (b % 3))
    | _, _ => none

def portQueue (c : Core) (p : Nat) : List Word := if p = 0 then c.port0 else c.port1
def setPortQueue (c : Core) (p : Nat) (l : List Word) : Core := if p = 0 then { c with port0 := l } else { c with port1 := l }

/-- Words deposited in this clock (R30). -/
def deposits (c : Core) (p : Nat) : List (Nat × Word) := if p = 0 then c.deposit0 else c.deposit1
def setDeposits (c : Core) (p : Nat) (l : List (Nat × Word)) : Core := if p = 0 then { c with deposit0 := l } else { c with deposit1 := l }

/-- The words deposited in a clock as they join their queue: in ascending order of the senders' core index, a sender's own in the order pushed (R42). -/
def inSenderOrder (l : List (Nat × Word)) : List Word :=
  (upFrom 0 64).flatMap fun i => (l.filter fun e => indexOf e.1 == i).map Prod.snd

/-- A core's port queues with the words deposited in the clock behind the others (R30, R42). -/
def takeDeposits (c : Core) : Core :=
  { c with port0 := c.port0 ++ inSenderOrder c.deposit0, deposit0 := [], port1 := c.port1 ++ inSenderOrder c.deposit1, deposit1 := [] }

/-- Words that a port queue holds, with those in the save record that hardware has written of its core (R30, R274). -/
def portFill (s : State) (d p : Nat) : Nat :=
  let fill (c : Core) : Nat := (portQueue c p).length + (deposits c p).length
  fill (getCore s d) + fill (tget {} s.records d)

/-- Every destination names the sender and has room (R42). -/
def canPush (s : State) (g p : Nat) : Bool :=
  ((portOut s g p).getD []).all fun d => ((portIn s d p).getD []).contains g && decide (portFill s d p < 8)

/-- A word is deposited: it is readable from the next clock (R30). -/
def pushPort (s : State) (g p : Nat) (w : Word) : State :=
  ((portOut s g p).getD []).foldl (fun s d => modCore s d fun c => setDeposits c p (deposits c p ++ [(g, w)])) s

def popPort (s : State) (g p : Nat) : State := modCore s g fun c => setPortQueue c p ((portQueue c p).drop 1)

/-- Port mode is on for the context: x24–x27 of the base context (R30). -/
def portMode (s : State) (g k : Nat) : Bool := k == 0 && fget F.en (getCore s g).porten == 1

/-! ### Uncorrectable errors of structures (R411) -/

/-- The locator of a structure of a core (DEDUCED, notes/assumptions 113). -/
def locator (kind g idx : Nat) : Word :=
  BitVec.ofNat 64 (2 ^ 63 + kind * 2 ^ 56 + g / 8192 % 16 * 2 ^ 52 + g / 64 % 128 * 2 ^ 45 + g % 64 * 2 ^ 39 + idx)

/-- The structure of a module has an uncorrectable error. -/
def isBad (s : State) (m : Nat) (loc : Word) : Bool := s.ue.contains (m, loc)

/-- A register of a context is written, so that its parity is good again. -/
def rewritten (s : State) (m : Nat) (loc : Word) : State := { s with ue := s.ue.filter fun e => e != (m, loc) }

/-- A scalar register of a slot. -/
def regLocator (g k : Nat) (r : Reg) : Word := locator 1 g (32 * k + r.toNat)

/-- Entries leave the head of a command queue: an error of one behind them moves up with it (R411) (DEDUCED, notes/assumptions 113). -/
def queueShift (s : State) (kind g n : Nat) : State :=
  { s with ue := s.ue.filterMap fun e =>
      if e.1 = modOf g ∧ bitsOf e.2.toNat 39 24 = bitsOf (locator kind g 0).toNat 39 24 then
        let i := bitsOf e.2.toNat 0 39
        if i < n then none else some (e.1, locator kind g (i - n))
      else some e }

/-! ### Frame-table entries and their errors (R58, R288) -/

def getFrame (s : State) (d fid : Nat) : Word := tget 0 (getDie s d).frames fid
def setFrame (s : State) (d fid : Nat) (e : Word) : State := modDie s d fun x => { x with frames := tset 0 x.frames fid e }
def frGet (s : State) (d fid : Nat) (f : Fld) : Nat := fget f (getFrame s d fid)
def frPut (s : State) (d fid : Nat) (f : Fld) (v : Nat) : State := setFrame s d fid (fput f (getFrame s d fid) v)
def quarantined (s : State) (d fid : Nat) : Bool := frGet s d fid F.frQ == 1

/-- Locators of stream metadata (R411). -/
def dieLocator (kind d idx : Nat) : Word := BitVec.ofNat 64 (2 ^ 63 + kind * 2 ^ 56 + d % 16 * 2 ^ 52 + idx)
/-- The first copy of a frame-table entry's KIND and PLACE fails; the second has failed too where the index 65,536 higher is listed (R288)
(DESIGN CHOICE, notes/assumptions 143). -/
def hurtFrame (s : State) (d fid : Nat) : Bool := isBad s (d / 16) (dieLocator 7 d fid)
def badFrame (s : State) (d fid : Nat) : Bool := hurtFrame s d fid && isBad s (d / 16) (dieLocator 7 d (fid + 65536))

/-- An uncorrectable error in a frame-table entry: the frame is quarantined; with a second copy that stands its entry is good again (R288). -/
def quarantine (s : State) (d fid : Nat) : State :=
  let s1 := frPut (frPut (frPut s d fid F.frQ 1) d fid F.frCnt 65535) d fid F.frPins 0
  let s2 := countUe (modDie s1 d fun x => { x with dtel1 := fbump ⟨32, 16⟩ x.dtel1 }) d
  let s3 := if badFrame s d fid then s2 else rewritten s2 (d / 16) (dieLocator 7 d fid)
  postEvent s3 (d / 16) (srcDie d 5) 0x13 (d % 16) fid

/-- An entry that a step or the Spillway reads: an error in it quarantines the frame, also where both copies have failed; one of a frame that is
quarantined already is only mended (R288). -/
def mendFrame (s : State) (d fid : Nat) : State :=
  if !hurtFrame s d fid then s
  else if !quarantined s d fid then quarantine s d fid
  else if badFrame s d fid then s
  else rewritten s (d / 16) (dieLocator 7 d fid)

/-- The error of a structure of module m is reported when it first raises ECC_UE for core g: counted on its die and posted once. An entry of a command
queue is gone with its queue; a frame-table entry whose copies have both failed quarantines its frame (R288, R411, R415). -/
def reportError (s : State) (m g code : Nat) (val : Word) : State :=
  if code = causeECC ∧ val.getLsbD 63 ∧ isBad s m val ∧ !s.ueFound.contains (m, val) then
    let kind := bitsOf val.toNat 56 7
    if kind = 7 then mendFrame s (m * 16 + bitsOf val.toNat 52 4) (bitsOf val.toNat 0 39)
    else
    let s1 := if kind = 4 ∨ kind = 5 then rewritten s m val else { s with ueFound := s.ueFound ++ [(m, val)] }
    postEvent (countUe s1 (m * 16 + bitsOf val.toNat 52 4)) m (srcCore g) 0x11 val.toNat 0
  else s

/-! ### Registers (R29, R30) -/

/-- Value of a source register: the head of its inbound queue for a port register. -/
def readX (s : State) (g k : Nat) (r : Reg) : Word :=
  if portMode s g k && (r == 24 || r == 25) then (portQueue (getCore s g) (r.toNat - 24)).headD 0
  else tget 0 (getCtx s g k).x r.toNat

/-- Write a register as it stands. -/
def setX (s : State) (g k : Nat) (r : Reg) (v : Word) : State :=
  modCtx (rewritten s (modOf g) (regLocator g k r)) g k fun c => { c with x := tset 0 c.x r.toNat v }

/-- Write a destination register: a push for an outbound port register. -/
def writeX (s : State) (g k : Nat) (r : Reg) (v : Word) : State :=
  if portMode s g k && (r == 26 || r == 27) then pushPort s g (r.toNat - 26) v else setX s g k r v

def writeXs (s : State) (g k : Nat) (ws : List (Reg × Word)) : State := ws.foldl (fun s w => writeX s g k w.1 w.2) s

/-- The link register (R118). -/
def linkReg (k : Nat) : Reg := if k = 0 then 30 else 15

/-! ### Contexts (R125, R126) -/

/-- A context stands at a write for which a copy has been installed (R227, R297). -/
def owesWrite (s : State) (g k : Nat) : Bool :=
  s.dies.any fun e => e.2.work.any fun w => match w with | .granted _ a b pc => a == g && b == k && pc == (getCtx s g k).pc | _ => false

/-- A context may have the core: a core that is told to stop only finishes writes whose copies have come (R274). -/
def mayRun (s : State) (g k : Nat) : Bool := !(getCore s g).preempting || owesWrite s g k

/-- The first READY slot after the one that ran last, in the order 0, 1, …, 10, 0. -/
def nextReady (s : State) (g : Nat) : Option Nat :=
  ((upFrom 1 11).map fun i => ((getCore s g).slot + i) % 11).find? fun k => (getCtx s g k).mode == .ready && mayRun s g k

/-- A slot is RUNNING. -/
def busy (c : Core) : Bool := (tget {} c.ctx c.slot).mode == .running

/-- CONTEXT_SWITCH: an idle core runs the first READY slot (R126). -/
def settle (s : State) (g : Nat) : State :=
  let c := getCore s g
  if c.run && !busy c then
    match nextReady s g with
    | some k => modCore s g fun c => { c with slot := k, ctx := tput c.ctx k { tget {} c.ctx k with mode := .running } }
    | none => s
  else s

/-- A context leaves the core, which passes on where that context was RUNNING; a core that idles already runs what becomes READY only once the
clock has ended (R126). -/
def switchOut (s : State) (g k : Nat) (m : Mode) : State :=
  let t := modCtx s g k fun c => { c with mode := m }
  if (getCtx s g k).mode == .running then settle t g else t

/-- A context that waited becomes READY. An idle core runs, once the clock has ended, the first of the slots that became READY in it (R126). -/
def wake (s : State) (g k : Nat) : State := modCtx s g k fun c => { c with mode := .ready }

/-- Every context of a core whose mode passes a test becomes READY. -/
def wakeIf (s : State) (g : Nat) (p : Mode → Bool) : State :=
  (upFrom 0 11).foldl (fun s k => if p (getCtx s g k).mode then wake s g k else s) s

/-- Wake every waiting context of every core that passes a test. -/
def wakeAll (s : State) (p : Nat → Mode → Bool) : State :=
  s.cores.foldl (fun s e => wakeIf s e.1 (p e.1)) s

/-! ### Messages (R141, R142, R240) -/

/-- Key of the home of an address for the ordering of R240: a scratchpad bank is a home of its own. -/
def homeKey (ga : Nat) : Nat :=
  match region ga with
  | .hbm d _ => 16 * d
  | .frame d _ => 16 * d + 1
  | .spad q off => 16 * (q * 64 + off / 8 % 64) + 2
  | .tcm c _ => 16 * c + 3
  | .dieWin d _ => 16 * d + 4
  | .modWin m _ => 16 * m + 5
  | .hole => 15

/-- Send a message from a core. -/
def sendFrom (s : State) (src : Nat) (slots : List Nat) (cls : Nat) (route : Route) (home dst : Nat) (exch : Option (Nat × Nat))
    (body : Body) (key : Nat := 0) (acq : Bool := false) : State :=
  { s with
    net := s.net ++ [{ id := s.nextId, key := key, src := src, slots := slots, cls := cls, route := route, home := home, here := modOf src,
                       dst := dst, detour := none, exch := exch, listed := false, refused := false, acq := acq, branches := [], body := body }],
    nextId := s.nextId + 1 }

/-- Send a multicast from a module to the modules of its branches (R328). -/
def multicastFrom (s : State) (m home : Nat) (branches : List Nat) (exch : Option (Nat × Nat)) (body : Body) : State :=
  { s with
    net := s.net ++ [{ id := s.nextId, key := 0, src := m * 131072, slots := [], cls := 0, route := .ordered, home := home, here := m, dst := m,
                       detour := none, exch := exch, listed := false, refused := false, acq := false, branches := branches, body := body }],
    nextId := s.nextId + 1 }

def findMsg (s : State) (k : Nat) : Option Msg := s.net.find? fun m => m.id == k
def dropMsg (s : State) (k : Nat) : State := { s with net := s.net.filter fun m => m.id != k }
def setMsg (s : State) (m : Msg) : State := { s with net := s.net.map fun n => if n.id = m.id then m else n }

/-- A message sets out anew from a module to another with what it now carries. -/
def Msg.anew (m : Msg) (here dst : Nat) (body : Body) : Msg :=
  { m with here := here, dst := dst, body := body, detour := none, inPort := none, fallen := false, second := false }

/-- Traffic class and route of an access by its QUAL route (R142): deferred loads and atomics travel ordered in class 0. -/
def classOf : Route → Nat
  | .deferred => 0
  | _ => 1

def wireRoute : Route → Route
  | .adaptive => .adaptive
  | _ => .ordered

/-- Addresses that a message's access names, as (address, length). -/
def accessSpan : Body → Option (Nat × Nat)
  | .access op ga _ _ =>
    match op with
    | .load n => some (ga, n)
    | .store cells | .fillStore cells | .merged cells _ => some (ga, cells.length)
    | _ => some (ga, 8)
  | .ack ga _ _ => some (ga, 8)
  | _ => none

/-- The doublewords that bytes lie in. -/
def cellDwords (cells : List Host.Cell) : List Nat := (cells.map fun c => c.1 / 8).dedup

/-- Doublewords that a message's access names, or that the access it acknowledges wrote (R141). -/
def namedDwords : Body → List Nat
  | .access op ga _ _ =>
    match op with
    | .load n => dwords ga n
    | .store cells | .fillStore cells | .merged cells _ => cellDwords cells
    | _ => [ga / 8]
  | .ack _ dws _ => dws
  | _ => []

/-- The message is a store or reduction still to be performed, or its acknowledgement. -/
def isWrite : Body → Bool
  | .access op _ _ _ =>
    match op with
    | .store _ | .fillStore _ | .merged _ _ => true
    | .red _ _ => true
    | .rmw _ _ _ => true
    | .fe (.fill _) => true
    | .fe (.fwr _) => true
    | _ => false
  | .ack _ _ _ => true
  | _ => false

/-- The address lies in the state window (R55). -/
def inWindow (va : Word) : Bool := decide (0x7E0000000000 ≤ va.toNat) && decide (va.toNat < 0x7E0040000000)

/-- An address lies in the unit of a core at a scope: 0 its TCM, 1 its cluster, 2 its die, 3 its module, 4 everywhere
(R153). -/
def inScope (g scope ga : Nat) : Bool :=
  match scope, region ga with
  | 0, .tcm c _ => c == g
  | 0, _ => false
  | 1, .tcm c _ => c / 64 == g / 64
  | 1, .spad q _ => q == g / 64
  | 1, _ => false
  | 2, .tcm c _ => c / 8192 == g / 8192
  | 2, .spad q _ => q / 128 == g / 8192
  | 2, .hbm d _ | 2, .frame d _ => d == g / 8192
  | 2, _ => false
  | 3, _ => moduleOf ga == modOf g
  | _, _ => true

/-- Writes of a context that are not yet performed and acknowledged, other than held and deferred ones, within a scope
(R143, R153). -/
def writesOut (s : State) (g k scope : Nat) : Bool :=
  s.net.any fun m => m.src == g && m.slots.contains k && isWrite m.body && m.exch.isNone
    && ((accessSpan m.body).any fun a => inScope g scope a.1)

/-- Held stores of any context of a core within a scope (R144). -/
def heldIn (s : State) (g scope : Nat) : Bool := (getCore s g).comb.any fun e => inScope g scope e.line

/-! ### The combining buffer leaving (R144) -/

/-- The home of a byte of an entry: a quadword that one `stp` wrote has one home, that of its first doubleword (R147) (DEDUCED, notes/assumptions 151). -/
def partHome (e : Comb) (ga : Nat) : Nat := homeKey (if e.quads.contains (ga / 16) then ga / 16 * 16 else ga)

/-- The bytes of an entry that have one home: a line of a scratchpad lies in eight banks (R5, R240). -/
def homeParts (e : Comb) : List (List Host.Cell) :=
  ((e.bytes.map fun b => partHome e b.1).dedup).map fun h => e.bytes.filter fun b => partHome e b.1 == h

/-- Part of an entry leaves as one message to its home. -/
def sendPart (s : State) (g : Nat) (e : Comb) (cells : List Host.Cell) : State :=
  let ga := (cells.headD (e.line, 0)).1
  sendFrom s g e.slots 1 (if e.adaptive then .adaptive else .ordered) (homeKey ga) (moduleOf e.line) none
    (.access (.merged cells (e.whole.filter fun dw => (cellDwords cells).contains dw)) ga (e.va + BitVec.ofNat 64 (ga - e.line)) { strm := e.strm }) e.key

/-- The oldest entry leaves: one store message to each home of its bytes. -/
def flushOldest (s : State) (g : Nat) : State :=
  match (getCore s g).comb with
  | [] => s
  | e :: rest => (homeParts e).foldl (fun s cells => sendPart s g e cells) (modCore s g fun c => { c with comb := rest })

def flushN (s : State) (g : Nat) : Nat → State
  | 0 => s
  | n + 1 => flushN (flushOldest s g) g n

/-- Entries leave in allocation order until none that passes the test is held. -/
def flushWhile (s : State) (g : Nat) (p : Comb → Bool) : State :=
  let l := (getCore s g).comb
  flushN s g (l.length - (l.reverse.takeWhile fun e => !p e).length)

def flushScope (s : State) (g scope : Nat) : State := flushWhile s g fun e => inScope g scope e.line
def flushAll (s : State) (g : Nat) : State := flushN s g (getCore s g).comb.length

/-- A release at a scope before the effect (R143, R153): held stores leave, and the context stalls until every earlier write
in the unit has been acknowledged. -/
def releaseThen (s : State) (g k scope : Nat) (next : State → Eff) : Eff :=
  if heldIn s g scope then .done (flushScope s g scope)
  else if writesOut s g k scope then .stall
  else next s

/-! ### Superstep groups (R43, R156, R157, R314, R316) -/

/-- Key of the group of a core at a level, where it is a member: level, unit and group identity, and below fabric level the launch, since
such a group consists of cores of one launch (R43, R314) (DEDUCED, notes/assumptions 105). -/
def groupKeyOf (c : Core) (g level : Nat) : Option Nat :=
  let part := c.dommem.toNat / 2 ^ (16 * level) % 65536
  let launch := match c.launch with | some q => q + 1 | none => 0
  let unit := match level with
    | 0 => launch * 2 ^ 21 + clusterOf g
    | 1 => launch * 2 ^ 21 + dieOf g
    | 2 => launch * 2 ^ 21 + modOf g
    | _ => 0
  if part / 32768 = 1 then some ((unit * 32768 + part % 32768) * 4 + level) else none

def groupKey (s : State) (g level : Nat) : Option Nat := groupKeyOf (getCore s g) g level

def getGroup (s : State) (key : Nat) : Group := tget {} s.groups key
def modGroup (s : State) (key : Nat) (f : Group → Group) : State := { s with groups := tput s.groups key (f (getGroup s key)) }

/-- An entry that an exchange does not send: it was made after the core's own arrival for it (R157) (DEDUCED, notes/assumptions 128). -/
def heldFor (exch : Option (Nat × Nat)) (e : XEnt) : Bool := exch.any fun x => e.hold.getLsbD (x.1 % 4)

/-- Every entry of an exchange buffer is sent, in issue order, in class 0 on the ordered route; entries that a core made after its arrival
are held for the next exchange (R145, R157). -/
def sendExchange (s : State) (g : Nat) (exch : Option (Nat × Nat)) (cls : Nat) : State :=
  ((getCore s g).xbuf.filter fun e => !heldFor exch e).foldl
    (fun s e => sendFrom s g [e.slot] cls .ordered (homeKey e.ga) (moduleOf e.ga) exch (.access e.op e.ga e.va { strm := e.strm }) e.key)
    (modCore s g fun c => { c with
      xbuf := (c.xbuf.filter (heldFor exch)).map fun e => { e with hold := e.hold &&& ~~~BitVec.ofNat 4 (2 ^ ((exch.getD (0, 0)).1 % 4)) } })

/-- A member of a fabric group whose core is saved with its launch away (R273). -/
def memberAway (s : State) (key g : Nat) : Bool :=
  key % 4 == 3 && s.saves.any fun v => v.cores.any fun r => r.1 == g && groupKeyOf r.2 g 3 == some key

/-- A member that has arrived and is pre-empted: its core is saved, or no longer belongs to the group (R273, R316). -/
def awayFrom (s : State) (key g : Nat) : Bool := (getCore s g).saved || groupKey s g (key % 4) != some key || memberAway s key g

/-- The home module of a fabric group by its key (R43). -/
def groupHome (key : Nat) : Nat := key / 4 / 32

/-- EXCHANGE_BEGIN: with the last arrival every member's buffer sends its entries (R157): below fabric level at once, at fabric level as the
completion that the home multicasts reaches the members' modules (R328). A group whose count is not yet set, and one with a pre-empted member,
waits (R314, R316). -/
def beginIfFull (s : State) (key : Nat) : State :=
  let grp := getGroup s key
  if !grp.arrived.isEmpty && decide (0 < grp.count) && decide (grp.count ≤ grp.arrived.length + grp.gone.length)
      && !grp.arrived.any (awayFrom s key) then
    let s1 := modGroup s key fun x => { x with arrived := [], epoch := x.epoch + 1 }
    if key % 4 < 3 then grp.arrived.foldl (fun s g => sendExchange s g (some (key, grp.epoch)) 0) s1
    else
      let home := groupHome key
      multicastFrom s1 home (16 * home + 5) ((grp.arrived.map modOf).dedup) (some (key, grp.epoch)) (.exchangeBegin key grp.epoch)
  else s

/-- A member's arrival at the exchange of its group at a level: below fabric level it counts at once (DEDUCED, notes/assumptions 29), at fabric
level it travels to the group's home module in class 0 (R43, R157). -/
def arriveExchange (s : State) (g level : Nat) : State :=
  match groupKey s g level with
  | some key =>
    let s1 := modCore s g fun c => { c with phaseAt := tput c.phaseAt level (getGroup s key).epoch }
    if level < 3 then beginIfFull (modGroup s1 key fun x => { x with arrived := x.arrived ++ [g] }) key
    else sendFrom s1 g [] 0 .ordered (16 * groupHome key + 5) (groupHome key) (some (key, (getGroup s key).epoch)) (.exchange key)
  | none => s

/-- The message is a core's arrival at a fabric exchange, on its way. -/
def isArrival (g : Nat) (m : Msg) : Bool := m.src == g && match m.body with | .exchange _ => true | _ => false

/-- A core that stops counts as having arrived at every exchange of its groups from now on; its arrival under way is counted with it, once
(R316). -/
def leaveGroups (s0 : State) (g : Nat) : State :=
  let s := { s0 with net := s0.net.filter fun m => !isArrival g m }
  (upFrom 0 4).foldl (fun s level =>
    match groupKey s g level with
    | some key =>
      beginIfFull (modGroup s key fun x => { x with arrived := x.arrived.filter (· != g), gone := sadd g x.gone }) key
    | none => s) s

/-- A core that starts again takes part in the exchanges of its groups again (R136, R316). -/
def joinGroups (s : State) (g : Nat) : State :=
  (upFrom 0 4).foldl (fun s level =>
    match groupKey s g level with
    | some key => if (getGroup s key).gone.contains g then modGroup s key fun x => { x with gone := x.gone.filter (· != g) } else s
    | none => s) s

/-! ### Stopping a core (R137, R159, R316) -/

/-- A migrant's result performed on a save record. -/
def recordResult (c : Core) (ok : Nat) (v : Word) : Core :=
  let h := tget {} c.ctx ok
  if h.mode = .waiting .away then
    let ctx := tput c.ctx ok { h with mode := .ended, result := v }
    { c with ctx := ctx.map fun e => (e.1, if e.2.mode = .blockedJoin ok then { e.2 with mode := .ready } else e.2) }
  else c

/-- A save holds a core of the launch of a queue. -/
def savedOf (x : SavedCluster) (o : Nat) (queue : Option Nat) : Bool :=
  x.cluster == clusterOf o && x.owned.any fun p => p.1 == o && queue.all fun q => p.2 == q

/-- A migrant's result performed on the saved copy of its origin core (R275). -/
def savedResult (x : SavedCluster) (o ok : Nat) (queue : Option Nat) (v : Word) : SavedCluster :=
  if savedOf x o queue then { x with cores := x.cores.map fun e => (e.1, if e.1 = o then recordResult e.2 ok v else e.2) } else x

/-- The origin slot of a migrant of a launch stands live in its core: no other launch has taken the core, and its record is not written. -/
def originHere (s : State) (o ok : Nat) (queue : Option Nat) : Bool :=
  (getCtx s o ok).mode == .waiting .away && (queue.isNone || (getCore s o).launch == queue)

/-- A migrant's result reaches the records and copies of its origin core (R275). -/
def resultAway (s : State) (o ok : Nat) (queue : Option Nat) (v : Word) : State :=
  { s with
    saves := s.saves.map fun x => savedResult x o ok queue v
    records := s.records.map fun e => (e.1, if e.1 = o then recordResult e.2 ok v else e.2) }

/-- A migrant that is discarded leaves its origin slot ENDED with result 0, where the slot is live and where its core has been saved, and an event is
posted (R159, R275). -/
def discardMigrant (s : State) (g k : Nat) : State :=
  match (getCtx s g k).kind with
  | .migrant o ok _ q =>
    let s1 := postEvent s (modOf g) (srcCore g) 0x50 o ok
    if originHere s1 o ok q then wakeIf (modCtx s1 o ok fun c => { c with mode := .ended, result := 0 }) o fun m => m == .blockedJoin ok
    else resultAway s1 o ok q 0
  | _ => s

/-- The message is the record of a task that waits on a future (R237). -/
def isFutureWaiter (m : Msg) : Bool :=
  m.listed && match m.body with | .access (.fe .frd) _ _ _ => true | _ => false

/-- The core stops: nothing more issues, its contexts run no task any more, helper and drain slots become FREE, the vector queue, matrix queue, credits and drain
are discarded, its listed requests and waits are withdrawn, but for the tasks that it has recorded at futures (R237), and its groups count it as arrived (R137, R149, R208,
R316) (DEDUCED, notes/assumptions 37), but not one that stops in its save routine (DEDUCED, notes/assumptions 177). A sweep of it that runs goes on for no context: slot 16 is none (R343). -/
def stopCore (s : State) (g : Nat) : State :=
  let s1 := (upFrom 1 10).foldl (fun s k => if (getCtx s g k).mode == .free then s else discardMigrant s g k) s
  let s2 := modCore s1 g fun c =>
    { c with
      run := false, preempting := false
      ctx := (upFrom 1 10).foldl (fun t k => tput t k { tget {} t k with mode := .free, kind := .helper, task := none, held := none })
        (tput c.ctx 0 { tget {} c.ctx 0 with mode := .free, kind := .base, task := none, held := none })
      ev := c.ev || (c.saved && c.evNext), evNext := false
      vq := [], vpos := 0, capture := [], runLeft := none, vjob := none, flight := 0, credit := 0, vfault := none, cmds := [], ringsLost := [], work := none, credits := 0, drain := none
      mfault := none }
  let s3 := modCluster s2 (clusterOf g) fun q =>
    { q with taskWait := q.taskWait.filter fun w => w.1 != g, mapOps := (q.mapOps.filter fun o => o.core != g || o.running).map fun o => if o.core = g then { o with slot := 16 } else o }
  let s4 := { s3 with
    net := s3.net.filter fun m => !(m.src == g && (m.listed || m.refused) && !isFutureWaiter m)
    surplus := s3.surplus.filter fun x => x.core != g }
  let s5 := sendExchange s4 g none 1
  if (getCore s g).saved then s5 else leaveGroups s5 g

/-! ### Taking an exception and returning from it (R28, R133, R134, R236, R410) -/

/-- Global address of a TCB (R60): the table lies at a local scratchpad address of the cluster. -/
def tcbGa (s : State) (q idx : Nat) : Nat := gaSpad q ((getCluster s q).tcbBase - 0x100000 + 64 * idx)

/-- Read and write fields of a TCB as a 512-bit number (R60). -/
def tcbGet (s : State) (q idx : Nat) (f : Fld) : Nat := readNat s (tcbGa s q idx) 64 / 2 ^ f.lo % 2 ^ f.len
def tcbPut (s : State) (q idx : Nat) (f : Fld) (v : Nat) : State :=
  let x : BitVec 512 := BitVec.ofNat 512 (readNat s (tcbGa s q idx) 64)
  let y := fput f x v
  let lo := f.lo / 8
  let n := (f.lo + f.len + 7) / 8 - lo
  writeNat s (tcbGa s q idx + lo) n (y.toNat / 2 ^ (8 * lo))

/-- A trap at firmware level halts the core and posts an event; the trap registers stay. LAUNCH_ABANDON: the save record of a core that halts
in its save routine is no record (R28, R410). -/
def haltCore (s : State) (g k code : Nat) (val : Word) : State :=
  let pc := (getCtx s g k).pc
  let s1 := if (getCore s g).saved then { s with records := tdel s.records g } else s
  postEvent (stopCore s1 g) (modOf g) (srcCore g) 0x70 (2 ^ 63 + pc.toNat * 2 ^ 16 + k * 256 + code) val.toNat

/-- TAKE_TRAP (R133): the saved registers are written, the level is raised, the pc goes to the entry of the cause. The task of the context
becomes FAULTED unless the entry is for pre-emption (R236). At firmware level the core then halts instead (DEDUCED, notes/assumptions 9). -/
def enterTrap (s : State) (g k code : Nat) (val : Word) (pre : Bool) : State :=
  let x := getCtx s g k
  let s1 := match x.task with
    | some (q, idx) =>
      if pre then s
      else tcbPut (tcbPut (tcbPut s q idx F.tcbStatus 5) q idx F.tcbFcause code) q idx F.tcbFpc x.pc.toNat
    | none => s
  if fget F.lvl x.priv = 1 then haltCore s1 g k code val
  else
    modCtx s1 g k fun x =>
      { x with
        trapPc := x.pc.zeroExtend 64
        trapCause := fput F.tcPre (fput F.tcCode 0 code) (if pre then 1 else 0)
        trapVal := val
        priv := fput F.lvl (fput F.plvl x.priv (fget F.lvl x.priv)) 1
        pc := BitVec.ofNat 16 (64 * fget F.tvBase (getCore s g).trapvec + 32 * code)
        task := if pre then x.task else none
        begunSaved := pre && x.begun
        begun := false }

/-- The context still owns queued vector instructions (R165). -/
def ownsQueue (s : State) (g k : Nat) : Bool := (getCore s g).vq.any fun e => e.slot == k

/-- Take a trap: it waits until the context's vector queue has retired (R165), and a pending matrix fault of the base context is
taken in place of any other trap (R197) (DEDUCED, notes/assumptions 39, 107). -/
def takeTrap (s : State) (g k code : Nat) (val : Word) : State :=
  if ownsQueue s g k then s
  else
    match if k = 0 then (getCore s g).mfault else none with
    | some (c, v) => enterTrap (modCore s g fun x => { x with mfault := none }) g k c v false
    | none => enterTrap s g k code val false

/-- Take a trap that the context itself has met: the error of a structure of module m is reported with it (R411). -/
def raiseTrap (s : State) (m g k code : Nat) (val : Word) : State :=
  takeTrap (if ownsQueue s g k || (k == 0 && (getCore s g).mfault.isSome) then s else reportError s m g code val) g k code val

/-- Return from an exception (R134): to the saved pc, at the saved level. -/
def returnTrap (s : State) (g k : Nat) : State :=
  modCtx s g k fun x =>
    { x with
      pc := x.trapPc.setWidth 16
      priv := fput F.plvl (fput F.lvl x.priv (fget F.plvl x.priv)) 0
      begun := fget F.tcPre x.trapCause == 1 && x.begunSaved
      begunSaved := false }

/-! ### Which forms a context decodes (R37, R93) and may execute (R26) -/

/-- Column D of R98 and R99. -/
def drainForm (page op : Nat) : Bool :=
  match page with
  | 3 => (decide (1 ≤ op) && decide (op ≤ 26)) && !([3, 4, 23, 24, 25].contains op)
  | 4 => (decide (1 ≤ op) && decide (op ≤ 8)) && op != 4
  | _ => false

/-- The context decodes a major opcode (R93). -/
def decodesOp (role : Nat) (drain : Bool) (page op : Nat) : Bool :=
  (opFmt page op).isSome &&
    match page with
    | 0 | 1 | 2 => true
    | 3 => role == 1 || role == 3 || (role == 2 && drain && drainForm 3 op)
    | 4 => role == 1 || (role == 2 && drain && drainForm 4 op)
    | 5 => if op ≤ 12 then role == 2 else role == 3
    | 6 => role == 0
    | 7 | 8 => role == 3
    | _ => false

/-- The context decodes a page when it decodes one of its major opcodes. -/
def decodesPage (role : Nat) (drain : Bool) (page : Nat) : Bool := (upFrom 1 30).any (decodesOp role drain page)

/-- CSRs of context scope (R35). -/
def contextCsr (n : Nat) : Bool := [0x000, 0x006, 0x011, 0x021, 0x022, 0x023, 0x031].contains n

/-- The use is permitted in a context of this kind (R26) (DEDUCED, notes/assumptions 31, 136). -/
def permitted (kind : Kind) (i : Instr) : Bool :=
  let page := (i.shape.map Shape.page).getD 0
  match kind with
  | .base =>
    match i with
    | .hend _ _ | .mig _ _ _ | .dret _ _ _ _ => false
    | _ => true
  | _ =>
    let drain := kind == .drain
    match i with
    | .sphX _ _ | .sphC _ _ | .hstart _ _ _ _ | .hjoin _ _ _ => false
    | .hend _ _ => !drain
    | .csrw _ _ n | .csrs _ _ n | .csrc _ _ n => contextCsr n
    | .dret _ _ _ _ => drain
    | .cenq _ _ _ _ | .cenqNb _ _ _ _ | .cdeq _ _ _ _ | .cdone _ _ _ | .cocc _ _ _ => false
    | _ => if page = 3 ∨ page = 4 then drain else decide (page ≠ 5 ∧ page ≠ 6 ∧ page ≠ 7)

/-- x operands of a form in field order, a pair as both registers (R29). -/
def Opd.xNums : Opd → List Reg
  | .x r => [r]
  | .xEven r => [r, r + 1]
  | _ => []

/-- The register that HELPER_REGS names: the first of x16 to x31 in the order of the fields d, a and b (R29, R45) (DESIGN CHOICE, notes/assumptions 167). -/
def highReg (i : Instr) : Option Reg :=
  (i.shape.map fun h => (Opd.xNums h.d ++ Opd.xNums h.a ++ Opd.xNums h.b)).bind fun l => l.find? fun r => decide (16 ≤ r.toNat)

/-- Firmware-only forms (R97). -/
def privileged : Instr → Bool
  | .eret _ | .cstart _ _ _ _ | .cstop _ _ _ => true
  | _ => false

/-- TRAPVAL of an ILL that a well-chained form raises in execution: its first word, a PAGE prefix or for page 0 the word that the
chain begins with (R45). -/
def firstWord (i : Instr) : Word := (((encode i).getD []).headD 0).zeroExtend 64

/-! ### Issue and retirement -/

/-- The ports that a form reads or writes are wired (R30): the first that is not, port 0 before port 1 (DESIGN CHOICE, notes/assumptions 167). -/
def unmappedPort (s : State) (g : Nat) (i : Instr) : Option Nat :=
  (upFrom 0 2).find? fun p =>
    (i.xReads.contains (BitVec.ofNat 5 (24 + p)) && (portIn s g p).isNone)
      || (i.xWrites.contains (BitVec.ofNat 5 (26 + p)) && (portOut s g p).isNone)

/-- Every popped queue holds a word and every pushed queue has room (R131). An instruction whose result arrives later is held to the room at
issue too (DEDUCED, notes/assumptions 138). -/
def portsReady (s : State) (g : Nat) (i : Instr) : Bool :=
  (upFrom 0 2).all fun p =>
    (!i.xReads.contains (BitVec.ofNat 5 (24 + p)) || !(portQueue (getCore s g) p).isEmpty)
      && (!i.xWrites.contains (BitVec.ofNat 5 (26 + p)) || canPush s g p)

/-- The x register a queued vector instruction writes at retirement (R163). -/
def vqDest : Instr → Option Reg
  | .vredsum _ _ _ d _ | .vredmax _ _ _ d _ | .vredmin _ _ _ d _ | .vargmax _ _ _ d _ => some d
  | .vmskTox _ d _ => some d
  | _ => none

/-- Vector memory forms (R164). -/
def isVmem : Instr → Bool
  | .vld _ _ _ _ | .vst _ _ _ _ | .vldx _ _ _ _ _ | .vstx _ _ _ _ _ => true
  | _ => false

/-- Registers that a form writes beside its destination: the link of `jal`, and the arguments that `tnext` loads (R118, R236). -/
def alsoWrites (k : Nat) : Instr → List Reg
  | .jal _ _ => [linkReg k]
  | .tnext _ _ _ => [0, 1, 2, 3]
  | _ => []

/-- Forms of other pages that read or write memory as they issue or at the head of their queue: the vector memory forms, those that read a
descriptor, a map or a table from the core's TCM, the attention forms and `dret` (R164, R188, R206, R214). -/
def readsMemory : Instr → Bool
  | .ld _ _ _ _ _ | .st _ _ _ _ _ | .dret _ _ _ _ | .abind _ _ _ _ | .await _ _ _ | .aret _ _ _ => true
  | .mop _ _ _ | .mring _ _ _ | .attn _ _ _ _ | .mremap _ _ _ | .xcfg _ _ _ => true
  | i => isVmem i

/-- The form accesses memory, or takes a step that a release or acquire orders (R143, R242). -/
def accessing (i : Instr) : Bool := (i.shape.any fun h => h.page == 1 || h.page == 7 || h.page == 8) || readsMemory i

/-- A reduction with an acquire side is not yet performed: the context issues no access (R143). -/
def acquiring (s : State) (g k : Nat) : Bool :=
  s.net.any fun m => m.acq && m.src == g && m.slots.contains k && (match m.body with | .access _ _ _ _ => true | _ => false)

/-- The context must wait: a queued vector instruction writes a register the form names, or is a memory form (R163, R164), or the form is
an access and a reduction with an acquire side is still to be performed (R143). -/
def scoreboard (s : State) (g k : Nat) (i : Instr) : Bool :=
  ((getCore s g).vq.any fun e => e.slot == k
    && (isVmem e.ins || (vqDest e.ins).any fun r => i.xReads.contains r || i.xWrites.contains r || (alsoWrites k i).contains r))
  || (accessing i && acquiring s g k)

/-- CSRs that user level cannot reach at all (R35). -/
def csrFirmware (n : Nat) : Bool := decide (0x020 ≤ n) && decide (n ≤ 0x023)

/-- TRAPVAL of PRIV at user level: of a firmware-only form 0, of an access to a firmware CSR its number (R27, R35, R45, R97). -/
def needsFirmware : Instr → Option Word
  | .csrr _ _ n | .csrw _ _ n | .csrs _ _ n | .csrc _ _ n => if csrFirmware n then some (BitVec.ofNat 64 n) else none
  | i => if privileged i then some 0 else none

/-- The checks of R27 after decoding, in order: EXT_ABSENT, ILL by R26, HELPER_REGS, PRIV. -/
def issueCheck (s : State) (g k : Nat) (i : Instr) : Option (Nat × Word) :=
  let x := getCtx s g k
  match i.shape with
  | none => none
  | some h =>
    if !decodesOp (roleOf g) (x.kind == .drain) h.page h.op then some (causeEXT, BitVec.ofNat 64 h.page)
    else if !permitted x.kind i then some (causeILL, firstWord i)
    else
      match if k = 0 then none else highReg i with
      | some r => some (causeHREGS, r.zeroExtend 64)
      | none => if fget F.lvl x.priv = 0 then (needsFirmware i).map fun v => (causePRIV, v) else none

/-- The core issues from its RUNNING context: it runs, is not told to stop or has a write to finish (R274), and its die is not gated in this clock
(R417). -/
def issuing (s : State) : Bool :=
  let c := getCore s s.cur
  c.run && mayRun s s.cur c.slot && busy c && !(getDie s (dieOf s.cur)).gated

/-- The first source register whose parity fails, also when the instruction is replayed (R411). -/
def badSource (s : State) (g k : Nat) (i : Instr) : Option Word :=
  ((i.xReads.filter fun r => !(portMode s g k && (r == 24 || r == 25))).map (regLocator g k)).find? (isBad s (modOf g))

/-- A pending error of the vector unit that this context takes (R165, R411): between instructions, so not while a run under `vrep` is being
captured (R179). -/
def pendingVector (s : State) (g k : Nat) : Option Word :=
  if (getCore s g).runLeft.isNone then ((getCore s g).vfault.filter fun f => f.1 == k).map Prod.snd else none

/-- Issue an instruction of the running context of the current core: the checks of R27, the port rules of R131, the waits of R163 and R164,
then its own effect. Where the core issues nothing, nothing happens. -/
def issue (i : Instr) (s : State) (body : State → Nat → Nat → Eff) : State :=
  let g := s.cur
  let k := (getCore s g).slot
  if !issuing s then s
  else match pendingVector s g k with
  | some v => if ownsQueue s g k then s else raiseTrap (modCore s g fun c => { c with vfault := none }) (modOf g) g k causeECC v
  | none =>
    match issueCheck s g k i with
    | some (code, val) => takeTrap s g k code val
    | none =>
      match if portMode s g k then unmappedPort s g i else none with
      | some p => takeTrap s g k causePORT (BitVec.ofNat 64 p)
      | none =>
        if portMode s g k && !portsReady s g i then s
        else if scoreboard s g k i then s
        else
          match (badSource s g k i).elim (body s g k) fun v => .trap causeECC v with
          | .done t => t
          | .trap code val => raiseTrap s (modOf g) g k code val
          | .stall => s

/-- Next (R118). -/
def nextPc (s : State) (g k : Nat) (i : Instr) : Code := (getCtx s g k).pc + BitVec.ofNat 16 (2 * i.len)

/-- Inbound port queues that an instruction pops (R131). -/
def popList (s : State) (g k : Nat) (i : Instr) : List Nat :=
  if portMode s g k then (upFrom 0 2).filter fun p => i.xReads.contains (BitVec.ofNat 5 (24 + p)) else []

/-- Retire: pops and writes take effect together, INSTRET rises, the pc moves (R46, R131). -/
def retireTo (s : State) (g k : Nat) (i : Instr) (ws : List (Reg × Word)) (pc : Code) : State :=
  let s1 := (popList s g k i).foldl (fun s p => popPort s g p) s
  let s2 := writeXs s1 g k ws
  modCtx s2 g k fun x => { x with pc := pc, instret := x.instret + 1, begun := false }

/-- Retire at Next (DEDUCED, notes/assumptions 12). -/
def retire (s : State) (g k : Nat) (i : Instr) (ws : List (Reg × Word)) : Eff := .done (retireTo s g k i ws (nextPc s g k i))

/-- A reply arrives: it writes its registers, INSTRET rises, the pc moves to Next and the context becomes READY. -/
def completeWait (s : State) (g k : Nat) (pops : List Nat) (ws : List (Reg × Word)) (next : Code) : State :=
  let s1 := writeXs (pops.foldl (fun s p => popPort s g p) s) g k ws
  wake (modCtx s1 g k fun x => { x with pc := next, instret := x.instret + 1, begun := false }) g k

end Sys2Proof.Machine
end

