-- ==== Sys2Proof/Machine/Operands.lean ====
section
/-!
DEFINITION. Operand forms: immediates and addresses, branch targets, qualifiers, and lanes, masks and packed elements of vector registers.
-/
namespace Sys2Proof.Machine

/-- A signed number as a 64-bit word. -/
def wordOfInt (v : Int) : Word := BitVec.ofInt 64 v

/-- Effective address: base plus the field times its scale (R67, R122). -/
def effAddr (base : Word) (imm : Int) (scale : Nat) : Word := base + wordOfInt (imm * scale)

/-- Target of a control transfer: P + 2 × displacement (R68). -/
def target (pc : Code) (disp : Int) : Code := pc + BitVec.ofInt 16 (2 * disp)

/-- A register target: bits [15:1] × 2 (R124). -/
def regTarget (v : Word) : Code := v.setWidth 16 &&& 0xFFFE

/-- Order qualifier: acquire and release sides (R72). -/
def Pfx.acq (p : Pfx) : Bool := p.qual.any fun q => q.order.getLsbD 0
def Pfx.rel (p : Pfx) : Bool := p.qual.any fun q => q.order.getLsbD 1
/-- Order field is none (R72). -/
def Pfx.noOrder (p : Pfx) : Bool := !acq p && !rel p

def Pfx.sat (p : Pfx) : Bool := p.qual.any Qual.sat
def Pfx.nf (p : Pfx) : Bool := p.qual.any Qual.nf

/-- Rounding field: 6, dynamic, without a QUAL prefix (R72). -/
def Pfx.rnd (p : Pfx) : Nat := match p.qual with | some q => q.rounding.toNat | none => 6

/-- Route code 00, 01, 10 as a route (R72). -/
def routeOfCode : Nat → Route
  | 1 => .adaptive
  | 2 => .deferred
  | _ => .ordered

/-- Route: the QUAL field when there is a QUAL prefix, else the page's (R72). -/
def Pfx.route (p : Pfx) (page : Nat) : Route :=
  match p.qual with
  | some q => routeOfCode q.route.toNat
  | none => routeOfCode page

/-- Sign- and zero-extension of the low w bits (R118). -/
def sext (v : Word) (w : Nat) : Word := (v.setWidth w).signExtend 64
def zext (v : Word) (w : Nat) : Word := (v.setWidth w).zeroExtend 64

/-! ### Vector registers (R31, R32) -/

/-- Lane i of a register. -/
def laneOf (v : VReg) (i : Nat) : Lane := v.extractLsb' (32 * i) 32

/-- A register from 64 lanes. -/
def vregOf (f : Nat → Lane) : VReg := (upFrom 0 64).foldl (fun acc i => acc ||| ((f i).setWidth 2048 <<< (32 * i))) 0

/-- A register from a list of lanes; a missing lane is zero. -/
def vregOfList (l : List Lane) : VReg := vregOf fun i => l.getD i 0

/-- Element i of width w bits in a register (R31). -/
def elemOf (v : VReg) (w i : Nat) : Nat := v.toNat / 2 ^ (w * i) % 2 ^ w

/-- A vector register of a core. -/
def readV (s : State) (g : Nat) (r : Reg) : VReg := tget 0 (getCore s g).v r.toNat
def writeV (s : State) (g : Nat) (r : Reg) (v : VReg) : State := modCore s g fun c => { c with v := tset 0 c.v r.toNat v }

/-- A mask register of a core. -/
def readM (s : State) (g : Nat) (r : Nat) : Word := tget 0 (getCore s g).m r
def writeM (s : State) (g : Nat) (r : Reg) (v : Word) : State := modCore s g fun c => { c with m := tset 0 c.m r.toNat v }

/-- Active lanes under a minor code: 00 every lane, else m1–m3 (R91). -/
def active (s : State) (g : Nat) (mk : BitVec 2) (i : Nat) : Bool := mk == 0 || (readM s g mk.toNat).getLsbD i

end Sys2Proof.Machine
end

