-- ==== Sys2Proof/Machine/Fabric.lean ====
section
/-!
DEFINITION. The fabric: coordinates, ports, routes and detours, undeliverable messages, and the order that messages keep (R318–R328, R240, R141).
-/
namespace Sys2Proof.Machine

/-! ### Shape of the domain (R318) -/

/-- Lengths of X, Y, A, B by FABCFG. -/
def fabDims (cfg : Word) : List Nat := [bitsOf cfg.toNat 22 5 + 1, bitsOf cfg.toNat 17 5 + 1, bitsOf cfg.toNat 15 2 + 1, bitsOf cfg.toNat 13 2 + 1]

def dimsOf (s : State) (m : Nat) : List Nat := fabDims (getMod s m).fabcfg

def dimSize (dims : List Nat) : Nat := dims.foldl (· * ·) 1

/-- A module identity lies in the domain of a module (R318, R324). -/
def inDomain (s : State) (m t : Nat) : Bool := decide (t < dimSize (dimsOf s m))

/-- Coordinate of a module on a dimension. -/
def coordOf (dims : List Nat) (m d : Nat) : Nat := m / dimSize (dims.take d) % dims.getD d 1

/-- The module next to one through a port: p = 2d for +, 2d + 1 for − (R319). X and Y wrap, A and B do not. -/
def neighbour (dims : List Nat) (m p : Nat) : Option Nat :=
  let d := p / 2
  let n := dims.getD d 1
  let c := coordOf dims m d
  let unit := dimSize (dims.take d)
  let at_ (c' : Nat) : Nat := m - c * unit + c' * unit
  if n = 1 then none
  else if d < 2 then some (at_ (if p % 2 = 0 then (c + 1) % n else (c + n - 1) % n))
  else if p % 2 = 0 then (if c + 1 < n then some (at_ (c + 1)) else none)
  else if 0 < c then some (at_ (c - 1)) else none

def portUp (s : State) (m p : Nat) : Bool := (getMod s m).linkstat.getLsbD (8 * p)
def portEn (s : State) (m p : Nat) : Bool := (getMod s m).linkstat.getLsbD (8 * p + 1)

/-- Die that a port is wired to (R319). -/
def portDie (p : Nat) : Nat := [3, 0, 15, 12, 7, 4, 11, 8].getD p 0

def powered (s : State) (m : Nat) : Bool := (getMod s m).power != .off

/-- What a part of a module does happens only with main power: without it no part runs, counts or holds state (R400). -/
def whilePowered (s : State) (m : Nat) (t : State) : State := if powered s m then t else s

/-! ### Links (R319, R320) -/

/-- A port can be trained: it and the port at its other end are calibrated and enabled, and both modules hold one FABCFG. -/
def canTrain (s : State) (m p : Nat) : Bool :=
  let dims := dimsOf s m
  match neighbour dims m p with
  | some n =>
    decide (m < dimSize dims) && decide (n < dimSize dims) && powered s m && powered s n
      && (getMod s m).rdyPort.getLsbD p && (getMod s n).rdyPort.getLsbD (p ^^^ 1)
      && portEn s m p && portEn s n (p ^^^ 1) && (getMod s m).fabcfg == (getMod s n).fabcfg
  | none => false

/-- Set UP of a port, counting a fall in DOWNS and posting the change (R319, R415). -/
def setUp (s : State) (m p : Nat) (up : Bool) : State :=
  if portUp s m p = up then s
  else
    let s1 := modMod s m fun x =>
      { x with
        linkstat := if up then x.linkstat ||| BitVec.ofNat 64 (2 ^ (8 * p)) else x.linkstat &&& ~~~BitVec.ofNat 64 (2 ^ (8 * p))
        ptel := if up then x.ptel else tset 0 x.ptel p (fbump ⟨48, 16⟩ (tget 0 x.ptel p)) }
    postEvent s1 m { die := portDie p, unit := p, kind := 7 } 0x30 p up.toNat

/-- Modules of the line through a module on a dimension, by coordinate (R331). -/
def lineOfMods (s : State) (m dim : Nat) : List Nat :=
  let dims := dimsOf s m
  let unit := dimSize (dims.take dim)
  (upFrom 0 (dims.getD dim 1)).map fun c => m - coordOf dims m dim * unit + c * unit

/-- Change the valid arrival entry of a die that a slot of a ring is bound to (R209, R210). -/
def mirrorSlot (s : State) (d r j : Nat) (f : BitVec 256 → BitVec 256) : State :=
  modDie s d fun x =>
    { x with arrival := x.arrival.map fun e =>
        (e.1, if fget F.arV e.2 = 1 ∧ fget F.arRing e.2 = r ∧ fget F.arSlot e.2 = j then f e.2 else e.2) }

/-- The entry of a die that a slot of a ring is bound to. -/
def entryOf (x : Die) (r j : Nat) : Option Nat :=
  (x.arrival.find? fun e => fget F.arV e.2 == 1 && fget F.arRing e.2 == r && fget F.arSlot e.2 == j).map Prod.fst

/-- Contexts of a die that wait for an arrival entry become READY (R212). -/
def wakePeal (s : State) (d e : Nat) : State := wakeAll s fun g m => dieOf g == d && m == .waiting (.peal e)

/-- A slot's block ends with a word, as every copy that is not released shows (R209, R336, R337). -/
def endBlock (s : State) (m r j : Nat) (eobw : Word) : State :=
  let x := tget {} (getMod s m).ringsOf r
  let s1 := modMod s m fun y =>
    { y with ringsOf := tput y.ringsOf r { x with blocks := tput x.blocks j ((tget (0, none) x.blocks j).1, some eobw) } }
  ((x.frames.filter fun f => f.2.1 == j && !x.released.contains (f.1, j)).map Prod.fst).foldl (fun s d =>
    let s2 := mirrorSlot s d r j fun e => fput F.arEobw (fput F.arEob e 1) eobw.toNat
    match entryOf (getDie s2 d) r j with
    | some e => wakePeal s2 d e
    | none => s2) s1

/-- A ring becomes FAULTED at a member (R337): forwards are discarded, and each copy whose block has not fully arrived ends with the word of
all ones (DEDUCED, notes/assumptions 85). Contexts that wait for a forward of theirs go on. -/
def faultRing1 (s : State) (m r : Nat) : State :=
  let x := tget {} (getMod s m).ringsOf r
  let s1 := modMod s m fun y =>
    { y with ringsOf := tput y.ringsOf r { x with desc := fput F.prState x.desc 3, forwards := [], reading := none } }
  let s2 := { s1 with net := s1.net.filter fun n => !(n.dst == m && match n.body with | .block i _ _ _ _ _ => i == r | _ => false) }
  let s3 := (x.blocks.filter fun b => b.2.2.isNone).foldl (fun s b => endBlock s m r b.1 (BitVec.allOnes 64)) s2
  let stopped := (x.reading.toList ++ x.forwards.map (·.slot)).filterMap fun j => entryOf (getDie s3 (m * 16 + fget F.prFdie x.desc)) r j
  let s4 := stopped.foldl (fun s e => wakePeal s (m * 16 + fget F.prFdie x.desc) e) s3
  postEvent s4 m { unit := r, kind := 8 } 0x42 (getMod s4 m).pealStat.toNat r

/-- A link of a line is down: every ring set up on the line becomes FAULTED at every member (R337). -/
def faultRings (s : State) (m p : Nat) : State :=
  (lineOfMods s m (p / 2)).foldl (fun s x => (upFrom 0 16).foldl (fun s r =>
    let desc := (tget {} (getMod s x).ringsOf r).desc
    if (fget F.prState desc = 1 ∨ fget F.prState desc = 2) ∧ fget F.prDim desc = p / 2 then faultRing1 s x r else s) s) s

/-- PORT_UP_CHANGE: a port trains or falls as the lanes behind it stand (R319, R337) (DESIGN CHOICE, notes/assumptions 40). -/
def portUpChange (s : State) (m p : Nat) (lanes : Bool) : State :=
  if 8 ≤ p then s
  else
    let up := lanes && canTrain s m p
    let s1 := setUp s m p up
    if up then s1 else faultRings s1 m p

def execPortUpChange (s : State) : Host.Outcome State Fault Refusal := .next (portUpChange s s.argA s.argB (s.argV.getLsbD 0))

/-- FLIT_REPLAY: a flit fails its CRC and is sent again from its sender's copy; only telemetry shows it (R320, R415). -/
def execFlitReplay (s : State) : Host.Outcome State Fault Refusal :=
  .next (whilePowered s s.argA (if s.argB < 8 then
      modMod s s.argA fun x => { x with ptel := tset 0 x.ptel s.argB (fbump ⟨0, 48⟩ (tget 0 x.ptel s.argB)) }
    else s))

/-! ### Routes (R321–R323) -/

/-- Dimensions still to be corrected, in the order of the route: a detour dimension comes last (R321, R322). -/
def routeOrder (detour : Option Nat) : List Nat :=
  match detour with
  | some e => (upFrom 0 4).filter (· != e) ++ [e]
  | none => upFrom 0 4

/-- First dimension of the route on which the message is not yet where it goes. -/
def openDim (dims : List Nat) (c t : Nat) (detour : Option Nat) : Option Nat :=
  (routeOrder detour).find? fun d => coordOf dims c d != coordOf dims t d

/-- Port of the ordered route on a dimension (R321): the shorter way round a torus, ties to +. -/
def orderedPort (dims : List Nat) (c t d : Nat) : Nat :=
  let n := dims.getD d 1
  let a := coordOf dims c d
  let b := coordOf dims t d
  if d < 2 then
    let dist := (b + n - a) % n
    if dist ≤ n - dist then 2 * d else 2 * d + 1
  else if a < b then 2 * d else 2 * d + 1

/-- The detour port for a hop blocked in dimension d, and its dimension (R322). -/
def detourPort (dims : List Nat) (c d : Nat) : Nat × Nat :=
  let e := if d = 2 ∨ dims.getD 2 1 = 1 then 3 else 2
  (if coordOf dims c e + 1 < dims.getD e 1 then 2 * e else 2 * e + 1, e)

/-- Productive ports of an adaptive message (R323). -/
def productive (dims : List Nat) (c t : Nat) (detour : Option Nat) : List Nat :=
  (routeOrder detour).flatMap fun d =>
    let n := dims.getD d 1
    let dist := (coordOf dims t d + n - coordOf dims c d) % n
    if dist = 0 then []
    else if d < 2 then (if 2 * dist ≤ n then [2 * d] else []) ++ (if n ≤ 2 * dist then [2 * d + 1] else [])
    else [orderedPort dims c t d]

/-- Messages of a class that stand in the buffer behind a port of a switch: at the module next to it, entered by the port's other end. -/
def bufferUse (s : State) (here p cls : Nat) : Nat :=
  match neighbour (dimsOf s here) here p with
  | some n => (s.net.filter fun m => m.here == n && m.here != m.dst && m.inPort == some (p ^^^ 1) && m.cls == cls).length
  | none => 0

/-- The port with the most free buffer space in a class, ties to the lower number (R323): buffers are of one size, so it is the one behind which
the fewest messages stand (DEDUCED, notes/assumptions 146). -/
def freestPort (s : State) (here cls : Nat) (ports : List Nat) : Option Nat :=
  ports.foldl (fun best p =>
    match best with
    | none => some p
    | some q =>
      let a := bufferUse s here p cls
      let b := bufferUse s here q cls
      if a < b ∨ (a = b ∧ p < q) then some p else best) none

/-- Where a message goes next: a port, a module, and the detour it has then taken; none where it is undeliverable. An adaptive message with several open
dimensions makes its detour as the first of them on the ordered route has it (DEDUCED, notes/assumptions 146). -/
def nextHop (s : State) (here dst : Nat) (route : Route) (detour : Option Nat) (cls : Nat) : Option (Nat × Nat × Option Nat) :=
  let dims := dimsOf s here
  match openDim dims here dst detour with
  | none => none
  | some d =>
    let ports := match route with
      | .adaptive => (productive dims here dst detour).filter (portUp s here)
      | _ => [orderedPort dims here dst d].filter (portUp s here)
    match freestPort s here cls ports with
    | some p => (neighbour dims here p).map fun n => (p, n, detour)
    | none =>
      match detour with
      | some _ => none
      | none =>
        let pe := detourPort dims here d
        if portUp s here pe.1 then (neighbour dims here pe.1).map fun n => (pe.1, n, some pe.2) else none

/-- The ordered channel that a message takes on a hop: the second once it crosses from one end of a torus dimension to the other, the first again
on each new dimension (R326). -/
def channelAfter (dims : List Nat) (m : Msg) (p next : Nat) : Bool :=
  let d := p / 2
  let far := decide (d < 2) && (if p % 2 = 0 then decide (coordOf dims next d < coordOf dims m.here d) else decide (coordOf dims m.here d < coordOf dims next d))
  far || (m.second && m.inPort == some (p ^^^ 1))

/-- An ordered message of now would reach a module: its route and detour are up (R321, R322). -/
def deliverable (s : State) (here dst : Nat) (detour : Option Nat) : Nat → Bool
  | 0 => false
  | n + 1 =>
    if here = dst then true
    else match nextHop s here dst .ordered detour 0 with
      | some (_, h, e) => deliverable s h dst e n
      | none => false

def canReach (s : State) (m t : Nat) : Bool := m == t || deliverable s m t none 80

/-! ### Undeliverable messages (R324) -/

/-- The source context of a waiting request is to trap, once its vector queue has retired (R165): the request comes back as a refusal
(DEDUCED, notes/assumptions 18). -/
def failWaiting (s : State) (m : Msg) (code : Nat) (val : Word) (dest : Dest) : State :=
  setMsg s { m.anew (modOf m.src) (modOf m.src) (.reply [] (some (code, val)) dest) with route := .ordered, listed := false, refused := false }

/-- A migration packet is lost or refused: the helper resumes at its origin and traps (R160, R324). -/
def migrationFails (s : State) (o ok : Nat) (va : Word) : State :=
  if (getCtx s o ok).mode = .waiting .away then takeTrap (wake s o ok) o ok causeMIG va else s

/-- The slot number under which the messages of a transfer channel travel. -/
def chanTag (ch : Nat) : Nat := 64 + ch

def modChan (s : State) (g ch : Nat) (f : Chan → Chan) : State :=
  modCore s g fun c => { c with chans := tput c.chans ch (f (tget {} c.chans ch)) }

/-- The target core and register of a binding (R223). -/
def bindTarget (g : Nat) (xa : Word) : Nat × Nat := (coreAt (clusterOf g) (triadOf g) (if xa.getLsbD 12 then 2 else 1), 12 + bitsOf xa.toNat 8 2)

def isBinding (x : XCmd) : Bool := match x.kind with | .bindIn | .bindOut => true | _ => false

/-- A binding in force ends: the register holds the last strip delivered, or for an outbound one its present content (R33, R223). -/
def unbind (s : State) (g ch : Nat) (x : XCmd) : State :=
  let (t, r) := bindTarget g x.xa
  modCore s t fun c =>
    match tget none c.feeds r with
    | some f =>
      if f.xcore = g ∧ f.chan = ch then
        { c with
          feeds := tdel c.feeds r
          v := if f.inbound then tset 0 c.v r (f.strips.getLastD (tget 0 c.v r)) else c.v }
      else c
    | none => c

/-- XFER_FAULT: the command at the head of a channel faults, and it and every command behind it are poisoned (R219) (DEDUCED, notes/assumptions 57). After `xcancel` has poisoned an identifier, FREC
keeps what it holds, and W stays at the faulted one (DEDUCED, notes/assumptions 165). -/
def chanFault (s : State) (g ch code bytes : Nat) : State :=
  match (tget {} (getCore s g).chans ch).queue with
  | x :: _ =>
    let s1 := if isBinding x && x.begun then unbind s g ch x else s
    modChan s1 g ch fun c =>
      { c with
        queue := []
        pid := c.pid.or (some x.id)
        frec := if c.pid.isSome then c.frec else BitVec.ofNat 64 (code * 2 ^ 56 + bytes % 2 ^ 40) }
  | [] => s

/-- Accesses of a channel that are still under way. -/
def chanOut (s : State) (g ch : Nat) : Bool := s.net.any fun m => m.src == g && m.slots.contains (chanTag ch)

def setXHead (s : State) (g ch : Nat) (f : XCmd → XCmd) : State :=
  modChan s g ch fun c => { c with queue := c.queue.modify 0 f }

/-- The command at the head of a channel has met a fault after some bytes: it shows once every earlier byte has been performed; of two, the
earlier one counts (R219). -/
def failXfer (s : State) (g ch code bytes : Nat) : State :=
  if chanOut s g ch then
    setXHead s g ch fun x => { x with fault := match x.fault with | some (c, b) => if b ≤ bytes then some (c, b) else some (code, bytes) | none => some (code, bytes) }
  else chanFault s g ch code bytes

/-- What of an undeliverable request's reply says where it goes. -/
def destOf : Body → Dest
  | .access _ _ _ dest | .reply _ _ dest | .start _ _ dest | .stop _ dest _ | .stream _ _ _ _ dest => dest
  | _ => {}

/-- An engine write is lost in the fabric: its command faults at its first byte, and its later pieces that are still under way are not performed
(R219, R324) (DEDUCED, notes/assumptions 57). -/
def engineLost (s : State) (m : Msg) : State :=
  let ch := m.slots.headD 64 - 64
  let first := (destOf m.body).part.getD 0
  let later (n : Msg) : Bool :=
    n.src == m.src && n.slots == m.slots && decide (m.id < n.id) && match n.body with | .access _ _ _ d => decide (first < d.part.getD 0) | _ => false
  failXfer { s with net := s.net.filter fun n => !later n } m.src ch causePOISON first

/-! ### Order (R240, R141) -/

/-- The message is still on its way to its home. -/
def isRequest (b : Body) : Bool :=
  match b with
  | .reply _ _ _ | .ack _ _ _ => false
  | _ => true

/-- A place that an access names: a doubleword of memory, or of the state window of a stream (R55). -/
abbrev DwPlace := Word × Nat

/-- The doublewords of memory that bytes from an address name, and those of a state window where they go through one (R55, R141). -/
def placesAt (strm : Word) (va ga : Nat) (dws : List Nat) : List DwPlace :=
  dws.map (fun dw => (0, dw)) ++ if strm = 0 then [] else dws.map fun dw => (strm, (va + 8 * dw - ga) / 8)

/-- The doublewords that a message's access names. -/
def placesOf (b : Body) : List DwPlace :=
  match b with
  | .access _ ga va dest => placesAt dest.strm va.toNat ga (namedDwords b)
  | _ => placesAt 0 0 0 (namedDwords b)

/-- The doublewords that a held entry has bytes of. -/
def combPlaces (e : Comb) : List DwPlace := placesAt e.strm e.va.toNat e.line (cellDwords e.bytes)

/-- Two messages name a doubleword in common. -/
def sameDword (a b : Body) : Bool := (placesOf a).any fun p => (placesOf b).contains p

/-- Homes that a message goes to: an access to a quadword reaches the homes of both its doublewords (R145, R147, R240). -/
def homesOf (m : Msg) : List Nat :=
  match m.body with
  | .access _ _ _ _ => m.home :: (namedDwords m.body).map fun dw => homeKey (8 * dw)
  | _ => [m.home]

/-- Two messages go to one home. -/
def sharesHome (a b : Msg) : Bool := (homesOf a).any fun h => (homesOf b).contains h

/-- An earlier message keeps its place before a later one: same core, home, class and the ordered route (R240), two pieces of one channel at one
home, whatever their route (R218, R246), two lanes of one vector access at one home (R169), or two accesses of one context to one doubleword (R141). Requests that are listed or refused hold no place. -/
def before_ (a b : Msg) : Bool :=
  decide (a.id < b.id) && a.src == b.src && isRequest a.body && !a.listed && !a.refused
    && ((sharesHome a b && a.cls == b.cls && a.route == .ordered && b.route == .ordered)
      || (a.home == b.home && a.cls == 2 && b.cls == 2 && a.slots == b.slots)
      || (a.home == b.home && a.cls != 2 && b.cls != 2 && (destOf a.body).part.isSome && (destOf a.body).part == (destOf b.body).part)
      || ((a.slots.any fun k => b.slots.contains k) && a.exch.isNone && b.exch.isNone && sameDword a.body b.body))

/-- The message carries ordinary stores (R144, R238). -/
def isStore : Body → Bool
  | .access op _ _ _ => match op with | .store _ | .merged _ _ => true | _ => false
  | _ => false

/-- A deferred entry waits for every ordinary store of its context to its doubleword, whatever their program order (R245): under way, or
still held in the combining buffer. -/
def deferredWaits (s : State) (m : Msg) : Bool :=
  m.exch.isSome && (isWrite m.body && isRequest m.body) &&
    ((s.net.any fun n => n.src == m.src && n.exch.isNone && isStore n.body && (n.slots.any fun k => m.slots.contains k) && sameDword n.body m.body)
      || (getCore s m.src).comb.any fun e =>
        (e.slots.any fun k => m.slots.contains k) && (combPlaces e).any fun p => (placesOf m.body).contains p)

/-- The message has arrived and nothing that keeps a place before it is still under way. -/
def mayPerform (s : State) (m : Msg) : Bool := m.here == m.dst && !(s.net.any fun n => before_ n m) && !deferredWaits s m

end Sys2Proof.Machine
end

