-- ==== Sys2Proof/Machine/Pages.lean ====
section
/-!
DEFINITION. State pages: SRAM frames, frame-table entries, table nodes and counts, the path of a page, and copying on a write (R57–R59, R227, R281–R289).
-/
namespace Sys2Proof.Machine

/-! ### Stream control blocks -/

def getScb (s : State) (d i : Nat) : BitVec 2048 := tget 0 (getDie s d).scb i
def setScb (s : State) (d i : Nat) (b : BitVec 2048) : State := modDie s d fun x => { x with scb := tset 0 x.scb i b }
def scbGet (s : State) (d i : Nat) (f : Fld) : Nat := fget f (getScb s d i)
def scbPut (s : State) (d i : Nat) (f : Fld) (v : Nat) : State := setScb s d i (fput f (getScb s d i) v)

/-- STATE codes (R57). -/
def ssFREE : Nat := 0
def ssREADY : Nat := 1
def ssBOUND : Nat := 2
def ssWAITING : Nat := 3
def ssDONE : Nat := 4
def ssMOVED : Nat := 5
def ssPRUNED : Nat := 6

def scbSid (s : State) (d i : Nat) : Word := BitVec.ofNat 64 (scbGet s d i F.scSid)

/-- Die and index that a SID names (R56). -/
def sidDie (sid : Word) : Nat := fget F.sidMod sid * 16 + fget F.sidDie sid
def sidIdx (sid : Word) : Nat := fget F.sidIdx sid

/-! ### Frame table (R58) -/

def frameBusy (s : State) (d fid : Nat) : Bool := frGet s d fid F.frBusy == 1

/-- SRAM frames of the pool (R282). -/
def poolFrames : Nat := 6144

/-- An SRAM frame holds a data frame, nodes, a Peal slot, or receives a fetch-back. -/
def sramUsed (x : Die) (f : Nat) : Bool :=
  (x.frames.any fun e =>
    match fget F.frKind e.2 with
    | 2 => fget F.frPlace e.2 / 512 == f
    | 0 => false
    | _ => fget F.frLoc e.2 == 0 && fget F.frPlace e.2 == f)
  || x.work.any fun w => match w with | .fetch _ t => t == f | _ => false

/-- Free and zeroed SRAM frames. -/
def freeFrames (x : Die) : Nat := ((upFrom 0 poolFrames).filter fun f => !sramUsed x f).length
def zeroedFrame (x : Die) (f : Nat) : Bool := !sramUsed x f && !x.zeroing.contains f

/-- One of the numbers below n that pass a test: which one is the hardware's choice. -/
def pick (s : State) (n : Nat) (p : Nat → Bool) : Option (Nat × State) :=
  let (v, s1) := draw s
  ((upFrom 0 n).find? fun i => p ((v + i) % n)).map fun i => ((v + i) % n, s1)

/-- A frame-table entry that is free and not quarantined. -/
def freeFid (x : Die) (fid : Nat) : Bool :=
  let e := tget 0 x.frames fid
  fget F.frKind e == 0 && fget F.frQ e == 0

/-- A data frame can be evicted (R285). -/
def evictable (e : Word) : Bool :=
  fget F.frKind e == 1 && fget F.frLoc e == 0 && fget F.frPins e == 0 && fget F.frBusy e == 0 && fget F.frQ e == 0

/-- An SRAM frame could be made free by an eviction: some frame can be evicted and the area has a free HBM frame (R287). -/
def canEvict (x : Die) : Bool :=
  (x.frames.any fun e => evictable e.2) && decide (x.spillUsed.length < fget ⟨0, 16⟩ x.spCount)

/-- An SRAM frame is being made free by an eviction under way. -/
def evictingNow (x : Die) : Bool := x.work.any fun w => match w with | .evict _ _ => true | _ => false

/-- What taking SRAM space comes to. -/
inductive Room
  | ok
  | wait (w : Wait)
  | oom
  deriving DecidableEq, Repr

/-- A place of the pool's node frames holds a node. -/
def nodeSlotUsed (x : Die) (place : Nat) : Bool := x.frames.any fun e => fget F.frKind e.2 == 2 && fget F.frPlace e.2 == place

def nodeFrames (x : Die) : List Nat :=
  (x.frames.filterMap fun e => if fget F.frKind e.2 = 2 then some (fget F.frPlace e.2 / 512) else none).dedup

def freeNodeSlots (x : Die) : Nat :=
  512 * (nodeFrames x).length - (x.frames.filter fun e => fget F.frKind e.2 == 2).length

/-- SRAM frames that data frames and nodes need: node slots free in node frames serve nodes first (R282). -/
def framesFor (x : Die) (data nodes : Nat) : Nat := data + (nodes - freeNodeSlots x + 511) / 512

/-- Data frames and nodes needed: whether they can be had (R282, R287). Where all frame-table entries are in use nothing can, for a fetch-back too
(DEDUCED, notes/assumptions 172). -/
def room (x : Die) (d : Nat) (data nodes : Nat) : Room :=
  let need := framesFor x data nodes
  let fids := ((upFrom 0 65536).filter (freeFid x)).length
  if fids < data + nodes then .oom
  else if need ≤ ((upFrom 0 poolFrames).filter (zeroedFrame x)).length then .ok
  else if need ≤ freeFrames x then .wait (.zeroed d)
  else if canEvict x || evictingNow x then .wait (.zeroed d)
  else .oom

/-- Take a frame-table entry: KIND, PLACE and CNT as given. -/
def takeFid (s : State) (d kind place cnt busy : Nat) : Option (Nat × State) :=
  (pick s 65536 (freeFid (getDie s d))).map fun r =>
    (r.1, setFrame r.2 d r.1
      (fput F.frBusy (fput F.frPlace (fput F.frKind (fput F.frCnt (0 : Word) cnt) kind) place) busy))

/-- Take a zeroed data frame (R227). -/
def takeData (s : State) (d cnt busy : Nat) : Option (Nat × State) :=
  (pick s poolFrames (zeroedFrame (getDie s d))).bind fun r => takeFid r.2 d 1 r.1 cnt busy

/-- Global address of a node's entry, and of a byte of a data frame in SRAM. -/
def nodeGa (s : State) (d fid i : Nat) : Nat :=
  let p := frGet s d fid F.frPlace
  gaFrame d (p / 512 * 2 ^ 18 + p % 512 * 512 + 8 * i)
def frameGa (s : State) (d fid off : Nat) : Nat := gaFrame d (frGet s d fid F.frPlace * 2 ^ 18 + off)

/-- Where the contents of a data frame lie: in SRAM, or in the area of HBM (R284, R286). -/
def contentGa (s : State) (d fid off : Nat) : Nat :=
  if frGet s d fid F.frLoc = 0 then frameGa s d fid off
  else gaHbm d ((getDie s d).spBase.toNat % 2 ^ 36 + frGet s d fid F.frPlace * 2 ^ 18 + off)

/-- Entry of a node (R59). -/
def nodeEntry (s : State) (d fid i : Nat) : Word := BitVec.ofNat 64 (readNat s (nodeGa s d fid i) 8)
def setNodeEntry (s : State) (d fid i : Nat) (e : Word) : State := writeNat s (nodeGa s d fid i) 8 e.toNat

/-- A node of empty entries with CNT 1, in a free slot of a node frame, else in a new node frame (R282). -/
def takeNode (s : State) (d : Nat) : Option (Nat × State) :=
  let x := getDie s d
  let slot : Option (Nat × State) :=
    match (nodeFrames x).flatMap fun f => (upFrom (512 * f) 512).filter fun p => !nodeSlotUsed x p with
    | [] => (pick s poolFrames (zeroedFrame x)).map fun r => (512 * r.1, r.2)
    | l => let (v, s1) := draw s
           (l[v % l.length]?).map fun p => (p, s1)
  slot.bind fun r =>
    (takeFid r.2 d 2 r.1 1 0).map fun q =>
      (q.1, writeBytes q.2 0 (gaFrame d (r.1 / 512 * 2 ^ 18 + r.1 % 512 * 512)) (List.replicate 512 0))

/-! ### Counts (R58, R281, R288) -/

def badScb (s : State) (d i : Nat) : Bool := isBad s (d / 16) (dieLocator 6 d i)
/-- A table-node entry is in error: it is listed so, or its doubleword in the frame has an error, found or not (R289, R411). -/
def badEntry (s : State) (d fid i : Nat) : Bool :=
  isBad s (d / 16) (dieLocator 8 d (64 * fid + i)) || s.latent.contains (nodeGa s d fid i / 8) || s.poison.contains (nodeGa s d fid i / 8)

/-- An entry whose error a count change meets is quarantined; a quarantined one drops the change (R288, R298). -/
def changeCount (s : State) (d fid : Nat) (f : Nat → Nat) : State :=
  if quarantined s d fid then s
  else if hurtFrame s d fid then quarantine s d fid
  else frPut s d fid F.frCnt (f (frGet s d fid F.frCnt))

/-- One more reference; that of a BUSY frame is counted when its work ends (R224). -/
def countUp (s : State) (d fid : Nat) : State :=
  if frameBusy s d fid ∧ !quarantined s d fid then modDie s d fun x => { x with owed := x.owed ++ [fid] }
  else changeCount s d fid (· + 1)

/-- The references that a BUSY frame is owed are counted. -/
def payOwed (s : State) (d fid : Nat) : State :=
  let n := ((getDie s d).owed.filter (· == fid)).length
  changeCount (modDie s d fun x => { x with owed := x.owed.filter (· != fid) }) d fid (· + n)

/-- The frame can take one more reference (R58). -/
def canCount (s : State) (d fid : Nat) : Bool :=
  quarantined s d fid || decide (frGet s d fid F.frCnt + ((getDie s d).owed.filter (· == fid)).length < 65535)

/-- A frame returns to the pool: its entry becomes free and its SRAM frame is to be zeroed, or its HBM frame is free again. A node
frame returns with its last node (R282). -/
def freeFrame (s : State) (d fid : Nat) : State :=
  let e := getFrame s d fid
  let place := fget F.frPlace e
  let s1 := setFrame s d fid 0
  if fget F.frKind e = 2 then
    if (nodeFrames (getDie s1 d)).contains (place / 512) then s1
    else modDie s1 d fun x => { x with zeroing := sadd (place / 512) x.zeroing }
  else if fget F.frLoc e = 1 then modDie s1 d fun x => { x with spillUsed := sdel place x.spillUsed, age := tdel x.age fid }
  else modDie s1 d fun x => { x with zeroing := sadd place x.zeroing, age := tdel x.age fid }

/-- One reference less. A frame at 0 that is not BUSY is released; a BUSY one is released when its work ends (R224). -/
def countDown (s : State) (d fid : Nat) : State := changeCount s d fid (· - 1)

/-- A count change meets a table-node entry with an error: it is found and counted, an event is posted, and the child's count stays (R289, R411). -/
def entryError (s : State) (d fid i : Nat) : State :=
  let loc := dieLocator 8 d (64 * fid + i)
  let s1 := findErrors s (nodeGa s d fid i) 8
  let s2 := if isBad s (d / 16) loc && !s.ueFound.contains (d / 16, loc) then countUe { s1 with ueFound := s1.ueFound ++ [(d / 16, loc)] } d else s1
  postEvent s2 (d / 16) (srcDie d 5) 0x11 loc.toNat 0

/-- One frame of the count walk: it loses a reference; at 0 it passes one count off to each child of a node and is freed (R230). A
node entry with an uncorrectable error is left with its child's count unchanged (R289). -/
def walkFrame (s : State) (d fid : Nat) : State :=
  let s1 := countDown s d fid
  if frGet s1 d fid F.frCnt ≠ 0 ∨ quarantined s1 d fid then s1
  else if frGet s1 d fid F.frKind = 2 then
    let s2 := (upFrom 0 64).foldl (fun s i =>
      let e := nodeEntry s d fid i
      if fget F.teV e = 0 then s
      else if badEntry s d fid i then entryError s d fid i
      else modDie s d fun x => { x with walk := x.walk ++ [fget F.teFid e] }) s1
    freeFrame s2 d fid
  else freeFrame s1 d fid

/-- COUNT_WALK: the walk passes the first frame on its list that is not BUSY (R224, R230) (DEDUCED, notes/assumptions 69). -/
def walkStep (s : State) (d : Nat) : State :=
  let l := (getDie s d).walk
  match l.findIdx? fun fid => !frameBusy s d fid with
  | some i => walkFrame (modDie s d fun x => { x with walk := x.walk.eraseIdx i }) d (l.getD i 0)
  | none => s

/-- The walk goes on until only BUSY frames are left on its list. -/
def walkAll (s : State) (d : Nat) : Nat → State
  | 0 => s
  | n + 1 => if (getDie s d).walk.all (frameBusy s d) then s else walkAll (walkStep s d) d n

/-- Every frame that a walk could pass. -/
def walkOut (s : State) (d : Nat) : State := walkAll s d 400000

def execCountWalk (s : State) : Host.Outcome State Fault Refusal := .next (walkStep s s.argA)

/-- A reference is given back: the walk lowers the count of the frame, and of what hangs below it (R230). -/
def dropRef (s : State) (d fid : Nat) : State := modDie s d fun x => { x with walk := x.walk ++ [fid] }

/-! ### The path of a page (R55, R59) -/

/-- Root, leaf entry and frame of page p of the stream in SCB i, where they exist. -/
structure PagePath where
  die : Nat
  root : Nat
  leaf : Option Nat
  frame : Option Nat
  deriving DecidableEq, Repr

/-- A reference names frames of the die that the stream lives on: pages of a stream are always on its own die (R226, R294). -/
def pathOf (s : State) (d i p : Nat) : PagePath :=
  let rd := d / 16 * 16 + scbGet s d i F.scRdie
  let root := scbGet s d i F.scRfid
  let re := nodeEntry s rd root (p / 64)
  if fget F.teV re = 0 then { die := rd, root := root, leaf := none, frame := none }
  else
    let leaf := fget F.teFid re
    let le := nodeEntry s rd leaf (p % 64)
    { die := rd, root := root, leaf := some leaf
      frame := if fget F.teV le = 0 then none else some (fget F.teFid le) }

/-- The frame-table entries and node entries on the path of a page are read; errors not yet found in the nodes are found (R288, R411). -/
def mendPath (s : State) (d i p : Nat) : State :=
  let w := pathOf s d i p
  let s1 := (w.root :: (w.leaf.toList ++ w.frame.toList)).foldl (fun s f => mendFrame s w.die f) s
  let s2 := findErrors s1 (nodeGa s1 w.die w.root (p / 64)) 8
  w.leaf.elim s2 fun l => findErrors s2 (nodeGa s2 w.die l (p % 64)) 8

/-- An error in the metadata that the path crosses (R288, R289). -/
def pathError (s : State) (w : PagePath) (p : Nat) : Option Word :=
  if badFrame s w.die w.root then some (dieLocator 7 w.die w.root)
  else if badEntry s w.die w.root (p / 64) then some (dieLocator 8 w.die (64 * w.root + p / 64))
  else match w.leaf with
    | none => none
    | some l =>
      if badFrame s w.die l then some (dieLocator 7 w.die l)
      else if badEntry s w.die l (p % 64) then some (dieLocator 8 w.die (64 * l + p % 64))
      else match w.frame with
        | some f => if badFrame s w.die f then some (dieLocator 7 w.die f) else none
        | none => none

/-- Copy a shared node: the copy has CNT 1, the original loses one count, and every valid entry gives its child one more (R227). An entry with
an error is copied with it, and its child's count stays (R289) (DESIGN CHOICE, notes/assumptions 143). -/
def copyNode (s : State) (d i fid : Nat) : Option (Nat × State) :=
  (takeNode s d).map fun r =>
    let s1 := writeBytes r.2 0 (nodeGa r.2 d r.1 0) (readBytes r.2 0 (nodeGa r.2 d fid 0) 512)
    let s2 := (upFrom 0 64).foldl (fun s j =>
      let e := nodeEntry s d fid j
      if fget F.teV e = 0 then s
      else if badEntry s d fid j then { entryError s d fid j with ue := (entryError s d fid j).ue ++ [(d / 16, dieLocator 8 d (64 * r.1 + j))] }
      else countUp s d (fget F.teFid e)) s1
    let s3 := countDown s2 d fid
    (r.1, scbPut s3 d i F.scCopies (scbGet s3 d i F.scCopies + 1))

/-- Children that a copy of a node gives one more count can all take it. -/
def childrenCount (s : State) (d fid : Nat) : Bool :=
  (upFrom 0 64).all fun j =>
    let e := nodeEntry s d fid j
    fget F.teV e == 0 || badEntry s d fid j || canCount s d (fget F.teFid e)

/-- Nodes and frames to be copied for a write on the path: root, leaf, frame. Below a copied node everything is shared. -/
def sharedRoot (s : State) (w : PagePath) : Bool := decide (1 < frGet s w.die w.root F.frCnt)
def sharedLeaf (s : State) (w : PagePath) : Bool :=
  w.leaf.any fun l => sharedRoot s w || decide (1 < frGet s w.die l F.frCnt)
def sharedFrame (s : State) (w : PagePath) : Bool :=
  w.frame.any fun f => sharedLeaf s w || decide (1 < frGet s w.die f F.frCnt)

/-- Point a parent entry at another child, keeping its other bits. -/
def repoint (s : State) (d node i fid : Nat) : State :=
  setNodeEntry s d node i (fput F.teFid (nodeEntry s d node i) fid)

/-- Make the root of a stream its own. -/
def ownRoot (s : State) (d i : Nat) (w : PagePath) : Option (PagePath × State) :=
  if sharedRoot s w then
    (copyNode s w.die i w.root).map fun r => ({ w with root := r.1 }, scbPut r.2 d i F.scRfid r.1)
  else some (w, s)

/-- Make the leaf its own, under a root that is. -/
def ownLeaf (s : State) (i p : Nat) (w : PagePath) : Option (PagePath × State) :=
  match w.leaf with
  | some l =>
    if 1 < frGet s w.die l F.frCnt then
      (copyNode s w.die i l).map fun r => ({ w with leaf := some r.1 }, repoint r.2 w.die w.root (p / 64) r.1)
    else some (w, s)
  | none => some (w, s)

/-- Root and leaf of a page made private top-down (DEDUCED, notes/assumptions 61). -/
def ownNodes (s : State) (d i p : Nat) (w : PagePath) : Option (PagePath × State) :=
  (ownRoot s d i w).bind fun r => ownLeaf r.2 i p r.1

/-- Nodes that `ownNodes` copies. -/
def nodeCopies (s : State) (w : PagePath) : Nat := (sharedRoot s w).toNat + (sharedLeaf s w).toNat

/-- A copy that a write would cause can take its counts (R58). -/
def countsFit (s : State) (w : PagePath) : Bool :=
  (!sharedRoot s w || childrenCount s w.die w.root)
    && (match w.leaf with | some l => !sharedLeaf s w || childrenCount s w.die l | none => true)

/-- A context stands at the write that a copy was made for: it is ready to perform it, or waits for its page again, which has been evicted since
(R297). -/
def standsAt (s : State) (g k : Nat) (pc : Code) : Bool :=
  (getCore s g).run && (getCtx s g k).pc == pc
    && match (getCtx s g k).mode with | .ready | .running | .waiting (.frame _ _) | .waiting (.zeroed _) => true | _ => false

/-- The write that a copy was made for is still to be performed: its context stands at it, or with slot + 16 the write is held or under way (R297). -/
def grantLives (s : State) (d g k : Nat) (pc : Code) : Bool :=
  if k < 16 then standsAt s g k pc
  else (s.net.any fun m => m.src == g && m.slots.contains (k - 16) && isWrite m.body
      && (accessSpan m.body).any fun a => match region a.1 with | .frame e _ => e == d | _ => false)
    || (getCore s g).comb.any fun e => e.slots.contains (k - 16) && match region e.line with | .frame f _ => f == d | _ => false

/-- A write-through of a path is granted to a context, or a copy for its stream is under way (R297). A core that is told to stop performs the write
before it does (R274). -/
def grantHolds (s : State) (d i : Nat) : Bool :=
  (getDie s d).work.any fun w =>
    match w with
    | .copy _ _ scb _ => scb == i
    | .granted scb g k pc => scb == i && grantLives s d g k pc
    | _ => false

/-- What resolving a page comes to. -/
inductive PageRes
  | at (s : State) (ga : Nat)
  | wait (s : State) (w : Wait)
  | trap (code : Nat) (val : Word)
  deriving DecidableEq, Repr

/-- Begin the copy of a data frame for a page of a stream (R227): the source and the copy are BUSY. -/
def beginCopy (s : State) (d i p src : Nat) : Option State :=
  (takeData s d 0 1).map fun r =>
    let s1 := frPut r.2 d src F.frBusy 1
    modDie s1 d fun x => { x with work := x.work ++ [.copy src r.1 i p], age := tset 0 x.age src (s.now / 1024) }

/-- Begin a fetch-back of a data frame (R286). -/
def beginFetch (s : State) (d i fid : Nat) : Option State :=
  (pick s poolFrames (zeroedFrame (getDie s d))).map fun r =>
    let s1 := frPut r.2 d fid F.frBusy 1
    let s2 := modDie s1 d fun x => { x with work := x.work ++ [.fetch fid r.1] }
    scbPut s2 d i F.scFetches (scbGet s2 d i F.scFetches + 1)

/-- Fetch an evicted frame back, or wait, or find no room. -/
def fetchFor (s : State) (d i fid : Nat) : PageRes :=
  match room (getDie s d) d 1 0 with
  | .oom => .trap causeOOM (BitVec.ofNat 64 (d % 16))
  | .wait w => .wait s w
  | .ok => match beginFetch s d i fid with
    | some t => .wait t (.frame d fid)
    | none => .wait s (.zeroed d)

/-- Make page p of a stream private and resident, beginning a copy or a fetch-back where one is needed (R227, R228, R286). -/
def privatePage (s0 : State) (d i p off : Nat) : PageRes :=
  let s := mendPath s0 d i p
  let w := pathOf s d i p
  match pathError s w p with
  | some v => .trap causeECC v
  | none =>
    match w.frame with
    | none => .trap causeXLAT 0
    | some f =>
      if frameBusy s w.die f then .wait s (.frame w.die f)
      else if !sharedFrame s w then
        if frGet s w.die f F.frLoc = 1 then fetchFor s w.die i f else .at s (frameGa s w.die f off)
      else if !countsFit s w then .trap causeSTREAM (BitVec.ofNat 64 (scbGet s d i F.scSid))
      else
        match room (getDie s w.die) w.die 1 (nodeCopies s w) with
        | .oom => .trap causeOOM (BitVec.ofNat 64 (w.die % 16))
        | .wait x => .wait s x
        | .ok =>
          match (ownNodes s d i p w).bind fun r => beginCopy r.2 r.1.die i p f with
          | some t => .wait t (.frame w.die f)
          | none => .wait s (.zeroed w.die)

/-- Append page p = NPG: a zeroed data frame with CNT 1, its leaf entry with PROV = MARKV, and any leaf node it needs
(R227). -/
def appendPage (s0 : State) (d i p off : Nat) : PageRes :=
  let s := mendPath s0 d i p
  let w := pathOf s d i p
  match pathError s w p with
  | some v => .trap causeECC v
  | none =>
    if !countsFit s w then .trap causeSTREAM (BitVec.ofNat 64 (scbGet s d i F.scSid))
    else
      match room (getDie s w.die) w.die 1 (nodeCopies s w + w.leaf.isNone.toNat) with
      | .oom => .trap causeOOM (BitVec.ofNat 64 (w.die % 16))
      | .wait x => .wait s x
      | .ok =>
        let r := (ownNodes s d i p w).bind fun r =>
          let withLeaf : Option (Nat × State) :=
            match r.1.leaf with
            | some l => some (l, r.2)
            | none => (takeNode r.2 r.1.die).map fun n =>
                (n.1, setNodeEntry n.2 r.1.die r.1.root (p / 64)
                  (fput F.teFid (fput F.teDie (fput F.teV (0 : Word) 1) (r.1.die % 16)) n.1))
          withLeaf.bind fun l =>
            (takeData l.2 r.1.die 1 0).map fun f =>
              let e := fput F.teFid (fput F.teDie (fput F.teProv (fput F.teV (0 : Word) 1) (scbGet f.2 d i F.scMarkV)) (r.1.die % 16)) f.1
              let s1 := setNodeEntry f.2 r.1.die l.1 (p % 64) e
              (scbPut s1 d i F.scNpg (p + 1), f.1)
        match r with
        | some (t, f) => .at t (frameGa t w.die f off)
        | none => .wait s (.zeroed w.die)

/-- Page p read through the table (R227, R286). -/
def readPage (s0 : State) (d i p off : Nat) : PageRes :=
  let s := mendPath s0 d i p
  let w := pathOf s d i p
  match pathError s w p with
  | some v => .trap causeECC v
  | none =>
    match w.frame with
    | none => .trap causeXLAT 0
    | some f =>
      if frameBusy s w.die f then .wait s (.frame w.die f)
      else if frGet s w.die f F.frLoc = 1 then fetchFor s w.die i f
      else .at s (frameGa s w.die f off)

/-- What a state-window access does to its page. -/
inductive PageUse | read | write | append
  deriving DecidableEq, Repr

/-- The state window (R55, R227): the stream in STRM, then the page, then the form. -/
def statePage (s : State) (strm : Word) (migrant : Bool) (va : Word) (use : PageUse) (fe : Bool) : PageRes :=
  let d := sidDie strm
  let i := sidIdx strm
  let o := va.toNat - 0x7E0000000000
  let p := o / 2 ^ 18
  let off := o % 2 ^ 18
  let npg := scbGet s d i F.scNpg
  if fget F.sidGen strm = 0 ∨ migrant then .trap causeSTREAM strm
  else if badScb s d i then .trap causeECC (dieLocator 6 d i)
  else if [0, 5, 6].contains (scbGet s d i F.scState) ∨ BitVec.ofNat 64 (scbGet s d i F.scSid) ≠ strm then .trap causeSTREAM strm
  else if npg < p ∨ (p = npg ∧ (use ≠ .append ∨ fe)) then .trap causeXLAT va
  else if fe then .trap causePROT va
  else
    let fix (r : PageRes) : PageRes := match r with | .trap 6 _ => .trap causeXLAT va | x => x
    if p = npg then (if 4096 ≤ p then .trap causeXLAT va else appendPage s d i p off)
    else match use with
      | .read => fix (readPage s d i p off)
      | _ => fix (privatePage s d i p off)

/-! ### Frame work (R227, R282, R285, R286) -/

/-- Contexts that wait for a frame of a die become READY. -/
def wakeFrame (s : State) (d fid : Nat) : State := wakeAll s fun _ m => m == .waiting (.frame d fid)

/-- A frame's work has ended: BUSY falls, and counts that waited for it rise and fall before any later step (R224, R297). -/
def endWork (s : State) (d fid : Nat) : State := wakeFrame (walkOut (payOwed (frPut s d fid F.frBusy 0) d fid) d) d fid

/-- Move the contents of a frame, with its poison: errors not yet found are found as the frame is read (R17, R411). -/
def moveFrame (s : State) (src dst : Nat) : State :=
  let s0 := findErrors s src (2 ^ 18)
  let s1 := writeBytes s0 0 dst (readBytes s0 0 src (2 ^ 18))
  (upFrom 0 32768).foldl (fun s j => if poisonAt s (src + 8 * j) then setPoison s (dst + 8 * j) true else s) s1

/-- FRAME_COPY_COMPLETE: the copy receives CNT 1, the original loses one count, and the writer's leaf entry names the copy
(R227), with a fresh age stamp (R285). The write that caused it follows, of a context that waits or in a message; one that another copy of the stream
was made for before, and that is still to be performed, keeps its grant (R297, R298). -/
def frameCopyComplete (s : State) (d src : Nat) : State :=
  match (getDie s d).work.findSome? fun w => match w with | .copy a b i p => if a = src then some (b, i, p) else none | _ => none with
  | some (dst, i, p) =>
    let w := pathOf s d i p
    let s2 := moveFrame s (contentGa s d src 0) (frameGa s d dst 0)
    let s3 := countDown (frPut (changeCount s2 d dst fun _ => 1) d dst F.frBusy 0) d src
    let s4 := match w.leaf with | some l => repoint s3 d l (p % 64) dst | none => s3
    let s5 := scbPut s4 d i F.scCopies (scbGet s4 d i F.scCopies + 1)
    let writers := s.cores.flatMap fun e =>
      (e.2.ctx.filter fun x => x.2.mode == .waiting (.frame d src) && sidDie x.2.strm == d && sidIdx x.2.strm == i).map fun x =>
        FrameWork.granted i e.1 x.1 x.2.pc
    let sent := (s.net.filter fun m => (destOf m.body).strm == BitVec.ofNat 64 (scbGet s d i F.scSid) && isWrite m.body).flatMap fun m =>
      m.slots.map fun k => FrameWork.granted i m.src (k + 16) 0
    let new := writers ++ sent
    let kept (w : FrameWork) : Bool :=
      match w with
      | .copy a _ _ _ => a != src
      | .granted j g k pc => j != i || (grantLives s d g k pc && !new.any fun v => match v with | .granted _ h l _ => h == g && l == k | _ => false)
      | _ => true
    let s6 := modDie s5 d fun x => { x with age := tset 0 x.age dst (s.now / 1024), work := x.work.filter kept ++ new }
    endWork s6 d src
  | none => s

def execFrameCopyComplete (s : State) : Host.Outcome State Fault Refusal := .next (frameCopyComplete s s.argA s.argB)

/-- A copy has been installed for a write of this context, which stands at it. -/
def granted (s : State) (d g k : Nat) : Bool :=
  (getDie s d).work.any fun w => match w with | .granted _ a b pc => a == g && b == k && pc == (getCtx s g k).pc | _ => false

/-- The write that was granted to a context is under way (slot + 16), or performed. -/
def useGrant (s : State) (d g k : Nat) (performed : Bool) : State :=
  modDie s d fun x =>
    { x with work := x.work.filterMap fun w =>
        match w with
        | .granted i a b pc =>
          if a = g ∧ b = k ∧ pc = (getCtx s g k).pc then (if performed then none else some (.granted i a (b + 16) pc)) else some w
        | _ => some w }

/-- FRAME_ZERO: a returned frame has been zeroed, its check bits fresh, and can be taken (R282). -/
def frameZero (s : State) (d : Nat) : State :=
  match (getDie s d).zeroing with
  | [] => s
  | f :: rest =>
    let lo := gaFrame d (f * 2 ^ 18)
    let hi := lo + 2 ^ 18
    let s1 := { s with
      mem := s.mem.filter fun c => !(decide (lo ≤ c.1) && decide (c.1 < hi))
      poison := s.poison.filter fun w => !(decide (lo ≤ 8 * w) && decide (8 * w < hi))
      latent := s.latent.filter fun w => !(decide (lo ≤ 8 * w) && decide (8 * w < hi))
      soft := s.soft.filter fun w => !(decide (lo ≤ 8 * w) && decide (8 * w < hi)) }
    wakeAll (modDie s1 d fun x => { x with zeroing := rest }) fun _ m => m == .waiting (.zeroed d)

def execFrameZero (s : State) : Host.Outcome State Fault Refusal := .next (frameZero s s.argA)

/-- An access to an SRAM frame that does not go through a state window is held or under way; one that does finds its page anew when it is performed
(R248, R286) (DEDUCED, notes/assumptions 23). -/
def accessesTo (s : State) (d f : Nat) : Bool :=
  let hit (ga : Nat) : Bool := decide (gaFrame d (f * 2 ^ 18) ≤ ga) && decide (ga < gaFrame d ((f + 1) * 2 ^ 18))
  (s.cores.any fun e => (e.2.comb.any fun x => hit x.line && x.strm == 0)
      || e.2.vjob.any fun j => j.left.any fun p => hit p.ga && !inWindow p.va)
    || s.net.any fun m => match m.body with | .access _ ga _ dest => hit ga && dest.strm == 0 | _ => false

/-- The pool's state at the end of a clock: evicting since it fell below 96 free frames, until 160 are free (R285). -/
def poolEnd (x : Die) : Die :=
  let free := freeFrames x
  { x with evicting := decide (free < 96) || (x.evicting && decide (free < 160)) }

/-- SPILLWAY_EVICT: below 96 free frames the Spillway evicts the frame with the oldest stamp, ties to the lower FID, until 160
are free (R285). An entry in error that it meets is quarantined and its frame stays (R288). Of the area's free HBM frames it takes the lowest (DESIGN
CHOICE, notes/assumptions 153). The stamp of a frame that has not been accessed since it was taken is what stands in its place, 0 at first (DESIGN CHOICE,
notes/assumptions 169). -/
def spillwayEvict (s : State) (d : Nat) : State :=
  let x := getDie s d
  let free := freeFrames x
  let on := decide (free < 96) || (x.evicting && decide (free < 160))
  if !on then modDie s d fun x => { x with evicting := false }
  else
    let cand := (x.frames.filter fun e => evictable e.2).map fun e => (tget 0 x.age e.1, e.1)
    let best := cand.foldl (fun (b : Option (Nat × Nat)) c =>
      match b with | none => some c | some a => if c.1 < a.1 then some c else b) none
    match best, (upFrom 0 (fget ⟨0, 16⟩ x.spCount)).find? fun h => !x.spillUsed.contains h with
    | some (_, fid), some h =>
      if hurtFrame s d fid then mendFrame s d fid
      else
      let s1 := frPut s d fid F.frBusy 1
      modDie s1 d fun x => { x with evicting := true, spillUsed := sadd h x.spillUsed, work := x.work ++ [.evict fid h] }
    | _, _ => modDie s d fun x => { x with evicting := true }

def execSpillwayEvict (s : State) : Host.Outcome State Fault Refusal := .next (spillwayEvict s s.argA)

/-- EVICTION_COMPLETE: the frame lies in HBM and its SRAM frame returns to the pool (R285), once no access to it is held or under
way: held stores leave first. A frame whose entry proves in error meanwhile is quarantined and stays (R288). -/
def evictionComplete (s0 : State) (d fid : Nat) : State :=
  let s := mendFrame s0 d fid
  match (getDie s d).work.findSome? fun w => match w with | .evict f h => if f = fid then some h else none | _ => none with
  | some h =>
    let f := frGet s d fid F.frPlace
    if accessesTo s d f then
      s.cores.foldl (fun s e => flushWhile s e.1 fun x =>
        x.strm == 0 && decide (gaFrame d (f * 2 ^ 18) ≤ x.line) && decide (x.line < gaFrame d ((f + 1) * 2 ^ 18))) s
    else if quarantined s d fid then
      endWork (modDie s d fun x =>
        { x with
          spillUsed := sdel h x.spillUsed
          work := x.work.filter fun w => match w with | .evict a _ => a != fid | _ => true }) d fid
    else
      let s1 := moveFrame s (frameGa s d fid 0) (gaHbm d ((getDie s d).spBase.toNat % 2 ^ 36 + h * 2 ^ 18))
      let s2 := frPut (frPut s1 d fid F.frLoc 1) d fid F.frPlace h
      let s3 := modDie s2 d fun x =>
        { x with
          zeroing := sadd f x.zeroing
          work := x.work.filter fun w => match w with | .evict a _ => a != fid | _ => true }
      endWork s3 d fid
  | none => s

def execEvictionComplete (s : State) : Host.Outcome State Fault Refusal := .next (evictionComplete s s.argA s.argB)

/-- FETCH_BACK_COMPLETE: the frame lies in SRAM again and its HBM frame is free (R286). -/
def fetchBackComplete (s : State) (d fid : Nat) : State :=
  match (getDie s d).work.findSome? fun w => match w with | .fetch f t => if f = fid then some t else none | _ => none with
  | some t =>
    let h := frGet s d fid F.frPlace
    let s1 := moveFrame s (contentGa s d fid 0) (gaFrame d (t * 2 ^ 18))
    let s2 := frPut (frPut s1 d fid F.frLoc 0) d fid F.frPlace t
    let s3 := modDie s2 d fun x =>
      { x with
        spillUsed := sdel h x.spillUsed, age := tset 0 x.age fid (s.now / 1024)
        work := x.work.filter fun w => match w with | .fetch a _ => a != fid | _ => true }
    endWork s3 d fid
  | none => s

def execFetchBackComplete (s : State) : Host.Outcome State Fault Refusal := .next (fetchBackComplete s s.argA s.argB)

end Sys2Proof.Machine
end

