-- ==== Sys2Proof/Machine/Flash.lean ====
section
/-!
DEFINITION. What a module's flash holds: the parts of a firmware bundle (R405), the records of the fault-map journal (R420), and the map that they keep for a
cluster (R421).
-/
namespace Sys2Proof.Machine

/-! ### Firmware bundles (R405) -/

def bunNum (b : List Byte) (o n : Nat) : Nat := leNat ((b.drop o).take n)
def bunSvn (b : List Byte) : Nat := bunNum b 4 4
def bunLen (b : List Byte) : Nat := bunNum b 8 4
def bunSlot (b : List Byte) : Nat := bunNum b 12 4
def bunPayload (b : List Byte) : List Byte := (b.drop 0x200).take (bunLen b)

/-- A flash copy as the SMU sees it: a bundle with whatever stands behind it cut off. -/
def flashCopy (l : List Byte) : List Byte := l.take (0x200 + bunLen l + 384)

/-- The bundle accepted at this bring-up. -/
def bootBundle (x : Mod) : List Byte :=
  match x.booted with
  | some false => flashCopy x.flash.bundleA
  | some true => flashCopy x.flash.bundleB
  | none => []

/-! ### The journal (R420) -/

/-- CRC-32 of bytes, bit by bit, reflected, polynomial 0xEDB88320 (PRESUMED, notes/assumptions 30). -/
def crcBit (c : BitVec 32) : BitVec 32 := if c.getLsbD 0 then (c >>> 1) ^^^ 0xEDB88320 else c >>> 1
def crcByte (c : BitVec 32) (b : Byte) : BitVec 32 := (upFrom 0 8).foldl (fun c _ => crcBit c) (c ^^^ b.setWidth 32)
def crc32 (l : List Byte) : BitVec 32 := ~~~(l.foldl crcByte (BitVec.allOnes 32))

def recordBytes (r : JournalRec) (seq : Nat) : List Byte :=
  let body := leBytes 0x4C4A4D46 4 ++ leBytes r.cl 2 ++ leBytes r.gen 2 ++ leBytes seq 8 ++ (upFrom 0 16).flatMap fun t => leBytes (r.map.getD t 0).toNat 8
  body ++ leBytes (crc32 body).toNat 4 ++ leBytes r.retire.toNat 1 ++ leBytes 0 11

def recordValid (b : List Byte) : Bool := bunNum b 0 4 == 0x4C4A4D46 && BitVec.ofNat 32 (bunNum b 0x90 4) == crc32 (b.take 0x90)
def recordCl (b : List Byte) : Nat := bunNum b 4 2
def recordSeq (b : List Byte) : Nat := bunNum b 8 8

/-- The valid record of highest SEQ of a cluster of the module. -/
def lastRecord (j : List (List Byte)) (c : Nat) : Option (List Byte) :=
  (j.filter fun b => recordValid b && recordCl b == c).foldl (fun o b => match o with
    | none => some b
    | some a => if recordSeq a < recordSeq b then some b else some a) none

/-! ### Stored maps (R421) -/

/-- The map kept in flash for a cluster: that of its latest journal record, else of the bundle; and whether the cluster is retired (R421) (DEDUCED, notes/assumptions 121). -/
def storedMap (s : State) (q : Nat) : List Word × Bool :=
  let x := getMod s (q / 2048)
  match lastRecord x.flash.journal (q % 2048) with
  | some b => ((upFrom 0 16).map fun t => BitVec.ofNat 64 (bunNum b (0x10 + 8 * t) 8), (b.getD 0x94 0).getLsbD 0)
  | none =>
    let pay := bunPayload (bootBundle x)
    ((upFrom 0 16).map fun t => BitVec.ofNat 64 (bunNum pay (4096 + 128 * (q % 2048) + 8 * t) 8), false)

end Sys2Proof.Machine
end

