-- ==== Sys2Proof/Machine/Regs.lean ====
section
/-!
DEFINITION. The register windows: what each doubleword of the die and module windows reads as, and what a write of it does (R49, R429, R284, R291, R299, R301, R318,
R319, R329, R331, R332, R389, R390, R395, R398, R399, R403, R406, R408, R415, R425).
-/
namespace Sys2Proof.Machine

/-- Doubleword j of a longer word. -/
def dword {n : Nat} (x : BitVec n) (j : Nat) : Word := BitVec.ofNat 64 (x.toNat / 2 ^ (64 * j))

/-- Doubleword j replaced. -/
def putDword {n : Nat} (x : BitVec n) (j : Nat) (w : Word) : BitVec n := fput ⟨64 * j, 64⟩ x w.toNat

/-- The ones of a field. -/
def ones (f : Fld) : Word := BitVec.ofNat 64 ((2 ^ f.len - 1) * 2 ^ f.lo)

/-- A write that reaches some bits only (DEDUCED, notes/assumptions 131). -/
def masked (old v mask : Word) : Word := (old &&& ~~~mask) ||| (v &&& mask)

def getLq (s : State) (d q : Nat) : LQueue := tget {} (getDie s d).lq q
def modLq (s : State) (d q : Nat) (f : LQueue → LQueue) : State := modDie s d fun x => { x with lq := tput x.lq q (f (tget {} x.lq q)) }

def getRing (s : State) (m r : Nat) : Ring := tget {} (getMod s m).ringsOf r
def modRing (s : State) (m r : Nat) (f : Ring → Ring) : State :=
  modMod s m fun x => { x with ringsOf := tput x.ringsOf r (f (tget {} x.ringsOf r)) }

/-- An installed cascade whose queues hold queue q (R299). -/
def cascadeOfQueue (x : Die) (q : Nat) : Option Nat :=
  (upFrom 0 8).find? fun c =>
    let b := tget 0 x.cblk c
    fget F.cbV b == 1 && decide (fget F.cbQfirst b ≤ q) && decide (q < fget F.cbQfirst b + fget F.cbQcount b)

def installed (x : Die) (c : Nat) : Bool := fget F.cbV (tget 0 x.cblk c) == 1

/-! ### Reads -/

def readLq (x : LQueue) (o : Nat) : Word :=
  match o with
  | 0x00 => x.base
  | 0x08 => x.cfg
  | 0x10 => x.tail.zeroExtend 64
  | 0x18 => x.head.zeroExtend 64
  | 0x20 => x.cq
  | 0x28 => x.cqt.zeroExtend 64
  | 0x30 => x.cqh.zeroExtend 64
  | _ => BitVec.ofNat 64 (x.qerr.toNat * 2 ^ 63 + x.launch.isSome.toNat)

/-- A doubleword of a cluster's block (R49, R395, R399). -/
def readClusterReg (s : State) (q o : Nat) : Option Word :=
  let x := getCluster s q
  if o < 0x80 then some (tget 0 x.fmap (o / 8))
  else if 0x1000 ≤ o ∧ o < 0x2000 then
    some (dword (tget 0 s.bars (gaBarCluster q ((o - 0x1000) / 16))) (o / 8 % 2))
  else if o = 0x2000 then some x.tbinv
  else if o = 0x3000 then some x.saveBase
  else none

/-- A doubleword of a die window. -/
def readDieReg (s : State) (d o : Nat) : Option Word :=
  let x := getDie s d
  if o < 0x100000 then some (dword (tget 0 x.scb (o / 256)) (o / 8 % 32))
  else if o < 0x180000 then some (tget 0 x.frames ((o - 0x100000) / 8))
  else if o < 0x181000 then some (dword (tget 0 x.arrival ((o - 0x180000) / 32)) (o / 8 % 4))
  else if 0x190000 ≤ o ∧ o < 0x191000 then
    some (dword (tget 0 s.bars (gaBarDie d ((o - 0x190000) / 16))) (o / 8 % 2))
  else if 0x1A0000 ≤ o ∧ o < 0x1A8000 then some (dword (tget 0 x.qdesc ((o - 0x1A0000) / 64)) (o / 8 % 8))
  else if 0x1A8000 ≤ o ∧ o < 0x1AC000 then some (dword (tget 0 x.sdesc ((o - 0x1A8000) / 64)) (o / 8 % 8))
  else if 0x1AC000 ≤ o ∧ o < 0x1AC200 then some (dword (tget 0 x.cblk ((o - 0x1AC000) / 64)) (o / 8 % 8))
  else if 0x200000 ≤ o ∧ o < 0x200100 then some (readLq (tget {} x.lq ((o - 0x200000) / 64)) (o % 64))
  else if o = 0x210000 then some x.topoAddr
  else if o = 0x210008 then some x.topoCtl
  else if o = 0x210010 then some x.topoStat
  else if o = 0x220000 then some x.spBase
  else if o = 0x220008 then some x.spCount
  else if o = 0x230000 then some x.cascCtl
  else if o = 0x230008 then some x.cascStat
  else if 0x1000000 ≤ o ∧ o < 0x2000000 then
    readClusterReg s (d * 128 + (o - 0x1000000) / 0x20000) (o % 0x20000)
  else none

/-- A doubleword of a module window. KEYWR and KEYCTL give nothing back (R408) (DEDUCED, notes/assumptions 14). -/
def readModReg (s : State) (m o : Nat) : Option Word :=
  let x := getMod s m
  if o < 0x1000 then some (dword (tget 0 s.bars (gaBarModule m (o / 16))) (o / 8 % 2))
  else if 0x10000 ≤ o ∧ o < 0x18000 then some (dword (tget 0 s.bars (gaModWin m (o / 16 * 16))) (o / 8 % 2))
  else if o = 0x1000000 then some x.rdyMod
  else if o = 0x1000008 then some x.rdyPort
  else if 0x1000100 ≤ o ∧ o < 0x1000180 then some (getDie s (m * 16 + (o - 0x1000100) / 8)).rdy
  else if 0x1000200 ≤ o ∧ o < 0x1000300 then
    some (dword (getDie s (m * 16 + (o - 0x1000200) / 16)).rdyCl (o / 8 % 2))
  else if o = 0x4000000 then some x.fabcfg
  else if o = 0x4000008 then some x.linkstat
  else if 0x4100000 ≤ o ∧ o < 0x4100400 then some (dword (getRing s m ((o - 0x4100000) / 64)).desc (o / 8 % 8))
  else if o = 0x4100400 then some x.pealCtl
  else if o = 0x4100408 then some x.pealStat
  else if 0x4200000 ≤ o ∧ o < 0x4210000 then
    let e := (o - 0x4200000) / 256
    let b := o % 256
    some (if b < 128 then
        BitVec.ofNat 64 (leNat ((upFrom (64 * e + b / 2) 4).flatMap fun i => leBytes (tget 0 x.stripeMem i).toNat 2))
      else if b = 128 then tget 0 x.stripeCtl e
      else 0)
  else if o = 0x4301000 then some x.tbinvm
  else if o = 0x4302000 then some x.evqBase
  else if o = 0x4302008 then some x.evqCfg
  else if o = 0x4302010 then some (x.evqTail.zeroExtend 64)
  else if o = 0x4302018 then some (x.evqHead.zeroExtend 64)
  else if o = 0x4302020 then some (x.evLost.zeroExtend 64)
  else if o = 0x4303000 then some x.apbase
  else if o = 0x4304000 then some x.trapimg
  else if o = 0x4304008 then some x.trapstat
  else if o = 0x4305000 then some x.fwmbAddr
  else if o = 0x4305008 then some x.fwmbCtl
  else if o = 0x4305010 then some x.fwmbStat
  else if 0x4306000 ≤ o ∧ o ≤ 0x4306040 then some 0
  else if 0x4310000 ≤ o ∧ o < 0x4320000 then
    some (if o / 8 % 2 = 0 then tget 0 x.tenants ((o - 0x4310000) / 16) else 0)
  else if 0x4400000 ≤ o ∧ o < 0x4400200 then
    let d := getDie s (m * 16 + (o - 0x4400000) / 0x20)
    match o % 0x20 with
    | 0x00 => some d.dtel0
    | 0x08 => some d.dtel1
    | 0x10 => some d.dtel2
    | _ => none
  else if 0x4410000 ≤ o ∧ o < 0x4414000 then
    let i := (o - 0x4410000) / 8
    some (tget 0 (getDie s (m * 16 + i / 128)).cltel (i % 128))
  else if 0x4420000 ≤ o ∧ o < 0x4420040 then some (tget 0 x.ptel ((o - 0x4420000) / 8))
  else if o = 0x4430000 then some (BitVec.ofNat 64 (x.pcap * 2 ^ 32 + x.ppeak * 2 ^ 16 + x.pwr))
  else if o = 0x4430008 then some x.cool
  else none

/-- The doubleword of a window at an aligned global address; none for a hole (DEDUCED, notes/assumptions 13). -/
def readReg (s : State) (ga : Nat) : Option Word :=
  match region ga with
  | .dieWin d o => readDieReg s d o
  | .modWin m o => readModReg s m o
  | _ => none

/-- An address lies in a register window. -/
def isWindow (ga : Nat) : Bool :=
  match region ga with
  | .dieWin _ _ | .modWin _ _ => true
  | _ => false

/-- n bytes of a window from an address. -/
def readRegBytes (s : State) (ga n : Nat) : Option (List Byte) :=
  (upFrom ga n).mapM fun a => (readReg s (a / 8 * 8)).map fun w => BitVec.ofNat 8 (w.toNat / 2 ^ (8 * (a % 8)))

/-! ### Writes with an effect of their own -/

/-- LQTAIL_DOORBELL: the tail rises; a tail too far ahead stops the queue with an event (R391). -/
def lqtailDoorbell (s : State) (d q : Nat) (v : Word) : State :=
  let x := getLq s d q
  let t : BitVec 32 := v.setWidth 32
  let s1 := modLq s d q fun x => { x with tail := t }
  if fget F.lqEn x.cfg = 1 ∧ !x.qerr ∧ 2 ^ fget F.lqLogSz x.cfg < (t - x.head).toNat then
    postEvent (modLq s1 d q fun x => { x with qerr := true }) (d / 16) (srcDie d 2) 0x60 (4 * (d % 16) + q) t.toNat
  else s1

def execLqtailDoorbell (s : State) : Host.Outcome State Fault Refusal := .next (whilePowered s (s.argA / 16) (lqtailDoorbell s s.argA s.argB s.argV))

/-- LQCFG_EN_WRITE: fields other than EN change only while EN = 0 and BUSY = 0; EN from 0 to 1 clears QERR, and then HEAD :=
TAIL (R390). -/
def lqcfgWrite (s : State) (d q : Nat) (v : Word) : State :=
  let x := getLq s d q
  let fields := ones F.lqTen ||| ones F.lqLogCq ||| ones F.lqLogSz
  let was := fget F.lqEn x.cfg
  let mask := ones F.lqEn ||| (if was = 1 ∨ x.launch.isSome then 0 else fields)
  let rise := decide (was = 0) && decide (fget F.lqEn v = 1)
  modLq s d q fun x =>
    { x with
      cfg := masked x.cfg v mask
      qerr := x.qerr && !rise
      head := if rise then x.tail else x.head }

def execLqcfgEnWrite (s : State) : Host.Outcome State Fault Refusal := .next (whilePowered s (s.argA / 16) (lqcfgWrite s s.argA s.argB s.argV))

/-- SPILLWAY_AREA_WRITE (R284): ignored while a frame is spilled, when the area would leave the die's HBM, or above 59,392
frames. -/
def spillwayAreaWrite (s : State) (d : Nat) (count : Bool) (v : Word) : State :=
  let x := getDie s d
  let base := if count then x.spBase else v &&& ones ⟨18, 30⟩
  let n := if count then fget ⟨0, 16⟩ v else fget ⟨0, 16⟩ x.spCount
  let spilled := x.frames.any fun e => fget F.frLoc e.2 == 1 && fget F.frKind e.2 != 0
  let lo := d % 16 * 2 ^ 36
  if spilled || decide (59392 < n) || decide (base.toNat < lo) || decide (lo + 2 ^ 36 < base.toNat + n * 2 ^ 18) then s
  else modDie s d fun x => { x with spBase := base, spCount := BitVec.ofNat 64 n }

def execSpillwayAreaWrite (s : State) : Host.Outcome State Fault Refusal :=
  .next (whilePowered s (s.argA / 16) (spillwayAreaWrite s s.argA (s.argB == 1) s.argV))

/-- FABCFG_WRITE (R318): ignored while a port is enabled, and for a domain above 1,024 modules. -/
def fabcfgWrite (s : State) (m : Nat) (v : Word) : State :=
  if (upFrom 0 8).any (portEn s m) || decide (1024 < dimSize (fabDims v)) then s
  else modMod s m fun x => { x with fabcfg := v &&& ones ⟨13, 14⟩ }

def execFabcfgWrite (s : State) : Host.Outcome State Fault Refusal := .next (whilePowered s s.argA (fabcfgWrite s s.argA s.argV))

/-- LINKSTAT_EN_WRITE (R319): EN bits; a port that is no longer enabled falls at both ends (R424). -/
def linkstatWrite (s : State) (m : Nat) (v : Word) : State :=
  let mask : Word := 0x0202020202020202
  let s1 := modMod s m fun x => { x with linkstat := masked x.linkstat v mask }
  (upFrom 0 8).foldl (fun s p =>
    if portUp s m p && !portEn s m p then
      let s2 := portUpChange s m p false
      match neighbour (dimsOf s m) m p with
      | some n => portUpChange s2 n (p ^^^ 1) false
      | none => s2
    else s) s1

def execLinkstatEnWrite (s : State) : Host.Outcome State Fault Refusal := .next (whilePowered s s.argA (linkstatWrite s s.argA s.argV))

/-- NPEER values (R329): a power of two from 2 to 64 or a prime from 3 to 61. -/
def peersOk (n : Nat) : Bool :=
  [2, 4, 8, 16, 32, 64, 3, 5, 7, 11, 13, 17, 19, 23, 29, 31, 37, 41, 43, 47, 53, 59, 61].contains n

/-- STRIPE_SET_WRITE: a doubleword of the stripe-set table (R329). -/
def stripeWrite (s : State) (m off : Nat) (v : Word) : State :=
  let e := off / 256
  let b := off % 256
  let x := getMod s m
  if b < 128 then
    modMod s m fun x =>
      { x with stripeMem := (upFrom 0 4).foldl (fun t i =>
          tset 0 t (64 * e + b / 2 + i) (BitVec.ofNat 16 (v.toNat / 2 ^ (16 * i)))) x.stripeMem }
  else if b = 128 then
    let n := fget ⟨0, 8⟩ v
    if !peersOk n || (upFrom 0 n).any fun i => !inDomain s m (tget 0 x.stripeMem (64 * e + i)).toNat then s
    else modMod s m fun x => { x with stripeCtl := tset 0 x.stripeCtl e (v &&& (ones ⟨63, 1⟩ ||| ones ⟨0, 8⟩)) }
  else s

def execStripeSetWrite (s : State) : Host.Outcome State Fault Refusal := .next (whilePowered s s.argA (stripeWrite s s.argA s.argB s.argV))

/-- KEYCTL_WRITE: with GO, the key written through KEYWR becomes the key of index k; all zeros clear the entry (R408). -/
def keyctlWrite (s : State) (m : Nat) (v : Word) : State :=
  let k := fget ⟨0, 6⟩ v
  if fget ⟨63, 1⟩ v = 1 ∧ k ≠ 0 ∧ (getMod s m).rdyMod.getLsbD 2 then
    modMod s m fun x => { x with keys := tset 0 x.keys k x.keywr }
  else s

def execKeyctlWrite (s : State) : Host.Outcome State Fault Refusal := .next (whilePowered s s.argA (keyctlWrite s s.argA s.argV))

/-- Translations of a tenant that an invalidation removes (R399). -/
def tbRemoves (v : Word) (e : TlbEntry) : Bool :=
  e.tenant == fget ⟨48, 12⟩ v
    && (v.getLsbD 62 || (decide (e.base ≤ fget ⟨18, 30⟩ v * 2 ^ 18) && decide (fget ⟨18, 30⟩ v * 2 ^ 18 < e.base + e.size)))

def tbRemove (s : State) (q : Nat) (v : Word) : State :=
  modCluster s q fun x => { x with tlb := x.tlb.filter fun e => !tbRemoves v e }

/-- A walk under way for a core begins anew, so that it reads no node as it stood before an invalidation (R249) (DEDUCED, notes/assumptions 35). -/
def restartWalks (c : Core) : Core :=
  { c with ctx := c.ctx.map fun e => (e.1, match e.2.mode with | .waiting (.walk va _) => { e.2 with mode := .waiting (.walk va none) } | _ => e.2) }

/-- The walks of every core that passes a test begin anew. -/
def restartAll (s : State) (p : Nat → Bool) : State := { s with cores := s.cores.map fun e => (e.1, if p e.1 then restartWalks e.2 else e.2) }

/-- TBINV_WRITE: starts an invalidation of a cluster's buffer; ignored while BUSY (R249, R399) (DEDUCED, notes/assumptions 35). -/
def tbinvWrite (s : State) (q : Nat) (v : Word) : State :=
  let x := getCluster s q
  let w := v &&& ~~~ones ⟨0, 18⟩ &&& ~~~ones ⟨60, 2⟩
  if x.tbinv.getLsbD 63 then s
  else
    let s1 := modCluster s q fun x => { x with tbinv := w }
    if v.getLsbD 63 then restartAll (tbRemove s1 q v) fun g => clusterOf g == q else s1

def execTbinvWrite (s : State) : Host.Outcome State Fault Refusal := .next (whilePowered s (s.argA / 2048) (tbinvWrite s s.argA s.argV))

/-- TBINVM_WRITE: the same on every cluster of the module (R399). -/
def tbinvmWrite (s : State) (m : Nat) (v : Word) : State :=
  let w := v &&& ~~~ones ⟨0, 18⟩ &&& ~~~ones ⟨60, 2⟩
  if (getMod s m).tbinvm.getLsbD 63 then s
  else
    let s1 := modMod s m fun x => { x with tbinvm := w }
    if v.getLsbD 63 then
      restartAll { s1 with clusters := s1.clusters.map fun e =>
          (e.1, if e.1 / 2048 = m then { e.2 with tlb := e.2.tlb.filter fun t => !tbRemoves v t } else e.2) } fun g => modOf g == m
    else s1

def execTbinvmWrite (s : State) : Host.Outcome State Fault Refusal := .next (whilePowered s s.argA (tbinvmWrite s s.argA s.argV))

/-- Accesses of a cluster's cores that are held, translated with pieces left, or under way; deferred ones that an exchange buffer still holds are no
messages and are not waited for (R249). -/
def accessesOut (s : State) (q : Nat) : Bool :=
  ((upFrom (q * 64) 52).any fun g => !(getCore s g).comb.isEmpty || (getCore s g).vjob.any fun j => !j.left.isEmpty)
    || s.net.any fun m => clusterOf m.src == q
      && match m.body with | .migrate _ _ _ _ _ _ _ _ load _ _ => load.isSome | b => (accessSpan b).isSome

/-- TBINV_COMPLETE: BUSY falls once every access translated before has been performed; held stores leave first (R249). -/
def tbinvComplete (s : State) (q : Nat) : State :=
  let m := q / 2048
  let s0 := (upFrom (q * 64) 52).foldl (fun s g => if (getCore s g).comb.isEmpty then s else flushAll s g) s
  if !(getCluster s q).tbinv.getLsbD 63 && !(getMod s m).tbinvm.getLsbD 63 then s
  else
    let s1 := if accessesOut s0 q then s0 else
      modCluster s0 q fun x => { x with tbinv := x.tbinv &&& ~~~ones ⟨63, 1⟩ }
    if s1.clusters.any fun e => e.1 / 2048 == m && accessesOut s1 e.1 then s1
    else modMod s1 m fun x => { x with tbinvm := x.tbinvm &&& ~~~ones ⟨63, 1⟩ }

def execTbinvComplete (s : State) : Host.Outcome State Fault Refusal := .next (tbinvComplete s s.argA)

/-- PCAP_WRITE: within 1,500 and 5,400 W, in force from the next window (R415). -/
def pcapWrite (s : State) (m : Nat) (v : Word) : State :=
  let n := fget ⟨32, 16⟩ v
  modMod s m fun x => { x with pcap := if 5400 < n then 5400 else if n < 1500 then 1500 else n }

def execPcapWrite (s : State) : Host.Outcome State Fault Refusal := .next (whilePowered s s.argA (pcapWrite s s.argA s.argV))

/-- RDYCL_RETIRE: the cluster is retired, and a record with RETIRE = 1 is to be appended; its bit clears, with an event where it was set. A cluster that
is not READY yet is retired too, and never turns READY; as long as it has had no map put in force, its record carries its stored map (R403, R422)
(DEDUCED, notes/assumptions 122). -/
def rdyclRetire (s : State) (q : Nat) : State :=
  let d := q / 128
  let c := q % 128
  let s1 := modDie s d fun x => { x with rdyCl := x.rdyCl &&& ~~~BitVec.ofNat 128 (2 ^ c) }
  let s2 := modMod s1 (d / 16) fun x =>
    { x with journalDue := x.journalDue ++
        [{ cl := q % 2048, gen := (getCluster s q).mapGen, retire := true, change := false,
           map := if (getCluster s q).mapGen = 0 then (storedMap s q).1 else (upFrom 0 16).map (tget 0 (getCluster s q).fmap) }] }
  let s3 := modCluster s2 q fun x => { x with retired := true }
  if (getDie s d).rdyCl.getLsbD c then postEvent s3 (d / 16) { kind := 9 } 0x01 (0x200 + 16 * (d % 16)) (2 ^ 63 + c) else s3

def execRdyclRetire (s : State) : Host.Outcome State Fault Refusal := .next (whilePowered s (s.argA / 2048) (rdyclRetire s s.argA))

/-! ### Writes -/

/-- A write of a doubleword of a cascade's structures: H fields stand, and S fields of an installed cascade (R301). The reserved S bits of queue and stage
descriptors and of control blocks keep what is written, so that the checks of R61 and R302 can find one set (DESIGN CHOICE, notes/assumptions 166). -/
def cascRegWrite (s : State) (d o : Nat) (v : Word) : State :=
  let x := getDie s d
  let j := o / 8 % 8
  if o < 0x1A8000 then
    let q := (o - 0x1A0000) / 64
    if (cascadeOfQueue x q).isSome || j == 1 || j == 2 then s
    else modDie s d fun x => { x with qdesc := tset 0 x.qdesc q (putDword (tget 0 x.qdesc q) j v) }
  else if o < 0x1AC000 then
    let i := (o - 0x1A8000) / 64
    if installed x (i / 32) || j == 2 then s
    else
      let old := tget 0 x.sdesc i
      let w := if j = 3 then masked (dword old 3) v (~~~ones ⟨0, 32⟩) else v
      modDie s d fun x => { x with sdesc := tset 0 x.sdesc i (putDword old j w) }
  else
    let c := (o - 0x1AC000) / 64
    if installed x c || j == 4 || j == 5 then s
    else
      let old := tget 0 x.cblk c
      let w := if j = 0 then masked (dword old 0) v (~~~ones ⟨63, 1⟩) else v
      modDie s d fun x => { x with cblk := tset 0 x.cblk c (putDword old j w) }

def lqRegWrite (s : State) (d q o : Nat) (v : Word) : State :=
  let x := getLq s d q
  let locked := fget F.lqEn x.cfg = 1 ∨ x.launch.isSome
  match o with
  | 0x00 => if locked then s else modLq s d q fun x => { x with base := v &&& ones ⟨7, 41⟩ }
  | 0x08 => lqcfgWrite s d q v
  | 0x10 => lqtailDoorbell s d q v
  | 0x20 => if locked then s else modLq s d q fun x => { x with cq := v &&& ~~~ones ⟨0, 5⟩ }
  | 0x30 => modLq s d q fun x => { x with cqh := v.setWidth 32 }
  | _ => s

/-- A write of a doubleword of a die window; the read-only structures ignore it (R429), and so does TOPOCTL while a load is busy (DESIGN CHOICE,
notes/assumptions 170). CASCCTL holds the last write that started an operation, and another leaves it (DESIGN CHOICE, notes/assumptions 175). -/
def writeDieReg (s : State) (d o : Nat) (v : Word) : State :=
  let x := getDie s d
  if 0x1A0000 ≤ o ∧ o < 0x1AC200 then cascRegWrite s d o v
  else if 0x200000 ≤ o ∧ o < 0x200100 then lqRegWrite s d ((o - 0x200000) / 64) (o % 64) v
  else if o = 0x210000 then modDie s d fun x => { x with topoAddr := v &&& ones ⟨3, 45⟩ }
  else if o = 0x210008 then
    if x.topoStat.getLsbD 63 then s
    else modDie s d fun x =>
      { x with
        topoCtl := v &&& (ones ⟨63, 1⟩ ||| ones ⟨0, 10⟩)
        topoStat := if v.getLsbD 63 then ones ⟨63, 1⟩ else x.topoStat }
  else if o = 0x220000 then spillwayAreaWrite s d false v
  else if o = 0x220008 then spillwayAreaWrite s d true v
  else if o = 0x230000 then
    if x.cascStat.getLsbD 63 then s
    else if v.getLsbD 63 then
      modDie s d fun x => { x with cascCtl := v &&& (ones ⟨63, 1⟩ ||| ones ⟨8, 1⟩ ||| ones ⟨0, 3⟩), cascStat := ones ⟨63, 1⟩ }
    else s
  else if 0x1000000 ≤ o ∧ o < 0x2000000 ∧ o % 0x20000 = 0x2000 then
    tbinvWrite s (d * 128 + (o - 0x1000000) / 0x20000) v
  else s

/-- A write of a doubleword of a module window. The S bits of a ring descriptor that R331 calls reserved keep what is written, so that the check of R332 can
find one set (DESIGN CHOICE, notes/assumptions 166). -/
def writeModReg (s : State) (m o : Nat) (v : Word) : State :=
  let x := getMod s m
  if 0x1000200 ≤ o ∧ o < 0x1000300 then
    let d := (o - 0x1000200) / 16
    let base := o / 8 % 2 * 64
    ((upFrom 0 64).filter fun i => v.getLsbD i).foldl (fun s i => rdyclRetire s (m * 2048 + d * 128 + base + i)) s
  else if o = 0x4000000 then fabcfgWrite s m v
  else if o = 0x4000008 then linkstatWrite s m v
  else if 0x4100000 ≤ o ∧ o < 0x4100400 then
    let r := (o - 0x4100000) / 64
    let j := o / 8 % 8
    if 5 ≤ j then s
    else modRing s m r fun x =>
      { x with desc := putDword x.desc j (if j = 0 then masked (dword x.desc 0) v (~~~ones ⟨62, 2⟩) else v) }
  else if o = 0x4100400 then
    if x.pealStat.getLsbD 63 then s
    else modMod s m fun x =>
      { x with
        pealCtl := v &&& (ones ⟨63, 1⟩ ||| ones ⟨8, 2⟩ ||| ones ⟨0, 4⟩)
        pealStat := if v.getLsbD 63 && fget ⟨8, 2⟩ v != 3 then ones ⟨63, 1⟩ else x.pealStat }
  else if 0x4200000 ≤ o ∧ o < 0x4210000 then stripeWrite s m (o - 0x4200000) v
  else if o = 0x4301000 then tbinvmWrite s m v
  else if o = 0x4302000 then modMod s m fun x => { x with evqBase := v &&& ~~~ones ⟨0, 5⟩ }
  else if o = 0x4302008 then modMod s m fun x => { x with evqCfg := v &&& (ones ⟨63, 1⟩ ||| ones ⟨0, 4⟩) }
  else if o = 0x4302018 then modMod s m fun x => { x with evqHead := v.setWidth 32 }
  else if o = 0x4303000 then modMod s m fun x => { x with apbase := v &&& ones ⟨36, 12⟩ }
  else if o = 0x4304000 then
    if x.trapstat.getLsbD 63 then s
    else modMod s m fun x =>
      { x with
        trapimg := v &&& (ones ⟨63, 1⟩ ||| ones ⟨7, 41⟩)
        trapstat := if v.getLsbD 63 then ones ⟨63, 1⟩ else x.trapstat }
  else if o = 0x4305000 then modMod s m fun x => { x with fwmbAddr := v &&& ~~~ones ⟨0, 12⟩ }
  else if o = 0x4305008 then
    let busy := x.fwmbStat.getLsbD 63
    let w := v &&& (ones ⟨63, 1⟩ ||| ones ⟨0, 33⟩)
    modMod s m fun x =>
      { x with
        fwmbCtl := if busy then masked x.fwmbCtl v (ones ⟨0, 33⟩) else w
        fwmbStat := if v.getLsbD 63 then ones ⟨63, 1⟩ else x.fwmbStat
        fwmbJob := if v.getLsbD 63 && !busy then (x.fwmbAddr, w) else x.fwmbJob }
  else if 0x4306000 ≤ o ∧ o < 0x4306040 then modMod s m fun x => { x with keywr := putDword x.keywr (o / 8 % 8) v }
  else if o = 0x4306040 then keyctlWrite s m v
  else if 0x4310000 ≤ o ∧ o < 0x4320000 ∧ o / 8 % 2 = 0 then
    let t := (o - 0x4310000) / 16
    modMod s m fun x =>
      { x with tenants := tset 0 x.tenants t (v &&& ((if t = 0 then 0 else ones ⟨63, 1⟩) ||| ones ⟨12, 36⟩)) }
  else if o = 0x4430000 then pcapWrite s m v
  else s

/-- Write a doubleword of a window. -/
def writeReg (s : State) (ga : Nat) (v : Word) : State :=
  match region ga with
  | .dieWin d o => writeDieReg s d o v
  | .modWin m o => writeModReg s m o v
  | _ => s

/-- Registers whose bit 63 starts an operation when a 1 is written and stays as it was written: FWMBCTL, PEALCTL and TRAPIMG; TOPOCTL and CASCCTL (R425, R331,
R406, R291, R301). A narrow write that leaves the bit out writes it 0 (DEDUCED, notes/assumptions 131). -/
def startsModule (o : Nat) : Bool := o == 0x4305008 || o == 0x4100400 || o == 0x4304000
def startsDie (o : Nat) : Bool := o == 0x210008 || o == 0x230000

/-- What the bytes that a narrow write leaves out count as: what stands there, and nothing where a 1 has an effect (R403, R425) (DEDUCED,
notes/assumptions 131). -/
def restOf (s : State) (ga : Nat) : Word :=
  let old := (readReg s ga).getD 0
  match region ga with
  | .modWin m o =>
    if 0x1000200 ≤ o ∧ o < 0x1000300 then 0
    else if 0x4306000 ≤ o ∧ o < 0x4306040 then dword (getMod s m).keywr (o / 8 % 8)
    else if startsModule o then old &&& ~~~ones ⟨63, 1⟩
    else old
  | .dieWin _ o => if startsDie o then old &&& ~~~ones ⟨63, 1⟩ else old
  | _ => old

/-- Write bytes of a window: each doubleword they touch is written once, its other bytes as they read. -/
def writeRegBytes (s : State) (cells : List Host.Cell) : State :=
  ((cells.map fun c => c.1 / 8).dedup).foldl (fun s dw =>
    let old := (restOf s (8 * dw)).toNat
    let v := leNat ((upFrom (8 * dw) 8).map fun a =>
      match cells.find? fun c => c.1 == a with
      | some c => c.2
      | none => BitVec.ofNat 8 (old / 2 ^ (8 * (a % 8))))
    writeReg s (8 * dw) (BitVec.ofNat 64 v)) s

/-- REGISTER_WRITE: a write of a doubleword at firmware level or from the host (R429). -/
def execRegisterWrite (s : State) : Host.Outcome State Fault Refusal :=
  .next (whilePowered s (moduleOf s.argA) (if isWindow s.argA then writeReg s (s.argA / 8 * 8) s.argV else s))

end Sys2Proof.Machine
end

