-- ==== Sys2Proof/Machine/Desc.lean ====
section
/-!
DEFINITION. The fault map in force, and matrix operation descriptors: operand layout, ranges, and the lock on the ranges of queued commands (R62, R189–R191, R193).
-/
namespace Sys2Proof.Machine

/-! ### Fault map (R62) -/

def shapeOf (s : State) (q t : Nat) : Nat := fget F.fmShape (tget 0 (getCluster s q).fmap t)
def disabled (s : State) (q t : Nat) : Bool := shapeOf s q t == 3

/-- L: blocks that are not disabled (R62). -/
def liveCount (s : State) (q : Nat) : Nat := ((upFrom 0 16).filter fun t => !disabled s q t).length

/-! ### Operands of a command -/

/-- Bits of an element of a matrix format (R102, R190). -/
def matBits : Elem → Nat
  | .fp32 | .int32 | .uint32 => 32
  | .bf16 | .fp16 => 16
  | .e4m3 | .e5m2 | .int8 => 8
  | .e2m1 | .int4 => 4

/-- Bytes that a row of n elements of b bits occupies (R190). -/
def rowBytes (n b : Nat) : Nat := 64 * ((n * b + 511) / 512)

/-- ceil(K / 32) (R190). -/
def scaleCols (k : Nat) : Nat := (k + 31) / 32

/-- A block's columns or width of B (R190): N of `mop`, N/16 of `mring`. -/
def slabWidth (c : MCmd) : Nat := if c.form = .mring then fget F.mdN c.desc / 16 else fget F.mdN c.desc

/-- Rows of A that the entry checks and the lock cover: M, or min(M, 8) for a ring command (R190). -/
def checkRows (c : MCmd) : Nat := if c.form = .mop then fget F.mdM c.desc else Nat.min (fget F.mdM c.desc) 8

/-- An operand range: base offset and bytes (DEDUCED, notes/assumptions 47). -/
def tcmRanges (c : MCmd) : List (Nat × Nat) :=
  let d := c.desc
  let b := matBits c.elem
  let k := fget F.mdK d
  let rows := checkRows c
  match c.form with
  | .mzero | .aini => []
  | .attn =>
    (fget F.mdA d, rows * rowBytes k b) ::
      if fget F.mdBsrc d = 0 then
        [(fget F.mdB d, fget F.mdTs d * rowBytes k b), (fget F.mdVbase d, fget F.mdTs d * rowBytes (fget F.mdN d) b)]
      else []
  | _ =>
    [(fget F.mdA d, rows * rowBytes k b), (fget F.mdB d, k * rowBytes (slabWidth c) b)] ++
      if fget F.mdSc d = 1 then
        [(fget F.mdSa d, rows * rowBytes (scaleCols k) 8), (fget F.mdSb d, scaleCols k * rowBytes (slabWidth c) 8)]
      else []

/-- Ranges in the slot frame of an `attn` with BSRC = 01: all 16 slabs (R190). -/
def slotRanges (c : MCmd) : List (Nat × Nat) :=
  let d := c.desc
  let b := matBits c.elem
  if c.form = .attn ∧ fget F.mdBsrc d = 1 then
    [(fget F.mdB d, 16 * fget F.mdTs d * rowBytes (fget F.mdK d) b), (fget F.mdVbase d, 16 * fget F.mdTs d * rowBytes (fget F.mdN d) b)]
  else []

/-- A queued or running command of the core holds a byte of a range of its own TCM (R191). -/
def locked (s : State) (g ga n : Nat) : Bool :=
  (getCore s g).cmds.any fun c => (tcmRanges c).any fun r =>
    decide (gaTcm g r.1 < ga + n) && decide (ga < gaTcm g r.1 + r.2)

end Sys2Proof.Machine
end

