-- ==== Sys2Proof/Machine/Flags.lean ====
section
/-!
DEFINITION. The sticky flags of FMODE (R39, R115) and the dynamic rounding mode.
-/
namespace Sys2Proof.Machine

/-- The five flags, in the order of FMODE [12:8] (R39). -/
structure Flags where
  nv : Bool := false
  dz : Bool := false
  of : Bool := false
  uf : Bool := false
  nx : Bool := false
  deriving DecidableEq, Repr

/-- Flags of two operations together (R115). -/
def Flags.or (a b : Flags) : Flags where
  nv := a.nv || b.nv
  dz := a.dz || b.dz
  of := a.of || b.of
  uf := a.uf || b.uf
  nx := a.nx || b.nx

def Flags.join (l : List Flags) : Flags := l.foldl Flags.or {}

/-- FMODE [12:8] (R39). -/
def Flags.bits (f : Flags) : Nat := f.nx.toNat + 2 * f.uf.toNat + 4 * f.of.toNat + 8 * f.dz.toNat + 16 * f.nv.toNat

/-- Raise flags in FMODE, unless NF is set (R115). -/
def raise (s : State) (g : Nat) (nf : Bool) (f : Flags) : State :=
  if nf then s else modCore s g fun c => { c with fmode := c.fmode ||| BitVec.ofNat 64 (f.bits * 256) }

/-- FMODE.RM and FMODE.FTZ of a core (R39). -/
def dynRm (s : State) (g : Nat) : BitVec 3 := (getCore s g).fmode.extractLsb' 0 3
def dynFtz (s : State) (g : Nat) : Bool := (getCore s g).fmode.getLsbD 3

end Sys2Proof.Machine
end

