-- ==== Sys2Proof/Machine/Fp.lean ====
section
/-!
DEFINITION. Number formats, RoundFP, and exact arithmetic on their values (R102–R111, R114, R115); the special functions (R186).
-/
namespace Sys2Proof.Machine

/-! ### Formats (R102) -/

/-- A floating-point format: exponent and mantissa bits, bias, the code of the largest finite magnitude, the codes of +∞ and of the canonical
NaN where it has them, and whether FTZ applies (R107). -/
structure FFmt where
  bits : Nat
  man : Nat
  bias : Nat
  maxCode : Nat
  infCode : Option Nat
  nanCode : Nat
  ftz : Bool
  deriving DecidableEq, Repr

def fp32 : FFmt := ⟨32, 23, 127, 0x7F7FFFFF, some 0x7F800000, 0x7FC00000, true⟩
def fp16 : FFmt := ⟨16, 10, 15, 0x7BFF, some 0x7C00, 0x7E00, true⟩
def bf16 : FFmt := ⟨16, 7, 127, 0x7F7F, some 0x7F80, 0x7FC0, true⟩
def e5m2 : FFmt := ⟨8, 2, 15, 0x7B, some 0x7C, 0x7E, false⟩
def e4m3 : FFmt := ⟨8, 3, 7, 0x7E, none, 0x7F, false⟩
def e2m1 : FFmt := ⟨4, 1, 1, 0x7, none, 0x0, false⟩

/-- Exponent of the smallest normal. -/
def FFmt.emin (f : FFmt) : Int := 1 - (f.bias : Int)

/-- A value: NaN (signalling or not), infinity, or (−1)^neg × m × 2^e. -/
inductive Val
  | nan (signalling : Bool)
  | inf (neg : Bool)
  | num (neg : Bool) (m : Nat) (e : Int)
  deriving DecidableEq, Repr

/-- Sign of a value; a NaN has none. -/
def Val.neg : Val → Bool
  | .nan _ => false
  | .inf n => n
  | .num n _ _ => n

def Val.isNan : Val → Bool
  | .nan _ => true
  | _ => false

def Val.isZero : Val → Bool
  | .num _ m _ => m == 0
  | _ => false

def Val.signalling : Val → Bool
  | .nan b => b
  | _ => false

/-- Value of an encoding (R103); with `ftz`, a subnormal of a format that FTZ applies to is a zero (R107). -/
def valueOf (f : FFmt) (ftz : Bool) (x : Nat) : Val :=
  let mag := x % 2 ^ (f.bits - 1)
  let neg := decide (x / 2 ^ (f.bits - 1) % 2 = 1)
  if f.infCode = some mag then .inf neg
  else if f.maxCode < mag then
    .nan (f.infCode.isSome && decide (mag / 2 ^ (f.man - 1) % 2 = 0))
  else
    let ex := mag / 2 ^ f.man
    let m := mag % 2 ^ f.man
    if ex = 0 then .num neg (if ftz && f.ftz then 0 else m) (f.emin - f.man)
    else .num neg (m + 2 ^ f.man) (f.emin - f.man + (ex - 1 : Nat))

/-! ### Rounding (R108–R111) -/

inductive RMode | rne | rtz | rdn | rup | rna | sr
  deriving DecidableEq, Repr

/-- Rounding codes (R39, R72). -/
def rmodeOf : Nat → RMode
  | 1 => .rtz
  | 2 => .rdn
  | 3 => .rup
  | 4 => .rna
  | 5 => .sr
  | _ => .rne

/-- SR taken as RNE (R113, R116). -/
def RMode.noSr : RMode → RMode
  | .sr => .rne
  | m => m

/-- The magnitude m × 2^e in units of 2^q: whole part, whether the rest is below, at or above a half, and the rest in units of
2^−32, cut off. -/
structure Cut where
  n : Nat
  half : Ordering
  exact : Bool
  frac : Nat

def cutAt (m : Nat) (e q : Int) : Cut :=
  if q ≤ e then { n := m * 2 ^ (e - q).toNat, half := .lt, exact := true, frac := 0 }
  else
    let k := (q - e).toNat
    let r := m % 2 ^ k
    { n := m / 2 ^ k, half := compare (2 * r) (2 ^ k), exact := r == 0, frac := r * 2 ^ 32 / 2 ^ k }

/-- Round up or not (R108, R111). -/
def roundsUp (mode : RMode) (neg : Bool) (c : Cut) (g : Nat) : Bool :=
  match mode with
  | .rtz => false
  | .rup => !c.exact && !neg
  | .rdn => !c.exact && neg
  | .rne => c.half == .gt || (c.half == .eq && c.n % 2 == 1)
  | .rna => c.half != .lt
  | .sr => decide (2 ^ 32 ≤ c.frac + g)

/-- Sign bit and magnitude. -/
def signed (f : FFmt) (neg : Bool) (mag : Nat) : Nat := if neg then 2 ^ (f.bits - 1) + mag else mag

/-- Overflow (R109). -/
def overflow (f : FFmt) (mode : RMode) (sat neg : Bool) : Nat :=
  let away := match mode with
    | .rne | .rna | .sr => true
    | .rup => !neg
    | .rdn => neg
    | .rtz => false
  if sat || !away then signed f neg f.maxCode
  else match f.infCode with
    | some i => signed f neg i
    | none => if f.nanCode = 0 then signed f neg f.maxCode else f.nanCode

/-- NaN and infinities narrowed (R110, R106). -/
def special (f : FFmt) (sat : Bool) : Val → Nat × Flags
  | .nan s => (f.nanCode, { nv := s || f.nanCode == 0 })
  | .inf neg =>
    match f.infCode with
    | some i => if sat then (signed f neg f.maxCode, { nv := true }) else (signed f neg i, {})
    | none => if f.nanCode = 0 || sat then (signed f neg f.maxCode, { nv := true }) else (f.nanCode, { nv := true })
  | .num _ _ _ => (0, {})

/-- RoundFP (R108), with the generator's state for SR; the flags are those of R115. -/
def roundFP (v : Val) (f : FFmt) (mode : RMode) (sat ftz : Bool) (g : Nat) : Nat × Flags :=
  match v with
  | .num neg 0 _ => (signed f neg 0, {})
  | .num neg m e =>
    let top := (Nat.log2 m : Int) + e
    let ex := if top < f.emin then f.emin else top
    let c := cutAt m e (ex - f.man)
    let n := if roundsUp mode neg c g then c.n + 1 else c.n
    let mag := ((ex - f.emin).toNat) * 2 ^ f.man + n
    if f.maxCode < mag then (overflow f mode sat neg, { of := true, nx := true })
    else if ftz && f.ftz && decide (0 < mag) && decide (mag < 2 ^ f.man) then (signed f neg 0, { uf := true, nx := true })
    else (signed f neg mag, { nx := !c.exact, uf := !c.exact && decide (top < f.emin) })
  | s => special f sat s

/-- Bits of a rounded FP32 result. -/
def lane (r : Nat × Flags) : Lane := BitVec.ofNat 32 r.1

/-- One step of a lane generator (R112). -/
def genStep (x : Lane) : Lane :=
  let a := x ^^^ (x <<< 13)
  let b := a ^^^ (a >>> 17)
  b ^^^ (b <<< 5)

/-! ### Exact arithmetic (R106, R115) -/

/-- A value as an integer at an exponent not above its own. -/
def scaled (neg : Bool) (m : Nat) (e q : Int) : Int := (if neg then -1 else 1) * (m * 2 ^ (e - q).toNat : Nat)

/-- Exact sum; an exactly zero sum of opposite signs is +0, or −0 under RDN. The Bool: invalid. -/
def addVal (mode : RMode) (a b : Val) : Val × Bool :=
  match a, b with
  | .nan s, y => (.nan false, s || y.signalling)
  | x, .nan s => (.nan false, s || x.signalling)
  | .inf n, .inf k => if n = k then (.inf n, false) else (.nan false, true)
  | .inf n, _ => (.inf n, false)
  | _, .inf n => (.inf n, false)
  | .num na ma ea, .num nb mb eb =>
    let q := if ea < eb then ea else eb
    let t := scaled na ma ea q + scaled nb mb eb q
    if t = 0 then (.num (if na = nb then na else mode == .rdn) 0 0, false)
    else (.num (decide (t < 0)) t.natAbs q, false)

def negVal : Val → Val
  | .nan s => .nan s
  | .inf n => .inf !n
  | .num n m e => .num (!n) m e

/-- Exact product. -/
def mulVal (a b : Val) : Val × Bool :=
  match a, b with
  | .nan s, y => (.nan false, s || y.signalling)
  | x, .nan s => (.nan false, s || x.signalling)
  | .inf n, y => if y.isZero then (.nan false, true) else (.inf (n != y.neg), false)
  | x, .inf n => if x.isZero then (.nan false, true) else (.inf (n != x.neg), false)
  | .num na ma ea, .num nb mb eb => (.num (na != nb) (ma * mb) (ea + eb), false)

/-- Exact a × b + c. -/
def fmaVal (mode : RMode) (a b c : Val) : Val × Bool :=
  let p := mulVal a b
  let r := addVal mode p.1 c
  (r.1, p.2 || r.2)

/-- Round an exact result to FP32, adding the invalid flag. -/
def round32 (r : Val × Bool) (mode : RMode) (sat ftz : Bool) (g : Nat) : Lane × Flags :=
  let x := roundFP r.1 fp32 mode sat ftz g
  (lane x, if r.2 then { x.2 with nv := true } else x.2)

def val32 (ftz : Bool) (x : Lane) : Val := valueOf fp32 ftz x.toNat

/-- FP32 addition as reductions at a home, attention and the Basin make it: RNE, no FTZ (R152, R229). -/
def addLane (a b : Lane) : Lane := (round32 (addVal .rne (val32 false a) (val32 false b)) .rne false false 0).1

/-- Order of non-NaN FP32 encodings, −0 below +0. -/
def fpKey (x : Lane) : Int := if x.msb then -((x.toNat - 2 ^ 31 : Nat) : Int) - 1 else x.toNat

def isNan32 (x : Lane) : Bool := (val32 false x).isNan

/-- A subnormal source read under FTZ (R107). -/
def ftzSrc (ftz : Bool) (x : Lane) : Lane := if ftz && (x.toNat / 2 ^ 23 % 256 == 0) then x &&& 0x80000000 else x

/-- A value rounded to an integer of n bits (R114): result bits and flags. -/
def roundInt (v : Val) (n : Nat) (signed_ : Bool) (mode : RMode) (sat : Bool) (g : Nat) : BitVec n × Flags :=
  let lo : Int := if signed_ then -(2 ^ (n - 1) : Nat) else 0
  let hi : Int := if signed_ then (2 ^ (n - 1) : Nat) - 1 else (2 ^ n : Nat) - 1
  let most := BitVec.ofInt n lo
  match v with
  | .nan _ => (if sat then 0 else most, { nv := true })
  | .inf neg => (if sat then BitVec.ofInt n (if neg then lo else hi) else most, { of := true, nx := true, nv := true })
  | .num neg m e =>
    let c := cutAt m e 0
    let k : Nat := if roundsUp mode neg c g then c.n + 1 else c.n
    let r : Int := if neg then -(k : Int) else k
    if r < lo ∨ hi < r then (if sat then BitVec.ofInt n (if neg then lo else hi) else most, { of := true, nx := true })
    else (BitVec.ofInt n r, { nx := !c.exact })

/-- An integer as a value. -/
def intVal (i : Int) : Val := .num (decide (i < 0)) i.natAbs 0

/-! ### Special functions (R186): enclosures at 2^−256 -/

/-- Working precision of the enclosures. -/
def spP : Nat := 256
def one : Nat := 2 ^ spP

/-- Lower bound of ln 2 as Σ 1 / (k 2^k) over k = 1 to n. -/
def ln2Sum : Nat → Nat
  | 0 => 0
  | k + 1 => ln2Sum k + one / ((k + 1) * 2 ^ (k + 1))

/-- ln 2 lies between these. -/
def ln2Lo : Nat := ln2Sum 256
def ln2Hi : Nat := ln2Sum 256 + 300

/-- Σ y^n / n! from the n-th term on, each term cut off; `up` adds one unit to every term. -/
def expSum (y up : Nat) (term n : Nat) : Nat → Nat
  | 0 => term + up
  | k + 1 => term + expSum y up (term * y / one / (n + 1) + up) (n + 1) k

/-- Bounds of e^y for y below 1, given bounds of y. -/
def expLo (y : Nat) : Nat := expSum y 0 one 0 70
def expHi (y : Nat) : Nat := expSum y 1 one 0 70 + 70

/-- Square k times, rounding down, or up. -/
def squareLo (x : Nat) : Nat → Nat
  | 0 => x
  | k + 1 => squareLo (x * x / one) k
def squareHi (x : Nat) : Nat → Nat
  | 0 => x
  | k + 1 => squareHi (x * x / one + 1) k

/-- Bounds of e^y for y below 256, given exactly at 2^−256. -/
def bigExpLo (y : Nat) : Nat := squareLo (expLo (y / 2 ^ 8)) 8
def bigExpHi (y : Nat) : Nat := squareHi (expHi (y / 2 ^ 8 + 1)) 8

/-- t + t^3/3 + t^5/5 + … cut off, or with a unit more for every term. -/
def atanhSum (t2 up : Nat) (power n : Nat) : Nat → Nat
  | 0 => up
  | k + 1 => power / n + up + atanhSum t2 up (power * t2 / one + up) (n + 2) k

/-- Bounds of ln z for z from 1 to 2 at 2^−256: 2 atanh ((z − 1) / (z + 1)). -/
def lnLo (z : Nat) : Nat :=
  let t := (z - one) * one / (z + one)
  2 * atanhSum (t * t / one) 0 t 1 90
def lnHi (z : Nat) : Nat :=
  let t := (z - one) * one / (z + one) + 1
  2 * (atanhSum (t * t / one + 1) 1 t 1 90 + 90)

/-- The FP32 result nearest a value just above m × 2^e: it is not m × 2^e itself, and no FP32 argument of these functions brings a rounding
boundary between the two (R186) (PRESUMED, notes/assumptions 161). -/
def above (neg ftz : Bool) (m : Nat) (e : Int) : Lane × Flags :=
  let a := roundFP (.num neg (2 * m + 1) (e - 1)) fp32 .rne false ftz 0
  (lane a, a.2)

/-- Largest r with r² ≤ n, found bit by bit from the top. -/
def isqrt (n : Nat) (r : Nat) : Nat → Nat
  | 0 => r
  | k + 1 =>
    let t := r + 2 ^ k
    isqrt n (if t * t ≤ n then t else r) k

/-- |x| = m × 2^e as a number at 2^−256; e is at least −256 here. -/
def fixed (m : Nat) (e : Int) : Nat := m * 2 ^ (e + spP).toNat

def exp2Num (ftz neg : Bool) (m : Nat) (e : Int) : Lane × Flags :=
  if m = 0 then (0x3F800000, {})
  else
    let top := (Nat.log2 m : Int) + e
    if 8 ≤ top then
      if neg then above false ftz 1 (-400) else (0x7F800000, { of := true, nx := true })
    else
      let a := fixed m e
      let i : Int := if neg then -((a + one - 1) / one : Nat) else (a / one : Nat)
      let f := if neg then (a + one - 1) / one * one - a else a % one
      if 128 ≤ i then (0x7F800000, { of := true, nx := true })
      else if f = 0 then
        let r := roundFP (.num false 1 i) fp32 .rne false ftz 0
        (lane r, r.2)
      else above false ftz (expLo (f * ln2Lo / one)) (i - spP)

def log2Num (ftz : Bool) (m : Nat) (e : Int) : Lane × Flags :=
  let k := Nat.log2 m
  let i : Int := (k : Int) + e
  if m = 2 ^ k then
    let r := roundFP (intVal i) fp32 .rne false ftz 0
    (lane r, r.2)
  else
    let z := m * one / 2 ^ k
    let lo : Int := i * one + (lnLo z * one / ln2Hi : Nat)
    let hi : Int := i * one + (lnHi z * one / ln2Lo + 1 : Nat)
    if 0 ≤ lo then above false ftz lo.toNat (-spP) else above true ftz (-hi).toNat (-spP)

def rcpNum (ftz neg : Bool) (m : Nat) (e : Int) : Lane × Flags :=
  let n := 2 ^ 90
  let r := roundFP (.num neg (2 * (n / m) + (decide (n % m ≠ 0)).toNat) (-e - 91)) fp32 .rne false ftz 0
  (lane r, r.2)

def rsqrtNum (ftz : Bool) (m : Nat) (e : Int) : Lane × Flags :=
  let (m', e') := if e % 2 = 0 then (m, e) else (2 * m, e - 1)
  let n := 2 ^ 200
  let q := isqrt (n / m') 0 101
  let r := roundFP (.num false (2 * q + (decide (q * q * m' ≠ n)).toNat) (-(e' / 2) - 101)) fp32 .rne false ftz 0
  (lane r, r.2)

def tanhNum (ftz neg : Bool) (m : Nat) (e : Int) : Lane × Flags :=
  if m = 0 then (if neg then 0x80000000 else 0, {})
  else if 4 ≤ (Nat.log2 m : Int) + e then above neg ftz (2 ^ 64 - 2 ^ 24) (-64)
  else if (Nat.log2 m : Int) + e < -40 then above neg ftz (m * 2 ^ 80 - m) (e - 80)
  else
    let lo := bigExpLo (2 * fixed m e)
    above neg ftz ((lo - one) * one / (lo + one)) (-spP)

def sigNum (ftz neg : Bool) (m : Nat) (e : Int) : Lane × Flags :=
  if m = 0 then (0x3F000000, {})
  else if 7 ≤ (Nat.log2 m : Int) + e then
    if neg then above false ftz 1 (-400) else above false ftz (2 ^ 64 - 2) (-64)
  else
    let y := fixed m e
    let lo := bigExpLo y
    if neg then above false ftz (one * one / (bigExpHi y + one)) (-spP) else above false ftz (lo * one / (lo + one)) (-spP)

/-- The six forms by selector: vexp2, vlog2, vrcp, vrsqrt, vtanh, vsig (R186). -/
def specialFn (sel : Nat) (ftz : Bool) (x : Lane) : Lane × Flags :=
  let qnan : Lane := 0x7FC00000
  let pinf : Lane := 0x7F800000
  match val32 ftz x with
  | .nan s => (qnan, { nv := s })
  | .inf neg =>
    match sel, neg with
    | 0, false => (pinf, {})
    | 0, true => (0, {})
    | 1, false => (pinf, {})
    | 1, true => (qnan, { nv := true })
    | 2, false => (0, {})
    | 2, true => (0x80000000, {})
    | 3, false => (0, {})
    | 3, true => (qnan, { nv := true })
    | 4, false => (0x3F800000, {})
    | 4, true => (0xBF800000, {})
    | _, false => (0x3F800000, {})
    | _, true => (0, {})
  | .num neg m e =>
    let signedInf : Lane := if neg then 0xFF800000 else pinf
    match sel with
    | 0 => exp2Num ftz neg m e
    | 1 => if m = 0 then (0xFF800000, { dz := true }) else if neg then (qnan, { nv := true }) else log2Num ftz m e
    | 2 => if m = 0 then (signedInf, { dz := true }) else rcpNum ftz neg m e
    | 3 => if m = 0 then (signedInf, { dz := true }) else if neg then (qnan, { nv := true }) else rsqrtNum ftz m e
    | 4 => tanhNum ftz neg m e
    | _ => sigNum ftz neg m e

end Sys2Proof.Machine
end

