-- ==== Sys2Proof/Machine/Xlat.lean ====
section
/-!
DEFINITION. Translation: the virtual map, page-table walks and the access check, translation buffers and stripes (R50–R55, R329, R330, R399, R428).
-/
namespace Sys2Proof.Machine

/-- The rights an access needs (R428), and whether it may append a state page (R227). -/
structure Need where
  rd : Bool := false
  wr : Bool := false
  atm : Bool := false
  fe : Bool := false
  append : Bool := false
  deriving DecidableEq, Repr

def needLoad : Need := { rd := true }
def needStore : Need := { wr := true, append := true }
/-- A write that adds no page to a stream: of an engine, or of a drained row (R227). -/
def needWrite : Need := { wr := true }
def needAmo : Need := { rd := true, wr := true, atm := true }
def needRed : Need := { wr := true, atm := true }
def needLdSync : Need := { rd := true, fe := true }
def needTake : Need := { rd := true, wr := true, fe := true }
def needPut : Need := { wr := true, fe := true }

/-- Who accesses: core, tenant, level, stream, whether it is a migrated helper, and whether the drain window is closed to it (R200). -/
structure Who where
  g : Nat
  ten : Nat
  fw : Bool
  strm : Word
  migrant : Bool := false
  noWindow : Bool := false
  deriving DecidableEq, Repr

def whoOf (s : State) (g k : Nat) : Who :=
  let x := getCtx s g k
  { g := g, ten := fget F.ten x.priv, fw := fget F.lvl x.priv == 1, strm := x.strm
    migrant := match x.kind with | .migrant _ _ _ _ => true | _ => false
    noWindow := (getCore s g).drain.isSome && x.kind != .drain }

/-- What translating an address comes to: a global address, key index and page route; a wait; or a trap. -/
inductive Xl
  | at (s : State) (ga key route : Nat)
  | wait (s : State) (w : Wait)
  | trap (code : Nat) (val : Word)
  deriving DecidableEq, Repr

/-! ### Walks (R51–R54, R399) -/

/-- A node of so many bytes at a module physical address lies in the module's HBM. -/
def inHbm (pa n : Nat) : Bool := decide (pa + n ≤ 2 ^ 40)

/-- Page size of a leaf by SZ. -/
def pageSize (sz : Nat) : Nat := match sz with | 0 => 2 ^ 18 | 1 => 2 ^ 25 | _ => 2 ^ 32

/-- A leaf entry found at a level is well-formed (R52, R54 items 1 and 2). -/
def leafOk (s : State) (m level : Nat) (e : BitVec 128) : Bool :=
  let sz := fget F.lfSz e
  fget F.lfRsv e == 0 && decide (level < 3 ∧ sz = level) && fget F.lfRoute e != 3
    && fget F.lfPfn e * 2 ^ 18 % pageSize sz == 0
    && (fget F.lfSt e == 0
      || (decide (fget F.lfHome e ≤ 255) && (tget 0 (getMod s m).stripeCtl (fget F.lfHome e)).getLsbD 63))

/-- A pointer entry at a level is well-formed; the module physical address it names (R53, R54). -/
def pointerTo (level : Nat) (e : BitVec 128) : Option Nat :=
  let next := bitsOf e.toNat 11 37 * 2 ^ 11
  if e.toNat = 1 + next ∧ level ≠ 0 ∧ (level = 3 → next % 4096 = 0) ∧ inHbm next (if level = 3 then 4096 else 2048) then some next
  else none

/-- Index of an address at a level (R51). -/
def walkIndex (va level : Nat) : Nat :=
  match level with
  | 3 => bitsOf va 40 8
  | 2 => bitsOf va 32 8
  | 1 => bitsOf va 25 7
  | _ => bitsOf va 18 7

/-- What reading one entry of a walk comes to: a leaf, the next node, or the cause that ends it. -/
inductive WalkRes
  | leaf (e : BitVec 128)
  | node (pa : Nat)
  | fault (cause : Nat)
  deriving DecidableEq, Repr

/-- Address of the entry that a walk reads in a node. -/
def walkGa (m va node level : Nat) : Nat := m * 2 ^ 48 + node + 16 * walkIndex va level

/-- One entry of a walk, read as an ordinary load reads it (R54, R146, R249) (DEDUCED, notes/assumptions 36). -/
def walkEntry (s : State) (m va node level : Nat) : State × WalkRes :=
  let ga := walkGa m va node level
  let s1 := findErrors s ga 16
  let e : BitVec 128 := BitVec.ofNat 128 (readNat s1 ga 16)
  (s1,
    if (poisoned s1 ga 16).isSome then .fault 0x0A
    else if fget F.lfV e = 0 then .fault 0x06
    else if fget F.lfL e = 1 then (if leafOk s1 m level e then .leaf e else .fault 0x06)
    else match pointerTo level e with
      | some next => .node next
      | none => .fault 0x06)

/-- Walk from a node at a level: the leaf, or the cause of its trap. -/
def walkFrom (s : State) (m va : Nat) (node : Nat) : Nat → State × Except Nat (BitVec 128)
  | 0 =>
    match walkEntry s m va node 0 with
    | (t, .leaf e) => (t, .ok e)
    | (t, .fault c) => (t, .error c)
    | (t, .node _) => (t, .error 0x06)
  | level + 1 =>
    match walkEntry s m va node (level + 1) with
    | (t, .leaf e) => (t, .ok e)
    | (t, .fault c) => (t, .error c)
    | (t, .node next) => walkFrom t m va next level

/-- The root node of a tenant's table, where the tenant's entry is valid and the root lies in the module's HBM (R54, R399). -/
def walkRoot (s : State) (m ten : Nat) : Option Nat :=
  let t := tget 0 (getMod s m).tenants ten
  let root := bitsOf t.toNat 12 36 * 2 ^ 12
  if t.getLsbD 63 ∧ inHbm root 4096 then some root else none

/-- The walk of a tenant's table for an address, made at once (R399). -/
def walk (s : State) (m ten va : Nat) : State × Except Nat (BitVec 128) :=
  match walkRoot s m ten with
  | some root => walkFrom s m va root 3
  | none => (s, .error 0x06)

/-- Peers of a stripe-set entry, in order (R329). -/
def stripePeers (s : State) (m set : Nat) : List Nat :=
  let x := getMod s m
  (upFrom (64 * set) (fget ⟨0, 8⟩ (tget 0 x.stripeCtl set))).map fun i => (tget 0 x.stripeMem i).toNat

/-- The buffer entry of a leaf, as the module's walker makes it. -/
def tlbEntry (s : State) (m ten va : Nat) (leaf : BitVec 128) : TlbEntry :=
  let size := pageSize (fget F.lfSz leaf)
  { tenant := ten, base := va / size * size, size := size, leaf := leaf
    peers := if fget F.lfSt leaf = 1 then stripePeers s m (fget F.lfHome leaf) else [] }

def tlbFind (x : Cluster) (ten va : Nat) : Option TlbEntry :=
  x.tlb.find? fun e => e.tenant == ten && decide (e.base ≤ va) && decide (va < e.base + e.size)

/-- An address begins a page, or a block of a striped page, as the cluster's buffer maps it; outside paged memory, a page of the state window
(R55, R168, R330). -/
def beginsPiece (s : State) (q ten va : Nat) : Bool :=
  match tlbFind (getCluster s q) ten va with
  | some e => va == e.base || (!e.peers.isEmpty && va % 256 == 0)
  | none => va % 2 ^ 18 == 0

/-- Put an entry into a buffer of 1,024; which one it replaces when full is the hardware's choice (R5, R54) (DESIGN CHOICE, notes/assumptions 34). -/
def tlbInsert (s : State) (q : Nat) (e : TlbEntry) : State :=
  let l := (getCluster s q).tlb
  if l.length < 1024 then modCluster s q fun x => { x with tlb := l ++ [e] }
  else
    let (v, s1) := draw s
    modCluster s1 q fun x => { x with tlb := l.eraseIdx (v % l.length) ++ [e] }

/-! ### The access check -/

/-- Home of a byte under a buffer entry: module and physical address (R52, R330). -/
def leafHome (va : Nat) (e : TlbEntry) : Nat × Nat :=
  let off := va - e.base
  let pa := fget F.lfPfn e.leaf * 2 ^ 18
  if fget F.lfSt e.leaf = 0 then (fget F.lfHome e.leaf, pa + off)
  else
    let n := e.peers.length
    let b := off / 256
    let peer := if [2, 4, 8, 16, 32, 64].contains n then (b ^^^ (b / n)) % n else b % n
    (e.peers.getD peer 0, pa + b / n * 256 + va % 256)

/-- The home of an access: module in the domain (R324), no hole (R48, R429), windows at firmware level only, HBM that is ready (R404) and whose
key is not cleared (R408), and full bits where they exist (R148). R49 gives PROT to a window that user level reaches and R28 gives PRIV; the model
takes PROT (DEDUCED, notes/assumptions 142). A module whose own MODID lies outside its FABCFG is no home in the domain, for its own cores too (DESIGN
CHOICE, notes/assumptions 154). -/
def homeFault (s : State) (w : Who) (need : Need) (ga n key : Nat) : Bool :=
  let m := moduleOf ga
  !inDomain s (modOf w.g) m ||
    match region ga with
    | .hole => true
    | .dieWin _ _ | .modWin _ _ => !w.fw || need.fe || (dwords ga n).any fun dw => (readReg s (8 * dw)).isNone
    | .hbm d _ => powered s m && (!(getDie s d).rdy.getLsbD 2 || (key != 0 && tget 0 (getMod s m).keys key == 0))
    | .frame _ _ => need.fe
    | .spad _ _ | .tcm _ _ => false

/-- The check of a leaf against an access (R54 items 3 to 5). -/
def judgeLeaf (s : State) (w : Who) (need : Need) (va n : Nat) (e : TlbEntry) : Xl :=
  let x := e.leaf
  let bad : Bool := fget F.lfOwner x != w.ten
    || (need.rd && fget F.lfRd x == 0) || (need.wr && fget F.lfWr x == 0) || (need.atm && fget F.lfAtm x == 0)
    || (need.fe && fget F.lfFe x == 0) || (!w.fw && fget F.lfUsr x == 0)
  let (m, pa) := leafHome va e
  let ga := m * 2 ^ 48 + pa
  if bad || homeFault s w need ga n (fget F.lfKey x) then .trap causePROT (BitVec.ofNat 64 va)
  else .at s ga (fget F.lfKey x) (fget F.lfRoute x)

/-- The entry of a buffer that translates an address, where it is good; one in error is discarded, counted and reported, and the translation is
walked again (R411) (DESIGN CHOICE, notes/assumptions 114). -/
def tlbHit (s : State) (q ten va : Nat) : State × Option TlbEntry :=
  match tlbFind (getCluster s q) ten va with
  | some e =>
    if e.bad then
      let s1 := modCluster s q fun x => { x with tlb := x.tlb.filter (· != e) }
      (postEvent (countUe s1 (q / 128)) (q / 2048) (srcCluster q) 0x11 (Config.bufferLocator q ten).toNat 0, none)
    else (s, some e)
  | none => (s, none)

/-- Translate an access of n bytes (R50): a missing translation waits for its walk. -/
def translate (s : State) (w : Who) (need : Need) (va : Word) (n : Nat) : Xl :=
  let a := va.toNat
  let q := clusterOf w.g
  if 2 ^ 48 ≤ a then .trap causeXLAT va
  else if a < 0x20000 then (if w.noWindow && decide (0x1F000 < a + n) then .trap causePROT va else .at s (gaTcm w.g a) 0 0)
  else if 0x100000 ≤ a ∧ a < 0x300000 then .at s (gaSpad q (a - 0x100000)) 0 0
  else if a < 0x400000 then .trap causeXLAT va
  else if 0x7E0000000000 ≤ a ∧ a < 0x7E0040000000 then
    let use := if need.append then PageUse.append else if need.wr then .write else .read
    match statePage s w.strm w.migrant va use need.fe with
    | .at t ga => .at (touchFrame t ga) ga 0 0
    | .wait t x => .wait t x
    | .trap c v => .trap c v
  else if 0x7E0000000000 ≤ a ∧ a < 0x7F0000000000 then .trap causeXLAT va
  else
    match tlbHit s q w.ten a with
    | (s, some e) => judgeLeaf s w need a n e
    | (s, none) => .wait s (.walk va none)

/-- Translate for an agent that does not wait: a walk is made at once. A trap comes with the state that its walk leaves: the errors that it met are found
(R411). -/
def translateNow (s : State) (w : Who) (need : Need) (va : Word) (n : Nat) : State × Xl :=
  match translate s w need va n with
  | .wait s1 (.walk _ _) =>
    match walk s1 (modOf w.g) w.ten va.toNat with
    | (t, .ok leaf) =>
      let e := tlbEntry t (modOf w.g) w.ten va.toNat leaf
      let u := tlbInsert t (clusterOf w.g) e
      (u, judgeLeaf u w need va.toNat n e)
    | (t, .error c) => (t, .trap c va)
  | r => (s, r)

/-- A local window: the core's TCM or its cluster's scratchpad (R50), for n bytes. -/
def localGa (g : Nat) (va : Word) (n : Nat) : Option Nat :=
  let a := va.toNat
  if a + n ≤ 0x20000 then some (gaTcm g a)
  else if 0x100000 ≤ a ∧ a + n ≤ 0x300000 then some (gaSpad (clusterOf g) (a - 0x100000))
  else none

/-- The home is local to the core: its own TCM or its own cluster's scratchpad (R25, R141). -/
def isLocal (g ga : Nat) : Bool :=
  match region ga with
  | .tcm c _ => c == g
  | .spad q _ => q == clusterOf g
  | _ => false

end Sys2Proof.Machine
end

