-- ==== Sys2Proof/Machine/Ready.lean ====
section
/-!
DEFINITION. Task control blocks and ready queues: what tasks, futures and replies share (R60, R235–R237, R272, R275).
-/
namespace Sys2Proof.Machine

/-- Table base and size of a cluster's TCBs, as a launch sees them (R275). -/
def tcbTable (s : State) (o : Option Nat) (q : Nat) : Nat × Nat :=
  match savedFrom s o q with
  | some v => (v.tcbBase, v.tcbCount)
  | none => ((getCluster s q).tcbBase, (getCluster s q).tcbCount)

/-- Where a TCB lies (R60, R235). -/
def tcbAddr (s : State) (o : Option Nat) (q idx : Nat) : Nat :=
  let off := (tcbTable s o q).1 - 0x100000 + 64 * idx
  match savedFrom s o q with
  | some v => v.area + 52 * 2 ^ 17 + off
  | none => gaSpad q off

def tcbRead (s : State) (o : Option Nat) (q idx : Nat) (f : Fld) : Nat := readNat s (tcbAddr s o q idx) 64 / 2 ^ f.lo % 2 ^ f.len

/-- A task operation reads the first n bytes of a TCB: errors there are found and corrected as an access finds them, and the bytes are taken as they
stand (R411) (DESIGN CHOICE, notes/assumptions 114). -/
def findTcb (s : State) (o : Option Nat) (q idx n : Nat) : State := findErrors s (tcbAddr s o q idx) n

/-- Write a field of a TCB: the bytes it lies in. -/
def tcbWrite (s : State) (o : Option Nat) (q idx : Nat) (f : Fld) (v : Nat) : State :=
  let a := tcbAddr s o q idx
  let y := fput f (BitVec.ofNat 512 (readNat s a 64)) v
  let lo := f.lo / 8
  writeNat s (a + lo) ((f.lo + f.len + 7) / 8 - lo) (y.toNat / 2 ^ (8 * lo))

/-- STATUS codes (R60). -/
def stFREE : Nat := 0
def stARMED : Nat := 1
def stREADY : Nat := 2
def stRUNNING : Nat := 3
def stDONE : Nat := 4
def stFAULTED : Nat := 5
def stCANCELLED : Nat := 6

def readyOf (s : State) (o : Option Nat) (q : Nat) : List ReadyTask :=
  match savedFrom s o q with
  | some v => v.ready
  | none => (getCluster s q).ready

/-- The ready queue of a saved cluster as bytes of its area: how many tasks, then each task's TCB index and readiness clock (R275, R395)
(DESIGN CHOICE, notes/assumptions 38). -/
def putReady (s : State) (area : Nat) (l : List ReadyTask) : State :=
  writeBytes s 0 (area + 0xA80000) (leBytes l.length 8 ++ l.flatMap fun t => leBytes (t.idx + t.clock % 2 ^ 52 * 2 ^ 12) 8)

def setReady (s : State) (o : Option Nat) (q : Nat) (l : List ReadyTask) : State :=
  match savedFrom s o q with
  | some w => { putReady s w.area l with saves := s.saves.map fun v => if v.area = w.area ∧ v.cluster = q then { v with ready := l } else v }
  | none => modCluster s q fun x => { x with ready := l }

/-- The task becomes READY and enters its cluster's ready queue at this clock (R235, R272). -/
def makeReady (s : State) (o : Option Nat) (q idx : Nat) : State :=
  let s1 := tcbWrite s o q idx F.tcbStatus stREADY
  setReady s1 o q (readyOf s1 o q ++ [{ idx := idx, clock := s1.now }])

/-- `tdec` at a TCB: the new DEP, or nothing when DEP was 0 (R235). -/
def tdecAt (s0 : State) (o : Option Nat) (q idx : Nat) : Option Nat × State :=
  let s := findTcb s0 o q idx 8
  let dep := tcbRead s o q idx F.tcbDep
  if dep = 0 then (none, s)
  else
    let s1 := tcbWrite s o q idx F.tcbDep (dep - 1)
    (some (dep - 1), if dep = 1 ∧ tcbRead s1 o q idx F.tcbStatus = stARMED then makeReady s1 o q idx else s1)

/-- A task goes before another: higher PRIO, earlier clock, lower index (R272). -/
def readyBefore (s : State) (g q : Nat) (a b : ReadyTask) : Bool :=
  let pa := tcbRead s (launchOf s g) q a.idx F.tcbPrio
  let pb := tcbRead s (launchOf s g) q b.idx F.tcbPrio
  decide (pb < pa) || (pa == pb && (decide (a.clock < b.clock) || (a.clock == b.clock && decide (a.idx < b.idx))))

def bestOf (s : State) (g q : Nat) (l : List ReadyTask) : Option ReadyTask :=
  l.foldl (fun b t => match b with | none => some t | some a => if readyBefore s g q t a then some t else b) none

def bestReady (s : State) (g q : Nat) : Option ReadyTask := bestOf s g q (readyOf s (launchOf s g) q)

/-- What is left of a ready queue when n contexts that wait have been served (R272). -/
def leftOver (s : State) (g q : Nat) (l : List ReadyTask) : Nat → List ReadyTask
  | 0 => l
  | n + 1 =>
    match bestOf s g q l with
    | some t => leftOver s g q (l.filter (· != t)) n
    | none => l

/-- A task handle (R235). -/
def taskHandle (q idx : Nat) : Word := BitVec.ofNat 64 (q % 128 * 2 ^ 16 + idx)

/-- A context takes a task (R236): the task is RUNNING, TRET, x0–x3, xD and the pc are set, and the port words that the `tnext` read are
popped (R131). -/
def giveTask (s0 : State) (g k q : Nat) (t : ReadyTask) (d : Reg) (next : Code) (pops : List Nat) : State :=
  let s := findTcb (pops.foldl (fun s p => popPort s g p) s0) (launchOf s0 g) q t.idx 56
  let arg (i : Nat) : Word := BitVec.ofNat 64 (tcbRead s (launchOf s g) q t.idx (F.tcbArg i))
  let entry := tcbRead s (launchOf s g) q t.idx F.tcbEntry
  let s1 := setReady s (launchOf s g) q ((readyOf s (launchOf s g) q).filter fun r => r.idx != t.idx)
  let s2 := tcbWrite s1 (launchOf s1 g) q t.idx F.tcbStatus stRUNNING
  let s3 := writeXs s2 g k [(0, arg 0), (1, arg 1), (2, arg 2), (3, arg 3), (d, taskHandle q t.idx)]
  modCtx s3 g k fun x =>
    { x with pc := regTarget (BitVec.ofNat 64 entry), tret := next, task := some (q, t.idx), dirty := false, instret := x.instret + 1, begun := false }

/-- The running task of a context has performed a store, atomic, `cenq` or `tspawn` (R237) (DEDUCED, notes/assumptions 16). -/
def markDirty (s : State) (g k : Nat) : State := modCtx s g k fun x => { x with dirty := x.dirty || x.task.isSome }

end Sys2Proof.Machine
end

