-- ==== Sys2Proof/Machine/Home.lean ====
section
/-!
DEFINITION. What an access does at its home, and the replies and acknowledgements that come back (R141, R146, R149–R152, R237, R275).
-/
namespace Sys2Proof.Machine

/-! ### Read-modify-write (R150–R152) -/

/-- COUNT of a bump counter plus the increment fits (R151); an increment of 0 too is refused where COUNT exceeds LIMIT (DEDUCED,
notes/assumptions 139). -/
def bumpFits (old src : Word) : Bool := decide (fget F.buCount old + src.toNat % 2 ^ 24 ≤ fget F.buLimit old)

/-- The word that a read-modify-write leaves (R150–R152). -/
def rmwNew (op : Rmw) (old src cmp : Word) : Word :=
  match op with
  | .add => old + src
  | .min => if src.toInt < old.toInt then src else old
  | .max => if old.toInt < src.toInt then src else old
  | .minu => if src.toNat < old.toNat then src else old
  | .maxu => if old.toNat < src.toNat then src else old
  | .and => old &&& src
  | .or => old ||| src
  | .xor => old ^^^ src
  | .swap => src
  | .cas => if old = cmp then src else old
  | .bump =>
    if bumpFits old src then fput F.buCount old (fget F.buCount old + src.toNat % 2 ^ 24)
    else fput F.buOvf old (Nat.min (fget F.buOvf old + 1) 65535)
  | .fadd => (addLane (old.extractLsb' 32 32) (src.extractLsb' 32 32) ++ addLane (old.extractLsb' 0 32) (src.extractLsb' 0 32) : BitVec 64)

/-- The value that comes back: the old word, or for `bump` COUNT or all ones (R151). -/
def rmwBack (op : Rmw) (old src : Word) : Word :=
  match op with
  | .bump => if bumpFits old src then BitVec.ofNat 64 (fget F.buCount old) else BitVec.allOnes 64
  | _ => old

/-! ### At the home -/

/-- What an access comes to at its home: a value, or poison at this address. -/
inductive AtHome
  | value (l : List Byte)
  | poisoned (ga : Nat)
  deriving DecidableEq, Repr

/-- Read for an access: windows by their registers, memory with its poison (R146). -/
def readAt (s : State) (key ga n : Nat) : State × AtHome :=
  if isWindow ga then (s, .value ((readRegBytes s ga n).getD (List.replicate n 0)))
  else
    let s1 := touchFrame (findErrors s ga n) ga
    match poisoned s1 ga n with
    | some p => (s1, .poisoned (Nat.max p ga))
    | none => (s1, .value (readBytes s1 (keyMaterial s1 ga key) ga n))

/-- Write for an access. -/
def writeAt (s : State) (key : Nat) (cells : List Host.Cell) : State :=
  match cells with
  | [] => s
  | c :: _ =>
    if isWindow c.1 then writeRegBytes s cells
    else writeCells (touchFrame s c.1) (keyMaterial s c.1 key) cells

/-- Write what a combining entry merged: only a doubleword that one store wrote whole loses its poison (R146). -/
def writeMerged (s : State) (key : Nat) (cells : List Host.Cell) (whole : List Nat) : State :=
  match cells with
  | [] => s
  | c :: _ =>
    if isWindow c.1 then writeRegBytes s cells
    else
      let material := keyMaterial s c.1 key
      whole.foldl overwritten (cells.foldl (fun s c => writeByte s material c.1 c.2) (touchFrame s c.1))

/-- Perform a load, store, atomic or reduction by a core (R141, R146, R150, R152). A reduction that reaches poison is dropped with an
event, which names the home that it was for, also where the saved copy of that home answers (R275). -/
def performAt (s : State) (g key0 : Nat) (op : MemOp) (ga0 : Nat) : State × AtHome :=
  let ga := redirect s g ga0
  let key := keyAt ga0 key0
  match op with
  | .load n => readAt s key ga n
  | .store cells => (writeAt s key (cells.map fun c => (redirect s g c.1, c.2)), .value [])
  | .merged cells whole =>
    (writeMerged s key (cells.map fun c => (redirect s g c.1, c.2)) (whole.map fun dw => redirect s g (8 * dw) / 8), .value [])
  | .fillStore cells =>
    let l := cells.map fun c => (redirect s g c.1, c.2)
    (((l.map fun c => c.1 / 8).dedup.filter (wholeDword l)).foldl (fun s dw => setFull s (8 * dw) true) (writeAt s key l), .value [])
  | .rmw o src cmp =>
    match readAt s key ga 8 with
    | (s1, .value l) =>
      let old : Word := BitVec.ofNat 64 (leNat l)
      (writeAt s1 key (cellsAt ga (leBytes (rmwNew o old src cmp).toNat 8)), .value (leBytes (rmwBack o old src).toNat 8))
    | r => r
  | .red o src =>
    match readAt s key ga 8 with
    | (s1, .value l) =>
      (writeAt s1 key (cellsAt ga (leBytes (rmwNew o (BitVec.ofNat 64 (leNat l)) src 0).toNat 8)), .value [])
    | (s1, .poisoned p) =>
      let home := ga0 + (p - ga)
      (postEvent s1 (moduleOf home) (srcMem home) 0x12 (paOf home) g, .value [])
  | .fe _ => (s, .value [])

/-! ### Replies -/

/-- The message turns into a reply on the ordered route to its source. An error of a structure that it has met at its home is reported there (R411,
R415). -/
def answer (s : State) (m : Msg) (val : List Byte) (trap : Option (Nat × Word)) (dest : Dest) : State :=
  setMsg (trap.elim s fun t => reportError s m.here m.src t.1 t.2) { m.anew m.here (modOf m.src) (.reply val trap dest) with route := .ordered, listed := false, refused := false }

/-- TRAPVAL of POISON: the first byte of the access that lies in a poisoned doubleword (R146) (DEDUCED, notes/assumptions 15). -/
def poisonTrap (va : Word) (ga p : Nat) : Option (Nat × Word) := some (causePOISON, va + BitVec.ofNat 64 (p - ga))

/-- The registers a reply writes (R122, R147). -/
def replyWrites (val : List Byte) (dest : Dest) : List (Reg × Word) :=
  let v := leNat (val.take 8)
  let w : Word := if dest.sext = 0 then BitVec.ofNat 64 v else sext (BitVec.ofNat 64 v) dest.sext
  let first := match dest.reg with | some r => [(r, w)] | none => []
  first ++ match dest.pair with | some r => [(r, BitVec.ofNat 64 (leNat (val.drop 8)))] | none => []

/-- A port register among the destinations must have room (R131). -/
def canWrite (s : State) (g k : Nat) (ws : List (Reg × Word)) : Bool :=
  ws.all fun w => !(portMode s g k && (w.1 == 26 || w.1 == 27)) || canPush s g (w.1.toNat - 26)

/-- The slot that waits for a reply. -/
def waiter (s : State) (g id : Nat) : Option Nat := (upFrom 0 11).find? fun k => (getCtx s g k).mode == .waiting (.reply id)

/-- Of a trap met before and another, the one of the lower address. -/
def lowerBad (old : Option (Nat × Word)) (t : Nat × Word) : Option (Nat × Word) :=
  some (match old with | some b => if b.2.toNat < t.2.toNat then b else t | none => t)

/-- A piece of a vector load comes back: its bytes, or its trap (R164). -/
def collectPiece (j : VJob) (id : Nat) (p : VPiece) (val : List Byte) (trap : Option (Nat × Word)) : VJob :=
  let j1 := { j with out := j.out.filter fun o => o.1 != id }
  match trap with
  | some t => { j1 with bad := lowerBad j1.bad t }
  | none => { j1 with got := (cellsAt p.off val).foldl (fun t c => tput t c.1 c.2) j1.got }

/-- The read or bump of a channel's command comes back (R217–R219). -/
def collectAsk (x : XCmd) (id : Nat) (val : List Byte) (trap : Option (Nat × Word)) : XCmd :=
  let asks := x.asks.map fun a =>
    if a.id ≠ id then a
    else match trap with
      | some t => { a with bad := some t }
      | none => { a with data := some val }
  match x.bumping with
  | some (b, i) =>
    if i ≠ id then { x with asks := asks }
    else match trap with
      | some (c, _) => { x with bumping := none, fault := x.fault.or (some (c, x.bytes)) }
      | none => { x with bumping := none, bumped := some (b, BitVec.ofNat 64 (leNat val)) }
  | none => { x with asks := asks }

/-- A reply that no context waits for: a piece of a vector load, an access of a channel, or one that nothing waits for any more. -/
def unitReply (s : State) (m : Msg) (val : List Byte) (trap : Option (Nat × Word)) : State :=
  let s1 := dropMsg s m.id
  match m.slots.head? with
  | some k =>
    if 64 ≤ k then setXHead s1 m.src (k - 64) fun x => collectAsk x m.id val trap
    else
      match (getCore s m.src).vjob with
      | some j =>
        match j.out.find? fun o => o.1 == m.id with
        | some (_, p) => modCore s1 m.src fun c => { c with vjob := some (collectPiece j m.id p val trap) }
        | none => s1
      | none => s1
  | none => s1

/-- A stream that waits for its join is BOUND again (R279). -/
def boundAgain (s : State) (sid : Word) : State :=
  let e := sidDie sid
  let i := sidIdx sid
  if sid ≠ 0 ∧ scbSid s e i = sid ∧ scbGet s e i F.scState = ssWAITING then scbPut s e i F.scState ssBOUND else s

/-- REMOTE_REPLY: the value of a waiting access arrives: it writes its registers and the context becomes READY, or it traps. A
trap waits until the context's vector queue has retired (R165). With the result of a join, its stream is BOUND again (R279). -/
def remoteReply (s : State) (id : Nat) : State :=
  match findMsg s id with
  | some m =>
    if m.here ≠ m.dst then s
    else match m.body with
      | .reply val trap dest =>
        if dest.future then s
        else match waiter s m.src id with
        | none => boundAgain (unitReply s m val trap) dest.join
        | some k =>
          match trap with
          | some (code, v) => if ownsQueue s m.src k then s else takeTrap (wake (dropMsg s id) m.src k) m.src k code v
          | none =>
            let ws := replyWrites val dest
            if canWrite s m.src k ws then boundAgain (completeWait (dropMsg s id) m.src k dest.pops ws dest.next) dest.join else s
      | _ => s
  | none => s

def execRemoteReply (s : State) : Host.Outcome State Fault Refusal := .next (remoteReply s s.argA)

/-- WRITE_ACKNOWLEDGE: a store or reduction is known to have been performed (R143, R144). -/
def writeAcknowledge (s : State) (id : Nat) : State :=
  match findMsg s id with
  | some m =>
    if m.here ≠ m.dst then s
    else match m.body with
      | .ack _ _ _ => dropMsg s id
      | _ => s
  | none => s

def execWriteAcknowledge (s : State) : Host.Outcome State Fault Refusal := .next (writeAcknowledge s s.argA)

/-! ### Full/empty words (R148, R149) and futures (R237) -/

/-- The memory-side unit of an address, with a deferred list of its own: a scratchpad bank, a TCM, an HBM stack (DEDUCED, notes/assumptions 32). -/
def feUnit (ga : Nat) : Nat := homeKey ga

/-- An access to a full/empty word that is listed at its unit. -/
def feOpOf (m : Msg) : Option (FeOp × Nat × Word × Dest) :=
  match m.body with
  | .access (.fe op) ga va dest => some (op, ga, va, dest)
  | _ => none

def isFrd (op : FeOp) : Bool := match op with | .frd => true | _ => false

/-- Requests listed at a unit, futures' waiters apart or alone. -/
def listedAt (s : State) (unit : Nat) (frd : Bool) : List Msg :=
  s.net.filter fun m => m.listed && (feOpOf m).any fun o => isFrd o.1 == frd && feUnit o.2.1 == unit

def tryFail : Word := 0x8000000000000000

/-- Write a doubleword and its full bit. -/
def feWrite (s : State) (key ga : Nat) (v : Word) : State :=
  setFull (writeAt s key (cellsAt ga (leBytes v.toNat 8))) ga true

/-- What a full/empty request comes to now: served with a reply, or nothing yet (R149). Served with `none`: no reply is due. The Bool: F has
changed. -/
inductive FeRes
  | reply (s : State) (val : List Byte) (changed : Bool)
  | trap (s : State) (p : Nat)
  | denied
  | wait

/-- A full/empty request is tried at its home, for its launch at `ga`, under a key of that home; under a cleared key it is denied (R149, R408). -/
def feTry (s : State) (key : Nat) (op : FeOp) (ga : Nat) : FeRes :=
  let f := fullAt s ga
  let read (empty : Bool) : FeRes :=
    match readAt s key ga 8 with
    | (s1, .value l) => .reply (if empty then setFull s1 ga false else s1) l empty
    | (s1, .poisoned p) => .trap s1 p
  if keyCleared s ga key then .denied
  else match op with
  | .ldSync => if f then read false else .wait
  | .take => if f then read true else .wait
  | .tryt =>
    if f then read true
    else match readAt s key ga 8 with
      | (s1, .value _) => .reply s1 (leBytes tryFail.toNat 8) false
      | (s1, .poisoned p) => .trap s1 p
  | .put v => if f then .wait else .reply (feWrite s key ga v) [] true
  | .fill v => .reply (feWrite s key ga v) [] true
  | .fwr v => .reply (feWrite s key ga v) [] true
  | .frd => if f then read false else .wait

/-- The wake of a task that waits on a future: its DEP falls as `tdec` lowers it; where the empty answer to its request is still under
way, the wake follows that (R237). A waiter's context is at slot 0 of `slots`; its task handle rides in `dest`, and the TCB is that of the launch
that recorded it (R275). -/
def wakeWaiter (s : State) (w : Msg) : State :=
  let s1 := dropMsg s w.id
  match (w.branches.head?.bind fun r => findMsg s1 r) with
  | some m =>
    match m.body with
    | .reply val trap dest => setMsg s1 { m with body := .reply val trap { dest with wake := true } }
    | _ => s1
  | none =>
    match feOpOf w with
    | some (_, _, va, _) => (tdecAt s1 w.queue (dieOf w.src * 128 + va.toNat / 2 ^ 16 % 128) (va.toNat % 4096)).2
    | none => s1

/-- Where the contents that a request names lie: for a task recorded at a future those of the launch that recorded it, which its core may have left
(R275). -/
def placeFor (s : State) (m : Msg) (ga : Nat) : Nat := redirectFrom s (if isFutureWaiter m then m.queue else launchOf s m.src) ga

/-- A listed request names the doubleword ga0, whose contents for its core's launch lie at ga (R275). -/
def names (s : State) (m : Msg) (ga0 ga : Nat) : Bool := (feOpOf m).any fun o => o.2.1 == ga0 && placeFor s m ga0 == ga

/-- Tasks recorded at a future are woken in the order recorded (R237). -/
def wakeFuture (s : State) (ga0 ga : Nat) : State :=
  ((listedAt s (feUnit ga0) true).filter fun m => names s m ga0 ga).foldl wakeWaiter s

/-- SERVE: listed requests for a doubleword that can be performed now, oldest first (R149). -/
def serve (s : State) (ga0 ga : Nat) : Nat → State
  | 0 => s
  | n + 1 =>
    let f := fullAt s ga
    match (listedAt s (feUnit ga0) false).find? fun m =>
        names s m ga0 ga && (feOpOf m).any fun o => (match o.1 with | .put _ => !f | _ => f) with
    | none => s
    | some m =>
      match feOpOf m with
      | some (op, _, va, dest) =>
        match feTry s (keyAt ga0 m.key) op ga with
        | .reply s1 val _ => serve (answer s1 m val none dest) ga0 ga n
        | .trap s1 p => serve (answer s1 m [] (poisonTrap va ga p) dest) ga0 ga n
        | .denied => serve (answer s m [] (some (causePROT, va)) dest) ga0 ga n
        | .wait => s
      | none => s

/-- After F of a doubleword has been set or cleared (DEDUCED, notes/assumptions 110). -/
def served (s : State) (ga0 ga : Nat) : State := serve s ga0 ga (s.net.length + 1)

/-- After the doublewords that cells cover whole have been filled. -/
def servedCells (s : State) (g : Nat) (cells : List Host.Cell) : State :=
  ((cells.map fun c => c.1 / 8).dedup.filter (wholeDword cells)).foldl (fun s dw => served s (8 * dw) (redirect s g (8 * dw))) s

/-- The message turns into an acknowledgement on the ordered route to its source (R143, R144). -/
def acknowledge (s : State) (m : Msg) (ga : Nat) : State :=
  setMsg s { m.anew m.here (modOf m.src) (.ack ga (namedDwords m.body) (m.route == .adaptive)) with route := .ordered }

/-- Where an access through a state window is performed: its page as it now stands, so that a write after a fork reaches its own stream's copy and
a page that has moved is found (R227, R248, R286). The access of a stream that is no more is dropped, or traps if it is answered, and so is a write of a
stream that is PRUNED meanwhile (R297) (DEDUCED, notes/assumptions 145). -/
def windowPlace (s : State) (strm va : Word) (read : Bool) : PageRes :=
  let d := sidDie strm
  let i := sidIdx strm
  let o := va.toNat - 0x7E0000000000
  if BitVec.ofNat 64 (scbGet s d i F.scSid) ≠ strm ∨ scbGet s d i F.scState = 0 ∨ scbGet s d i F.scState = 5 ∨ (!read && scbGet s d i F.scState == 6) then .trap causeSTREAM strm
  else
    match (if read then readPage else privatePage) s d i (o / 2 ^ 18) (o % 2 ^ 18) with
    | .trap c v => .trap c (if c = causeXLAT then va else v)
    | r => r

/-- An access moved from one address to another. -/
def moveOp (op : MemOp) (ga dst : Nat) : MemOp :=
  let move (cells : List Host.Cell) : List Host.Cell := cells.map fun c => (c.1 - ga + dst, c.2)
  match op with
  | .store cells => .store (move cells)
  | .merged cells whole => .merged (move cells) (whole.map fun dw => (8 * dw - ga + dst) / 8)
  | .fillStore cells => .fillStore (move cells)
  | o => o

/-- The access only reads. -/
def isLoad (op : MemOp) : Bool := match op with | .load _ => true | _ => false

/-- The access is answered: it reads a value. -/
def answered (op : MemOp) : Bool := match op with | .load _ | .rmw _ _ _ | .fe _ => true | _ => false

/-- An access of a message is performed at an address, and its reply or acknowledgement leaves; `ga` is the address that it set out for (R141, R238).
Under a key that has been cleared on its way it is not: one that is answered traps, another is dropped (R408; DEDUCED, notes/assumptions 160). -/
def performHere (s : State) (m : Msg) (op : MemOp) (ga dst : Nat) (va : Word) (dest : Dest) : State :=
  if keyCleared s dst m.key then
    if answered op then answer s m [] (some (causePROT, va)) dest else acknowledge s m ga
  else
  let (s1, r) := performAt s m.src m.key op dst
  match op, r with
  | .store _, _ | .merged _ _, _ | .red _ _, _ => acknowledge s1 m ga
  | .fillStore cells, _ => servedCells (acknowledge s1 m ga) m.src cells
  | _, .value l => answer s1 m l none dest
  | _, .poisoned p => answer s1 m [] (poisonTrap va (redirect s m.src dst) p) dest

/-- An access through a state window is performed, or waits for its page (R227, R245, R248, R286). A write that finds no room waits for it. -/
def performWindow (s : State) (m : Msg) (op : MemOp) (ga : Nat) (va : Word) (dest : Dest) : State :=
  match windowPlace s dest.strm va (isLoad op) with
  | .at t dst => performHere t m (moveOp op ga dst) ga dst va dest
  | .wait t _ => t
  | .trap c v =>
    if answered op then answer s m [] (some (c, v)) dest
    else if c = causeOOM then s
    else acknowledge (reportError s m.here m.src c v) m ga

/-- ACCESS_AT_HOME: an access that has arrived is performed, and its reply or acknowledgement leaves (R141, R238, R275). -/
def accessAtHome (s : State) (k : Nat) : State :=
  match findMsg s k with
  | some m =>
    match m.body with
    | .access op ga va dest =>
      if !mayPerform s m then s
      else if dest.strm ≠ 0 then performWindow s m op ga va dest
      else match op with
        | .fe _ => s
        | _ => performHere s m op ga ga va dest
    | _ => s
  | none => s

def execAccessAtHome (s : State) : Host.Outcome State Fault Refusal := .next (accessAtHome s s.argA)

/-- A request is listed at the end of its unit's list, or refused when the list is full (R149). -/
def enlist (s : State) (m : Msg) (ga : Nat) : State :=
  let there (n : Msg) : Bool := (feOpOf n).any fun o => (placeFor s n o.2.1 == o.2.1) == (redirect s m.src ga == ga)
  if 32 ≤ ((listedAt s (feUnit ga) false).filter there).length then setMsg s { m with refused := true }
  else { s with net := (s.net.filter fun n => n.id != m.id) ++ [{ m with listed := true }] }

/-- A task waits on a future: the empty answer goes back, and the task is recorded unless the unit lists 32 waiters already; then its wake
follows at once (R237). `task`: the handle. -/
def recordFuture (s : State) (m : Msg) (ga : Nat) (dest : Dest) : State :=
  let task : Word := dest.va
  if 32 ≤ (listedAt s (feUnit ga) true).length then answer s m [] none { dest with wake := true }
  else
    let s1 := answer s m [] none dest
    { s1 with
      net := s1.net ++ [{ m with id := s1.nextId, listed := true, branches := [m.id], queue := launchOf s m.src, body := .access (.fe .frd) ga task dest }]
      nextId := s1.nextId + 1 }

/-- FE_REQUEST: a full/empty or future request arrives at the unit of its home (R149, R237). -/
def feRequest (s : State) (id : Nat) : State :=
  match findMsg s id with
  | some m =>
    if m.listed || m.refused || !mayPerform s m then s
    else match feOpOf m with
      | some (op, ga0, va, dest) =>
        let ga := redirect s m.src ga0
        match feTry s (keyAt ga0 m.key) op ga with
        | .reply s1 val changed =>
          let s2 := match op with
            | .fill _ => acknowledge s1 m ga0
            | .fwr _ => wakeFuture (acknowledge s1 m ga0) ga0 ga
            | _ => answer s1 m val none dest
          if changed then served s2 ga0 ga else s2
        | .trap s1 p => answer s1 m [] (poisonTrap va ga p) dest
        | .denied =>
          match op with
          | .fill _ | .fwr _ => acknowledge s m ga0
          | _ => answer s m [] (some (causePROT, va)) dest
        | .wait =>
          match op with
          | .frd => recordFuture s m ga0 dest
          | _ => enlist s m ga0
      | none => s
  | none => s

def execFeRequest (s : State) : Host.Outcome State Fault Refusal := .next (feRequest s s.argA)

/-- The context that waits for one message waits for another. -/
def waitFor (s : State) (g id new : Nat) : State :=
  match waiter s g id with
  | some k => modCtx s g k fun x => { x with mode := .waiting (.reply new) }
  | none => s

/-- FE_REISSUE: a refused request sets out again from its source, behind what its core has sent meanwhile: it held no place in the order (R149). -/
def feReissue (s : State) (id : Nat) : State :=
  match findMsg s id with
  | some m =>
    if m.refused then
      let s1 := waitFor (dropMsg s id) m.src id s.nextId
      { s1 with net := s1.net ++ [{ m.anew (modOf m.src) m.dst m.body with id := s.nextId, refused := false }], nextId := s.nextId + 1 }
    else s
  | none => s

def execFeReissue (s : State) : Host.Outcome State Fault Refusal := .next (feReissue s s.argA)

/-- FUTURE_REPLY: the answer to an `frd` arrives: a value continues the task; an empty one leaves it ARMED and its context at TRET, and a
wake that follows lowers its DEP (R237). -/
def futureReply (s : State) (id : Nat) : State :=
  match findMsg s id with
  | some m =>
    if m.here ≠ m.dst then s
    else match m.body with
      | .reply val trap dest =>
        if !dest.future then s
        else match waiter s m.src id with
        | none => dropMsg s id
        | some k =>
          let g := m.src
          let q := dieOf g * 128 + dest.va.toNat / 2 ^ 16 % 128
          let idx := dest.va.toNat % 4096
          match trap with
          | some (code, v) =>
            if ownsQueue s g k then s
            else takeTrap (wake (tdecAt (dropMsg s id) (launchOf s g) q idx).2 g k) g k code v
          | none =>
            if val.isEmpty then
              let s1 := tcbWrite (dropMsg s id) (launchOf s g) q idx F.tcbStatus stARMED
              let s2 := if dest.wake then (tdecAt s1 (launchOf s g) q idx).2 else s1
              let s3 := modCtx s2 g k fun x => { x with pc := x.tret, task := none, dirty := false, begun := false, instret := x.instret + 1 }
              wake s3 g k
            else if canWrite s g k (replyWrites val dest) then
              completeWait (tdecAt (dropMsg s id) (launchOf s g) q idx).2 g k dest.pops (replyWrites val dest) dest.next
            else s
      | _ => s
  | none => s

def execFutureReply (s : State) : Host.Outcome State Fault Refusal := .next (futureReply s s.argA)

end Sys2Proof.Machine
end

