-- ==== Sys2Proof/Machine/Fetch.lean ====
section
/-!
DEFINITION. Fetching an instruction: its extent, the frame bits, and the decoder's answer (R75–R77, R27), and the steps that are due.
-/
namespace Sys2Proof.Machine

/-- Code frames of a core (R76). -/
def frameCount (g : Nat) : Nat := if roleOf g = 3 then 64 else 32

/-- A word at a byte offset of the instruction store is present: its frame has V and X, and it lies in the store (R76). -/
def wordPresent (g : Nat) (c : Core) (o : Nat) : Bool :=
  decide (o / 1024 < frameCount g) && decide (o ≤ 0xFFFE) && c.frameV.getLsbD (o / 1024) && c.frameX.getLsbD (o / 1024)

/-- A word of the instruction store (R64). -/
def codeWord (c : Core) (o : Nat) : Code := (tget 0 c.code (o + 1) ++ tget 0 c.code o : BitVec 16)

/-- The words of the extent that begins at an offset, at most n of them, or the fate that ends the fetch (R76, R411). -/
def extent (s : State) (g o : Nat) : Nat → Except Fate (List Code)
  | 0 => .ok []
  | n + 1 =>
    let c := getCore s g
    if !wordPresent g c o then .error (.fetch (o / 1024) (o % 1024))
    else
      let w := codeWord c o
      if w.isPfx then (extent s g (o + 2) n).map fun ws => w :: ws else .ok [w]

/-- The instruction at an offset of the instruction store: what it decodes to, or UNDEFINED_ENCODING with its fate (R27). -/
def fetchedAt (s : State) (g pc : Nat) : Instr :=
  match extent s g pc 5 with
  | .error f => .undefinedEncoding f
  | .ok ws =>
    match (upFrom 0 ws.length).find? fun i => isBad s (modOf g) (locator 3 g (pc / 2 + i)) with
    | some i => .undefinedEncoding (.ecc (pc / 2 + i))
    | none =>
      match decodeWords ws with
      | .ok i _ => i
      | .chain n => .undefinedEncoding (.chain n)
      | .bad page op first => .undefinedEncoding (.bad page op first)
      | .short => .undefinedEncoding (.chain 4)

/-- The instruction that a context evaluates: one that has issued and waits is not fetched again (R77); else the one at its pc. -/
def fetched (s : State) (g k : Nat) : Instr :=
  let x := getCtx s g k
  match x.held with
  | some (pc, n, i) => if pc = x.pc ∧ n = x.instret then i else fetchedAt s g x.pc.toNat
  | none => fetchedAt s g x.pc.toNat

/-- An instruction that has issued and is to be evaluated again stays issued (R77): its context stands where it did and no instruction has
retired in it. A word sequence that is no instruction issues nothing. -/
def keepIssued (s t : State) (g k : Nat) (i : Instr) : State :=
  let x := getCtx s g k
  let y := getCtx t g k
  match i with
  | .undefinedEncoding _ => t
  | _ =>
    if y.pc = x.pc ∧ y.instret = x.instret ∧ y.priv = x.priv ∧ y.held ≠ some (x.pc, x.instret, i) ∧ y.mode ≠ .free then
      modCtx t g k fun c => { c with held := some (x.pc, x.instret, i) }
    else t

/-- The core exists (R5, R6, R13). -/
def coreExists (g : Nat) : Bool := decide (g % 64 < 52) && decide (g < 1024 * 131072)

/-- A step of the hardware with its operands. -/
structure HwStep where
  ins : Instr
  a : Nat := 0
  b : Nat := 0

/-- The step that a message in flight waits for. -/
def msgStep (m : Msg) : HwStep :=
  let go (i : Instr) : HwStep := { ins := i, a := m.id }
  if m.here ≠ m.dst then go .messageHop
  else match m.body with
    | .access op _ _ _ =>
      match op with
      | .fe _ => if m.refused then go .feReissue else go .feRequest
      | _ => go .accessAtHome
    | .reply _ _ _ => go .remoteReply
    | .ack _ _ _ => go .writeAcknowledge
    | .arrive _ _ | .exchange _ => go .barrierArrivalMessage
    | .start _ _ _ | .launchStart _ _ _ => go .coreStartMessage
    | .stop _ _ _ => go .coreStopMessage
    | .migrate _ _ _ _ _ _ _ _ _ _ _ => go .migrationArrive
    | .result _ _ _ _ => go .helperResultReturn
    | .stream _ _ _ _ _ | .deposit _ _ _ _ _ _ => go .remoteStreamStep
    | .prune _ _ _ _ => go .topologyPrune
    | .topo _ _ _ _ => go .topologyEntryArrive
    | .smigAsk _ _ => go .smigRequestArrive
    | .smigRefused _ => go .smigRefuse
    | .smigPage _ _ _ => go .snapshotPage
    | .smigDone _ _ => go .smigComplete
    | .block _ _ _ _ _ _ => go .pealBlockArrive
    | .marker _ _ => go .releaseMarkerArrive
    | .peal op _ _ _ _ => { ins := match op with | 0 => .pealSetup | 1 => .pealStart | _ => .pealRemove, a := m.dst }
    | .phaseDone _ _ | .exchangeBegin _ _ => go .multicastAdvance

/-- The steps that a core's own units wait for: its vector queue, its drain, its matrix queue, its channels, its buffer. -/
def unitSteps (g : Nat) (c : Core) : List HwStep :=
  let vec : List HwStep := match c.vq with
    | e :: _ =>
      if isVmem e.ins then [{ ins := .vectorMemoryAccess, a := g }]
      else
        (if 0 < c.flight then [{ ins := .vectorRetire, a := g }] else [])
          ++ [{ ins := .vectorLaneGrant, a := g / 64, b := if g % 64 < 48 then g % 64 / 12 else g % 64 - 48 }]
    | [] => []
  let drain : List HwStep := if c.drain.any fun d => d.slot.isNone then [{ ins := .drainRowDispatch, a := g }] else []
  let mat : List HwStep := match c.cmds with
    | m :: _ =>
      if m.started then [{ ins := .matrixCommandComplete, a := g }]
      else { ins := .matrixCommandStart, a := g } :: if m.form = .mring ∨ m.form = .attn then [{ ins := .ringOperationStart, a := g / 64 }] else []
    | [] => []
  let chans : List HwStep := c.chans.flatMap fun ch =>
    match ch.2.queue with
    | x :: _ =>
      (if !x.begun then [.xferCommandStart]
        else match x.kind with
          | .bindIn => [.feedStripDeliver, .enginePiece, .xferCommandComplete]
          | .bindOut => [.feedStripWrite, .enginePiece, .xferCommandComplete]
          | _ => [.enginePiece, .xferCommandComplete]).map fun i => { ins := i, a := g, b := ch.1 }
    | [] => []
  vec ++ drain ++ mat ++ chans ++ if c.comb.isEmpty then [] else [{ ins := .combiningIdleFlush, a := g }]

/-- The step that makes an SRAM frame ready to take (R282, R285). -/
def zeroStep (s : State) (d : Nat) : HwStep :=
  let x := tget {} s.dies d
  if !x.zeroing.isEmpty then { ins := .frameZero, a := d }
  else match x.work.findSome? fun w => match w with | .evict f _ => some f | _ => none with
    | some f => { ins := .evictionComplete, a := d, b := f }
    | none => { ins := .spillwayEvict, a := d }

/-- The steps that the waiting contexts of a core wait for. -/
def waitSteps (s : State) (g : Nat) (c : Core) : List HwStep :=
  c.ctx.filterMap fun x =>
    match x.2.mode with
    | .waiting (.walk _ _) => some { ins := .translationWalkDone, a := g, b := x.1 }
    | .waiting (.zeroed d) => some (zeroStep s d)
    | _ => none

/-- The steps that the units of a cluster wait for. -/
def clusterSteps (q : Nat) (c : Cluster) : List HwStep :=
  let map : List HwStep := match c.mapOps with
    | o :: _ =>
      [{ ins := if o.block.isNone then .faultMapInstall else if o.running then .mtestSweepEnd else .mtestSweepStart, a := q }]
    | [] => []
  let give : List HwStep := if c.preemptFor.isSome then
      ((upFrom (q * 64) 52).map fun g => { ins := .preempt, a := g }) ++ [{ ins := .clusterSave, a := q }]
    else []
  map ++ give ++ (if c.prepare.isEmpty then [] else [{ ins := .clusterPrepare, a := q }])
    ++ (if c.taskWait.isEmpty || c.ready.isEmpty then [] else [{ ins := .taskReadyDispatch, a := q }])
    ++ if c.tbinv.getLsbD 63 then [{ ins := .tbinvComplete, a := q }] else []

/-- The steps that the units of a die wait for. -/
def dieSteps (d : Nat) (x : Die) : List HwStep :=
  let work : List HwStep := x.work.filterMap fun w => match w with
    | .copy f _ _ _ => some { ins := .frameCopyComplete, a := d, b := f }
    | .evict f _ => some { ins := .evictionComplete, a := d, b := f }
    | .fetch f _ => some { ins := .fetchBackComplete, a := d, b := f }
    | .granted _ _ _ _ => none
  let queues : List HwStep := x.lq.flatMap fun q =>
    match q.2.launch with
    | some l => [{ ins := if l.taken then .launchRetire else .takeCores, a := d, b := q.1 }]
    | none =>
      if q.2.head = q.2.tail then []
      else [{ ins := .launchTake, a := d, b := q.1 }, { ins := .graphStart, a := d, b := q.1 }]
  work ++ (x.sets.filterMap fun e => if e.2.joining then some { ins := .basinReduce, a := d, b := e.1 } else none)
    ++ (if x.walk.isEmpty then [] else [{ ins := .countWalk, a := d }])
    ++ (if x.zeroing.isEmpty then [] else [{ ins := .frameZero, a := d }])
    ++ (if x.topoStat.getLsbD 63 then [{ ins := .topoLoad, a := d }] else [])
    ++ (if x.cascStat.getLsbD 63 then [{ ins := if x.cascCtl.getLsbD 8 then .cascadeRemove else .cascadeInstall, a := d }] else [])
    ++ (x.cblk.filterMap fun b => if fget F.cbV b.2 = 1 ∧ fget F.cbNextIv b.2 = 0 then some { ins := .balancerEvaluate, a := d, b := b.1 } else none)
    ++ queues

/-- The steps that the units of a module, its host and its SMU wait for. -/
def modSteps (m : Nat) (x : Mod) : List HwStep :=
  let peal : List HwStep := if x.pealStat.getLsbD 63 then
      [{ ins := match fget ⟨8, 2⟩ x.pealCtl with | 0 => .pealSetup | 1 => .pealStart | _ => .pealRemove, a := m }]
    else []
  let rings : List HwStep := x.ringsOf.flatMap fun r =>
    if fget F.prState r.2.desc ≠ 2 then []
    else (if r.2.markers.isEmpty then [] else [{ ins := .pealBlockStart, a := m, b := r.1 }])
      ++ if r.2.reading.isSome then [{ ins := .pealForwardReadDone, a := m, b := r.1 }] else []
  let boot : List HwStep := match x.power with
    | .on left => left.map fun f => { ins := .bringupFunctionReady, a := m, b := f }
    | .off => []
  let host : List HwStep := match x.hostQ with
    | h :: _ => [{ ins := if h.write then .hostWrite else .hostRead, a := m }]
    | [] => []
  let spdm : List HwStep := match x.spdmIn with
    | r :: _ =>
      [{ a := m, ins := match (r.getD 1 0).toNat with
          | 0x84 => .getVersion | 0xE1 => .getCapabilities | 0xE3 => .negotiateAlgorithms | 0x81 => .getDigests | 0x82 => .getCertificate
          | 0x83 => .challenge | 0xE0 => .getMeasurements | _ => .spdmUnsupported }]
    | [] => []
  peal ++ rings ++ host ++ spdm ++ (if x.trapstat.getLsbD 63 then [{ ins := .trapimgInstall, a := m }] else [])
    ++ (if x.fwmbStat.getLsbD 63 then [{ ins := .fwmbUpdate, a := m }] else [])
    ++ (if x.tbinvm.getLsbD 63 then [{ ins := .tbinvComplete, a := m * 2048 }] else [])
    ++ (if x.journalDue.isEmpty then [] else [{ ins := .journalAppend, a := m }]) ++ boot

/-- Every step of the hardware that something waits for, and the visits of the patrol scrubber that find something (R412). -/
def dueSteps (s : State) : List HwStep :=
  ((s.net.filter fun m => !m.listed).map msgStep)
    ++ (s.surplus.map fun x => { ins := .barrierSurplusRetry, a := x.core, b := x.slot })
    ++ (s.cores.flatMap fun e => waitSteps s e.1 e.2 ++ unitSteps e.1 e.2)
    ++ (s.clusters.flatMap fun e => clusterSteps e.1 e.2) ++ (s.dies.flatMap fun e => dieSteps e.1 e.2)
    ++ (((s.latent ++ s.soft).filter fun dw => scrubbed (8 * dw)).map fun dw => { ins := .patrolScrubVisit, a := 8 * dw })
    ++ (s.saves.map fun v => { ins := .launchResume, a := v.cluster }) ++ s.mods.flatMap fun e => modSteps e.1 e.2

/-- With no schedule given, what the hardware does next: the steps that are due take turns. Any other order can be given as a schedule
(DESIGN CHOICE, notes/assumptions 6). -/
def hardwareStep (s : State) : Option HwStep :=
  let l := dueSteps s
  l[s.now / 2 % l.length]?

/-- The first running core after the current one, cyclically; the current one where none runs. -/
def nextCore (s : State) : Nat :=
  match s.cores.find? fun e => decide (s.cur < e.1) && e.2.run with
  | some e => e.1
  | none => match s.cores.find? fun e => e.2.run with
    | some e => e.1
    | none => s.cur

/-- The core that the placement of a first instruction uses, by page and opcode: one whose role decodes it (R93). -/
def placeCore (page op : Nat) : Nat :=
  match page with
  | 4 => 1
  | 5 => if op ≤ 12 then 2 else 48
  | 6 => 0
  | _ => 48

/-- The slot and kind in which the instruction may run (R26). -/
def placeKind (i : Option Instr) : Nat × Kind :=
  match i with
  | some (.hend _ _) | some (.mig _ _ _) => (1, .helper)
  | some (.dret _ _ _ _) => (1, .drain)
  | _ => (0, .base)

/-- Start a core at offset 0 of its instruction store on given bytes, in a slot and at a level that may run them: what a launch's
load and start message would set (R90, R136, R267), no more (DESIGN CHOICE, notes/assumptions 1). -/
def placeProgram (s : State) (bytes : List Byte) (g : Nat) (sk : Nat × Kind) (firmware : Bool) : State :=
  let s1 := modCore s g fun c =>
    { c with
      run := true, preempting := false, slot := sk.1, launch := some 0
      code := (cellsAt 0 bytes).foldl (fun t b => tset 0 t b.1 b.2) c.code
      frameV := c.frameV ||| 1, frameX := c.frameX ||| 1
      ctx := tput c.ctx sk.1 { tget {} c.ctx sk.1 with
        mode := .running, kind := sk.2, pc := 0, held := none
        priv := fput F.lvl (tget {} c.ctx sk.1).priv (if firmware then 1 else 0) } }
  { s1 with cur := g, sched := ⟨1, .core g⟩ :: s1.sched }

end Sys2Proof.Machine
end

