-- ==== Sys2Proof/Machine/System.lean ====
section
/-!
DEFINITION. Contexts, CSRs, traps, events, core start and stop, code withdrawal and the scalar generator (R35–R46, R125–R139).
-/
namespace Sys2Proof.Machine

/-! ### CSRs (R35–R46) -/

/-- EXTS of a role (R37). -/
def extsOf (role : Nat) : Word :=
  match role with
  | 0 => 0x03
  | 1 => 0x0D
  | 2 => 0x31
  | _ => 0xC5

/-- Every assigned CSR number (R35). -/
def csrAssigned (n : Nat) : Bool :=
  decide (n ≤ 0x006) || (decide (0x010 ≤ n) && decide (n ≤ 0x016)) || (decide (0x020 ≤ n) && decide (n ≤ 0x023))
    || n == 0x030 || n == 0x031 || (decide (0x100 ≤ n) && decide (n ≤ 0x12F))

/-- CSRs that a level can write (R35). -/
def csrWritable (firmware : Bool) (n : Nat) : Bool :=
  if firmware then n == 0x006 || (decide (0x010 ≤ n) && decide (n ≤ 0x016)) || csrFirmware n || (decide (0x100 ≤ n) && decide (n ≤ 0x12F))
  else n == 0x010 || (decide (0x012 ≤ n) && decide (n ≤ 0x015))

/-- Value of a CSR as a context of a core reads it. -/
def csrValue (s : State) (g k n : Nat) : Word :=
  let c := getCore s g
  let x := getCtx s g k
  match n with
  | 0x000 => BitVec.ofNat 64 (k * 256 + indexOf g)
  | 0x001 => BitVec.ofNat 64 (clusterOf g % 128)
  | 0x002 => BitVec.ofNat 64 (dieOf g % 16)
  | 0x003 => BitVec.ofNat 64 (modOf g)
  | 0x004 => BitVec.ofNat 64 (roleOf g)
  | 0x005 => extsOf (roleOf g)
  | 0x006 => x.priv
  | 0x010 => c.fmode
  | 0x011 => x.strm
  | 0x012 => c.vqw
  | 0x013 => c.porten
  | 0x014 => c.portmap
  | 0x015 => c.migen
  | 0x016 => c.dommem
  | 0x020 => c.trapvec
  | 0x021 => x.trapCause
  | 0x022 => x.trapPc
  | 0x023 => x.trapVal
  | 0x030 => c.cycle
  | 0x031 => x.instret
  | _ => tget 0 c.barmap (n - 0x100)

/-- Dynamic rounding mode 110 and 111 are stored as 000 (R39). -/
def fmodeWritten (v : Word) : Word :=
  let rm := v.toNat % 8
  BitVec.ofNat 64 (fget F.flags v * 256 + fget F.ftz v * 8 + if rm ≥ 6 then 0 else rm)

/-- Reserved wiring codes are stored as 00 (R42). -/
def portmapWritten (role : Nat) (v : Word) : Word :=
  let p0 := fget F.p0 v
  let p1 := fget F.p1 v
  let p0' := if role < 3 then (if p0 = 3 then 0 else p0) else (if p0 = 1 then 1 else 0)
  let p1' := if role < 3 then p1 else (if p1 = 3 then 3 else 0)
  BitVec.ofNat 64 (fget F.fansel v * 16 + p1' * 4 + p0')

/-- A write of BARMAP: ARRN returns to 0, and a fabric-level instance of 64 or more clears V (R44). -/
def barmapWritten (v : Word) : Word :=
  let w := fput F.bmInst (fput F.bmLvl (fput F.bmV 0 (fget F.bmV v)) (fget F.bmLvl v)) (fget F.bmInst v)
  if fget F.bmLvl v = 3 ∧ fget F.bmInst v ≥ 64 then fput F.bmV w 0 else w

/-- STRM in the layout of R56: its reserved bits read as zero (R35, R40). -/
def strmWritten (v : Word) : Word :=
  BitVec.ofNat 64 (fget F.sidGen v * 2 ^ 48 + fget F.sidMod v * 2 ^ 32 + fget F.sidDie v * 2 ^ 16 + fget F.sidIdx v)

/-- A context that is or was a helper cannot change its STRM (R40): at firmware level a CSR write of it completes and changes nothing (DEDUCED,
notes/assumptions 137). -/
def strmFixed (x : Ctx) : Bool := match x.kind with | .helper | .migrant _ _ _ _ => true | _ => false

/-- PRIV and TRAPCAUSE with their reserved bits zero (R35). -/
def privWritten (v : Word) : Word := fput F.plvl (fput F.lvl (fput F.ten 0 (fget F.ten v)) (fget F.lvl v)) (fget F.plvl v)
def trapCauseWritten (v : Word) : Word := fput F.tcPre (fput F.tcCode 0 (fget F.tcCode v)) (fget F.tcPre v)

/-- TRAPPC.PC holds the offset of an instruction, which is even (R25, R45) (DEDUCED, notes/assumptions 140). -/
def trapPcWritten (v : Word) : Word := zext (v &&& 0xFFFE) 16

/-- Write a CSR; reserved bits ignore writes (R35). -/
def csrStore (s : State) (g k n : Nat) (v : Word) : State :=
  match n with
  | 0x006 => modCtx s g k fun x => { x with priv := fput F.plvl (fput F.lvl x.priv (fget F.lvl v)) (fget F.plvl v) }
  | 0x010 => modCore s g fun c => { c with fmode := fmodeWritten v }
  | 0x011 => modCtx s g k fun x => { x with strm := if strmFixed x then x.strm else strmWritten v }
  | 0x012 => modCore s g fun c => { c with vqw := BitVec.ofNat 64 (fget F.vqwW v) }
  | 0x013 => modCore s g fun c => { c with porten := BitVec.ofNat 64 (fget F.en v) }
  | 0x014 => modCore s g fun c => { c with portmap := portmapWritten (roleOf g) v }
  | 0x015 => modCore s g fun c => { c with migen := BitVec.ofNat 64 (fget F.en v) }
  | 0x016 => modCore s g fun c => { c with dommem := v }
  | 0x020 => modCore s g fun c => { c with trapvec := fput F.tvBase 0 (fget F.tvBase v) }
  | 0x021 => modCtx s g k fun x => { x with trapCause := trapCauseWritten v }
  | 0x022 => modCtx s g k fun x => { x with trapPc := trapPcWritten v }
  | 0x023 => modCtx s g k fun x => { x with trapVal := v }
  | _ =>
    if 0x100 ≤ n ∧ n ≤ 0x12F then modCore s g fun c => { c with barmap := tset 0 c.barmap (n - 0x100) (barmapWritten v) }
    else s

/-- The checks of an access to a CSR, in order: unassigned ILL, write to a read-only register ILL, and PORTMAP while ports are on ILL (R35, R42). PRIV of
a firmware CSR comes before, at issue. They are traps of execution: an unassigned number is judged after HELPER_REGS (R27) (DEDUCED,
notes/assumptions 136). -/
def csrCheck (s : State) (g k n : Nat) (write : Bool) (i : Instr) : Option (Nat × Word) :=
  let fw := fget F.lvl (getCtx s g k).priv == 1
  if !csrAssigned n then some (causeILL, firstWord i)
  else if write && !csrWritable fw n then some (causeILL, firstWord i)
  else if write && n == 0x014 && fget F.en (getCore s g).porten == 1 then some (causeILL, firstWord i)
  else none

/-- `csrr`: reads a CSR; FMODE waits until the vector queue has retired (R39, R132). -/
def execCsrr (p : Pfx) (d : Reg) (imm : Nat) (s : State) : Host.Outcome State Fault Refusal :=
  .next (issue (.csrr p d imm) s fun s g k =>
    match csrCheck s g k imm false (.csrr p d imm) with
    | some (c, v) => .trap c v
    | none =>
      if imm = 0x010 ∧ !(getCore s g).vq.isEmpty then .stall
      else retire s g k (.csrr p d imm) [(d, csrValue s g k imm)])

/-- Write forms of the CSR instructions: the new value from the old one and the source (R132). -/
def csrModify (s : State) (g k : Nat) (i : Instr) (n : Nat) (f : Word → Word) : Eff :=
  match csrCheck s g k n true i with
  | some (c, v) => .trap c v
  | none => .done (csrStore (retireTo s g k i [] (nextPc s g k i)) g k n (f (csrValue s g k n)))

/-- `csrw`: CSR := xD (R132). -/
def execCsrw (p : Pfx) (d : Reg) (imm : Nat) (s : State) : Host.Outcome State Fault Refusal :=
  .next (issue (.csrw p d imm) s fun s g k => csrModify s g k (.csrw p d imm) imm fun _ => readX s g k d)

/-- `csrs`: CSR := CSR or xD (R132). -/
def execCsrs (p : Pfx) (d : Reg) (imm : Nat) (s : State) : Host.Outcome State Fault Refusal :=
  .next (issue (.csrs p d imm) s fun s g k => csrModify s g k (.csrs p d imm) imm fun v => v ||| readX s g k d)

/-- `csrc`: CSR := CSR and not xD (R132). -/
def execCsrc (p : Pfx) (d : Reg) (imm : Nat) (s : State) : Host.Outcome State Fault Refusal :=
  .next (issue (.csrc p d imm) s fun s g k => csrModify s g k (.csrc p d imm) imm fun v => v &&& ~~~readX s g k d)

/-! ### Contexts (R127–R130) -/

/-- The lowest FREE slot among 1 to n (R127). -/
def freeSlot (s : State) (g n : Nat) : Option Nat := (upFrom 1 n).find? fun k => (getCtx s g k).mode == .free

/-- A helper as `hstart` makes it (R127); its trap registers and its TRET are 0 (DESIGN CHOICE, notes/assumptions 168). -/
def newHelper (b : Ctx) (pc : Code) (x0 : Word) : Ctx :=
  { mode := .ready, kind := .helper, pc := pc, x := tset 0 [] 0 x0,
    priv := fput F.ten 0 (fget F.ten b.priv), strm := b.strm }

/-- `hstart`: starts a helper in the lowest free slot (R127). -/
def execHstart (p : Pfx) (d a : Reg) (imm : Int) (s : State) : Host.Outcome State Fault Refusal :=
  .next (issue (.hstart p d a imm) s fun s g k =>
    let i := Instr.hstart p d a imm
    match freeSlot s g (getCore s g).helpers with
    | some h =>
      let x := newHelper (getCtx s g k) (target (getCtx s g k).pc imm) (readX s g k a)
      .done (putCtx (retireTo s g k i [(d, BitVec.ofNat 64 h)] (nextPc s g k i)) g h x)
    | none => retire s g k i [(d, 0)])

/-- A helper's slot becomes ENDED with its result, and a base context that joins it becomes READY (R128, R129). A core that the helper was
RUNNING on passes on before the base context is READY (DEDUCED, notes/assumptions 141); one that idles chooses at the clock's end (R126). -/
def endHelper (s : State) (g k : Nat) (result : Word) : State :=
  let s1 := switchOut (modCtx s g k fun x => { x with result := result }) g k .ended
  wakeIf s1 g fun m => m == .blockedJoin k

/-- `hend`: ends a helper once its earlier writes have been performed; a migrant's result goes back on its return route (R128). -/
def execHend (p : Pfx) (a : Reg) (s : State) : Host.Outcome State Fault Refusal :=
  .next (issue (.hend p a) s fun s g k => releaseThen s g k 4 fun s =>
    let i := Instr.hend p a
    let v := readX s g k a
    let s1 := retireTo s g k i [] (nextPc s g k i)
    match (getCtx s g k).kind with
    | .migrant o ok _ q =>
      .done (switchOut (sendFrom (modCtx s1 g k fun x => { x with kind := .helper }) g [k] 1 .ordered (16 * o + 6) (modOf o) none
        (.result o ok q v)) g k .free)
    | _ => .done (endHelper s1 g k v))

/-- `hjoin`: collects an ENDED helper, or blocks until it ends (R129). -/
def execHjoin (p : Pfx) (d a : Reg) (s : State) : Host.Outcome State Fault Refusal :=
  .next (issue (.hjoin p d a) s fun s g k =>
    let i := Instr.hjoin p d a
    let h := (readX s g k a).toNat
    let x := getCtx s g h
    if h < 1 ∨ 10 < h ∨ x.mode = .free ∨ x.kind = .drain then retire s g k i [(d, 0)]
    else if x.mode = .ended then
      .done (modCtx (retireTo s g k i [(d, x.result)] (nextPc s g k i)) g h fun x => { x with mode := .free })
    else .done (switchOut s g k (.blockedJoin h)))

/-- `yield`: the core passes to the next READY slot (R130). -/
def execYield (p : Pfx) (s : State) : Host.Outcome State Fault Refusal :=
  .next (issue (.yield p) s fun s g k => .done (switchOut (retireTo s g k (.yield p) [] (nextPc s g k (.yield p))) g k .ready))

/-! ### Traps (R133, R134) -/

/-- `trap`: cause SWTRAP with the immediate (R133). -/
def execTrap (p : Pfx) (imm : Nat) (s : State) : Host.Outcome State Fault Refusal :=
  .next (issue (.trap p imm) s fun _ _ _ => .trap causeSWTRAP (BitVec.ofNat 64 imm))

/-- `brk`: cause BREAK (R133). -/
def execBrk (p : Pfx) (s : State) : Host.Outcome State Fault Refusal :=
  .next (issue (.brk p) s fun _ _ _ => .trap causeBREAK 0)

/-- `eret`: returns from a trap at firmware level (R134). -/
def execEret (p : Pfx) (s : State) : Host.Outcome State Fault Refusal :=
  .next (issue (.eret p) s fun s g k => .done (returnTrap (retireTo s g k (.eret p) [] (nextPc s g k (.eret p))) g k))

/-- Cause and trap value of a word sequence that is no legal instruction (R27, R45, R93, R101). -/
def undefinedTrap (s : State) (g k : Nat) (why : Fate) : Nat × Word :=
  match why with
  | .fetch frame off => (causeFETCH, BitVec.ofNat 64 (frame * 65536 + off))
  | .ecc off => (causeECC, locator 3 g off)
  | .chain n => (causeILLPFX, BitVec.ofNat 64 n)
  | .bad page op first =>
    let drain := (getCtx s g k).kind == .drain
    if decodesOp (roleOf g) drain page op || ((opFmt page op).isNone && decodesPage (roleOf g) drain page)
    then (causeILL, first.zeroExtend 64)
    else (causeEXT, BitVec.ofNat 64 page)

/-- UNDEFINED_ENCODING: the first applicable cause of a word sequence that is no legal instruction (R27, R76, R101, R411). -/
def execUndefinedEncoding (why : Fate) (s : State) : Host.Outcome State Fault Refusal :=
  .next (
    let g := s.cur
    let k := (getCore s g).slot
    if !issuing s then s
    else
      let r := undefinedTrap s g k why
      raiseTrap s (modOf g) g k r.1 r.2)

/-! ### Events (R135) -/

/-- EVENT_WAKE: with EV set and a context blocked in `wfe`, every such context becomes READY and EV clears (R135). -/
def eventWake (s : State) (g : Nat) : State :=
  let c := getCore s g
  if c.ev && (c.ctx.any fun x => x.2.mode == .blockedEvent) then
    wakeIf (modCore s g fun c => { c with ev := false }) g fun m => m == .blockedEvent
  else s

/-- A `sev` names the core: EV is set at the end of the clock (R135). -/
def setEvent (s : State) (g : Nat) : State := modCore s g fun c => { c with evNext := true }

/-- The end of a clock at one core: words deposited in it become readable (R30), EV is set where a `sev` named the core, and wakes the
contexts that wait for it (R135). -/
def coreClockEnd (s : State) (g : Nat) : State :=
  eventWake (modCore s g fun c =>
    { takeDeposits c with ev := c.ev || c.evNext, evNext := false }) g

/-- `sev`: sets the event flag of a core of the cluster, or of all (R135). -/
def execSev (p : Pfx) (a : Reg) (s : State) : Host.Outcome State Fault Refusal :=
  .next (issue (.sev p a) s fun s g k =>
    let n := (readX s g k a).toNat % 64
    let s1 := retireTo s g k (.sev p a) [] (nextPc s g k (.sev p a))
    let base := clusterOf g * 64
    .done (if n < 52 then setEvent s1 (base + n)
      else if n = 63 then (upFrom base 52).foldl setEvent s1
      else s1))

/-- `wfe`: consumes the event flag, or blocks (R135). -/
def execWfe (p : Pfx) (s : State) : Host.Outcome State Fault Refusal :=
  .next (issue (.wfe p) s fun s g k =>
    if (getCore s g).ev then
      .done (modCore (retireTo s g k (.wfe p) [] (nextPc s g k (.wfe p))) g fun c => { c with ev := false })
    else .done (switchOut s g k .blockedEvent))

/-! ### Core start and stop (R136, R137) -/

/-- Answer a message with a word: a reply on the way back to its source. -/
def replyWord (s : State) (m : Msg) (v : Word) (dest : Dest) : State :=
  setMsg s { m.anew m.here (modOf m.src) (.reply (leBytes v.toNat 8) none dest) with route := .ordered }

/-- The context waits for the message it has just sent. -/
def waitReply (s : State) (g k : Nat) : State := switchOut s g k (.waiting (.reply (s.nextId - 1)))

/-- `cstart`: after the context's earlier writes, a start message to a core of the module (R136). -/
def execCstart (p : Pfx) (d a b : Reg) (s : State) : Host.Outcome State Fault Refusal :=
  .next (issue (.cstart p d a b) s fun s g k => releaseThen s g k 4 fun s =>
    let i := Instr.cstart p d a b
    let dest : Dest := { reg := some d, next := nextPc s g k i, pops := popList s g k i }
    let s1 := sendFrom s g [k] 1 .ordered ((readX s g k a).toNat * 16 + 6) (modOf g) none
      (.start (readX s g k a).toNat (readX s g k b) dest)
    .done (waitReply s1 g k))

/-- A trap handler of the default image reports every cause but the pre-emption entry and SWTRAP with TRAPVAL 0 (R409, R433). -/
def reports (x : Ctx) : Bool :=
  let code := fget F.tcCode x.trapCause
  fget F.tcPre x.trapCause == 0 && code != 0 && !(code == causeSWTRAP && x.trapVal == 0)

/-- A handler that stops its own core reports its trap: an event with the cause, TRAPPC and TRAPVAL, and [63] = 0 (R409, R414) (DESIGN CHOICE,
notes/assumptions 158). -/
def reportTrap (s : State) (g k : Nat) : State :=
  let x := getCtx s g k
  if reports x then
    postEvent s (modOf g) (srcCore g) 0x70 (x.trapPc.toNat % 2 ^ 16 * 2 ^ 16 + k * 256 + fget F.tcCode x.trapCause) x.trapVal.toNat
  else s

/-- `cstop`: stops a core, by a message that follows the context's earlier writes (R430); of the issuing core, at once and without a register
(R137). -/
def execCstop (p : Pfx) (d a : Reg) (s : State) : Host.Outcome State Fault Refusal :=
  .next (issue (.cstop p d a) s fun s g k =>
    let i := Instr.cstop p d a
    let t := (readX s g k a).toNat
    if t = g % 131072 then .done (stopCore (reportTrap (retireTo s g k i [] (nextPc s g k i)) g k) g)
    else releaseThen s g k 4 fun s =>
      let dest : Dest := { reg := some d, next := nextPc s g k i, pops := popList s g k i }
      .done (waitReply (sendFrom s g [k] 1 .ordered (t * 16 + 6) (modOf g) none (.stop t dest false)) g k))

/-- A core that a start or stop message can reach: it exists and its cluster is READY (R136). -/
def reachable (s : State) (m t : Nat) : Bool :=
  decide (t < 131072) && decide (t % 64 < 52) && (getDie s (m * 16 + t / 8192)).rdyCl.getLsbD (t / 64 % 128)

/-- The base context starts as `cstart` asks (R136), in COMPUTE at every level (R156); registers and memories stand (DEDUCED, notes/assumptions
33). -/
def startCore (s : State) (t : Nat) (xb : Word) : State :=
  let s1 := modCore s t fun c =>
    { c with
      run := true, ev := false, evNext := false, cycle := 0, slot := 0, preempting := false, phase := 0
      ctx := (upFrom 1 10).foldl (fun l k => tput l k { tget {} l k with mode := .free, kind := .helper })
        (tput c.ctx 0 { tget {} c.ctx 0 with
          mode := .ready, kind := .base, begun := false, held := none, pc := regTarget xb, instret := 0
          priv := fput F.plvl (fput F.lvl (tget {} c.ctx 0).priv (if xb.getLsbD 16 then 1 else 0)) 0 }) }
  settle (joinGroups s1 t) t

/-- CORE_START_MESSAGE: a start message arrives (R136, R250, R267). The launch unit's message starts slot 0 at its entry, or at the
restore entry at firmware level (R276). -/
def coreStartMessage (s : State) (k : Nat) : State :=
  match findMsg s k with
  | some m =>
    if m.here ≠ m.dst then s
    else match m.body with
      | .start t xb dest =>
        let g := modOf m.src * 131072 + t
        if !reachable s (modOf m.src) t then replyWord s m 2 dest
        else if (getCore s g).run then replyWord s m 1 dest
        else startCore (replyWord s m 0 dest) g xb
      | .launchStart t entry restore =>
        let s1 := modCore (dropMsg s k) t fun c =>
          { c with
            run := true, slot := 0, cycle := if restore then c.cycle else 0
            ev := restore && c.ev, evNext := restore && c.evNext
            ctx := tput c.ctx 0 { tget {} c.ctx 0 with
              mode := .ready, kind := .base, pc := entry
              priv := if restore then fput F.lvl (tget {} c.ctx 0).priv 1 else (tget {} c.ctx 0).priv } }
        settle (joinGroups s1 t) t
      | _ => s
  | none => s

def execCoreStartMessage (s : State) : Host.Outcome State Fault Refusal := .next (coreStartMessage s s.argA)

/-- CORE_STOP_MESSAGE: a stop message arrives; the reply of status 0 goes out once every store of the target has been performed
(R137). -/
def coreStopMessage (s : State) (k : Nat) : State :=
  match findMsg s k with
  | some m =>
    if m.here ≠ m.dst then s
    else match m.body with
      | .stop t dest did =>
        let g := modOf m.src * 131072 + t
        if did then
          if s.net.any (fun n => n.src == g && isWrite n.body) || !(getCore s g).comb.isEmpty then flushAll s g else replyWord s m 0 dest
        else if !reachable s (modOf m.src) t then replyWord s m 2 dest
        else if (getCore s g).run then setMsg (flushAll (stopCore s g) g) { m with body := .stop t dest true }
        else replyWord s m 1 dest
      | _ => s
  | none => s

def execCoreStopMessage (s : State) : Host.Outcome State Fault Refusal := .next (coreStopMessage s s.argA)

/-! ### Code withdrawal and the scalar generator (R138, R139) -/

/-- `finv`: clears V of a code frame; a number at or above the frame count has no effect (R138). -/
def execFinv (p : Pfx) (a : Reg) (s : State) : Host.Outcome State Fault Refusal :=
  .next (issue (.finv p a) s fun s g k =>
    let f := (readX s g k a).toNat
    let s1 := retireTo s g k (.finv p a) [] (nextPc s g k (.finv p a))
    .done (if f < frameCount g then modCore s1 g fun c => { c with frameV := c.frameV &&& ~~~((1 : BitVec 64) <<< f) } else s1))

/-- The scalar generator's step (R139). -/
def rngStep (t : Word) : Word :=
  let a := t ^^^ (t <<< 13)
  let b := a ^^^ (a >>> 7)
  b ^^^ (b <<< 17)

/-- `rng`: draws, or exchanges the state (R139). -/
def execRng (p : Pfx) (d a : Reg) (s : State) : Host.Outcome State Fault Refusal :=
  .next (issue (.rng p d a) s fun s g k =>
    let t := (getCore s g).rng
    let v := readX s g k a
    .done (modCore (retireTo s g k (.rng p d a) [(d, t)] (nextPc s g k (.rng p d a))) g fun c =>
      { c with rng := if v = 0 then rngStep t else v }))

end Sys2Proof.Machine
end

