-- ==== Sys2Proof/Machine/Mem.lean ====
section
/-!
DEFINITION. Memory instructions: loads and stores, pairs, full/empty words, atomics, reductions, fences, the combining and exchange buffers, and migration
(R122, R140–R154, R158–R161).
-/
namespace Sys2Proof.Machine

/-! ### Held stores (R144) -/

def lineOf (ga : Nat) : Nat := ga / 64 * 64

/-- A held entry has a byte of an access. -/
def entryHits (e : Comb) (ga n : Nat) : Bool := e.bytes.any fun b => decide (ga ≤ b.1) && decide (b.1 < ga + n)

/-- A held entry has every byte of an access. -/
def entryCovers (e : Comb) (ga n : Nat) : Bool := (upFrom ga n).all fun a => e.bytes.any fun b => b.1 == a

/-- A held entry has a byte of a doubleword of an access (R141). -/
def entryMeets (e : Comb) (ga n : Nat) : Bool := e.bytes.any fun b => (dwords ga n).contains (b.1 / 8)

/-- Bytes added to an entry, the doublewords that the store writes whole (R146), and the quadword that an `stp` writes (R147). -/
def mergeInto (e : Comb) (k now : Nat) (cells : List Host.Cell) : Comb :=
  { e with
    bytes := cells.foldl (fun t c => tput t c.1 c.2) e.bytes, slots := sadd k e.slots, since := now
    quads := if cells.length = 16 then sadd ((cells.headD (0, 0)).1 / 16) e.quads else e.quads
    whole := ((cellDwords cells).filter (wholeDword cells)).foldl (fun l dw => sadd dw l) e.whole }

/-- A held entry and an access name memory in one way: under one page key, and through one line of one stream's state window or through none. Only then
is a store merged into the entry, or a load answered from it (DEDUCED, notes/assumptions 24). -/
def entryFor (e : Comb) (key : Nat) (strm va : Word) : Bool :=
  e.key == key && e.strm == strm && (strm == 0 || e.va.toNat / 64 == va.toNat / 64)

/-- Place of the entry that a store merges into: any adaptive entry of its line for an adaptive store, the youngest entry for an
ordered one (R144). -/
def mergeAt (l : List Comb) (line key : Nat) (strm va : Word) (adaptive : Bool) : Option Nat :=
  if adaptive then l.findIdx? fun e => e.line == line && entryFor e key strm va && e.adaptive
  else match l.getLast? with
    | some e => if e.line = line ∧ entryFor e key strm va ∧ !e.adaptive then some (l.length - 1) else none
    | none => none

/-- A store enters the combining buffer; nothing where it has to wait for entries to leave: a full buffer (R144), or a later entry of
another route for the same doubleword, which program order puts after the merged bytes (R141; DEDUCED, notes/assumptions 24). -/
def holdStore (s : State) (g k key : Nat) (adaptive : Bool) (cells : List Host.Cell) (strm va : Word := 0) : Option State :=
  let l := (getCore s g).comb
  let ga := (cells.headD (0, 0)).1
  let line := lineOf ga
  match mergeAt l line key strm va adaptive with
  | some i =>
    if (l.drop (i + 1)).any fun e => entryMeets e ga cells.length then none
    else some (modCore s g fun c => { c with comb := c.comb.modify i fun e => mergeInto e k s.now cells })
  | none =>
    if 16 ≤ l.length then none
    else
      let e : Comb :=
        { line := line, key := key, adaptive := adaptive, bytes := [], whole := [], slots := [], since := s.now,
          strm := strm, va := va - BitVec.ofNat 64 (ga - line) }
      some (modCore s g fun c => { c with comb := c.comb ++ [mergeInto e k s.now cells] })

/-- Stores of a core that have left its buffer for a doubleword of a byte range and are not acknowledged. -/
def unacked (s : State) (g ga n : Nat) : Bool :=
  s.net.any fun m => m.src == g && m.cls != 2 && m.exch.isNone && isWrite m.body && (namedDwords m.body).any fun dw => (dwords ga n).contains dw

/-- A held entry that an ordered write to a home must not overtake: an ordered one with a byte of that home, or one with a byte of the same
doubleword (R141, R239). -/
def entryPrecedes (e : Comb) (ga n : Nat) : Bool :=
  entryMeets e ga n || (!e.adaptive && e.bytes.any fun b => partHome e b.1 == homeKey ga || homeKey b.1 == homeKey ga)

/-- A held entry that a vector store on the ordered route must not overtake: one with a byte of the same doubleword, or an ordered one for a line
that the store names, with a byte of its home; entries of other lines may be overtaken (R141, R239). -/
def entryPrecedesV (e : Comb) (ga n : Nat) : Bool :=
  entryMeets e ga n || (decide (ga < e.line + 64 ∧ e.line < ga + n) && entryPrecedes e ga n)

/-- Entries that a direct write on the ordered route must follow leave first (R239). -/
def flushBefore (s : State) (g : Nat) (r : Route) (ga n : Nat) : State :=
  flushWhile s g fun e => if r = .adaptive then entryMeets e ga n else entryPrecedes e ga n

/-- Entries that a vector store must follow leave first (R239). -/
def flushBeforeV (s : State) (g : Nat) (r : Route) (ga n : Nat) : State :=
  flushWhile s g fun e => if r = .adaptive then entryMeets e ga n else entryPrecedesV e ga n

/-- Every store that has left the buffer of a core is acknowledged (R144). -/
def bufferAcked (s : State) (g : Nat) : Bool :=
  !(s.net.any fun m => m.src == g && m.cls != 2 && m.exch.isNone
    && match m.body with | .access (.merged _ _) _ _ dest => dest.part.isNone | .ack _ _ _ => true | _ => false)

/-- Entries that pass a test leave, and then an access to a byte range waits for their acknowledgement: `begun` remembers it (R144). -/
def afterEntries (s : State) (g k : Nat) (hit : Comb → Bool) (ga n : Nat) (next : State → Eff) : Eff :=
  if (getCore s g).comb.any hit then .done (modCtx (flushWhile s g hit) g k fun x => { x with begun := true })
  else if (getCtx s g k).begun && unacked s g ga n then .stall
  else next s

/-- The entries of an address's line leave and are acknowledged before an access that names a byte of it (R144). -/
def afterLine (s : State) (g k ga : Nat) (next : State → Eff) : Eff := afterEntries s g k (fun e => entryHits e (lineOf ga) 64) (lineOf ga) 64 next

/-- COMBINING_IDLE_FLUSH: entries that have been idle for 32 clocks leave, behind older ones (R144). -/
def combiningIdleFlush (s : State) (g : Nat) : State := flushWhile s g fun e => decide (e.since + 32 ≤ s.now)

def execCombiningIdleFlush (s : State) : Host.Outcome State Fault Refusal := .next (combiningIdleFlush s s.argA)

/-! ### Common parts -/

/-- The stream through whose state window a context's access goes, 0 for none (R55). -/
def windowStrm (s : State) (g k : Nat) (va : Word) : Word := if inWindow va then (getCtx s g k).strm else 0

/-- A held entry has a line of a state window that an access names, at a place where the page lies no more: it leaves before the access, which it
must precede (R141, R248). -/
def entryMoved (e : Comb) (strm va : Word) (ga : Nat) : Bool :=
  strm != 0 && e.strm == strm && e.va.toNat / 64 == va.toNat / 64 && e.line != lineOf ga

/-- Alignment, then translation (R27, R54, R122); a write of operands that a matrix command locks waits (R191). -/
def reach (s : State) (g k : Nat) (need : Need) (va : Word) (n : Nat) (next : State → Nat → Nat → Nat → Eff) : Eff :=
  if va.toNat % n ≠ 0 then .trap causeALIGN va
  else match translate s (whoOf s g k) need va n with
    | .trap c v => .trap c v
    | .wait t w => .done (switchOut t g k (.waiting w))
    | .at t ga key rt =>
      if need.wr && !(need.rd && need.fe) && locked s g ga n then .stall
      else if (getCore t g).comb.any fun e => entryMoved e (windowStrm t g k va) va ga then
        .done (flushWhile t g fun e => entryMoved e (windowStrm t g k va) va ga)
      else next t ga key rt

/-- The route of an access: its QUAL field, else the page's (R72, R142). -/
def routeFor (p : Pfx) (page : Nat) : Route := Pfx.route p page

/-- Send an access and wait for its reply. -/
def sendAndWait (s : State) (g k : Nat) (i : Instr) (r : Route) (key ga : Nat) (va : Word) (op : MemOp) (dest : Dest) : State :=
  let dest' := { dest with next := nextPc s g k i, pops := popList s g k i, va := va, strm := windowStrm s g k va }
  waitReply (sendFrom s g [k] (classOf r) (wireRoute r) (homeKey ga) (moduleOf ga) none (.access op ga va dest') key) g k

/-- A copy made for the access of this context is used (R297). -/
def granting (s : State) (g k ga : Nat) (performed : Bool) : State :=
  match region ga with
  | .frame d _ => if granted s d g k then useGrant s d g k performed else s
  | _ => s

def grantHere (s : State) (g k ga : Nat) : Bool :=
  match region ga with
  | .frame d _ => granted s d g k
  | _ => false

/-- Member bits of DOMMEM at any level (R145). -/
def inAnyGroup (s : State) (g : Nat) : Bool := (upFrom 0 4).any fun l => (groupKey s g l).isSome

/-! ### Migration (R158–R161) -/

/-- Destination K-core of a home (R158). -/
def migTarget (ga : Nat) : Option Nat :=
  let k := paOf ga / 2 ^ 15 % 4
  match region ga with
  | .tcm c _ => some (kcoreAt (c / 64) k)
  | .spad q _ => some (kcoreAt q k)
  | .hbm d _ | .frame d _ => some (kcoreAt (d * 128 + paOf ga / 2 ^ 8 % 128) k)
  | _ => none

/-- R158's conditions at the origin. A home in a register window has no destination, so they fail for it (DEDUCED, notes/assumptions 152). -/
def migAllowed (s : State) (g k : Nat) (pc : Code) (ga : Nat) : Bool :=
  (match (getCtx s g k).kind with | .helper => true | .migrant _ _ _ _ => true | _ => false)
    && roleOf g == 3 && decide (0xC000 ≤ pc.toNat) && moduleOf ga != modOf g && (migTarget ga).isSome

/-- The core's held stores leave and are acknowledged before a packet goes (R159). -/
def drainedBuffer (s : State) (g : Nat) (next : State → Eff) : Eff :=
  if !(getCore s g).comb.isEmpty then .done (flushAll s g)
  else if s.net.any fun m => m.src == g && m.exch.isNone && isWrite m.body then .stall
  else next s

/-- A migration packet leaves (R159): resume PC, x0–x15, INSTRET, tenant, image and return route. A load that would be forwarded keeps the key of
its page (R161). -/
def sendPacket (s : State) (g k target : Nat) (pc : Code) (instret : Word) (load : Option (Nat × Nat × Word × Dest)) (va : Word)
    (next : Code) (key : Nat := 0) : State :=
  let x := getCtx s g k
  let (o, ok, image, queue) : Nat × Nat × Word × Option Nat := match x.kind with
    | .migrant o ok im q => (o, ok, im, q)
    | _ => (g, k, (getCore s g).image, (getCore s g).launch)
  let s1 := sendFrom (key := key) s g [k] 1 .ordered (16 * target + 6) (modOf target) none
    (.migrate pc (x.x.filter fun e => decide (e.1 < 16)) instret (fget F.ten x.priv) image o ok queue load va next)
  switchOut (modCtx s1 g k fun x => { x with begun := false }) g k (.waiting .away)

/-- The destination accepts a migrant: its migrant tenant and image are the packet's, the frame of the resume PC is present, and a slot is
FREE (R158). A core that does not run takes none, nor does one from the moment it is told to stop for a pre-emption until its record has been
given back to it (DEDUCED, notes/assumptions 25). -/
def migAccepts (s : State) (t : Nat) (pc : Code) (tenant : Nat) (image : Word) : Option Nat :=
  let c := getCore s t
  if c.run && !c.preempting && !c.saved && c.migTenant == some tenant && c.migImage == image
      && c.frameV.getLsbD (pc.toNat / 1024) && c.frameX.getLsbD (pc.toNat / 1024) then
    (upFrom 1 10).find? fun k => (getCtx s t k).mode == .free
  else none

/-- MIGRATION_ARRIVE: the packet's helper takes the lowest FREE slot of the K-core, or is refused: a load goes on to its home, on the
packet's route and in its class (DEDUCED, notes/assumptions 174), and `mig` traps at the origin (R158–R161). -/
def migrationArrive (s : State) (id : Nat) : State :=
  match findMsg s id with
  | some m =>
    match m.body with
    | .migrate pc x instret tenant image o ok queue load va next =>
      if !mayPerform s m then s
      else
        let t := m.home / 16
        let g := m.src
        let k := m.slots.headD 0
        match migAccepts s t pc tenant image with
        | some kt =>
          let c : Ctx :=
            { mode := .ready, kind := .migrant o ok image queue, pc := pc, x := x, instret := instret
              priv := BitVec.ofNat 64 (tenant * 2 ^ 16) }
          let s1 := dropMsg s id
          let s2 := if g = o ∧ k = ok then s1 else switchOut (modCtx s1 g k fun x => { x with kind := .helper }) g k .free
          putCtx s2 t kt c
        | none =>
          match load with
          | some (ga, n, lva, dest) =>
            let s1 := modCtx s g k fun x => if x.mode = .waiting .away then { x with mode := .waiting (.reply id) } else x
            setMsg s1 { m.anew m.here (moduleOf ga) (.access (.load n) ga lva { dest with next := next }) with home := homeKey ga }
          | none => if ownsQueue s g k then s else migrationFails (dropMsg s id) g k va
    | _ => s
  | none => s

def execMigrationArrive (s : State) : Host.Outcome State Fault Refusal := .next (migrationArrive s s.argA)

/-- HELPER_RESULT_RETURN: a migrant's result reaches its origin slot, which becomes ENDED (R128); one that nothing waits for is discarded
(R266). -/
def helperResultReturn (s : State) (id : Nat) : State :=
  match findMsg s id with
  | some m =>
    if m.here ≠ m.dst then s
    else match m.body with
      | .result o ok queue v =>
        let s1 := dropMsg s id
        if originHere s1 o ok queue then endHelper s1 o ok v else resultAway s1 o ok queue v
      | _ => s
  | none => s

def execHelperResultReturn (s : State) : Host.Outcome State Fault Refusal := .next (helperResultReturn s s.argA)

/-! ### Loads (R122, R147) -/

/-- A load of n bytes: from a local home, from the youngest held entry that has a byte of it where that is for it and has every byte, or from its home by a message,
behind held entries with a byte of it and those of its context with a byte of its doublewords, each acknowledged for all of its line; a helper may
migrate instead (R141, R144, R161, R239). -/
def memLoad (s : State) (g k : Nat) (i : Instr) (p : Pfx) (va : Word) (n : Nat) (dest : Dest) : Eff :=
  reach s g k needLoad va n fun s ga key rt =>
    if isLocal g ga then
      match performAt s g key (.load n) ga with
      | (t, .value l) => .done (retireTo (granting t g k ga true) g k i (replyWrites l dest) (nextPc s g k i))
      | (t, .poisoned q) => .done (takeTrap t g k causePOISON (va + BitVec.ofNat 64 (q - ga)))
    else
      match ((getCore s g).comb.filter fun e => entryHits e ga n).getLast?.filter fun e =>
          entryFor e key (windowStrm s g k va) va && entryCovers e ga n with
      | some e => retire s g k i (replyWrites ((upFrom ga n).map (tget 0 e.bytes)) dest)
      | none =>
        afterEntries s g k (fun e => entryHits e ga n || (e.slots.contains k && entryMeets e ga n)) (lineOf ga) (lineOf (ga + n - 1) + 64 - lineOf ga) fun s =>
          if fget F.en (getCore s g).migen = 1 ∧ migAllowed s g k (getCtx s g k).pc ga then
            drainedBuffer s g fun s =>
              .done (sendPacket s g k ((migTarget ga).getD 0) (getCtx s g k).pc (getCtx s g k).instret
                (some (ga, n, va, { dest with va := va })) va (nextPc s g k i) key)
          else .done (sendAndWait s g k i (routeFor p rt) key ga va (.load n) dest)

/-- Size of a load in bytes, and the width it is sign-extended from (R94, R122). -/
def ldSize : LdSz → Nat
  | .d => 8 | .w => 4 | .wz => 4 | .h => 2 | .hz => 2 | .b => 1 | .bz => 1
def ldSext : LdSz → Nat
  | .w => 32 | .h => 16 | .b => 8 | _ => 0
def stSize : StSz → Nat
  | .d => 8 | .w => 4 | .h => 2 | .b => 1

/-- `ld` (R122). -/
def execLd (p : Pfx) (z : LdSz) (d a : Reg) (imm : Int) (s : State) : Host.Outcome State Fault Refusal :=
  .next (issue (.ld p z d a imm) s fun s g k =>
    memLoad s g k (.ld p z d a imm) p (effAddr (readX s g k a) imm (ldSize z)) (ldSize z) { reg := some d, sext := ldSext z })

/-- `ldp`: 16 bytes as one access (R147). -/
def execLdp (p : Pfx) (d a : Reg) (imm : Int) (s : State) : Host.Outcome State Fault Refusal :=
  .next (issue (.ldp p d a imm) s fun s g k =>
    memLoad s g k (.ldp p d a imm) p (effAddr (readX s g k a) imm 8) 16 { reg := some d, pair := some (d + 1) })

/-! ### Stores (R122, R142–R147) -/

/-- A deferred entry enters the exchange buffer; a full buffer raises PROT (R145). -/
def deferEntry (s : State) (g k : Nat) (i : Instr) (ga key : Nat) (va : Word) (op : MemOp) : Eff :=
  if 512 ≤ (getCore s g).xbuf.length then .trap causePROT va
  else
    let e : XEnt :=
      { slot := k, ga := ga, key := key, va := va, op := op, hold := (getCore s g).phase
        strm := windowStrm s g k va }
    .done (retireTo (modCore s g fun c => { c with xbuf := c.xbuf ++ [e] }) g k i [] (nextPc s g k i))

/-- Perform or send a store or reduction that waits for nothing. -/
def directWrite (s : State) (g k : Nat) (r : Route) (key ga : Nat) (va : Word) (op : MemOp) (acq : Bool := false)
    (part : Option Nat := none) : State :=
  if isLocal g ga then (performAt s g key op ga).1
  else granting (sendFrom s g [k] 1 (wireRoute r) (homeKey ga) (moduleOf ga) none
    (.access op ga va { part := part, strm := windowStrm s g k va }) key acq) g k ga false

/-- A store of bytes (R142–R145): deferred, released, local, or into the combining buffer. -/
def memStore (s : State) (g k : Nat) (i : Instr) (p : Pfx) (va : Word) (bytes : List Byte) : Eff :=
  reach s g k needStore va bytes.length fun s ga key rt =>
    let r := routeFor p rt
    let cells := cellsAt ga bytes
    if r = .deferred ∧ inAnyGroup s g then deferEntry (markDirty s g k) g k i ga key va (.store cells)
    else if r = .deferred then
      .done (retireTo (directWrite (flushBefore (markDirty s g k) g .ordered ga bytes.length) g k .ordered key ga va (.store cells)) g k i []
        (nextPc s g k i))
    else if Pfx.rel p then
      releaseThen s g k 4 fun s =>
        if !bufferAcked s g then .stall
        else .done (retireTo (directWrite (markDirty s g k) g k r key ga va (.store cells)) g k i [] (nextPc s g k i))
    else if isLocal g ga then
      .done (retireTo (directWrite (markDirty s g k) g k r key ga va (.store cells)) g k i [] (nextPc s g k i))
    else match holdStore (granting (markDirty s g k) g k ga false) g k key (r == .adaptive) cells (windowStrm s g k va) va with
      | some t => .done (retireTo t g k i [] (nextPc s g k i))
      | none => .done (flushOldest s g)

/-- `st` (R122). -/
def execSt (p : Pfx) (z : StSz) (d a : Reg) (imm : Int) (s : State) : Host.Outcome State Fault Refusal :=
  .next (issue (.st p z d a imm) s fun s g k =>
    memStore s g k (.st p z d a imm) p (effAddr (readX s g k a) imm (stSize z)) (leBytes (readX s g k d).toNat (stSize z)))

/-- `stp`: 16 bytes as one access (R147). -/
def execStp (p : Pfx) (d a : Reg) (imm : Int) (s : State) : Host.Outcome State Fault Refusal :=
  .next (issue (.stp p d a imm) s fun s g k =>
    memStore s g k (.stp p d a imm) p (effAddr (readX s g k a) imm 8)
      (leBytes (readX s g k d).toNat 8 ++ leBytes (readX s g k (d + 1)).toNat 8))

/-! ### Full/empty words (R148, R149) -/

/-- A full/empty request that is answered: held stores of its line leave first (R144); a local one that can be served retires, any other is
sent, or listed at its local unit, and its context waits. -/
def memFe (s : State) (g k : Nat) (i : Instr) (p : Pfx) (need : Need) (va : Word) (op : FeOp) (dest : Dest) : Eff :=
  reach s g k need va 8 fun s ga key rt =>
    (if Pfx.rel p then releaseThen s g k 4 else fun f => f s) fun s =>
    afterLine s g k ga fun s =>
      if isLocal g ga then
        match feTry s key op ga with
        | .reply t val changed =>
          .done (retireTo (if changed then served t ga ga else t) g k i (replyWrites val dest) (nextPc s g k i))
        | .trap t q => .done (takeTrap t g k causePOISON (va + BitVec.ofNat 64 (q - ga)))
        | .denied => .trap causePROT va
        | .wait =>
          let t := sendAndWait s g k i .ordered key ga va (.fe op) dest
          match findMsg t s.nextId with
          | some m => .done (enlist t m ga)
          | none => .stall
      else .done (sendAndWait s g k i (routeFor p rt) key ga va (.fe op) dest)

/-- `ld.sync` (R149). -/
def execLdSync (p : Pfx) (d a : Reg) (imm : Int) (s : State) : Host.Outcome State Fault Refusal :=
  .next (issue (.ldSync p d a imm) s fun s g k =>
    memFe s g k (.ldSync p d a imm) p needLdSync (effAddr (readX s g k a) imm 8) .ldSync { reg := some d })

/-- `take` (R149). -/
def execTake (p : Pfx) (d a : Reg) (imm : Int) (s : State) : Host.Outcome State Fault Refusal :=
  .next (issue (.take p d a imm) s fun s g k =>
    memFe s g k (.take p d a imm) p needTake (effAddr (readX s g k a) imm 8) .take { reg := some d })

/-- `tryt` (R149). -/
def execTryt (p : Pfx) (d a : Reg) (imm : Int) (s : State) : Host.Outcome State Fault Refusal :=
  .next (issue (.tryt p d a imm) s fun s g k =>
    memFe s g k (.tryt p d a imm) p needTake (effAddr (readX s g k a) imm 8) .tryt { reg := some d })

/-- `put` (R149). -/
def execPut (p : Pfx) (d a : Reg) (imm : Int) (s : State) : Host.Outcome State Fault Refusal :=
  .next (issue (.put p d a imm) s fun s g k =>
    memFe s g k (.put p d a imm) p needPut (effAddr (readX s g k a) imm 8) (.put (readX s g k d)) {})

/-- A write that sets F and is not answered (`st.fill`, `fwr`): performed at a local home, else sent (R149, R237). -/
def directFill (s : State) (g k : Nat) (r : Route) (key ga : Nat) (va : Word) (op : FeOp) : State :=
  if isLocal g ga then
    match feTry s key op ga with
    | .reply t _ _ => served (match op with | .fwr _ => wakeFuture t ga ga | _ => t) ga ga
    | _ => s
  else sendFrom s g [k] 1 (wireRoute r) (homeKey ga) (moduleOf ga) none (.access (.fe op) ga va {}) key

/-- `st.fill`: never waits (R149); with route deferred it is held (R145). -/
def execStFill (p : Pfx) (d a : Reg) (imm : Int) (s : State) : Host.Outcome State Fault Refusal :=
  .next (issue (.stFill p d a imm) s fun s g k =>
    let i := Instr.stFill p d a imm
    let va := effAddr (readX s g k a) imm 8
    let v := readX s g k d
    reach s g k needPut va 8 fun s ga key rt =>
      let r := routeFor p rt
      if r = .deferred ∧ inAnyGroup s g then
        afterLine s g k ga fun s => deferEntry (markDirty s g k) g k i ga key va (.fe (.fill v))
      else
        let r1 := if r = .deferred then .ordered else r
        (if Pfx.rel p then releaseThen s g k 4 else fun f => f s) fun s =>
        afterLine s g k ga fun s =>
          .done (retireTo (directFill (flushBefore (markDirty s g k) g r1 ga 8) g k r1 key ga va (.fill v)) g k i [] (nextPc s g k i)))

/-! ### Atomics and reductions (R150–R152) -/

/-- An atomic: one aligned doubleword read, modified and written at its home; the old value comes back (R150, R143, R144). -/
def memAmo (s : State) (g k : Nat) (i : Instr) (p : Pfx) (va : Word) (op : Rmw) (src cmp : Word) (d : Reg) : Eff :=
  reach s g k needAmo va 8 fun s ga key rt =>
    (if Pfx.rel p then releaseThen s g k 4 else fun f => f s) fun s =>
    afterLine s g k ga fun s =>
      let dest : Dest := { reg := some d }
      if isLocal g ga then
        match performAt s g key (.rmw op src cmp) ga with
        | (t, .value l) => .done (retireTo (granting (markDirty t g k) g k ga true) g k i (replyWrites l dest) (nextPc s g k i))
        | (t, .poisoned q) => .done (takeTrap t g k causePOISON (va + BitVec.ofNat 64 (q - ga)))
      else .done (granting (sendAndWait (markDirty s g k) g k i (routeFor p rt) key ga va (.rmw op src cmp) dest) g k ga false)

/-- A reduction: the same without an answer (R152). -/
def memRed (s : State) (g k : Nat) (i : Instr) (p : Pfx) (va : Word) (op : Rmw) (src : Word) : Eff :=
  reach s g k needRed va 8 fun s ga key rt =>
    let r := routeFor p rt
    if r = .deferred ∧ inAnyGroup s g then afterLine s g k ga fun s => deferEntry (markDirty s g k) g k i ga key va (.red op src)
    else
      let r1 := if r = .deferred then .ordered else r
      (if Pfx.rel p then releaseThen s g k 4 else fun f => f s) fun s =>
      afterLine s g k ga fun s =>
        let t := directWrite (flushBefore (markDirty s g k) g r1 ga 8) g k r1 key ga va (.red op src) (Pfx.acq p)
        .done (retireTo t g k i [] (nextPc s g k i))

/-- `amo.add` (R150). -/
def execAmoAdd (p : Pfx) (d a b : Reg) (s : State) : Host.Outcome State Fault Refusal :=
  .next (issue (.amoAdd p d a b) s fun s g k =>
    memAmo s g k (.amoAdd p d a b) p (readX s g k a) .add (readX s g k b) (readX s g k d) d)

/-- `amo.min` (R150). -/
def execAmoMin (p : Pfx) (d a b : Reg) (s : State) : Host.Outcome State Fault Refusal :=
  .next (issue (.amoMin p d a b) s fun s g k =>
    memAmo s g k (.amoMin p d a b) p (readX s g k a) .min (readX s g k b) (readX s g k d) d)

/-- `amo.max` (R150). -/
def execAmoMax (p : Pfx) (d a b : Reg) (s : State) : Host.Outcome State Fault Refusal :=
  .next (issue (.amoMax p d a b) s fun s g k =>
    memAmo s g k (.amoMax p d a b) p (readX s g k a) .max (readX s g k b) (readX s g k d) d)

/-- `amo.minu` (R150). -/
def execAmoMinu (p : Pfx) (d a b : Reg) (s : State) : Host.Outcome State Fault Refusal :=
  .next (issue (.amoMinu p d a b) s fun s g k =>
    memAmo s g k (.amoMinu p d a b) p (readX s g k a) .minu (readX s g k b) (readX s g k d) d)

/-- `amo.maxu` (R150). -/
def execAmoMaxu (p : Pfx) (d a b : Reg) (s : State) : Host.Outcome State Fault Refusal :=
  .next (issue (.amoMaxu p d a b) s fun s g k =>
    memAmo s g k (.amoMaxu p d a b) p (readX s g k a) .maxu (readX s g k b) (readX s g k d) d)

/-- `amo.and` (R150). -/
def execAmoAnd (p : Pfx) (d a b : Reg) (s : State) : Host.Outcome State Fault Refusal :=
  .next (issue (.amoAnd p d a b) s fun s g k =>
    memAmo s g k (.amoAnd p d a b) p (readX s g k a) .and (readX s g k b) (readX s g k d) d)

/-- `amo.or` (R150). -/
def execAmoOr (p : Pfx) (d a b : Reg) (s : State) : Host.Outcome State Fault Refusal :=
  .next (issue (.amoOr p d a b) s fun s g k =>
    memAmo s g k (.amoOr p d a b) p (readX s g k a) .or (readX s g k b) (readX s g k d) d)

/-- `amo.xor` (R150). -/
def execAmoXor (p : Pfx) (d a b : Reg) (s : State) : Host.Outcome State Fault Refusal :=
  .next (issue (.amoXor p d a b) s fun s g k =>
    memAmo s g k (.amoXor p d a b) p (readX s g k a) .xor (readX s g k b) (readX s g k d) d)

/-- `amo.swap` (R150). -/
def execAmoSwap (p : Pfx) (d a b : Reg) (s : State) : Host.Outcome State Fault Refusal :=
  .next (issue (.amoSwap p d a b) s fun s g k =>
    memAmo s g k (.amoSwap p d a b) p (readX s g k a) .swap (readX s g k b) (readX s g k d) d)

/-- `amo.cas`: the comparand is xD as it stood (R150). -/
def execAmoCas (p : Pfx) (d a b : Reg) (s : State) : Host.Outcome State Fault Refusal :=
  .next (issue (.amoCas p d a b) s fun s g k =>
    memAmo s g k (.amoCas p d a b) p (readX s g k a) .cas (readX s g k b) (readX s g k d) d)

/-- `bump` (R151). -/
def execBump (p : Pfx) (d a b : Reg) (s : State) : Host.Outcome State Fault Refusal :=
  .next (issue (.bump p d a b) s fun s g k =>
    memAmo s g k (.bump p d a b) p (readX s g k a) .bump (readX s g k b) 0 d)

/-- `red.add` (R152). -/
def execRedAdd (p : Pfx) (a b : Reg) (s : State) : Host.Outcome State Fault Refusal :=
  .next (issue (.redAdd p a b) s fun s g k => memRed s g k (.redAdd p a b) p (readX s g k a) .add (readX s g k b))

/-- `red.min` (R152). -/
def execRedMin (p : Pfx) (a b : Reg) (s : State) : Host.Outcome State Fault Refusal :=
  .next (issue (.redMin p a b) s fun s g k => memRed s g k (.redMin p a b) p (readX s g k a) .min (readX s g k b))

/-- `red.max` (R152). -/
def execRedMax (p : Pfx) (a b : Reg) (s : State) : Host.Outcome State Fault Refusal :=
  .next (issue (.redMax p a b) s fun s g k => memRed s g k (.redMax p a b) p (readX s g k a) .max (readX s g k b))

/-- `red.fadd` (R152). -/
def execRedFadd (p : Pfx) (a b : Reg) (s : State) : Host.Outcome State Fault Refusal :=
  .next (issue (.redFadd p a b) s fun s g k => memRed s g k (.redFadd p a b) p (readX s g k a) .fadd (readX s g k b))

/-! ### Fences (R153, R154) -/

/-- Adaptive stores and reductions of a context within a scope that are not acknowledged (R154). -/
def adaptiveOut (s : State) (g k scope : Nat) : Bool :=
  s.net.any fun m => m.src == g && m.slots.contains k && m.exch.isNone
    && (match m.body with
      | .access (.store _) _ _ _ | .access (.merged _ _) _ _ _ | .access (.red _ _) _ _ _ | .access (.fe (.fill _)) _ _ _ => m.route == .adaptive
      | .ack _ _ adaptive => adaptive
      | _ => false)
    && (accessSpan m.body).any fun a => inScope g scope a.1

/-- `fence`: held stores of the unit leave; with a release side it waits for the context's writes there. Loads and atomics hold their
context, so the acquire side waits for nothing (R154, R239). -/
def execFence (p : Pfx) (imm : Nat) (s : State) : Host.Outcome State Fault Refusal :=
  .next (issue (.fence p imm) s fun s g k =>
    let i := Instr.fence p imm
    if Pfx.acq p ∧ !Pfx.rel p then retire (flushScope s g imm) g k i []
    else releaseThen s g k imm fun s => retire s g k i [])

/-- `fence.rt`: adaptive entries of the unit leave and are acknowledged (R154). Its context issues nothing further until then, loads neither (DEDUCED,
notes/assumptions 173). -/
def execFenceRt (p : Pfx) (imm : Nat) (s : State) : Host.Outcome State Fault Refusal :=
  .next (issue (.fenceRt p imm) s fun s g k =>
    let hit (e : Comb) : Bool := e.adaptive && inScope g imm e.line
    if (getCore s g).comb.any hit then .done (flushWhile s g hit)
    else if adaptiveOut s g k imm then .stall
    else retire s g k (.fenceRt p imm) [])

/-- `fence.eng`: engine writes are visible once performed, and the context's earlier stores of the unit are performed before any engine
transfer commanded later reads (R154). -/
def execFenceEng (p : Pfx) (imm : Nat) (s : State) : Host.Outcome State Fault Refusal :=
  .next (issue (.fenceEng p imm) s fun s g k => releaseThen s g k imm fun s => retire s g k (.fenceEng p imm) [])

/-! ### Explicit migration (R160) -/

/-- `mig`: continues where the home is this module; else the helper migrates, or MIG_DENY. The packet counts the `mig` as retired. -/
def execMig (p : Pfx) (a : Reg) (imm : Int) (s : State) : Host.Outcome State Fault Refusal :=
  .next (issue (.mig p a imm) s fun s g k =>
    let i := Instr.mig p a imm
    let va := effAddr (readX s g k a) imm 8
    match translate s (whoOf s g k) needLoad va 8 with
    | .trap c v => .trap c v
    | .wait t w => .done (switchOut t g k (.waiting w))
    | .at s ga _ _ =>
      if moduleOf ga = modOf g then retire s g k i []
      else if !migAllowed s g k (nextPc s g k i) ga then .trap causeMIG va
      else drainedBuffer s g fun s =>
        .done (sendPacket s g k ((migTarget ga).getD 0) (nextPc s g k i) ((getCtx s g k).instret + 1) none va (nextPc s g k i)))

end Sys2Proof.Machine
end

