-- ==== Sys2Proof/Machine/Cascade.lean ====
section
/-!
DEFINITION. Cascades: stage queues and action queues, `cdone`, installing and removing a cascade, and the balancer (R61, R232–R234, R299–R313).
-/
namespace Sys2Proof.Machine

/-! ### Units and places (R305, R307) -/

/-- A unit is known by its cluster of the die and a core in it: the X-core of a triad, or a K-core. -/
def unitKey (c i : Nat) : Nat := c * 64 + i
def isControl (u : Nat) : Bool := decide (48 ≤ u % 64)

/-- Every unit of a cluster: 16 triads, 4 K-cores. -/
def triadsOf (c : Nat) : List Nat := (upFrom 0 16).map fun t => unitKey c (3 * t)
def controlsOf (c : Nat) : List Nat := (upFrom 48 4).map (unitKey c)

def placeOf (x : Die) (u : Nat) : Place := tget .none x.place u
def offered (x : Die) (u : Nat) : Bool := x.offered.contains u

/-- The field that `cdone` returns for a unit. -/
def placeField (x : Die) (u : Nat) : Nat :=
  match placeOf x u with
  | .stage c st => 0x300 + c * 32 + st
  | .pool c => 0x100 + c * 32
  | .none => 0

/-! ### Descriptors (R61, R299, R300) -/

def ctlBlock (x : Die) (c : Nat) : BitVec 512 := tget 0 x.cblk c
def stageDesc (x : Die) (c st : Nat) : BitVec 512 := tget 0 x.sdesc (32 * c + st)
def queueDesc (x : Die) (q : Nat) : BitVec 512 := tget 0 x.qdesc q

def setCtl (s : State) (d c : Nat) (f : Fld) (v : Nat) : State := modDie s d fun x => { x with cblk := tset 0 x.cblk c (fput f (ctlBlock x c) v) }
def setStage (s : State) (d c st : Nat) (f : Fld) (v : Nat) : State :=
  modDie s d fun x => { x with sdesc := tset 0 x.sdesc (32 * c + st) (fput f (stageDesc x c st) v) }
def setQueue (s : State) (d q : Nat) (f : Fld) (v : Nat) : State :=
  modDie s d fun x => { x with qdesc := tset 0 x.qdesc q (fput f (queueDesc x q) v) }

/-- Clusters that a cascade spans, ascending. -/
def spanOf (b : BitVec 512) : List Nat := (upFrom 0 128).filter fun i => b.getLsbD (384 + i)

def queuesOf (b : BitVec 512) : List Nat := upFrom (fget F.cbQfirst b) (fget F.cbQcount b)
def stagesOf (b : BitVec 512) : List Nat := upFrom 0 (fget F.cbNstage b)

def queueOcc (e : BitVec 512) : Nat := (fget F.qdTail e + 2 ^ 32 - fget F.qdHead e) % 2 ^ 32
def queueCap (e : BitVec 512) : Nat := 2 ^ fget F.qdLogCap e

/-- A queue descriptor of a die is invalid (R61). -/
def queueInvalid (d : Nat) (e : BitVec 512) : Bool :=
  let es := fget F.qdEsize e
  let base := fget F.qdBase e
  let last := base + es * queueCap e - 1
  let ga (a : Nat) : Nat := d / 16 * 2 ^ 48 + a
  let inside : Bool := decide (last < 2 ^ 48) && match region (ga base), region (ga last) with
    | .spad q _, .spad r _ => q == r && q / 128 == d
    | .frame a o, .frame b p => a == d && b == d && p == o + (last - base)
    | _, _ => false
  decide (fget F.qdLogCap e < 3) || decide (12 < fget F.qdLogCap e) || es % 8 != 0 || decide (es < 8) || decide (64 < es)
    || decide (fget F.qdHigh e ≤ fget F.qdLow e) || decide (queueCap e < fget F.qdHigh e) || base % 64 != 0 || !inside
    || fget F.qdRsv e != 0 || [(61, 3), (45, 3), (21, 3), (5, 3)].any fun r => fget ⟨r.1, r.2⟩ e != 0

def stageKind (e : BitVec 512) : Nat := fget F.sdKind e
def isRing (e : BitVec 512) : Bool := fget F.sdRing e == 1

/-- A stage descriptor is invalid (R302 reason 5). -/
def stageInvalid (e : BitVec 512) : Bool :=
  let kind := stageKind e
  let mn := fget F.sdMin e
  let init := fget F.sdInit e
  let mx := fget F.sdMax e
  kind == 0 || kind == 3
    || ([(224, 288), (108, 20), (76, 20), (60, 4), (21, 27), (10, 6), (2, 6)].any fun r => fget ⟨r.1, r.2⟩ e != 0)
    || mn == 0 || decide (init < mn) || decide (mx < init) || decide ((if kind = 1 then 2048 else 512) < mx) || decide (16 < fget F.sdGminl e)
    || (isRing e && (mn % 16 != 0 || init % 16 != 0 || mx % 16 != 0))
    || (kind == 2 && (isRing e || fget F.sdGwhole e == 1 || fget F.sdGminl e != 0))

/-- A cluster of the die meets a stage's need (R300). -/
def meetsNeed (s : State) (d cl : Nat) (e : BitVec 512) : Bool :=
  let q := d * 128 + cl
  decide (fget F.sdGminl e ≤ liveCount s q)
    && (fget F.sdGwhole e == 0 || (upFrom 0 16).all fun t => shapeOf s q t == 0 || shapeOf s q t == 3)

/-! ### Stranding (R310) -/

/-- Stranded units of one stage in a cluster go to the pool, which is no move of the balancer: MOVES stands (DESIGN CHOICE, notes/assumptions 171). -/
def strandStage (s : State) (d c st cl : Nat) : State :=
  let x := getDie s d
  let e := stageDesc x c st
  let mine := (triadsOf cl).filter fun u => placeOf x u == .stage c st && offered x u
  if stageKind e ≠ 1 ∨ meetsNeed s d cl e ∨ mine.isEmpty ∨ (isRing e ∧ mine.length < 16) then s
  else
    let s1 := modDie s d fun x => { x with place := mine.foldl (fun t u => tput t u (.pool c)) x.place }
    setStage s1 d c st F.sdCount (fget F.sdCount e - mine.length)

/-- STRANDED_TO_POOL: every offered core of a die whose cluster no longer meets its stage's need goes to its cascade's pool (R310). -/
def stranded (s : State) (d : Nat) : State :=
  ((upFrom 0 8).filter (installed (getDie s d))).foldl (fun s c =>
    let b := ctlBlock (getDie s d) c
    (stagesOf b).foldl (fun s st => (spanOf b).foldl (fun s cl => strandStage s d c st cl) s) s) s

def execStrandedToPool (s : State) : Host.Outcome State Fault Refusal := .next (stranded s s.argA)

/-! ### The balancer (R308–R311) -/

/-- What an evaluation works on: the state, and the stages that have given or received. -/
structure Balance where
  s : State
  used : List Nat

def unitSize (e : BitVec 512) : Nat := if isRing e then 16 else 1

/-- Queues of a cascade that a stage takes from, or gives to. -/
def inputsOf (x : Die) (b : BitVec 512) (st : Nat) : List (BitVec 512) :=
  ((queuesOf b).map (queueDesc x)).filter fun e => fget F.qdCons e == st
def outputsOf (x : Die) (b : BitVec 512) (st : Nat) : List (BitVec 512) :=
  ((queuesOf b).map (queueDesc x)).filter fun e => fget F.qdProd e == st

/-- f(q) (R308). -/
def fillOf (e : BitVec 512) : Nat := Nat.min 256 (256 * queueOcc e / queueCap e)

/-- P(s) (R308). -/
def pressure (x : Die) (b : BitVec 512) (st : Nat) : Int :=
  let ins := inputsOf x b st
  let top (l : List (BitVec 512)) : Nat := (l.map fillOf).foldl Nat.max 0
  (if ins.isEmpty then 128 else top ins : Nat) - (top (outputsOf x b st) : Nat)

/-- The units that a place of cascade c holds offered, of a stage's kind and in clusters meeting its need, lowest first; a ring unit stands
as the list of its 16 triads (R307, R309). -/
def offeredUnits (s : State) (d c : Nat) (at_ : Place) (need : BitVec 512) : List (List Nat) :=
  let x := getDie s d
  let ok (u : Nat) : Bool := placeOf x u == at_ && offered x u
  let cls := (spanOf (ctlBlock x c)).filter fun cl => meetsNeed s d cl need && x.rdyCl.getLsbD cl
  if isRing need then (cls.map triadsOf).filter fun l => l.all ok
  else ((cls.flatMap fun cl => if stageKind need = 1 then triadsOf cl else controlsOf cl).filter ok).map fun u => [u]

/-- Stages of one kind (R307). -/
def sameKind (a b : BitVec 512) : Bool := stageKind a == stageKind b && isRing a == isRing b

/-- Members of Rs (R309). -/
def mayReceive (x : Die) (c : Nat) (b : BitVec 512) (st : Nat) : Bool :=
  let e := stageDesc x c st
  let ins := inputsOf x b st
  decide (fget F.sdCount e + unitSize e ≤ fget F.sdMax e)
    && (decide (fget F.sdCount e < fget F.sdMin e) || ins.isEmpty || ins.any fun q => decide (fget F.qdLow q < queueOcc q))

/-- A stage may give a unit to r (R309). -/
def mayGive (x : Die) (c : Nat) (b : BitVec 512) (r st : Nat) : Bool :=
  let e := stageDesc x c st
  sameKind e (stageDesc x c r) && decide (fget F.sdMin e + unitSize e ≤ fget F.sdCount e)
    && (inputsOf x b st).all fun q => decide (queueOcc q < fget F.qdHigh q)

/-- The receiver: below MIN before others, then the highest P, then the lowest index. -/
def receiver (x : Die) (c : Nat) (b : BitVec 512) (l : List Nat) : Option Nat :=
  let low (st : Nat) : Bool := decide (fget F.sdCount (stageDesc x c st) < fget F.sdMin (stageDesc x c st))
  l.foldl (fun best st =>
    match best with
    | none => some st
    | some r =>
      if (low st && !low r) || (low st == low r && decide (pressure x b r < pressure x b st)) then some st else best) none

/-- The donor: none is the pool; the lowest P, ties to the pool, then to the lower index. -/
def donor (s : State) (d c : Nat) (b : BitVec 512) (used : List Nat) (r : Nat) : Option (Option Nat × Int × List Nat) :=
  let x := getDie s d
  let need := stageDesc x c r
  let pool := (offeredUnits s d c (.pool c) need).head?.map fun u => ((none : Option Nat), (-257 : Int), u)
  ((stagesOf b).filter fun st => st != r && !used.contains st && mayGive x c b r st).foldl (fun best st =>
    match (offeredUnits s d c (.stage c st) need).head? with
    | none => best
    | some u =>
      match best with
      | none => some (some st, pressure x b st, u)
      | some y => if pressure x b st < y.2.1 then some (some st, pressure x b st, u) else best) pool

/-- Move a unit to r (R309). -/
def moveUnit (s : State) (d c r : Nat) (from_ : Option Nat) (u : List Nat) : State :=
  let x := getDie s d
  let s1 := modDie s d fun x => { x with place := u.foldl (fun t i => tput t i (.stage c r)) x.place }
  let s2 := match from_ with
    | some st => setStage s1 d c st F.sdCount (fget F.sdCount (stageDesc x c st) - u.length)
    | none => s1
  let e := stageDesc (getDie s2 d) c r
  let s3 := setStage (setStage s2 d c r F.sdCount (fget F.sdCount e + u.length)) d c r F.sdRecv (fget F.sdRecv e + 1)
  setCtl s3 d c F.cbMoves (fget F.cbMoves (ctlBlock x c) + 1)

/-- The loop of R309: each round marks a receiver used. -/
def balance (d c : Nat) (w : Balance) : Nat → Balance
  | 0 => w
  | n + 1 =>
    let x := getDie w.s d
    let b := ctlBlock x c
    match receiver x c b ((stagesOf b).filter fun st => !w.used.contains st && mayReceive x c b st) with
    | none => w
    | some r =>
      let e := stageDesc x c r
      let used := w.used ++ [r]
      match donor w.s d c b used r with
      | none => balance d c { w with used := used } n
      | some (from_, p, u) =>
        if fget F.sdCount e < fget F.sdMin e ∨ (fget F.cbHyst b : Int) < pressure x b r - p then
          balance d c { s := moveUnit w.s d c r from_ u, used := used ++ from_.toList } n
        else balance d c { w with used := used } n

/-- The source of a cascade's events: the balancer of its die, the cascade as its unit (DEDUCED, notes/assumptions 76). -/
def srcCascade (d c : Nat) : Source := { die := d % 16, unit := c, kind := 4 }

/-- BALANCER_EVALUATE: at the end of an interval the pressures are written, units move, and a stage left below MIN raises BELOW (R308, R309,
R311). -/
def balancerEvaluate (s : State) (d c : Nat) : State :=
  let x := getDie s d
  let b := ctlBlock x c
  if !installed x c || fget F.cbNextIv b != 0 then s
  else
    let s1 := (stagesOf b).foldl (fun s st => setStage s d c st F.sdPress (BitVec.ofInt 16 (pressure x b st)).toNat) s
    let s2 := (balance d c { s := s1, used := [] } 33).s
    let s3 := setCtl s2 d c F.cbNextIv (fget F.cbIvm1 b + 1)
    let y := getDie s3 d
    match (stagesOf b).find? fun st => decide (fget F.sdCount (stageDesc y c st) < fget F.sdMin (stageDesc y c st)) with
    | none => modDie s3 d fun x => { x with belowMin := sdel c x.belowMin }
    | some st =>
      let s4 := setCtl s3 d c F.cbBelow (Nat.min 65535 (fget F.cbBelow b + 1))
      if y.belowMin.contains c then s4
      else postEvent (modDie s4 d fun x => { x with belowMin := sadd c x.belowMin }) (d / 16) (srcCascade d c) 0x41 st (2 ^ 63)

def execBalancerEvaluate (s : State) : Host.Outcome State Fault Refusal := .next (balancerEvaluate s s.argA s.argB)

/-! ### Installing and removing (R301–R304) -/

/-- The edges with LOOP = 0 contain a cycle: some stage is reached again from itself. -/
def cyclic (edges : List (Nat × Nat)) (n : Nat) : Bool :=
  let grow (l : List (Nat × Nat)) : List (Nat × Nat) :=
    (l ++ l.flatMap fun a => (edges.filter fun e => e.1 == a.2).map fun e => (a.1, e.2)).dedup
  ((upFrom 0 n).foldl (fun l _ => grow l) edges).any fun e => e.1 == e.2

/-- Placement (R303): units of stages in three passes over what is left, and what is left over. -/
def placement (s : State) (d c : Nat) : Option (List (Nat × Place)) :=
  let x := getDie s d
  let b := ctlBlock x c
  let span := spanOf b
  let take (kind : Nat) (ring : Bool) (free : List Nat) (acc : List (Nat × Place)) : Option (List Nat × List (Nat × Place)) :=
    (stagesOf b).foldl (fun r st =>
      r.bind fun (free, acc) =>
        let e := stageDesc x c st
        if stageKind e ≠ kind ∨ isRing e ≠ ring then some (free, acc)
        else
          let init := fget F.sdInit e
          let fit := free.filter fun u => kind == 2 || meetsNeed s d (u / 64) e
          let got := if ring then
              (((span.filter fun cl => (triadsOf cl).all fit.contains).take (init / 16)).flatMap triadsOf)
            else fit.take init
          if got.length < init then none
          else some (free.filter fun u => !got.contains u, acc ++ got.map fun u => (u, Place.stage c st))) (some (free, acc))
  (take 1 true (span.flatMap triadsOf) []).bind fun (f1, a1) =>
    (take 1 false f1 a1).bind fun (f2, a2) =>
      (take 2 false (span.flatMap controlsOf) a2).map fun (f3, a3) => a3 ++ (f2 ++ f3).map fun u => (u, Place.pool c)

/-- The first failing check of an install: reason, kind of index, index (R302). A reason that no one stage, queue or cluster gives, of which 6 and 7 are two,
has kind 0 and index 0 (DEDUCED, notes/assumptions 176). -/
def installCheck (s : State) (d c : Nat) : Nat × Nat × Nat :=
  let x := getDie s d
  let b := ctlBlock x c
  let others := (upFrom 0 8).filter fun o => o != c && installed x o
  let n := fget F.cbNstage b
  let span := spanOf b
  let qs := queuesOf b
  let badBlock : Bool := n == 0 || decide (32 < n) || decide (fget F.cbIvm1 b < 1023) || fget F.cbQcount b == 0 || decide (512 < fget F.cbQcount b)
    || ([(106, 150), (73, 23), (48, 15), (0, 17)].any fun r => fget ⟨r.1, r.2⟩ b != 0) || span.isEmpty
    || decide (512 < fget F.cbQfirst b + fget F.cbQcount b)
  let badCluster (cl : Nat) : Bool := !x.rdyCl.getLsbD cl || others.any fun o => (spanOf (ctlBlock x o)).contains cl
  let badQueue (q : Nat) : Bool :=
    let e := queueDesc x q
    queueInvalid d e || fget F.qdCasc e != c || decide (n ≤ fget F.qdProd e) || decide (n ≤ fget F.qdCons e)
      || (fget F.qdProd e == fget F.qdCons e && fget F.qdLoop e == 0)
      || (match region (d / 16 * 2 ^ 48 + fget F.qdBase e) with | .spad q _ => !span.contains (q % 128) | _ => false)
  let edges := (qs.filter fun q => fget F.qdLoop (queueDesc x q) == 0).map fun q => (fget F.qdProd (queueDesc x q), fget F.qdCons (queueDesc x q))
  if installed x c then (1, 0, 0)
  else if badBlock then (2, 0, 0)
  else match span.find? badCluster with
    | some cl => (3, 3, cl)
    | none => match qs.find? badQueue with
      | some q => (4, 2, q)
      | none => match (stagesOf b).find? fun st => stageInvalid (stageDesc x c st) with
        | some st => (5, 1, st)
        | none =>
          if cyclic edges n then (6, 0, 0)
          else if (placement s d c).isNone then (7, 0, 0)
          else match qs.find? fun q => (cascadeOfQueue x q).isSome with
            | some q => (8, 2, q)
            | none => (0, 0, 0)

/-- An operation ends: CASCSTAT shows its result, and an event is posted (R301). -/
def cascEnd (s : State) (d c reason kind index : Nat) : State :=
  let st : Word := BitVec.ofNat 64 (index * 2 ^ 16 + kind * 2 ^ 8 + reason)
  postEvent (modDie s d fun x => { x with cascStat := st }) (d / 16) (srcCascade d c) 0x41 st.toNat 0

/-- The operation that CASCCTL asks for, while CASCSTAT shows busy: cascade, and whether it is a removal. -/
def cascOp (x : Die) : Option (Nat × Bool) := if x.cascStat.getLsbD 63 then some (fget ⟨0, 3⟩ x.cascCtl, x.cascCtl.getLsbD 8) else none

/-- CASCADE_INSTALL: the checks, then the placement, in one clock (R302, R303). The units received by moves are counted from 0 again (DESIGN CHOICE,
notes/assumptions 162). -/
def cascadeInstall (s : State) (d : Nat) : State :=
  match cascOp (getDie s d) with
  | some (c, false) =>
    match installCheck s d c, placement s d c with
    | (0, _, _), some l =>
      let b := ctlBlock (getDie s d) c
      let s1 := (stagesOf b).foldl (fun s st =>
        setStage (setStage (setStage s d c st F.sdCount (fget F.sdInit (stageDesc (getDie s d) c st))) d c st F.sdRecv 0) d c st F.sdPress 0) s
      let s2 := setCtl (setCtl (setCtl (setCtl s1 d c F.cbNextIv (fget F.cbIvm1 b + 1)) d c F.cbMoves 0) d c F.cbBelow 0) d c F.cbV 1
      let s3 := modDie s2 d fun x =>
        { x with
          place := l.foldl (fun t u => tput t u.1 u.2) x.place
          offered := x.offered.filter fun u => !(l.any fun y => y.1 == u)
          belowMin := sdel c x.belowMin }
      cascEnd s3 d c 0 0 0
    | (r, k, i), _ => cascEnd s d c r k i
  | _ => s

def execCascadeInstall (s : State) : Host.Outcome State Fault Refusal := .next (cascadeInstall s s.argA)

/-- The cascade that a place belongs to. -/
def placeCascade : Place → Option Nat
  | .none => none
  | .pool c => some c
  | .stage c _ => some c

/-- CASCADE_REMOVE: once every core assigned to a stage is offered, the assignments, their counts and the pool are cleared (R300, R304). -/
def cascadeRemove (s : State) (d : Nat) : State :=
  let x := getDie s d
  match cascOp x with
  | some (c, true) =>
    if !installed x c then cascEnd s d c 1 0 0
    else if x.place.any fun e => (match e.2 with | .stage k _ => k == c | _ => false) && !offered x e.1 then s
    else
      let s1 := modDie s d fun x =>
        { x with place := x.place.filter fun e => placeCascade e.2 != some c, belowMin := sdel c x.belowMin }
      let s2 := (stagesOf (ctlBlock x c)).foldl (fun s st => setStage s d c st F.sdCount 0) s1
      cascEnd (setCtl s2 d c F.cbV 0) d c 0 0 0
  | _ => s

def execCascadeRemove (s : State) : Host.Outcome State Fault Refusal := .next (cascadeRemove s s.argA)

/-! ### Queue instructions (R232, R233, R312) -/

/-- A queue that an instruction names: a stage queue of the die, or the action queue of a stream. -/
inductive Queue
  | stage (d q : Nat) (e : BitVec 512)
  | action (d i : Nat) (b : BitVec 2048)

/-- Entry size, capacity, head and occupancy. -/
def Queue.esize : Queue → Nat
  | .stage _ _ e => fget F.qdEsize e
  | .action _ _ b => fget F.scAqEsize b
def Queue.cap : Queue → Nat
  | .stage _ _ e => queueCap e
  | .action _ _ b => 2 ^ fget F.scAqLogCap b
def Queue.head : Queue → Nat
  | .stage _ _ e => fget F.qdHead e
  | .action _ _ b => fget F.scAqHead b
def Queue.tail : Queue → Nat
  | .stage _ _ e => fget F.qdTail e
  | .action _ _ b => fget F.scAqTail b
def Queue.occ : Queue → Nat
  | .stage _ _ e => queueOcc e
  | .action _ _ b => (fget F.scAqTail b + 2 ^ 16 - fget F.scAqHead b) % 2 ^ 16

/-- The queue of a handle, or its trap (R232, R411) (DEDUCED, notes/assumptions 74). -/
def queueOf (s : State) (g k : Nat) (xa : Word) : Except (Nat × Word) Queue :=
  if xa.getLsbD 63 then
    let sid := (getCtx s g k).strm
    let d := sidDie sid
    let i := sidIdx sid
    if fget F.sidGen sid = 0 then .error (causeSTREAM, 0)
    else if badScb s d i then .error (causeECC, dieLocator 6 d i)
    else if BitVec.ofNat 64 (scbGet s d i F.scSid) ≠ sid ∨ [0, 5, 6].contains (scbGet s d i F.scState) then .error (causeSTREAM, sid)
    else .ok (.action d i (getScb s d i))
  else
    let d := dieOf g
    let q := bitsOf xa.toNat 0 9
    let e := queueDesc (getDie s d) q
    if (cascadeOfQueue (getDie s d) q).isNone || queueInvalid d e then .error (causeQUEUE, BitVec.ofNat 64 (paOf (gaDieWin d (0x1A0000 + 64 * q))))
    else if isBad s (d / 16) (dieLocator 9 d q) then .error (causeECC, dieLocator 9 d q)
    else .ok (.stage d q e)

/-- Doublewords of an entry: where they lie, or a trap or a wait of their translation. -/
inductive Places
  | at (s : State) (l : List (Nat × Nat))
  | wait (s : State) (w : Wait)
  | trap (code : Nat) (val : Word)

/-- Global addresses and keys of the doublewords of n entries from a number on. -/
def entryPlaces (s : State) (g k : Nat) (z : Queue) (need : Need) (first n : Nat) : Places :=
  let es := z.esize
  let offs := (upFrom first n).flatMap fun i => (upFrom 0 (es / 8)).map fun j => i % z.cap * es + 8 * j
  match z with
  | .stage d _ e => .at s (offs.map fun o => (d / 16 * 2 ^ 48 + fget F.qdBase e + o, 0))
  | .action _ _ b =>
    offs.foldl (fun r o =>
      match r with
      | .at s l =>
        let va : Word := BitVec.ofNat 64 (fget F.scAqBase b + o)
        if va.toNat % 8 ≠ 0 then .trap causeALIGN va
        else match translate s (whoOf s g k) need va 8 with
          | .trap c v => .trap c v
          | .wait t w => .wait t w
          | .at t ga key _ => if canReach t (modOf g) (moduleOf ga) then .at t (l ++ [(ga, key)]) else .trap causePOISON va
      | r => r) (.at s [])

/-- Read doublewords one after another; the poisoned one that comes first ends it (DEDUCED, notes/assumptions 75). -/
def readPlaces (s : State) (g : Nat) (l : List (Nat × Nat)) : State × Except Nat (List Byte) :=
  l.foldl (fun r p =>
    match r with
    | (s, .ok bytes) =>
      match performAt s g p.2 (.load 8) p.1 with
      | (t, .value b) => (t, .ok (bytes ++ b))
      | (t, .poisoned a) => (t, .error a)
    | r => r) (s, .ok [])

/-- Write doublewords one after another. -/
def writePlaces (s : State) (g : Nat) (l : List (Nat × Nat)) (bytes : List Byte) : State :=
  ((l.zip (upFrom 0 l.length)).foldl (fun s p =>
    (performAt s g p.1.2 (.store (cellsAt p.1.1 ((bytes.drop (8 * p.2)).take 8))) p.1.1).1) s)

/-- The local bytes of a queue instruction: alignment, then the windows (R233). -/
def localPlaces (g : Nat) (va : Word) (n : Nat) : Except (Nat × Word) (List (Nat × Nat)) :=
  if va.toNat % 8 ≠ 0 then .error (causeALIGN, va)
  else if n = 0 then .ok []
  else match localGa g va n with
    | some ga => .ok ((upFrom 0 (n / 8)).map fun j => (ga + 8 * j, 0))
    | none => .error (causePROT, va)

def setHeadTail (s : State) (z : Queue) (tail : Bool) (v : Nat) : State :=
  match z with
  | .stage d q _ => setQueue s d q (if tail then F.qdTail else F.qdHead) v
  | .action d i _ => scbPut s d i (if tail then F.scAqTail else F.scAqHead) v

/-- STALLS of a stage queue rises. -/
def countStall (s : State) (z : Queue) : State :=
  match z with
  | .stage d q e => setQueue s d q F.qdStalls (fget F.qdStalls e + 1)
  | .action _ _ _ => s

/-- The blocking form acts as `.nb` (R233). -/
def Queue.neverBlocks : Queue → Bool
  | .stage _ _ e => fget F.qdLoop e == 1
  | .action _ _ _ => true

/-- `cenq` and `cenq.nb` (R233): the checks, a release at die scope, then the step at the queue. One that the queue refuses copies no entry and
does not mark the task for FUT_ORDER (DEDUCED, notes/assumptions 16). -/
def enqueueForm (s : State) (g k : Nat) (i : Instr) (nb : Bool) (d : Reg) (xa xb : Word) : Eff :=
  match queueOf s g k xa with
  | .error (c, v) => .trap c v
  | .ok z0 =>
    match localPlaces g xb z0.esize with
    | .error (c, v) => .trap c v
    | .ok src =>
      releaseThen s g k 2 fun s =>
        match queueOf s g k xa with
        | .error (c, v) => .trap c v
        | .ok z =>
          if z.cap ≤ z.occ then
            if nb || z.neverBlocks then retire (countStall s z) g k i [(d, 1)]
            else if (getCtx s g k).begun then .stall
            else .done (modCtx (countStall s z) g k fun x => { x with begun := true })
          else match entryPlaces s g k z needWrite z.tail 1 with
            | .trap c v => .trap c v
            | .wait t w => .done (switchOut t g k (.waiting w))
            | .at t dst =>
              match readPlaces t g src with
              | (u, .error a) => .done (takeTrap u g k causePOISON (xb + BitVec.ofNat 64 (a - (src.headD (0, 0)).1)))
              | (u, .ok bytes) => retire (markDirty (setHeadTail (writePlaces u g dst bytes) z true (z.tail + 1)) g k) g k i [(d, 0)]

/-- `cenq` (R233). -/
def execCenq (p : Pfx) (d a b : Reg) (s : State) : Host.Outcome State Fault Refusal :=
  .next (issue (.cenq p d a b) s fun s g k => enqueueForm s g k (.cenq p d a b) false d (readX s g k a) (readX s g k b))

/-- `cenq.nb` (R233). -/
def execCenqNb (p : Pfx) (d a b : Reg) (s : State) : Host.Outcome State Fault Refusal :=
  .next (issue (.cenqNb p d a b) s fun s g k => enqueueForm s g k (.cenqNb p d a b) true d (readX s g k a) (readX s g k b))

/-- `cdeq` (R233). -/
def execCdeq (p : Pfx) (d a b : Reg) (s : State) : Host.Outcome State Fault Refusal :=
  .next (issue (.cdeq p d a b) s fun s g k =>
    let i := Instr.cdeq p d a b
    let limit := Nat.min (readX s g k b).toNat 64
    match queueOf s g k (readX s g k a) with
    | .error (c, v) => .trap c v
    | .ok z =>
      match localPlaces g (readX s g k d) (limit * z.esize) with
      | .error (c, v) => .trap c v
      | .ok dst =>
        if limit = 0 then retire s g k i [(d, 0)]
        else if z.occ = 0 then .stall
        else
          let n := Nat.min z.occ limit
          match entryPlaces s g k z needLoad z.head n with
          | .trap c v => .trap c v
          | .wait t w => .done (switchOut t g k (.waiting w))
          | .at t src =>
            match readPlaces t g src with
            | (u, .error a) =>
              .done (takeTrap u g k causePOISON (match z with
                | .stage _ _ _ => BitVec.ofNat 64 (paOf a)
                | .action _ _ b =>
                  let j := src.findIdx fun p => p.1 / 8 == a / 8
                  BitVec.ofNat 64 (fget F.scAqBase b + (z.head + j / (z.esize / 8)) % z.cap * z.esize + j % (z.esize / 8) * 8)))
            | (u, .ok bytes) =>
              retire (setHeadTail (writePlaces u g (dst.take (n * z.esize / 8)) bytes) z false (z.head + n)) g k i [(d, BitVec.ofNat 64 n)])

/-- `cocc` (R233). An action queue has no watermarks: the two bits are free (DESIGN CHOICE, notes/assumptions 7, 78). -/
def execCocc (p : Pfx) (d a : Reg) (s : State) : Host.Outcome State Fault Refusal :=
  .next (issue (.cocc p d a) s fun s g k =>
    let i := Instr.cocc p d a
    match queueOf s g k (readX s g k a) with
    | .error (c, v) => .trap c v
    | .ok (.stage x q e) =>
      let z := Queue.stage x q e
      retire s g k i [(d, BitVec.ofNat 64 (z.occ + (decide (fget F.qdHigh e ≤ z.occ)).toNat * 2 ^ 32 + (decide (z.occ ≤ fget F.qdLow e)).toNat * 2 ^ 33))]
    | .ok z =>
      let (v, s1) := draw s
      retire s1 g k i [(d, BitVec.ofNat 64 (z.occ + v % 4 * 2 ^ 32))])

/-! ### `cdone` (R234, R305) -/

/-- Units of a `cdone`: the triads of the K-core's quad and the K-core itself (R234). -/
def quadUnits (g : Nat) : List Nat :=
  let cl := clusterOf g % 128
  let q := g % 64 - 48
  ((upFrom (4 * q) 4).map fun t => unitKey cl (3 * t)) ++ [unitKey cl (48 + q)]

/-- The word that a `cdone` returns: the places of its units (R234, R305). -/
def quadPlaces (s : State) (g : Nat) : Word :=
  BitVec.ofNat 64 ((((quadUnits g).zip (upFrom 0 5)).map fun u => placeField (getDie s (dieOf g)) u.1 * 2 ^ (10 * u.2)).foldl (· + ·) 0)

/-- An installed cascade of a die is evaluated at the end of this clock (R308). -/
def evaluationDue (s : State) (d : Nat) : Bool :=
  (upFrom 0 8).any fun c => installed (getDie s d) c && fget F.cbNextIv (ctlBlock (getDie s d) c) == 0

/-- `cdone` (R234): the boundary bits of a quad and its K-core are set and stranded cores go to the pool; then the assignment is read. In the clock
of an evaluation the result is that after the evaluation, which sees the bits of every `cdone` of the clock (R305) (DEDUCED, notes/assumptions 77). -/
def execCdone (p : Pfx) (d a : Reg) (s : State) : Host.Outcome State Fault Refusal :=
  .next (issue (.cdone p d a) s fun s g k =>
    let dd := dieOf g
    let xa := readX s g k a
    let s1 := modDie s dd fun x =>
      { x with offered := ((quadUnits g).zip (upFrom 0 5)).foldl (fun l u => if xa.getLsbD u.2 then sadd u.1 l else sdel u.1 l) x.offered }
    let s2 := stranded s1 dd
    if evaluationDue s2 dd then retire (modCore s2 g fun c => { c with boundary := some (k, d) }) g k (.cdone p d a) []
    else retire s2 g k (.cdone p d a) [(d, quadPlaces s2 g)])

/-- The result of a `cdone` of the clock that ends is written (R305), into an outbound port once it has room (R131). -/
def boundaryEnd (s : State) (g : Nat) : State :=
  match (getCore s g).boundary with
  | some (k, d) =>
    if canWrite s g k [(d, 0)] then writeX (modCore s g fun c => { c with boundary := none }) g k d (quadPlaces s g) else s
  | none => s

end Sys2Proof.Machine
end

