-- ==== Sys2Proof/Machine/Lanes.lean ====
section
/-!
DEFINITION. What each vector and conversion form computes from its captured operands: registers, masks, scalar results, flags and draws
(R106–R116, R170–R177, R180–R186).
-/
namespace Sys2Proof.Machine

/-! ### Inputs and outputs of a retiring instruction -/

/-- What a form sees when it retires: vector and mask registers, the captured scalar, rounding code and FTZ, and the lane
generators (R162). -/
structure VIn where
  v : Reg → VReg
  m : Nat → Word
  xa : Word
  rm : Nat
  ftz : Bool
  gen : Nat → Lane

/-- A vector result: the register, its value, and the lanes it writes. -/
structure VRes where
  reg : Reg
  val : VReg
  lanes : Nat → Bool

/-- What a form writes when it retires; `draws` names the lanes' draws, in order. -/
structure VOut where
  v : List VRes := []
  m : List (Reg × Word) := []
  x : List (Reg × Word) := []
  flags : Flags := {}
  draws : List Nat := []
  seed : Option Lane := none

def everyLane (_ : Nat) : Bool := true

/-- Active lanes under a minor code (R91). -/
def VIn.act (q : VIn) (mk : BitVec 2) (i : Nat) : Bool := mk == 0 || (q.m mk.toNat).getLsbD i

/-- Effective rounding mode: the QUAL field, else the captured RM (R72, R162). -/
def VIn.mode (q : VIn) (p : Pfx) : RMode := rmodeOf (if Pfx.rnd p = 6 then q.rm else Pfx.rnd p)

def VIn.lane (q : VIn) (r : Reg) (i : Nat) : Lane := laneOf (q.v r) i

/-- A generator after n draws. -/
def genAfter (x : Lane) : Nat → Lane
  | 0 => x
  | n + 1 => genStep (genAfter x n)

/-- Lanes computed without rounding. -/
def mapLanes (q : VIn) (mk : BitVec 2) (d : Reg) (f : Nat → Lane × Flags) : VOut :=
  let rs := (upFrom 0 64).map f
  let on := q.act mk
  { v := [{ reg := d, val := vregOfList (rs.map Prod.fst), lanes := on }]
    flags := Flags.join (((rs.zip (upFrom 0 64)).filter fun r => on r.2).map fun r => r.1.2) }

/-- Lanes each rounded once: under SR every active lane draws (R113). -/
def roundLanes (q : VIn) (p : Pfx) (mk : BitVec 2) (d : Reg) (f : RMode → Lane → Nat → Lane × Flags) : VOut :=
  let mode := q.mode p
  let o := mapLanes q mk d fun i => f mode (q.gen i) i
  { o with draws := if mode = .sr then (upFrom 0 64).filter (q.act mk) else [] }

def noFlags (v : Lane) : Lane × Flags := (v, {})

/-! ### Lane arithmetic (R170) -/

def signed32 (x : Lane) : Int := x.toInt

/-- Canonical NaN of FP32 (R106). -/
def qnan : Lane := 0x7FC00000

/-- NV for a signalling NaN (R106). -/
def snanFlag (ftz : Bool) (l : List Lane) : Flags := { nv := l.any fun x => (val32 ftz x).signalling }

def absLane (t : Elem) (ftz : Bool) (a : Lane) : Lane × Flags :=
  match t with
  | .fp32 => if isNan32 a then (qnan, snanFlag ftz [a]) else noFlags (ftzSrc ftz a &&& 0x7FFFFFFF)
  | .int32 => noFlags (if a.msb then -a else a)
  | _ => noFlags a

def negLane (t : Elem) (ftz : Bool) (a : Lane) : Lane × Flags :=
  match t with
  | .fp32 => if isNan32 a then (qnan, snanFlag ftz [a]) else noFlags (ftzSrc ftz a ^^^ 0x80000000)
  | _ => noFlags (-a)

/-- Addition, subtraction and multiplication of a type under a mode. -/
def addL (t : Elem) (ftz : Bool) (mode : RMode) (g a b : Lane) : Lane × Flags :=
  if t = .fp32 then round32 (addVal mode (val32 ftz a) (val32 ftz b)) mode false ftz g.toNat else noFlags (a + b)

def subL (t : Elem) (ftz : Bool) (mode : RMode) (g a b : Lane) : Lane × Flags :=
  if t = .fp32 then round32 (addVal mode (val32 ftz a) (negVal (val32 ftz b))) mode false ftz g.toNat else noFlags (a - b)

def mulL (t : Elem) (ftz : Bool) (mode : RMode) (g a b : Lane) : Lane × Flags :=
  if t = .fp32 then round32 (mulVal (val32 ftz a) (val32 ftz b)) mode false ftz g.toNat else noFlags (a * b)

/-- The smaller or larger value; a NaN gives the canonical NaN (R170, R116). -/
def pickL (t : Elem) (ftz larger : Bool) (a b : Lane) : Lane × Flags :=
  match t with
  | .fp32 =>
    if isNan32 a || isNan32 b then (qnan, snanFlag ftz [a, b])
    else
      let x := ftzSrc ftz a
      let y := ftzSrc ftz b
      noFlags (if decide (fpKey x < fpKey y) == larger then y else x)
  | .int32 => noFlags (if decide (a.toInt < b.toInt) == larger then b else a)
  | _ => noFlags (if decide (a.toNat < b.toNat) == larger then b else a)

def shiftRight (k : ShKind) (a b : Lane) : Lane :=
  let n := b.toNat % 32
  match k with
  | .arith => a.sshiftRight n
  | .logical => a >>> n

/-- The comparison of `vcmp` for one lane (R171). -/
def cmpL (k : CmpP) (t : Elem) (ftz : Bool) (a b : Lane) : Bool × Flags :=
  match t with
  | .fp32 =>
    let x := val32 ftz a
    let y := val32 ftz b
    let nan := x.isNan || y.isNan
    let ordered := match k with | .lt | .le => true | _ => false
    let kx : Int := if x.isZero then 0 else fpKey a
    let ky : Int := if y.isZero then 0 else fpKey b
    let r := match k with
      | .eq => !nan && kx == ky
      | .lt => !nan && decide (kx < ky)
      | .le => !nan && decide (kx ≤ ky)
      | .ne => nan || kx != ky
    (r, { nv := if ordered then nan else x.signalling || y.signalling })
  | _ =>
    let x : Int := if t = .int32 then a.toInt else a.toNat
    let y : Int := if t = .int32 then b.toInt else b.toNat
    (match k with
      | .eq => x == y
      | .lt => decide (x < y)
      | .le => decide (x ≤ y)
      | .ne => x != y, {})

/-- A mask from 64 bits. -/
def maskOf (f : Nat → Bool) : Word := (upFrom 0 64).foldl (fun acc i => if f i then acc ||| BitVec.ofNat 64 (2 ^ i) else acc) 0

/-! ### Across lanes (R116, R173–R176) -/

inductive RedOp | sum | max | min
  deriving DecidableEq, Repr

/-- Identity of a reduction (R116). -/
def redId (op : RedOp) (t : Elem) : Lane :=
  match op, t with
  | .sum, .fp32 => 0x80000000
  | .sum, _ => 0
  | .max, .fp32 => 0xFF800000
  | .min, .fp32 => 0x7F800000
  | .max, .int32 => 0x80000000
  | .min, .int32 => 0x7FFFFFFF
  | .max, _ => 0
  | .min, _ => 0xFFFFFFFF

/-- Op at a node (R116). -/
def redNode (op : RedOp) (t : Elem) (ftz : Bool) (mode : RMode) (a b : Lane) : Lane × Flags :=
  match op with
  | .sum => addL t ftz mode.noSr 0 a b
  | .max => pickL t ftz true a b
  | .min => pickL t ftz false a b

/-- One level of the pairwise tree. -/
def treeLevel {α : Type} (op : α → α → α × Flags) : List α → List α × Flags
  | a :: b :: rest =>
    let r := op a b
    let q := treeLevel op rest
    (r.1 :: q.1, r.2.or q.2)
  | l => (l, {})

/-- The fixed pairwise tree: n levels. -/
def treeOf {α : Type} (op : α → α → α × Flags) : Nat → List α × Flags → List α × Flags
  | 0, r => r
  | n + 1, r =>
    let q := treeLevel op r.1
    treeOf op n (q.1, r.2.or q.2)

/-- Active lanes, others the identity. -/
def leaves (q : VIn) (op : RedOp) (t : Elem) (mk : BitVec 2) (a : Reg) : List Lane :=
  (upFrom 0 64).map fun i => if q.act mk i then q.lane a i else redId op t

def extendRed (t : Elem) (x : Lane) : Word := if t = .int32 then x.signExtend 64 else x.zeroExtend 64

def reduceForm (op : RedOp) (q : VIn) (p : Pfx) (mk : BitVec 2) (t : Elem) (d a : Reg) : VOut :=
  let r := treeOf (redNode op t q.ftz (q.mode p)) 6 (leaves q op t mk a, {})
  { x := [(d, extendRed t (r.1.headD 0))], flags := r.2 }

/-- The pair with the larger value; the left one on equal values or two NaNs; a NaN above every number (R116) (DEDUCED, notes/assumptions 43). -/
def argNode (t : Elem) (ftz : Bool) (a b : Lane × Nat) : (Lane × Nat) × Flags :=
  match t with
  | .fp32 =>
    let x := ftzSrc ftz a.1
    let y := ftzSrc ftz b.1
    let fl := snanFlag ftz [a.1, b.1]
    if isNan32 a.1 then ((qnan, a.2), fl)
    else if isNan32 b.1 then ((qnan, b.2), fl)
    else (if fpKey x < fpKey y then (y, b.2) else (x, a.2), fl)
  | .int32 => (if a.1.toInt < b.1.toInt then b else a, {})
  | _ => (if a.1.toNat < b.1.toNat then b else a, {})

def argmaxForm (q : VIn) (mk : BitVec 2) (t : Elem) (d a : Reg) : VOut :=
  let l := (upFrom 0 64).map fun i => if q.act mk i then (q.lane a i, i) else (redId .max t, 64)
  let r := treeOf (argNode t q.ftz) 6 (l, {})
  let w := r.1.headD (0, 64)
  { x := [(d, BitVec.ofNat 64 (w.2 * 2 ^ 32 + w.1.toNat))], flags := r.2 }

/-- Running values from the first lane on (R174). -/
def scanFrom (op : Lane → Lane → Lane × Flags) (acc : Lane) : List Lane → List Lane × Flags
  | [] => ([], {})
  | x :: rest =>
    let r := op acc x
    let q := scanFrom op r.1 rest
    (r.1 :: q.1, r.2.or q.2)

def scanForm (q : VIn) (p : Pfx) (mk : BitVec 2) (t : Elem) (d a : Reg) : VOut :=
  let r := scanFrom (redNode .sum t q.ftz (q.mode p)) (redId .sum t) (leaves q .sum t mk a)
  { v := [{ reg := d, val := vregOfList r.1, lanes := everyLane }], flags := r.2 }

/-- Rank of a lane's value for `vtopk`: larger is better, a NaN above every number (R175). -/
def rankKey (t : Elem) (ftz : Bool) (x : Lane) : Int :=
  if t = .fp32 then (if isNan32 x then 2 ^ 40 else fpKey (ftzSrc ftz x)) else x.toInt

/-- Insert behind every entry of at least its key. -/
def rankInsert (k : Int) (i : Nat) : List (Int × Nat) → List (Int × Nat)
  | [] => [(k, i)]
  | e :: rest => if e.1 < k then (k, i) :: e :: rest else e :: rankInsert k i rest

def topkForm (q : VIn) (mk : BitVec 2) (t : Elem) (d a : Reg) : VOut :=
  let on := (upFrom 0 64).filter (q.act mk)
  let ranked := (on.foldl (fun l i => rankInsert (rankKey t q.ftz (q.lane a i)) i l) []).take (Nat.min q.xa.toNat 64)
  let value (i : Nat) : Lane :=
    let x := q.lane a i
    if t = .fp32 then (if isNan32 x then qnan else ftzSrc q.ftz x) else x
  let none_ : Lane := if t = .fp32 then 0xFF800000 else 0x80000000
  { v := [{ reg := d, lanes := everyLane, val := vregOf fun j => (ranked[j]?).elim none_ fun e => value e.2 },
          { reg := d + 1, lanes := everyLane, val := vregOf fun j => (ranked[j]?).elim 64 fun e => BitVec.ofNat 32 e.2 }]
    flags := if t = .fp32 then snanFlag q.ftz (on.map (q.lane a)) else {} }

/-! ### Conversion and packing (R180–R185) -/

/-- The floating-point format of an element name. -/
def fmtOf : Elem → FFmt
  | .fp16 => fp16
  | .bf16 => bf16
  | .e4m3 => e4m3
  | .e5m2 => e5m2
  | .e2m1 => e2m1
  | _ => fp32

def intBits : Elem → Option Nat
  | .int8 => some 8
  | .int4 => some 4
  | .int32 => some 32
  | _ => none

def elemBits (f : Elem) : Nat := (intBits f).getD (fmtOf f).bits

/-- Conv of a value to a target format (R114, R181). -/
def convVal (f : Elem) (x : Val) (mode : RMode) (sat ftz : Bool) (g : Lane) : Nat × Flags :=
  match intBits f with
  | some n => let r := roundInt x n true mode sat g.toNat; (r.1.toNat, r.2)
  | none => roundFP x (fmtOf f) mode sat ftz g.toNat

/-- Elements of w bits packed from the lowest. -/
def packElems (w : Nat) : List Nat → Nat
  | [] => 0
  | x :: rest => x + 2 ^ w * packElems w rest

/-- The conveyor of R181: the old content moves down by the lanes that one result of 64 elements of w bits fills. -/
def conveyor (old : VReg) (w : Nat) (l : List Nat) : VReg :=
  let n := 64 * w
  (old >>> n) ||| (BitVec.ofNat 2048 (packElems w l) <<< (2048 - n))

def packForm (q : VIn) (p : Pfx) (f : Elem) (d : Reg) (vals : Nat → Val) : VOut :=
  let mode := q.mode p
  let rs := (upFrom 0 64).map fun i => convVal f (vals i) mode (Pfx.sat p) q.ftz (q.gen i)
  { v := [{ reg := d, lanes := everyLane, val := conveyor (q.v d) (elemBits f) (rs.map Prod.fst) }]
    flags := Flags.join (rs.map Prod.snd)
    draws := if mode = .sr then upFrom 0 64 else [] }

/-- `cvt2`: lane i of the first source, then of the second (R180). -/
def cvt2Form (q : VIn) (p : Pfx) (f : Elem) (d a b : Reg) : VOut :=
  let mode := q.mode p
  let conv (r : Reg) (n i : Nat) : Nat × Flags :=
    convVal f (val32 q.ftz (q.lane r i)) mode (Pfx.sat p) q.ftz (genAfter (q.gen i) n)
  let rs := (upFrom 0 64).map (conv a 0) ++ (upFrom 0 64).map (conv b 1)
  { v := [{ reg := d, lanes := everyLane, val := BitVec.ofNat 2048 (packElems 16 (rs.map Prod.fst)) }]
    flags := Flags.join (rs.map Prod.snd)
    draws := if mode = .sr then upFrom 0 64 ++ upFrom 0 64 else [] }

/-- `cvtu`: exact widening (R182). -/
def cvtuForm (q : VIn) (f : Elem) (d a part : Reg) : VOut :=
  let w := elemBits f
  mapLanes q 0 d fun i =>
    let x := elemOf (q.v a) w (64 * part.toNat + i)
    match intBits f with
    | some n => noFlags ((BitVec.ofNat n x).signExtend 32)
    | none =>
      let v := valueOf (fmtOf f) q.ftz x
      if v.isNan then (qnan, { nv := v.signalling }) else noFlags (lane (roundFP v fp32 .rne false false 0))

/-- Emax of a block format (R184). -/
def emaxOf : Elem → Int
  | .e4m3 => 8
  | .e5m2 => 15
  | _ => 2

/-- floor(log2) of a nonzero value's magnitude. -/
def floorLog : Val → Int
  | .num _ m e => (Nat.log2 m : Int) + e
  | _ => 0

/-- Scale of a block of lanes (R184). -/
def blockScale (f : Elem) (l : List Val) : Nat :=
  if l.any fun x => match x with | .num _ _ _ => false | _ => true then 255
  else
    let logs := (l.filter fun x => !x.isZero).map floorLog
    match logs with
    | [] => 127
    | k :: rest =>
      let m := rest.foldl max k
      (min (max (m - emaxOf f + 127) 0) 254).toNat

def qscaleForm (q : VIn) (f : Elem) (d a : Reg) : VOut :=
  let vals := (upFrom 0 64).map fun i => val32 q.ftz (q.lane a i)
  let e0 := blockScale f (vals.take 32)
  let e1 := blockScale f (vals.drop 32)
  { v := [{ reg := d, lanes := everyLane, val := vregOf fun i => BitVec.ofNat 32 (if i < 32 then e0 else e1) }]
    flags := { nv := vals.any Val.signalling } }

/-- A value times 2^k, exactly. -/
def scaleVal (x : Val) (k : Int) : Val :=
  match x with
  | .num n m e => .num n m (e + k)
  | y => y

def qzForm (q : VIn) (p : Pfx) (f : Elem) (d a b : Reg) : VOut :=
  packForm q p f d fun i =>
    let e := (q.lane b i).toNat % 256
    if e = 255 then .nan (match val32 q.ftz (q.lane a i) with | .nan s => s | _ => false) else scaleVal (val32 q.ftz (q.lane a i)) (127 - e)

/-! ### What each form does (R170–R177, R180–R186) -/

def effVmov (mk : BitVec 2) (d a : Reg) (q : VIn) : VOut := mapLanes q mk d fun i => noFlags (q.lane a i)
def effVabs (mk : BitVec 2) (t : Elem) (d a : Reg) (q : VIn) : VOut := mapLanes q mk d fun i => absLane t q.ftz (q.lane a i)
def effVneg (mk : BitVec 2) (t : Elem) (d a : Reg) (q : VIn) : VOut := mapLanes q mk d fun i => negLane t q.ftz (q.lane a i)
def effVbcast (mk : BitVec 2) (d : Reg) (q : VIn) : VOut := mapLanes q mk d fun _ => noFlags (q.xa.setWidth 32)

/-- A rounded form of two sources; integer types round nothing and draw nothing. -/
def effArith (f : Elem → Bool → RMode → Lane → Lane → Lane → Lane × Flags) (p : Pfx) (mk : BitVec 2) (t : Elem) (d a b : Reg) (q : VIn) : VOut :=
  if t = .fp32 then roundLanes q p mk d fun mode g i => f t q.ftz mode g (q.lane a i) (q.lane b i)
  else mapLanes q mk d fun i => f t q.ftz .rne 0 (q.lane a i) (q.lane b i)

def effVadd (p : Pfx) (mk : BitVec 2) (t : Elem) (d a b : Reg) (q : VIn) : VOut := effArith addL p mk t d a b q
def effVsub (p : Pfx) (mk : BitVec 2) (t : Elem) (d a b : Reg) (q : VIn) : VOut := effArith subL p mk t d a b q
def effVmul (p : Pfx) (mk : BitVec 2) (t : Elem) (d a b : Reg) (q : VIn) : VOut := effArith mulL p mk t d a b q

/-- ± (a × b) ± d, rounded once. -/
def effFused (negP negD : Bool) (p : Pfx) (mk : BitVec 2) (d a b : Reg) (q : VIn) : VOut :=
  roundLanes q p mk d fun mode g i =>
    let x := val32 q.ftz (q.lane a i)
    let z := val32 q.ftz (q.lane d i)
    round32 (fmaVal mode (if negP then negVal x else x) (val32 q.ftz (q.lane b i)) (if negD then negVal z else z)) mode false q.ftz g.toNat

def effVfma (p : Pfx) (mk : BitVec 2) (d a b : Reg) (q : VIn) : VOut := effFused false false p mk d a b q
def effVfms (p : Pfx) (mk : BitVec 2) (d a b : Reg) (q : VIn) : VOut := effFused false true p mk d a b q
def effVfnma (p : Pfx) (mk : BitVec 2) (d a b : Reg) (q : VIn) : VOut := effFused true false p mk d a b q

def effVmin (mk : BitVec 2) (t : Elem) (d a b : Reg) (q : VIn) : VOut :=
  mapLanes q mk d fun i => pickL t q.ftz false (q.lane a i) (q.lane b i)
def effVmax (mk : BitVec 2) (t : Elem) (d a b : Reg) (q : VIn) : VOut :=
  mapLanes q mk d fun i => pickL t q.ftz true (q.lane a i) (q.lane b i)
def effVand (mk : BitVec 2) (d a b : Reg) (q : VIn) : VOut := mapLanes q mk d fun i => noFlags (q.lane a i &&& q.lane b i)
def effVor (mk : BitVec 2) (d a b : Reg) (q : VIn) : VOut := mapLanes q mk d fun i => noFlags (q.lane a i ||| q.lane b i)
def effVxor (mk : BitVec 2) (d a b : Reg) (q : VIn) : VOut := mapLanes q mk d fun i => noFlags (q.lane a i ^^^ q.lane b i)
def effVshl (mk : BitVec 2) (d a b : Reg) (q : VIn) : VOut :=
  mapLanes q mk d fun i => noFlags (q.lane a i <<< ((q.lane b i).toNat % 32))
def effVshr (mk : BitVec 2) (k : ShKind) (d a b : Reg) (q : VIn) : VOut :=
  mapLanes q mk d fun i => noFlags (shiftRight k (q.lane a i) (q.lane b i))

def effVcmp (k : CmpP) (t : Elem) (d a b : Reg) (q : VIn) : VOut :=
  let rs := (upFrom 0 64).map fun i => cmpL k t q.ftz (q.lane a i) (q.lane b i)
  { m := [(d, maskOf fun i => ((rs[i]?).map Prod.fst).getD false)], flags := Flags.join (rs.map Prod.snd) }

def effVsel (mk : BitVec 2) (d a b : Reg) (q : VIn) : VOut :=
  { v := [{ reg := d, lanes := everyLane, val := vregOf fun i => if (q.m mk.toNat).getLsbD i then q.lane a i else q.lane b i }] }

def effVredsum (p : Pfx) (mk : BitVec 2) (t : Elem) (d a : Reg) (q : VIn) : VOut := reduceForm .sum q p mk t d a
def effVredmax (p : Pfx) (mk : BitVec 2) (t : Elem) (d a : Reg) (q : VIn) : VOut := reduceForm .max q p mk t d a
def effVredmin (p : Pfx) (mk : BitVec 2) (t : Elem) (d a : Reg) (q : VIn) : VOut := reduceForm .min q p mk t d a
def effVargmax (mk : BitVec 2) (t : Elem) (d a : Reg) (q : VIn) : VOut := argmaxForm q mk t d a
def effVscan (p : Pfx) (mk : BitVec 2) (t : Elem) (d a : Reg) (q : VIn) : VOut := scanForm q p mk t d a
def effVtopk (mk : BitVec 2) (t : Elem) (d a : Reg) (q : VIn) : VOut := topkForm q mk t d a
def effVperm (mk : BitVec 2) (d a b : Reg) (q : VIn) : VOut :=
  mapLanes q mk d fun i => noFlags (q.lane a ((q.lane b i).toNat % 64))

def effVmsk (f : Word → Word → Word) (d a b : Reg) (q : VIn) : VOut := { m := [(d, f (q.m a.toNat) (q.m b.toNat))] }
def effVmskNot (d a : Reg) (q : VIn) : VOut := { m := [(d, ~~~q.m a.toNat)] }
def effVmskFromx (d : Reg) (q : VIn) : VOut := { m := [(d, q.xa)] }
def effVmskTox (d a : Reg) (q : VIn) : VOut := { x := [(d, q.m a.toNat)] }
def effVseed (q : VIn) : VOut := { seed := some (q.xa.setWidth 32) }
def effVrand (mk : BitVec 2) (d : Reg) (q : VIn) : VOut :=
  { mapLanes q mk d (fun i => noFlags (q.gen i)) with draws := (upFrom 0 64).filter (q.act mk) }

def effCvt2 (p : Pfx) (f : Elem) (d a b : Reg) (q : VIn) : VOut := cvt2Form q p f d a b
def effCvt8 (p : Pfx) (f : Elem) (d a : Reg) (q : VIn) : VOut := packForm q p f d fun i => val32 q.ftz (q.lane a i)
def effCvt4 (p : Pfx) (f : Elem) (d a : Reg) (q : VIn) : VOut := packForm q p f d fun i => val32 q.ftz (q.lane a i)
def effCvtu (f : Elem) (d a part : Reg) (q : VIn) : VOut := cvtuForm q f d a part
def effCvtiI32 (p : Pfx) (d a : Reg) (q : VIn) : VOut :=
  roundLanes q p 0 d fun mode g i => roundInt (val32 q.ftz (q.lane a i)) 32 true mode (Pfx.sat p) g.toNat
def effCvtiF32 (p : Pfx) (d a : Reg) (q : VIn) : VOut :=
  roundLanes q p 0 d fun mode g i =>
    let r := roundFP (intVal (q.lane a i).toInt) fp32 mode (Pfx.sat p) q.ftz g.toNat
    (lane r, r.2)
def effQscale (f : Elem) (d a : Reg) (q : VIn) : VOut := qscaleForm q f d a
def effQz (p : Pfx) (f : Elem) (d a b : Reg) (q : VIn) : VOut := qzForm q p f d a b
def effSpecial (sel : Nat) (d a : Reg) (q : VIn) : VOut := mapLanes q 0 d fun i => specialFn sel q.ftz (q.lane a i)

/-- Initial generator state of a lane (R112). -/
def seedLane (s : Lane) (i : Nat) : Lane :=
  let g := s + BitVec.ofNat 32 (i * 0x9E3779B9)
  if g = 0 then 1 else g

/-- What a queued form does at retirement. -/
def vectorEffect (i : Instr) (q : VIn) : VOut :=
  match i with
  | .vmov _ mk d a => effVmov mk d a q
  | .vabs _ mk t d a => effVabs mk t d a q
  | .vneg _ mk t d a => effVneg mk t d a q
  | .vbcast _ mk d _ => effVbcast mk d q
  | .vadd p mk t d a b => effVadd p mk t d a b q
  | .vsub p mk t d a b => effVsub p mk t d a b q
  | .vmul p mk t d a b => effVmul p mk t d a b q
  | .vfma p mk d a b => effVfma p mk d a b q
  | .vfms p mk d a b => effVfms p mk d a b q
  | .vfnma p mk d a b => effVfnma p mk d a b q
  | .vmin _ mk t d a b => effVmin mk t d a b q
  | .vmax _ mk t d a b => effVmax mk t d a b q
  | .vand _ mk d a b => effVand mk d a b q
  | .vor _ mk d a b => effVor mk d a b q
  | .vxor _ mk d a b => effVxor mk d a b q
  | .vshl _ mk d a b => effVshl mk d a b q
  | .vshr _ mk k d a b => effVshr mk k d a b q
  | .vcmp _ k t d a b => effVcmp k t d a b q
  | .vsel _ mk d a b => effVsel mk d a b q
  | .vredsum p mk t d a => effVredsum p mk t d a q
  | .vredmax p mk t d a => effVredmax p mk t d a q
  | .vredmin p mk t d a => effVredmin p mk t d a q
  | .vargmax _ mk t d a => effVargmax mk t d a q
  | .vscan p mk t d a => effVscan p mk t d a q
  | .vtopk _ mk t d a _ => effVtopk mk t d a q
  | .vperm _ mk d a b => effVperm mk d a b q
  | .vmskAnd _ d a b => effVmsk (· &&& ·) d a b q
  | .vmskOr _ d a b => effVmsk (· ||| ·) d a b q
  | .vmskXor _ d a b => effVmsk (· ^^^ ·) d a b q
  | .vmskNot _ d a => effVmskNot d a q
  | .vmskFromx _ d _ => effVmskFromx d q
  | .vmskTox _ d a => effVmskTox d a q
  | .vseed _ _ => effVseed q
  | .vrand _ mk d => effVrand mk d q
  | .cvt2 p f d a b => effCvt2 p f d a b q
  | .cvt8 p f d a => effCvt8 p f d a q
  | .cvt4 p f d a => effCvt4 p f d a q
  | .cvtu _ f d a part => effCvtu f d a part q
  | .cvtiI32 p d a => effCvtiI32 p d a q
  | .cvtiF32 p d a => effCvtiF32 p d a q
  | .qscale _ f d a => effQscale f d a q
  | .qz p f d a b => effQz p f d a b q
  | .vexp2 _ d a => effSpecial 0 d a q
  | .vlog2 _ d a => effSpecial 1 d a q
  | .vrcp _ d a => effSpecial 2 d a q
  | .vrsqrt _ d a => effSpecial 3 d a q
  | .vtanh _ d a => effSpecial 4 d a q
  | .vsig _ d a => effSpecial 5 d a q
  | _ => {}

end Sys2Proof.Machine
end

