-- ==== Sys2Proof/Machine/Stream.lean ====
section
/-!
DEFINITION. Page 7: streams, Basin sets, topologies, and snapshot migration (R224–R231, R247, R277–R280, R288–R298).
-/
namespace Sys2Proof.Machine

/-! ### Stream control blocks (R56, R57) -/

def mkSid (d i gen : Nat) : Word := BitVec.ofNat 64 (gen * 2 ^ 48 + d / 16 * 2 ^ 32 + d % 16 * 2 ^ 16 + i)

/-- The binding flag (R278). -/
def isBound (s : State) (d i : Nat) : Bool := (getScb s d i).getLsbD 191

/-- The lowest FREE SCB that can be taken (R226, R289, R294). -/
def freeScb (s : State) (d : Nat) : Option Nat :=
  (upFrom 0 4096).find? fun i => scbGet s d i F.scState == ssFREE && !badScb s d i && !(getDie s d).incoming.contains i

/-- GEN after another (R56). -/
def nextGen (s : State) (d i : Nat) : Nat :=
  let gen := fget F.sidGen (scbSid s d i)
  if gen = 65535 then 1 else gen + 1

/-- Set several fields of a block. -/
def scbSet (b : BitVec 2048) (l : List (Fld × Nat)) : BitVec 2048 := l.foldl (fun b f => fput f.1 b f.2) b

/-- REFS of a MOVED record falls by one; at 0, with FWD written, the record becomes FREE (R296). -/
def refsDown (s : State) (sid : Word) : State :=
  let d := sidDie sid
  let i := sidIdx sid
  if fget F.sidGen sid ≠ 0 ∧ scbSid s d i = sid ∧ scbGet s d i F.scState = ssMOVED then
    let n := scbGet s d i F.scRefs - 1
    let s1 := scbPut s d i F.scRefs n
    if n = 0 ∧ scbGet s d i F.scFwd ≠ 0 then scbPut s1 d i F.scState ssFREE else s1
  else s

/-! ### Basin sets (R229) -/

def getSet (s : State) (d n : Nat) : BSet := tget {} (getDie s d).sets n
def modSet (s : State) (d n : Nat) (f : BSet → BSet) : State := modDie s d fun x => { x with sets := tset {} x.sets n (f (tget {} x.sets n)) }
def badSet (s : State) (d n : Nat) : Bool := isBad s (d / 16) (dieLocator 12 d n)

/-- A stream leaves its set without depositing (R229) (DEDUCED, notes/assumptions 70). -/
def leaveSet (s : State) (d i : Nat) : State :=
  modSet s d (scbGet s d i F.scSset) fun x =>
    { x with members := x.members.filter fun m => m != (scbGet s d i F.scSlot, scbSid s d i) }

/-- A stream's pages are released and its SCB becomes FREE (R230) (DEDUCED, notes/assumptions 72). -/
def releaseStream (s : State) (d i : Nat) : State :=
  let root := scbGet s d i F.scRfid
  let had := scbGet s d i F.scRv = 1
  let s1 := setScb s d i (scbSet (getScb s d i) [(F.scMarkV, 0), (F.scRv, 0), (F.scState, ssFREE)])
  if had then walkOut (dropRef s1 d root) d else s1

/-- A stream is freed or pruned: it leaves its set; a bound one becomes PRUNED and keeps its pages (R230, R296). -/
def pruneStream (s : State) (d i : Nat) : State :=
  let s1 := refsDown (leaveSet s d i) (BitVec.ofNat 64 (scbGet s d i F.scParent))
  if isBound s1 d i then scbPut s1 d i F.scState ssPRUNED else releaseStream s1 d i

/-- A Basin prune of a SID: only a stream that `sprune` would accept (R229, R230). -/
def basinPrune (s : State) (sid : Word) : State :=
  let d := sidDie sid
  let i := sidIdx sid
  if scbSid s d i = sid ∧ [ssREADY, ssBOUND, ssDONE].contains (scbGet s d i F.scState) then pruneStream s d i else s

/-! ### Pages of a step (R227) -/

/-- What a step comes to: the words it returns, a trap, a wait after which it is made again, or a reply that comes later. -/
inductive SRes
  | ok (s : State) (vals : List Word)
  | trap (code : Nat) (val : Word)
  | wait (s : State) (w : Wait)
  | again (s : State)
  | joined (s : State)

/-- A step makes the nodes on the paths of pages its own, top-down: errors, counts and room are checked first (R58, R227, R287). -/
def ownPages (s0 : State) (d i : Nat) (pages : List Nat) (next : State → SRes) : SRes :=
  let s := pages.foldl (fun s p => mendPath s d i p) s0
  match pages.findSome? fun p => pathError s (pathOf s d i p) p with
  | some v => .trap causeECC v
  | none =>
    if pages.any fun p => !countsFit s (pathOf s d i p) then .trap causeSTREAM (scbSid s d i)
    else
      let groups := (pages.map (· / 64)).dedup
      let nodes := match groups with
        | [] => 0
        | g :: _ =>
          (sharedRoot s (pathOf s d i (64 * g))).toNat + (groups.filter fun g => sharedLeaf s (pathOf s d i (64 * g))).length
      match if nodes = 0 then Room.ok else room (getDie s d) d 0 nodes with
      | .oom => .trap causeOOM (BitVec.ofNat 64 (d % 16))
      | .wait w => .wait s w
      | .ok =>
        match groups.foldl (fun (r : Option State) g => r.bind fun t => (ownNodes t d i (64 * g) (pathOf t d i (64 * g))).map Prod.snd) (some s) with
        | some t => next t
        | none => .wait s (.zeroed d)

/-- Clear PROV of pages. -/
def clearProv (s : State) (d i : Nat) (pages : List Nat) : State :=
  pages.foldl (fun s p =>
    match (pathOf s d i p).leaf with
    | some l => setNodeEntry s d l (p % 64) (fput F.teProv (nodeEntry s d l (p % 64)) 0)
    | none => s) s

/-- Pages lo to NPG − 1 go: their leaf entries are cleared and their frames lose a count. -/
def dropPages (s : State) (d i lo : Nat) : State :=
  let npg := scbGet s d i F.scNpg
  let s1 := (upFrom lo (npg - lo)).foldl (fun s p =>
    match pathOf s d i p with
    | { leaf := some l, frame := some f, .. } => dropRef (setNodeEntry s d l (p % 64) 0) d f
    | _ => s) s
  walkOut (scbPut s1 d i F.scNpg (Nat.min npg lo)) d

/-- Pages from a on of a stream. -/
def pagesFrom (s : State) (d i a : Nat) : List Nat := upFrom a (scbGet s d i F.scNpg - a)

/-! ### Steps (R225–R231) -/

/-- TRAPVAL of an ILL of a page-7 form: its PAGE prefix (R45). -/
def illStream : Word := firstWord (.sjoin { page := true, reg := false, qual := none, imms := 0 } 0 0 0)

/-- The form accepts these states (R225) (DEDUCED, notes/assumptions 58). -/
def accepts (s : State) (d i : Nat) (step : SStep) : Bool :=
  let st := scbGet s d i F.scState
  let b := isBound s d i
  match step with
  | .sfork => st == ssREADY || st == ssBOUND
  | .sbind | .sfree | .smig => (st == ssREADY || st == ssDONE) && !b
  | .sunbind => b && (st == ssBOUND || st == ssDONE || st == ssPRUNED)
  | .sstep | .smark | .scommit | .sroll => st == ssBOUND
  | .sret => b && (st == ssBOUND || st == ssDONE)
  | .sjoin => b && st == ssBOUND
  | .sprune => st == ssREADY || st == ssBOUND || st == ssDONE
  | .shold => st == ssBOUND || st == ssDONE
  | .sstat => true

/-- `sfork` (R226, R229). -/
def doFork (s0 : State) (d i : Nat) (sid xb : Word) : SRes :=
  let n := bitsOf xb.toNat 0 16
  let slot := bitsOf xb.toNat 16 8
  let rd := d / 16 * 16 + scbGet s0 d i F.scRdie
  let s := mendFrame s0 rd (scbGet s0 d i F.scRfid)
  let x := getSet s d n
  match freeScb s d with
  | none => .ok s0 [0]
  | some j =>
  if n ≠ 0 ∧ n ≤ 1023 ∧ badSet s d n then .trap causeECC (dieLocator 12 d n)
  else if n ≠ 0 ∧ (1023 < n ∨ x.joining ∨ (x.opened ∧ x.parent ≠ sid) ∨ x.slots.contains slot ∨ x.childSlots.contains slot
      ∨ 256 ≤ x.slots.length + x.childSlots.length) then .trap causeSTREAM sid
  else if badFrame s rd (scbGet s d i F.scRfid) then .trap causeECC (dieLocator 7 rd (scbGet s d i F.scRfid))
  else if !canCount s rd (scbGet s d i F.scRfid) then .trap causeSTREAM sid
  else
    let csid := mkSid d j (nextGen s d j)
    let p := getScb s d i
    let same (f : Fld) : Fld × Nat := (f, fget f p)
    let child := scbSet 0 ([F.scRv, F.scRdie, F.scRfid, F.scNpg, F.scMarkV, F.scMarkPg, F.scMarkTok, F.scCommit, F.scNewTok, F.scCtxLen,
        F.scHorizon, F.scAqBase, F.scAqLogCap, F.scAqEsize, F.scAqHead, F.scAqTail].map same
      ++ [(F.scSid, csid.toNat), (F.scState, ssREADY), (F.scParent, sid.toNat), (F.scSset, n), (F.scSlot, slot)])
    let s1 := countUp (setScb s d j child) rd (scbGet s d i F.scRfid)
    let s2 := scbPut s1 d i F.scForks (scbGet s1 d i F.scForks + 1)
    let s3 := if n = 0 then s2 else modSet s2 d n fun x =>
      { x with opened := true, parent := sid, members := x.members ++ [(slot, csid)], slots := x.slots ++ [slot] }
    .ok s3 [csid]

/-- `scommit` (R227). -/
def doCommit (s : State) (d i : Nat) (xa xb : Word) : SRes :=
  let t := Nat.min xa.toNat (Nat.min (scbGet s d i F.scNewTok) (scbGet s d i F.scCtxLen))
  let mark := scbGet s d i F.scMarkPg
  let spend (s : State) : SRes :=
    let new := scbGet s d i F.scNewTok - t
    let len := scbGet s d i F.scCtxLen - t
    .ok (setScb s d i (scbSet (getScb s d i) ([(F.scNewTok, new), (F.scCtxLen, len), (F.scCommit, scbGet s d i F.scCommit + t)]
      ++ if new = 0 ∨ len = 0 then [(F.scState, ssDONE)] else []))) [BitVec.ofNat 64 t]
  if scbGet s d i F.scMarkV = 0 then spend s
  else ownPages s d i (pagesFrom s d i mark) fun s =>
    let keep := Nat.min xb.toNat (scbGet s d i F.scNpg - mark)
    let s1 := dropPages s d i (mark + keep)
    spend (scbPut (clearProv s1 d i (pagesFrom s1 d i mark)) d i F.scMarkV 0)

/-- `shold` (R228): pin, once private and resident, or unpin. -/
def doHold (s0 : State) (d i g k : Nat) (sid xa xb : Word) : SRes :=
  let p := bitsOf xa.toNat 0 12
  let s := mendPath s0 d i p
  let w := pathOf s d i p
  let va : Word := BitVec.ofNat 64 (0x7E0000000000 + p * 2 ^ 18)
  if scbGet s d i F.scNpg ≤ p then .trap causeXLAT va
  else if xb.getLsbD 0 then
    match privatePage s d i p 0 with
    | .trap 6 _ => .trap causeXLAT va
    | .trap c v => .trap c v
    | .wait t w => .wait t w
    | .at t _ =>
      match (pathOf t d i p).frame with
      | none => .trap causeXLAT va
      | some f =>
        let n := frGet t w.die f F.frPins
        if n = 63 then .trap causeSTREAM sid
        else .ok (useGrant (frPut t w.die f F.frPins (n + 1)) w.die g k true) [BitVec.ofNat 64 (n + 1)]
  else match pathError s w p with
    | some v => .trap causeECC v
    | none =>
      match w.frame with
      | none => .trap causeXLAT va
      | some f =>
        let n := frGet s w.die f F.frPins
        if frameBusy s w.die f then .wait s (.frame w.die f)
        else if n = 0 then .trap causeSTREAM sid
        else .ok (frPut s w.die f F.frPins (n - 1)) [BitVec.ofNat 64 (n - 1)]

/-- Live streams whose PARENT names a SID, and the sets it parents (R294) (DEDUCED, notes/assumptions 62). -/
def refsOf (s : State) (sid : Word) : Nat :=
  (s.dies.map fun e =>
    ((e.2.scb.filter fun b => fget F.scParent b.2 == sid.toNat
        && [ssREADY, ssBOUND, ssWAITING, ssDONE].contains (fget F.scState b.2)).length)
      + (e.2.sets.filter fun x => x.2.opened && x.2.parent == sid).length).foldl (· + ·) 0

/-- The stream table and the units beside it send under core number 63 of the die, which is no core. -/
def tableSrc (d : Nat) : Nat := 8192 * d + 63

/-- Key of a die's stream table as a home (R240). -/
def tableHome (d : Nat) : Nat := 16 * d + 7

/-- Send a message between stream tables. -/
def sendTable (s : State) (d e cls : Nat) (body : Body) : State := sendFrom s (tableSrc d) [] cls .ordered (tableHome e) (e / 16) none body

/-- `smig` (R231, R294 item 1). -/
def doSmig (s : State) (d i : Nat) (sid xb : Word) : SRes :=
  let m := bitsOf xb.toNat 0 16
  let e := m * 16 + bitsOf xb.toNat 16 4
  if m = d / 16 ∨ !inDomain s (d / 16) m then .ok s [2]
  else
    let before := scbGet s d i F.scState
    let mark := scbGet s d i F.scMarkPg
    let prov := if scbGet s d i F.scMarkV = 1 then pagesFrom s d i mark else []
    ownPages s d i prov fun s =>
      let s1 := if prov.isEmpty then s else dropPages s d i mark
      let s2 := leaveSet (scbPut s1 d i F.scMarkV 0) d i
      let s3 := setScb s2 d i (scbSet (getScb s2 d i) [(F.scState, ssMOVED), (F.scFwd, 0), (F.scSset, 0), (F.scRefs, refsOf s2 sid)])
      let s4 := modDie s3 d fun x => { x with snaps := x.snaps ++ [{ sid := sid, before := before }] }
      .ok (sendTable s4 d e 1 (.smigAsk (getScb s3 d i) sid)) [0]

/-- `sjoin` at the Basin of a set (R229, R279, R292, R295): from a stream, for a message that waits. -/
def doJoin (s : State) (e n : Nat) (moved : Bool) (sid xb : Word) (msg : Nat) : SRes :=
  let x := getSet s e n
  let p := x.parent
  if badSet s e n then .trap causeECC (dieLocator 12 e n)
  else if x.above.isNone ∧ 4 < bitsOf xb.toNat 0 3 then .trap causeILL illStream
  else if !x.opened || x.joining
      || (if moved then scbSid s (sidDie p) (sidIdx p) != p || scbGet s (sidDie p) (sidIdx p) F.scState != ssMOVED
            || scbGet s (sidDie p) (sidIdx p) F.scFwd != sid.toNat
          else p != sid) then .trap causeSTREAM sid
  else
    let s1 := modSet s e n fun x =>
      match x.above, x.topo with
      | some _, some (_, t) => { x with joining := true, join := some msg, red := fget F.toRed t, k := fget F.toK t, prune := fget F.toPrune t == 1 }
      | _, _ => { x with joining := true, join := some msg, red := bitsOf xb.toNat 0 3, k := bitsOf xb.toNat 8 8, prune := xb.getLsbD 16 }
    let d := sidDie sid
    let i := sidIdx sid
    .joined (scbPut s1 d i F.scState ssWAITING)

/-- A stream step at the table of die d for a context (R224, R225): `sid` is the stream it names, `msg` the message that a join answers. -/
def performStep (s : State) (g k d : Nat) (step : SStep) (sid xa xb : Word) (msg : Nat) : SRes :=
  let i := sidIdx sid
  let setStrm (s : State) (v : Word) : State := modCtx s g k fun x => { x with strm := strmWritten v }
  if fget F.sidGen sid = 0 ∨ fget F.sidGen (scbSid s d i) ≠ fget F.sidGen sid then .trap causeSTREAM sid
  else if badScb s d i then .trap causeECC (dieLocator 6 d i)
  else if grantHolds s d i && !granted s d g k then .again s
  else if !accepts s d i step then .trap causeSTREAM sid
  else match step with
    | .sfork => doFork s d i sid xb
    | .sbind =>
      let b := getScb s d i
      let c := scbSet b [(F.scBcore, 2 ^ 31 + g % 131072), (F.scBslot, k), (F.scState, if fget F.scState b = ssREADY then ssBOUND else fget F.scState b)]
      .ok (setStrm (setScb s d i c) sid) []
    | .sunbind =>
      let st := scbGet s d i F.scState
      let s1 := setScb s d i (scbSet (getScb s d i) [(F.scBcore, 0), (F.scBslot, 0), (F.scState, if st = ssBOUND then ssREADY else st)])
      .ok (setStrm (if st = ssPRUNED then releaseStream s1 d i else s1) 0) []
    | .sstep =>
      let h := scbGet s d i F.scHorizon - 1
      .ok (setScb s d i (scbSet (getScb s d i) ([(F.scHorizon, h), (F.scSteps, scbGet s d i F.scSteps + 1)] ++ if h = 0 then [(F.scState, ssDONE)] else [])))
        [BitVec.ofNat 64 h]
    | .smark =>
      let old := if scbGet s d i F.scMarkV = 1 then pagesFrom s d i (scbGet s d i F.scMarkPg) else []
      ownPages s d i old fun s =>
        .ok (setScb (clearProv s d i old) d i (scbSet (getScb (clearProv s d i old) d i)
          [(F.scMarkV, 1), (F.scMarkPg, scbGet s d i F.scNpg), (F.scMarkTok, scbGet s d i F.scCommit)])) []
    | .scommit => doCommit s d i xa xb
    | .sroll =>
      if scbGet s d i F.scMarkV = 0 then .ok s [0]
      else
        let l := pagesFrom s d i (scbGet s d i F.scMarkPg)
        ownPages s d i l fun s => .ok (dropPages s d i (scbGet s d i F.scMarkPg)) [BitVec.ofNat 64 l.length]
    | .sret =>
      let n := scbGet s d i F.scSset
      let slot := scbGet s d i F.scSlot
      if n ≠ 0 ∧ badSet s d n then .trap causeECC (dieLocator 12 d n)
      else if n = 0 ∨ !(getSet s d n).members.contains (slot, sid) then .trap causeSTREAM sid
      else
        let s1 := modSet s d n fun x =>
          { x with
            members := x.members.filter fun m => m != (slot, sid)
            deposits := x.deposits ++ [{ slot := slot, val := xa.setWidth 32, weight := xa.extractLsb' 32 32, sid := sid, node := false }] }
        .ok (scbPut s1 d i F.scState ssDONE) []
    | .sjoin => doJoin s d (bitsOf xa.toNat 0 10) false sid xb msg
    | .sprune => .ok (pruneStream s d i) []
    | .sfree => .ok (pruneStream s d i) []
    | .smig => doSmig s d i sid xb
    | .sstat => .ok s [dword (getScb s d i) (bitsOf xb.toNat 0 5)]
    | .shold => doHold s d i g k sid xa xb

/-! ### Steps in arrival order (R224, R297) -/

/-- The context of a step that waits still stands at it. -/
def stepWaits (s : State) (w : StepWait) : Bool :=
  let x := getCtx s w.core w.slot
  (getCore s w.core).run && !(getCore s w.core).preempting && x.pc == w.pc && x.instret == w.instret

/-- Steps on the stream of a block that arrived before the step of a context and wait. -/
def stepsBefore (s : State) (d i g k : Nat) : List StepWait :=
  ((getDie s d).steps.takeWhile fun w => w.core != g || w.slot != k).filter fun w => w.scb == i && stepWaits s w

/-- The step of a context waits at the table, in the place that it has or behind the others. -/
def stepWait (s : State) (d i g k : Nat) : State :=
  let x := getCtx s g k
  modDie s d fun y =>
    let l := y.steps.filter (stepWaits s)
    { y with steps := if l.any fun w => w.core == g && w.slot == k then l else l ++ [{ scb := i, core := g, slot := k, pc := x.pc, instret := x.instret }] }

/-- The step of a context waits no more. -/
def stepDone (s : State) (d g k : Nat) : State :=
  if (getDie s d).steps.any fun w => w.core == g && w.slot == k then
    modDie s d fun y => { y with steps := y.steps.filter fun w => w.core != g || w.slot != k }
  else s

/-- A stream step reaches the table of die d: steps on one stream are performed in arrival order (R297). -/
def streamStep (s : State) (g k d : Nat) (step : SStep) (sid xa xb : Word) (msg : Nat) : SRes :=
  let i := sidIdx sid
  if !(stepsBefore s d i g k).isEmpty then .again (stepWait s d i g k)
  else match performStep s g k d step sid xa xb msg with
    | .ok t l => .ok (stepDone t d g k) l
    | .trap c v => .trap c v
    | .wait t w => .wait (stepWait t d i g k) w
    | .again t => .again (stepWait t d i g k)
    | .joined t => .joined (stepDone t d g k)

/-- `sjoin` of a set that a stream's MOVED record parents, on another die (R295): a step on the caller's stream as any other, which follows the
steps before it and a copy under way (R297). -/
def farJoin (s : State) (g k e : Nat) (sid xa xb : Word) (msg : Nat) : SRes :=
  let d := sidDie sid
  let i := sidIdx sid
  if !(stepsBefore s d i g k).isEmpty || (grantHolds s d i && !granted s d g k) then .again (stepWait s d i g k)
  else if fget F.sidGen (scbSid s d i) ≠ fget F.sidGen sid then .trap causeSTREAM sid
  else if badScb s d i then .trap causeECC (dieLocator 6 d i)
  else if !accepts s d i .sjoin then .trap causeSTREAM sid
  else match doJoin s e (bitsOf xa.toNat 0 10) true sid xb msg with
    | .joined t => .joined (stepDone t d g k)
    | r => r

/-- What a step waits for is an instruction of another context of its own core: that core passes on (DEDUCED, notes/assumptions 144). -/
def ownCoreHolds (s : State) (d i g k : Nat) : Bool :=
  ((stepsBefore s d i g k).any fun w => w.core == g)
    || (getDie s d).work.any fun w => match w with | .granted scb a b _ => scb == i && a == g && b != k | _ => false

/-! ### Issue of a step (R224, R247, R295) -/

/-- A write of a core through a state window is still to be performed: deferred, under way, or a piece of a vector store (R247). -/
def windowWrites (s : State) (g : Nat) : Bool :=
  ((getCore s g).xbuf.any fun e => e.strm != 0)
    || (s.net.any fun m => m.src == g && m.cls != 2 && isWrite m.body && (destOf m.body).strm != 0)
    || ((getCore s g).vq.head?.any fun e => match e.ins with | .vst _ _ _ _ | .vstx _ _ _ _ _ => true | _ => false) && (getCore s g).vjob.any fun j => j.left.any fun p => inWindow p.va

/-- Entries of the core's combining buffer that are homed in state frames leave, and every state-window write of the core is performed, deferred
ones too (R247). -/
def drainState (s : State) (g : Nat) (next : State → Eff) : Eff :=
  let inFrame (ga : Nat) : Bool := match region ga with | .frame _ _ => true | _ => false
  if (getCore s g).comb.any fun e => inFrame e.line then .done (flushWhile s g fun e => inFrame e.line)
  else if windowWrites s g then .stall
  else next s

/-- Steps that drain first (R247) (DEDUCED, notes/assumptions 60). -/
def drainsFirst : SStep → Bool
  | .sbind | .sunbind | .sstep | .sstat => false
  | _ => true

/-- Steps that act on the stream in STRM (R224). -/
def onStrm : SStep → Bool
  | .sunbind | .sstep | .smark | .scommit | .sroll | .sret | .sjoin | .shold => true
  | _ => false

/-- Destination registers and their words. -/
def zipRegs (regs : List Reg) (vals : List Word) : List (Reg × Word) := regs.zip vals

/-- The request of a step leaves, or the step waits at its own die's table, and the context waits for the reply. -/
def askTable (s : State) (g k : Nat) (i : Instr) (e : Nat) (step : SStep) (regs : List Reg) (xa xb strm : Word) : State :=
  let dest : Dest := { reg := regs[0]?, pair := regs[1]?, next := nextPc s g k i, pops := popList s g k i, va := xa }
  waitReply (sendFrom s g [k] 1 .ordered (tableHome e) (e / 16) none (.stream step xa xb strm dest)) g k

/-- A stream instruction: performed at its own die's table, or sent to another's. A step that must wait at its own die's table keeps its context
RUNNING, but for a pin, which is WAITING while the page is made private or fetched back (R126, R227, R228). -/
def streamForm (s : State) (g k : Nat) (i : Instr) (step : SStep) (regs : List Reg) (xa xb : Word) : Eff :=
  (if drainsFirst step then drainState s g else fun f => f s) fun s =>
    let strm := (getCtx s g k).strm
    let sid := if onStrm step then strm else xa
    let far := step == .sjoin && xa.getLsbD 63
    let e := if far then bitsOf xa.toNat 32 16 * 16 + bitsOf xa.toNat 16 4 else sidDie sid
    if fget F.sidGen sid = 0 then .trap causeSTREAM (if onStrm step then 0 else sid)
    else if fget F.sidMod sid ≠ modOf g ∧ step ≠ .sstat then .trap causeSTREAM sid
    else if !inDomain s (modOf g) (e / 16) then .trap causeSTREAM sid
    else if step = .sbind ∧ fget F.sidGen strm ≠ 0 then .trap causeSTREAM sid
    else if far ∨ e ≠ dieOf g then .done (askTable s g k i e step regs xa xb strm)
    else match streamStep s g k e step sid xa xb s.nextId with
      | .ok t vals => retire t g k i (zipRegs regs vals)
      | .trap c v => .trap c v
      | .wait t w => .done (if step = .shold ∧ xb.getLsbD 0 then switchOut t g k (.waiting w) else t)
      | .again t => .done (if ownCoreHolds t e (sidIdx sid) g k then switchOut t g k .ready else t)
      | .joined t =>
        let u := askTable t g k i e step regs xa xb strm
        .done { u with net := u.net.map fun m => if m.id = t.nextId then { m with listed := true } else m }

/-- `snew` (R226). A root node that no zeroed frame can hold yet keeps the context RUNNING (R126). -/
def execSnew (p : Pfx) (d a : Reg) (s : State) : Host.Outcome State Fault Refusal :=
  .next (issue (.snew p d a) s fun s g k =>
    let i := Instr.snew p d a
    let xa := readX s g k a
    if xa.toNat % 32 ≠ 0 then .trap causeALIGN xa
    else match localGa g xa 32 with
      | none => .trap causePROT xa
      | some ga =>
        match performAt s g 0 (.load 32) ga with
        | (t, .poisoned q) => .done (takeTrap t g k causePOISON (xa + BitVec.ofNat 64 (q - ga)))
        | (s1, .value l) =>
          let x := leNat l
          let es := bitsOf x 160 8
          let cap := bitsOf x 168 5
          let e := dieOf g
          if bitsOf x 173 83 ≠ 0 ∨ es % 8 ≠ 0 ∨ es < 8 ∨ 64 < es ∨ cap < 3 ∨ 12 < cap then .trap causeILL (firstWord i)
          else match freeScb s1 e with
            | none => retire s1 g k i [(d, 0)]
            | some j =>
              match room (getDie s1 e) e 0 1 with
              | .oom => .trap causeOOM (BitVec.ofNat 64 (e % 16))
              | .wait _ => .done s1
              | .ok =>
                match takeNode s1 e with
                | none => .stall
                | some (root, s2) =>
                  let sid := mkSid e j (nextGen s2 e j)
                  let b := scbSet 0 [(F.scSid, sid.toNat), (F.scState, ssREADY), (F.scRv, 1), (F.scRdie, e % 16), (F.scRfid, root), (F.scAqLogCap, cap),
                    (F.scAqEsize, es), (F.scHorizon, bitsOf x 128 32), (F.scCtxLen, bitsOf x 96 32), (F.scNewTok, bitsOf x 64 32),
                    (F.scAqBase, bitsOf x 0 64)]
                  retire (setScb s2 e j b) g k i [(d, sid)])

/-- `sfork` (R226). -/
def execSfork (p : Pfx) (d a b : Reg) (s : State) : Host.Outcome State Fault Refusal :=
  .next (issue (.sfork p d a b) s fun s g k => streamForm s g k (.sfork p d a b) .sfork [d] (readX s g k a) (readX s g k b))

/-- `sbind` (R225). -/
def execSbind (p : Pfx) (a : Reg) (s : State) : Host.Outcome State Fault Refusal :=
  .next (issue (.sbind p a) s fun s g k => streamForm s g k (.sbind p a) .sbind [] (readX s g k a) 0)

/-- `sunbind` (R225). -/
def execSunbind (p : Pfx) (s : State) : Host.Outcome State Fault Refusal :=
  .next (issue (.sunbind p) s fun s g k => streamForm s g k (.sunbind p) .sunbind [] 0 0)

/-- `sstep` (R225). -/
def execSstep (p : Pfx) (d : Reg) (s : State) : Host.Outcome State Fault Refusal :=
  .next (issue (.sstep p d) s fun s g k => streamForm s g k (.sstep p d) .sstep [d] 0 0)

/-- `smark` (R227). -/
def execSmark (p : Pfx) (s : State) : Host.Outcome State Fault Refusal :=
  .next (issue (.smark p) s fun s g k => streamForm s g k (.smark p) .smark [] 0 0)

/-- `scommit` (R227). -/
def execScommit (p : Pfx) (d a b : Reg) (s : State) : Host.Outcome State Fault Refusal :=
  .next (issue (.scommit p d a b) s fun s g k => streamForm s g k (.scommit p d a b) .scommit [d] (readX s g k a) (readX s g k b))

/-- `sroll` (R227). -/
def execSroll (p : Pfx) (d : Reg) (s : State) : Host.Outcome State Fault Refusal :=
  .next (issue (.sroll p d) s fun s g k => streamForm s g k (.sroll p d) .sroll [d] 0 0)

/-- `sret` (R229). -/
def execSret (p : Pfx) (a : Reg) (s : State) : Host.Outcome State Fault Refusal :=
  .next (issue (.sret p a) s fun s g k => streamForm s g k (.sret p a) .sret [] (readX s g k a) 0)

/-- `sjoin` (R229, R295). -/
def execSjoin (p : Pfx) (d a b : Reg) (s : State) : Host.Outcome State Fault Refusal :=
  .next (issue (.sjoin p d a b) s fun s g k => streamForm s g k (.sjoin p d a b) .sjoin [d, d + 1] (readX s g k a) (readX s g k b))

/-- `sprune` (R230). -/
def execSprune (p : Pfx) (a : Reg) (s : State) : Host.Outcome State Fault Refusal :=
  .next (issue (.sprune p a) s fun s g k => streamForm s g k (.sprune p a) .sprune [] (readX s g k a) 0)

/-- `sfree` (R230). -/
def execSfree (p : Pfx) (a : Reg) (s : State) : Host.Outcome State Fault Refusal :=
  .next (issue (.sfree p a) s fun s g k => streamForm s g k (.sfree p a) .sfree [] (readX s g k a) 0)

/-- `smig` (R231). -/
def execSmig (p : Pfx) (d a b : Reg) (s : State) : Host.Outcome State Fault Refusal :=
  .next (issue (.smig p d a b) s fun s g k => streamForm s g k (.smig p d a b) .smig [d] (readX s g k a) (readX s g k b))

/-- `sstat` (R225) (DEDUCED, notes/assumptions 71). -/
def execSstat (p : Pfx) (d a b : Reg) (s : State) : Host.Outcome State Fault Refusal :=
  .next (issue (.sstat p d a b) s fun s g k => streamForm s g k (.sstat p d a b) .sstat [d] (readX s g k a) (readX s g k b))

/-- `shold` (R228). -/
def execShold (p : Pfx) (d a b : Reg) (s : State) : Host.Outcome State Fault Refusal :=
  .next (issue (.shold p d a b) s fun s g k => streamForm s g k (.shold p d a b) .shold [d] (readX s g k a) (readX s g k b))

/-! ### Requests at another table, and deposits (R224, R292) -/

/-- REMOTE_STREAM_STEP: a step or a deposit arrives at the table of its die and is performed. -/
def remoteStreamStep (s : State) (id : Nat) : State :=
  match findMsg s id with
  | some m =>
    if !mayPerform s m || m.listed then s
    else match m.body with
      | .stream step xa xb strm dest =>
        let e := m.home / 16
        let sid := if onStrm step then strm else xa
        let g := m.src
        match waiter s g id with
        | none => dropMsg s id
        | some k =>
          let r := if step = .sjoin ∧ xa.getLsbD 63 then farJoin s g k e sid xa xb id else streamStep s g k e step sid xa xb id
          match r with
          | .ok t vals => answer t m (vals.flatMap fun v => leBytes v.toNat 8) none dest
          | .trap c v => answer s m [] (some (c, v)) dest
          | .wait t _ => t
          | .again t => t
          | .joined t => setMsg t { m with listed := true }
      | .deposit die set slot val weight sid =>
        let x := getSet s die set
        if !x.childSlots.contains slot then dropMsg s id
        else if x.deposits.any fun y => y.node && y.slot == slot then s
        else modSet (dropMsg s id) die set fun x =>
          { x with deposits := x.deposits ++ [{ slot := slot, val := val, weight := weight, sid := sid, node := true }] }
      | _ => s
  | none => s

def execRemoteStreamStep (s : State) : Host.Outcome State Fault Refusal := .next (remoteStreamStep s s.argA)

/-! ### The reduction (R229, R292, R293) -/

/-- Deposits in ascending slot order. -/
def bySlot (l : List Deposit) : List Deposit := (upFrom 0 256).filterMap fun i => l.find? fun y => y.slot == i

/-- Deposits ranked as for max: larger first, ties to the lower slot. -/
def ranked (l : List Deposit) : List Deposit :=
  let r := ((bySlot l).zip (upFrom 0 256)).foldl (fun acc p => rankInsert (rankKey .fp32 false p.1.val) p.2 acc) []
  r.filterMap fun e => (bySlot l)[e.2]?

/-- The value, the SID and the deposits kept by a reduction; without deposits +0 for the sums and −∞ for the others (R229)
(DEDUCED, notes/assumptions 59). -/
def basinResult (red k : Nat) (l : List Deposit) : Word × Word × List Deposit :=
  let fma (acc : Lane) (y : Deposit) : Lane :=
    (round32 (fmaVal .rne (val32 false y.weight) (val32 false y.val) (val32 false acc)) .rne false false 0).1
  let best := ranked l
  let win : Word := (best.head?.map Deposit.sid).getD 0
  if l.isEmpty then (if red = 0 ∨ red = 3 then 0 else 0xFF800000, 0, [])
  else match red with
  | 0 => (((bySlot l).foldl (fun acc y => addLane acc y.val) (0 : Lane)).zeroExtend 64, 0, [])
  | 3 => (((bySlot l).foldl fma (0 : Lane)).zeroExtend 64, 0, [])
  | 4 => (BitVec.ofNat 64 (Nat.min k l.length), win, best.take k)
  | _ =>
    let v : Lane := match best.head? with
      | some y => if isNan32 y.val then qnan else y.val
      | none => 0xFF800000
    (v.zeroExtend 64, win, best.take 1)

/-- The result sets out to the context that joined, with whose registers its stream is BOUND again, and the set is IDLE (R279, R292, R296) (DEDUCED,
notes/assumptions 66); a joiner that is no more leaves its stream BOUND at once. -/
def finishJoin (s : State) (d n : Nat) : State :=
  let x := getSet s d n
  match x.result with
  | some (v, w) =>
    let s1 := modSet s d n fun x => { topo := x.topo, above := x.above, childSlots := x.childSlots : BSet }
    let s2 := refsDown s1 x.parent
    match x.join.bind (findMsg s2) with
    | some m =>
      match m.body with
      | .stream _ _ _ strm dest => answer s2 m (leBytes v.toNat 8 ++ leBytes w.toNat 8) none { dest with join := strm }
      | _ => s2
    | none => boundAgain s2 x.parent
  | none => s

/-- BASIN_REDUCE: every member has deposited or left and every child node has deposited; the deposits are reduced, losers are pruned, and
the set delivers its result above (R229, R292, R293). -/
def basinReduce (s : State) (d n : Nat) : State :=
  let x := getSet s d n
  if !x.joining || x.result.isSome || !x.members.isEmpty
      || x.childSlots.any fun c => !(x.deposits.any fun y => y.node && y.slot == c) then s
  else
    let (v, w, kept) := basinResult x.red x.k x.deposits
    let losers := if x.prune then x.deposits.filter fun y => !kept.contains y else []
    let s1 := (losers.filter fun y => !y.node).foldl (fun s y => basinPrune s y.sid) s
    let far := if x.above.isNone then losers.filter fun y => y.node && fget F.sidGen y.sid != 0 else []
    let s2 := far.foldl (fun s y => sendTable s d (sidDie y.sid) 1 (.prune y.sid d n false)) s1
    let s3 := match x.above with
      | some (e, set, slot) =>
        sendTable s2 d e 1 (.deposit e set slot (v.setWidth 32) 0x3F800000 (if x.red = 0 ∨ x.red = 3 then 0 else w))
      | none => s2
    let s4 := modSet s3 d n fun x => { x with result := some (v, w), pruneLeft := far.length }
    if far.isEmpty then finishJoin s4 d n else s4

def execBasinReduce (s : State) : Host.Outcome State Fault Refusal := .next (basinReduce s s.argA s.argB)

/-- TOPOLOGY_PRUNE: a prune reaches a winner's die and acts, or is ignored with an event by a stream that has moved; its acknowledgement
returns, and the last completes the join (R293) (DEDUCED, notes/assumptions 68). -/
def topologyPrune (s : State) (id : Nat) : State :=
  match findMsg s id with
  | some m =>
    match m.body with
    | .prune sid die set acked =>
      if !mayPerform s m then s
      else if acked then
        let s1 := modSet (dropMsg s id) die set fun x => { x with pruneLeft := x.pruneLeft - 1 }
        if (getSet s1 die set).pruneLeft = 0 then finishJoin s1 die set else s1
      else
        let e := sidDie sid
        let s1 := if scbSid s e (sidIdx sid) = sid ∧ scbGet s e (sidIdx sid) F.scState = ssMOVED then
            postEvent s (e / 16) (srcDie e 3) 0x51 sid.toNat 2
          else basinPrune s sid
        setMsg s1 { m.anew m.here (die / 16) (.prune sid die set true) with home := tableHome die }
    | _ => s
  | none => s

def execTopologyPrune (s : State) : Host.Outcome State Fault Refusal := .next (topologyPrune s s.argA)

/-! ### Topologies (R290, R291) -/

/-- Following PARENT from an entry ends somewhere within so many steps: at a root, or outside the list. -/
def reachesEnd (l : List Word) (i : Nat) : Nat → Bool
  | 0 => false
  | n + 1 =>
    match l[i]? with
    | some e => fget F.toParent e == 0x3FF || reachesEnd l (fget F.toParent e) n
    | none => true

/-- The checks of a list in order: a reason and the lowest offending index (R291) (DEDUCED, notes/assumptions 67). -/
def topoCheck (s : State) (d : Nat) (l : List Word) : Option (Nat × Nat) :=
  let n := l.length
  let at_ (i : Nat) : Word := l.getD i 0
  let first (reason : Nat) (p : Nat → Bool) : Option (Nat × Nat) := ((upFrom 0 n).find? p).map fun i => (reason, i)
  let par (i : Nat) : Nat := fget F.toParent (at_ i)
  let place (i : Nat) : Nat × Nat × Nat := (fget F.toMod (at_ i), fget F.toDie (at_ i), fget F.toSet (at_ i))
  let roots := (upFrom 0 n).filter fun i => par i == 0x3FF
  let setOf (i : Nat) : BSet := getSet s (fget F.toMod (at_ i) * 16 + fget F.toDie (at_ i)) (fget F.toSet (at_ i))
  (first 1 fun i => par i == i)
    |>.or (first 2 fun i => !reachesEnd l i (n + 1))
    |>.or (if roots.length = 1 then none else some (3, roots.headD 0))
    |>.or (first 4 fun i => decide (n ≤ par i) && par i != 0x3FF)
    |>.or (first 5 fun i => fget F.toRsv (at_ i) != 0 || fget F.toSet (at_ i) == 0 || decide (4 < fget F.toRed (at_ i))
        || (fget F.toRed (at_ i) == 4 && par i != 0x3FF))
    |>.or (first 6 fun i => (upFrom 0 n).any fun j => j != i
        && (place j == place i || (par i != 0x3FF && par j == par i && fget F.toPslot (at_ j) == fget F.toPslot (at_ i))))
    |>.or (first 7 fun i => !inDomain s (d / 16) (fget F.toMod (at_ i)))
    |>.or (first 8 fun i => (setOf i).opened || (setOf i).topo.any fun t => t.1 != d)

/-- Sets that a die's topology names belong to it no more. -/
def clearTopo (s : State) (d : Nat) : State :=
  { s with dies := s.dies.map fun e =>
      (e.1, { e.2 with sets := (e.2.sets.map fun x =>
        (x.1, if (x.2.topo.any fun t => t.1 == d) then
            { x.2 with topo := none, above := none, childSlots := [], deposits := x.2.deposits.filter fun y => !y.node }
          else x.2)).filter fun x => x.2 != {} }) }

/-- A load ends: TOPOSTAT shows its result, and an event is posted. -/
def topoEnd (s : State) (d reason index : Nat) : State :=
  let st : Word := BitVec.ofNat 64 (index * 2 ^ 16 + reason)
  postEvent (modDie s d fun x => { x with topoStat := st, topoLeft := none }) (d / 16) (srcDie d 3) 0x40 st.toNat 0

/-- TOPO_LOAD: the list is checked whole, and rejected, or its entries are sent to their sets (R291). -/
def topoLoad (s0 : State) (d : Nat) : State :=
  let x := getDie s0 d
  if !x.topoStat.getLsbD 63 || x.topoLeft.isSome then s0
  else
    let n := fget ⟨0, 10⟩ x.topoCtl
    let base := d / 16 * 2 ^ 48 + x.topoAddr.toNat
    let s := findWhere s0 (within base (8 * n))
    let l : List Word := (upFrom 0 n).map fun i => BitVec.ofNat 64 (readNat s (base + 8 * i) 8)
    match topoCheck s d l with
    | some (reason, index) => topoEnd s d reason index
    | none =>
      let s1 := modDie (clearTopo s d) d fun x => { x with topoNodes := l, topoLeft := some n }
      (l.zip (upFrom 0 n)).foldl (fun s e => sendTable s d (fget F.toMod e.1 * 16 + fget F.toDie e.1) 3 (.topo d e.2 e.1 false)) s1

def execTopoLoad (s : State) : Host.Outcome State Fault Refusal := .next (topoLoad s s.argA)

/-- TOPOLOGY_ENTRY_ARRIVE: an entry reaches its set's Basin with what it names above and below; its acknowledgement returns, and the last
ends the load (R291, R292). -/
def topologyEntryArrive (s : State) (id : Nat) : State :=
  match findMsg s id with
  | some m =>
    match m.body with
    | .topo d node e acked =>
      if !mayPerform s m then s
      else if acked then
        let left := ((getDie s d).topoLeft.getD 0) - 1
        let s1 := modDie (dropMsg s id) d fun x => { x with topoLeft := some left }
        if left = 0 then topoEnd s1 d 0 0 else s1
      else
        let l := (getDie s d).topoNodes
        let above := (l[fget F.toParent e]?).map fun p => (fget F.toMod p * 16 + fget F.toDie p, fget F.toSet p, fget F.toPslot e)
        let below := (l.filter fun c => fget F.toParent c == node).map (fget F.toPslot)
        let s1 := modSet s (fget F.toMod e * 16 + fget F.toDie e) (fget F.toSet e) fun x =>
          { x with topo := some (d, e), above := above, childSlots := below }
        setMsg s1 { m.anew m.here (d / 16) (.topo d node e true) with home := tableHome d }
    | _ => s
  | none => s

def execTopologyEntryArrive (s : State) : Host.Outcome State Fault Refusal := .next (topologyEntryArrive s s.argA)

/-! ### Snapshot migration (R231, R294) -/

/-- Leaf nodes that n pages need. -/
def leavesFor (n : Nat) : Nat := (n + 63) / 64

/-- Take frames and a path for pages p on. -/
def takePages (s : State) (e root p : Nat) : Nat → Option State
  | 0 => some s
  | n + 1 =>
    let re := nodeEntry s e root (p / 64)
    let leaf : Option (Nat × State) :=
      if fget F.teV re = 1 then some (fget F.teFid re, s)
      else (takeNode s e).map fun r =>
        (r.1, setNodeEntry r.2 e root (p / 64) (fput F.teFid (fput F.teDie (fput F.teV (0 : Word) 1) (e % 16)) r.1))
    leaf.bind fun l => (takeData l.2 e 1 0).bind fun f =>
      takePages (setNodeEntry f.2 e l.1 (p % 64) (fput F.teFid (fput F.teDie (fput F.teV (0 : Word) 1) (e % 16)) f.1)) e root (p + 1) n

/-- The message goes on between the tables of two dies. -/
def passOn (s : State) (m : Msg) (d e cls : Nat) (body : Body) : State :=
  setMsg s { m.anew (d / 16) (e / 16) body with src := tableSrc d, cls := cls, home := tableHome e }

/-- SMIG_REQUEST_ARRIVE: the destination takes its lowest FREE SCB, the frames and the nodes, or refuses (R294 item 2): at 96 free frames or more nothing is evicted for it,
and where fewer are free it waits for the evictions that R285 makes (DEDUCED, notes/assumptions 64). -/
def smigRequestArrive (s : State) (id : Nat) : State :=
  match findMsg s id with
  | some m =>
    match m.body with
    | .smigAsk b sid =>
      if !mayPerform s m then s
      else
        let e := m.home / 16
        let npg := fget F.scNpg b
        let refuse := passOn s m e (sidDie sid) 1 (.smigRefused sid)
        match freeScb s e with
        | none => refuse
        | some j =>
          match room (getDie s e) e npg (1 + leavesFor npg) with
          | .oom => refuse
          | .wait _ => if freeFrames (getDie s e) < framesFor (getDie s e) npg (1 + leavesFor npg) ∧ 96 ≤ freeFrames (getDie s e) then refuse else s
          | .ok =>
            match (takeNode s e).bind fun r => (takePages r.2 e r.1 0 npg).map fun t => (r.1, t) with
            | none => s
            | some (root, t) =>
              let new := mkSid e j (nextGen t e j)
              let same (f : Fld) : Fld × Nat := (f, fget f b)
              let c := scbSet 0 ([F.scHorizon, F.scNewTok, F.scCtxLen, F.scCommit, F.scNpg, F.scAqBase, F.scAqLogCap, F.scAqEsize, F.scAqHead, F.scAqTail,
                  F.scParent].map same
                ++ [(F.scSid, new.toNat), (F.scRv, 1), (F.scRdie, e % 16), (F.scRfid, root)])
              let s1 := modDie (setScb t e j c) e fun x => { x with incoming := sadd j x.incoming }
              if npg = 0 then passOn s1 m e (sidDie sid) 1 (.smigDone sid new)
              else passOn s1 m (sidDie sid) e 2 (.smigPage sid new 0)
    | _ => s
  | none => s

def execSmigRequestArrive (s : State) : Host.Outcome State Fault Refusal := .next (smigRequestArrive s s.argA)

/-- SMIG_REFUSE: the source stream is again what it was, and an event is posted (R231). -/
def smigRefuse (s : State) (id : Nat) : State :=
  match findMsg s id with
  | some m =>
    match m.body with
    | .smigRefused sid =>
      if !mayPerform s m then s
      else
        let d := sidDie sid
        let i := sidIdx sid
        match (getDie s d).snaps.find? fun x => x.sid == sid with
        | some x =>
          let s1 := setScb (dropMsg s id) d i (scbSet (getScb s d i) [(F.scState, x.before), (F.scRefs, 0)])
          postEvent (modDie s1 d fun y => { y with snaps := y.snaps.filter fun z => z.sid != sid }) (d / 16) (srcDie d 3) 0x51 sid.toNat 1
        | none => dropMsg s id
    | _ => s
  | none => s

def execSmigRefuse (s : State) : Host.Outcome State Fault Refusal := .next (smigRefuse s s.argA)

/-- SNAPSHOT_PAGE: frame-table and node entries on both paths are read (R288), a page arrives and is written into its private frame, wherever it lies, and the next follows in ascending index (R294 item 3) (DEDUCED, notes/assumptions 65). -/
def snapshotPage (s0 : State) (id : Nat) : State :=
  match findMsg s0 id with
  | some m =>
    match m.body with
    | .smigPage sid new p =>
      if !mayPerform s0 m then s0
      else
        let d := sidDie sid
        let e := sidDie new
        let s := mendPath (mendPath s0 d (sidIdx sid) p) e (sidIdx new) p
        let w := pathOf s d (sidIdx sid) p
        match w.frame, (pathOf s e (sidIdx new) p).frame with
        | some f, some t =>
          if frameBusy s w.die f || frameBusy s e t then s
          else
            let s1 := moveFrame s (contentGa s w.die f 0) (contentGa s e t 0)
            let stamp (s : State) (d f : Nat) : State := modDie s d fun x => { x with age := tset 0 x.age f (s.now / 1024) }
            let s2 := stamp (stamp s1 w.die f) e t
            if p + 1 < scbGet s2 e (sidIdx new) F.scNpg then passOn s2 m d e 2 (.smigPage sid new (p + 1))
            else passOn s2 m e d 1 (.smigDone sid new)
        | _, _ => s
    | _ => s0
  | none => s0

def execSnapshotPage (s : State) : Host.Outcome State Fault Refusal := .next (snapshotPage s s.argA)

/-- SMIG_COMPLETE: the new SCB is READY, FWD is written, the source drops its root, and events post at both ends (R294 item 5, R296) (DEDUCED, notes/assumptions 63, 73). -/
def smigComplete (s : State) (id : Nat) : State :=
  match findMsg s id with
  | some m =>
    match m.body with
    | .smigDone sid new =>
      if !mayPerform s m then s
      else
        let d := sidDie sid
        let i := sidIdx sid
        let e := sidDie new
        let j := sidIdx new
        let s1 := modDie (scbPut (dropMsg s id) e j F.scState ssREADY) e fun x => { x with incoming := sdel j x.incoming }
        let root := scbGet s1 d i F.scRfid
        let free := scbGet s1 d i F.scRefs = 0
        let s2 := setScb s1 d i (scbSet (getScb s1 d i) [(F.scFwd, new.toNat), (F.scRv, 0), (F.scState, if free then ssFREE else ssMOVED)])
        let s3 := modDie s2 d fun y => { y with snaps := y.snaps.filter fun z => z.sid != sid }
        let s4 := walkOut (dropRef s3 d root) d
        postEvent (postEvent s4 (d / 16) (srcDie d 3) 0x51 sid.toNat 0) (e / 16) (srcDie e 3) 0x51 new.toNat 0
    | _ => s
  | none => s

def execSmigComplete (s : State) : Host.Outcome State Fault Refusal := .next (smigComplete s s.argA)

end Sys2Proof.Machine
end

