-- ==== Sys2Proof/Machine/Sync.lean ====
section
/-!
DEFINITION. Barriers, their arrivals and completions, and the superstep phase instructions (R44, R63, R155–R157).
-/
namespace Sys2Proof.Machine

/-- The instance that BARMAP[n] of a core names: its level and the global address of its window; nothing where V = 0 (R44). -/
def barrierOf (s : State) (g n : Nat) : Option (Nat × Nat) :=
  let b := tget 0 (getCore s g).barmap n
  let i := fget F.bmInst b
  let level := fget F.bmLvl b
  if 48 ≤ n ∨ fget F.bmV b = 0 then none
  else some (level, match level with
    | 0 => gaBarCluster (clusterOf g) i
    | 1 => gaBarDie (dieOf g) i
    | 2 => gaBarModule (modOf g) i
    | _ => gaBarFabric ((getCore s g).dommem.toNat / 2 ^ 48 % 2 ^ 15) i)

/-- Locator of an instance: below module level its die, at cluster level its cluster; the index holds the instance, the level and at fabric
level the group's index on its home (R411). -/
def barLocator (s : State) (g level inst : Nat) : Word :=
  let die := if level < 2 then g / 8192 % 16 else 0
  let cluster := if level = 0 then g / 64 % 128 else 0
  let grp := if level = 3 then (getCore s g).dommem.toNat / 2 ^ 48 % 32 else 0
  BitVec.ofNat 64 (2 ^ 63 + 10 * 2 ^ 56 + die * 2 ^ 52 + cluster * 2 ^ 45 + grp * 1024 + level * 256 + inst)

def arrnOf (s : State) (g n : Nat) : Nat := fget F.bmArrn (tget 0 (getCore s g).barmap n)
def bumpArrn (s : State) (g n : Nat) : State :=
  modCore s g fun c => { c with barmap := tset 0 c.barmap n (fput F.bmArrn (tget 0 c.barmap n) (fget F.bmArrn (tget 0 c.barmap n) + 1)) }

/-- Counter of a phase bit. -/
def cntFld (bit : Nat) : Fld := if bit % 2 = 0 then F.biCnt0 else F.biCnt1

/-- A phase whose counter has reached EXPECT completes (R63). -/
def completePhase (b : BitVec 128) : BitVec 128 :=
  let gen := fget F.biGen b
  if Nat.max (fget F.biExpect b) 1 ≤ fget (cntFld gen) b then fput F.biGen (fput (cntFld gen) b 0) (gen + 1) else b

/-- What an arrival comes to: it must wait for GEN, it is surplus, or it is counted. -/
inductive Arrival
  | waits
  | surplus
  | counted (b : BitVec 128)
  deriving DecidableEq, Repr

/-- An arrival with number a at an instance (R63). The phase completes at the end of the clock. -/
def arrival (b : BitVec 128) (a : Nat) : Arrival :=
  let gen := fget F.biGen b
  let d := (a + 65536 - gen) % 65536
  let f := cntFld (gen + d)
  let expect := fget F.biExpect b
  if 2 ≤ d then .waits
  else if 0 < expect ∧ expect ≤ fget f b then .surplus
  else .counted (fput f b (fget f b + 1))

/-- Key of a module's copy of a fabric-group instance, which the home's completions keep (R155, R328). -/
def phaseCopy (m ga : Nat) : Nat := (m + 1) * 2 ^ 64 + ga

def getBar (s : State) (key : Nat) : BitVec 128 := tget 0 s.bars key
def setBar (s : State) (key : Nat) (b : BitVec 128) : State := { s with bars := tset 0 s.bars key b }

/-- GEN as a core sees it. -/
def genSeen (s : State) (g level ga : Nat) : Nat :=
  fget F.biGen (getBar s (if level = 3 then phaseCopy (modOf g) ga else ga))

/-- Modules that hold members of a fabric group. -/
def groupModules (s : State) (grp : Nat) : List Nat :=
  ((s.cores.filter fun e => e.2.dommem.getLsbD 63 && decide (e.2.dommem.toNat / 2 ^ 48 % 2 ^ 15 = grp)).map fun e => modOf e.1).dedup

/-- A completed phase of a fabric-group instance goes to the members' modules as one multicast (R155, R328) (PRESUMED, notes/assumptions 26). -/
def sendPhase (s : State) (ga : Nat) : State :=
  let home := moduleOf ga
  let grp := home * 32 + (paOf ga - 0x013100010000) / 0x400
  multicastFrom s home (16 * home + 5) (groupModules s grp) none (.phaseDone ga (getBar s ga))

/-- A multicast completion reaches a module: its copy of the instance is renewed, or its members of the group send what they hold (R155, R157). -/
def deliverAt (s : State) (m : Nat) (body : Body) : State :=
  match body with
  | .phaseDone inst v => setBar s (phaseCopy m inst) v
  | .exchangeBegin key epoch =>
    ((s.cores.map Prod.fst).filter fun g =>
        modOf g == m && (getCore s g).phase.getLsbD 3 && groupKey s g 3 == some key && tget 0 (getCore s g).phaseAt 3 == epoch).foldl
      (fun s g => sendExchange s g (some (key, epoch)) 0) s
  | _ => s

/-- An arrival has been counted: its core's number rises, and its context, or the message that brought it, goes on (R63, R155). -/
def arrivalCounted (s : State) (x : Surplus) (b : BitVec 128) : State :=
  let s1 := bumpArrn (setBar s x.inst b) x.core x.name
  match x.msg with
  | some id => match findMsg s1 id with
    | some m => acknowledge s1 { m with refused := false } x.inst
    | none => s1
  | none => modCtx s1 x.core x.slot fun c => { c with begun := true }

/-- A surplus arrival is presented again (R63). -/
def presentAgain (s : State) (x : Surplus) : State :=
  let rest := s.surplus.filter fun y => y != x
  match arrival (getBar s x.inst) (arrnOf s x.core x.name) with
  | .counted b => arrivalCounted { s with surplus := rest } x b
  | .surplus => { s with surplus := rest ++ [{ x with clock := s.now }] }
  | .waits =>
    let s1 := { s with surplus := rest }
    match x.msg.bind (findMsg s1) with
    | some m => setMsg s1 { m with refused := false }
    | none => s1

/-- Arrivals in ascending order of core and slot (R63). -/
def insertArrival (x : Surplus) : List Surplus → List Surplus
  | [] => [x]
  | y :: rest => if x.core < y.core ∨ (x.core = y.core ∧ x.slot ≤ y.slot) then x :: y :: rest else y :: insertArrival x rest

/-- The surplus arrivals of earlier clocks that pass a test are presented again, in ascending global core number (R63). -/
def retrySurplus (s : State) (p : Surplus → Bool) : State :=
  (((s.surplus.filter fun x => decide (x.clock < s.now) && p x).foldl (fun l x => insertArrival x l) []).foldl presentAgain s)

/-- Surplus arrivals at an instance that come before those of a core in this clock. -/
def surplusBelow (inst g k : Nat) (x : Surplus) : Bool := x.inst == inst && (decide (x.core < g) || (x.core == g && decide (x.slot < k)))

/-- Phases that have all their arrivals complete at the end of a clock, one phase of each instance; the completion of a fabric group's goes to
its members (R63, R155). -/
def completeBarriers (s : State) : State :=
  (s.bars.filter fun e => decide (e.1 < 2 ^ 64) && completePhase e.2 != e.2).foldl (fun s e =>
    let t := setBar s e.1 (completePhase e.2)
    match region e.1 with
    | .modWin _ off => if 0x10000 ≤ off then sendPhase t e.1 else t
    | _ => t) s

/-- BARRIER_ARRIVAL_MESSAGE: an arrival reaches a fabric group's home and is counted, or waits there, also until a launch on the home has
set the instance (R63, R155, R314). A member's arrival at the group's exchange is counted likewise (R43, R157). -/
def barrierArrivalMessage (s0 : State) (id : Nat) : State :=
  match findMsg s0 id with
  | some m =>
    match m.body with
    | .arrive n ga =>
      if m.refused || !mayPerform s0 m || !(s0.fabSet.any fun e => e.1 == ga) then s0
      else
        let s := retrySurplus s0 (surplusBelow ga m.src (m.slots.headD 0))
        let x : Surplus := { core := m.src, slot := m.slots.headD 0, name := n, inst := ga, msg := some id, clock := s.now }
        match arrival (getBar s ga) (arrnOf s m.src n) with
        | .counted b => arrivalCounted s x b
        | .surplus => setMsg { s with surplus := s.surplus ++ [x] } { m with refused := true }
        | .waits => s
    | .exchange key =>
      if mayPerform s0 m then beginIfFull (modGroup (dropMsg s0 id) key fun x => { x with arrived := x.arrived ++ [m.src] }) key else s0
    | _ => s0
  | none => s0

def execBarrierArrivalMessage (s : State) : Host.Outcome State Fault Refusal := .next (barrierArrivalMessage s s.argA)

/-- BARRIER_SURPLUS_RETRY: the surplus arrival of the lowest core is presented again, a clock after it was presented (R63) (DEDUCED,
notes/assumptions 130). -/
def barrierSurplusRetry (s : State) (g k : Nat) : State :=
  if s.surplus.all fun x => decide (g ≤ x.core) then retrySurplus s fun x => x.core == g && x.slot == k else s

def execBarrierSurplusRetry (s : State) : Host.Outcome State Fault Refusal := .next (barrierSurplusRetry s s.argA s.argB)

/-- A fabric-level arrival of the context is under way to the group's home, or its acknowledgement back (R155). -/
def arrivalOut (s : State) (g k ga : Nat) : Bool :=
  s.net.any fun m => m.src == g && m.slots.contains k && (match m.body with | .arrive _ _ => true | .ack a _ _ => a == ga | _ => false)

/-- The arrival of a context: its counting, then what follows. Surplus arrivals of lower cores come first (R63). -/
def arriveThen (s0 : State) (g k n level ga : Nat) (next : State → Eff) : Eff :=
  if (getCtx s0 g k).begun then (if level = 3 ∧ arrivalOut s0 g k ga then .stall else next s0)
  else if s0.surplus.any fun x => x.core == g && x.slot == k then .stall
  else if level = 3 then
    .done (modCtx (sendFrom s0 g [k] 0 .ordered (homeKey ga) (moduleOf ga) none (.arrive n ga)) g k fun x => { x with begun := true })
  else
    let s := retrySurplus s0 (surplusBelow ga g k)
    match arrival (getBar s ga) (arrnOf s g n) with
    | .waits => .stall
    | .surplus => .done { s with surplus := s.surplus ++ [{ core := g, slot := k, name := n, inst := ga, msg := none, clock := s.now }] }
    | .counted b => next (bumpArrn (setBar s ga b) g n)

/-- Checks common to the barrier forms: V, then an instance with an error (R44, R411). -/
def withBarrier (s : State) (g k n : Nat) (next : Nat → Nat → Eff) : Eff :=
  match barrierOf s g n with
  | none => .trap causeILL (BitVec.ofNat 64 n)
  | some (level, ga) =>
    let v := barLocator s g level (fget F.bmInst (tget 0 (getCore s g).barmap n))
    if isBad s (moduleOf ga) v then .done (raiseTrap s (moduleOf ga) g k causeECC v) else next level ga

/-- The phase of the core's latest arrival has completed (R155). -/
def phasePassed (s : State) (g n level ga : Nat) : Bool :=
  decide ((genSeen s g level ga + 65536 - arrnOf s g n) % 65536 < 32768)

/-- `bar.arv` (R155): a release at the level's scope first, when asked. -/
def execBarArv (p : Pfx) (imm : Nat) (s : State) : Host.Outcome State Fault Refusal :=
  .next (issue (.barArv p imm) s fun s g k =>
    withBarrier s g k imm fun level ga =>
      (if Pfx.rel p && !(getCtx s g k).begun then releaseThen s g k (level + 1) else fun f => f s) fun s =>
      arriveThen s g k imm level ga fun s => retire s g k (.barArv p imm) [])

/-- `bar.wait` (R155). -/
def execBarWait (p : Pfx) (imm : Nat) (s : State) : Host.Outcome State Fault Refusal :=
  .next (issue (.barWait p imm) s fun s g k =>
    withBarrier s g k imm fun level ga =>
      if phasePassed s g imm level ga then retire s g k (.barWait p imm) [] else .stall)

/-- `bar.sync`: an arrival, then the wait (R155). With order none, release or both, a release goes before the arrival. -/
def execBarSync (p : Pfx) (imm : Nat) (s : State) : Host.Outcome State Fault Refusal :=
  .next (issue (.barSync p imm) s fun s g k =>
    withBarrier s g k imm fun level ga =>
      (if (Pfx.rel p || Pfx.noOrder p) && !(getCtx s g k).begun then releaseThen s g k (level + 1) else fun f => f s) fun s =>
      arriveThen s g k imm level ga fun s =>
        if phasePassed s g imm level ga then retire s g k (.barSync p imm) []
        else .done (modCtx s g k fun x => { x with begun := true }))

/-- `bar.phase` (R155). -/
def execBarPhase (p : Pfx) (d : Reg) (imm : Nat) (s : State) : Host.Outcome State Fault Refusal :=
  .next (issue (.barPhase p d imm) s fun s g k =>
    withBarrier s g k imm fun level ga =>
      retire s g k (.barPhase p d imm) [(d, BitVec.ofNat 64 (arrnOf s g imm * 2 ^ 16 + genSeen s g level ga))])

/-! ### Superstep phases (R156, R157) -/

def inExchange (s : State) (g level : Nat) : Bool := (getCore s g).phase.getLsbD level

/-- `sph.x` (R156, R157): a release, then the arrival. -/
def execSphX (p : Pfx) (imm : Nat) (s : State) : Host.Outcome State Fault Refusal :=
  .next (issue (.sphX p imm) s fun s g k =>
    let i := Instr.sphX p imm
    if (groupKey s g imm).isNone || inExchange s g imm then .trap causeILL (firstWord i)
    else releaseThen s g k (imm + 1) fun s =>
      let s1 := retireTo s g k i [] (nextPc s g k i)
      .done (arriveExchange (modCore s1 g fun c => { c with phase := c.phase ||| BitVec.ofNat 4 (2 ^ imm) }) g imm))

/-- The exchange that a core arrived for is over: it has begun and every entry sent in it is performed and acknowledged. -/
def exchangeOver (s : State) (g level key : Nat) : Bool :=
  let at_ := tget 0 (getCore s g).phaseAt level
  decide (at_ < (getGroup s key).epoch) && !(s.net.any fun m => m.exch == some (key, at_))

/-- Entries made in an exchange phase are held for the next exchange of that level (R157). -/
def releaseHeld (level : Nat) (e : XEnt) : XEnt := { e with hold := e.hold &&& ~~~BitVec.ofNat 4 (2 ^ level) }

/-- `sph.c` (R157): waits, RUNNING, for the end of the exchange. -/
def execSphC (p : Pfx) (imm : Nat) (s : State) : Host.Outcome State Fault Refusal :=
  .next (issue (.sphC p imm) s fun s g k =>
    let i := Instr.sphC p imm
    match groupKey s g imm with
    | none => .trap causeILL (firstWord i)
    | some key =>
      if !inExchange s g imm then .trap causeILL (firstWord i)
      else if !exchangeOver s g imm key then .stall
      else .done (modCore (retireTo s g k i [] (nextPc s g k i)) g fun c =>
          { c with phase := c.phase &&& ~~~BitVec.ofNat 4 (2 ^ imm), xbuf := c.xbuf.map (releaseHeld imm) }))

end Sys2Proof.Machine
end

