-- ==== Sys2Proof/Machine/Peal.lean ====
section
/-!
DEFINITION. Peal rings: set-up, start and removal, blocks, forwards and release markers; the arrival table and its instructions; multicast
(R209–R212, R328, R331–R337).
-/
namespace Sys2Proof.Machine

/-! ### Members and links (R331–R333) -/

/-- The port of a ring's direction. -/
def ringPort (desc : BitVec 512) : Nat := 2 * fget F.prDim desc + fget F.prDir desc

/-- Coordinates of a line in ring order from one on. -/
def ringOrder (n c dir : Nat) : List Nat := (upFrom 0 n).map fun i => if dir = 0 then (c + i) % n else (c + n - i) % n

/-- Members of the ring that a module's descriptor describes, in ring order from that module: coordinate and module. -/
def membersOf (s : State) (m : Nat) (desc : BitVec 512) : List (Nat × Nat) :=
  let dim := fget F.prDim desc
  let line := lineOfMods s m dim
  ((ringOrder line.length (coordOf (dimsOf s m) m dim) (fget F.prDir desc)).filter fun c => desc.getLsbD (96 + c)).map fun c => (c, line.getD c 0)

/-- The member after a module, and the one before it. -/
def downstream (s : State) (m : Nat) (desc : BitVec 512) : Nat := (((membersOf s m desc).drop 1).headD (0, m)).2
def upstream (s : State) (m : Nat) (desc : BitVec 512) : Nat := ((membersOf s m desc).getLastD (0, m)).2

/-- Modules whose link of the ring's direction a hop crosses: the member, and those between it and the next. -/
def hopFrom (s : State) (m c : Nat) (desc : BitVec 512) : List Nat :=
  let dim := fget F.prDim desc
  let line := lineOfMods s m dim
  let order := ringOrder line.length c (fget F.prDir desc)
  (line.getD c 0) :: (((order.drop 1).takeWhile fun x => !desc.getLsbD (96 + x)).map fun x => line.getD x 0)

/-- Flits per period that rings reserve at a port of a module, for blocks or for returns: of each ring whose hop crosses the link (R333) (DEDUCED,
notes/assumptions 80). -/
def reservedAt (s : State) (m p : Nat) (back : Bool) : Nat :=
  let dir := if back then p ^^^ 1 else p
  let from_ := if back then (neighbour (dimsOf s m) m p).getD m else m
  let on (x : Nat) : List Nat := ((getMod s x).ringsOf.map fun r => r.2.desc).filterMap fun desc =>
    if fget F.prState desc ≠ 0 ∧ ringPort desc = dir ∧ (hopFrom s x (coordOf (dimsOf s x) x (fget F.prDim desc)) desc).contains from_ then
      some (fget (if back then F.prRf else F.prPf) desc)
    else none
  ((lineOfMods s m (p / 2)).flatMap on).foldl (· + ·) 0

/-- The shared fields of a descriptor (R331). -/
def sharedFields : List Fld := [F.prPf, F.prRf, F.prS, F.prMembers, F.prDir, F.prDim]

/-! ### Set-up, start and removal (R332) -/

/-- Reason 2: a shared field out of range, a reserved bit, or MEMBERS. -/
def badShared (s : State) (m : Nat) (desc : BitVec 512) : Bool :=
  let n := (lineOfMods s m (fget F.prDim desc)).length
  let pf := fget F.prPf desc
  let mem := fget F.prMembers desc
  pf % 8 != 0 || decide (pf < 8) || decide (512 < pf) || !([1, 2, 4, 8].contains (fget F.prRf desc)) || decide (fget F.prS desc < 2)
    || decide (8 < fget F.prS desc)
    || ([F.prRsv4, F.prRsv3, F.prRsv2, F.prRsv1, F.prRsv0, F.prRsvB, F.prRsvA].any fun f => fget f desc != 0)
    || decide (((upFrom 0 32).filter fun c => desc.getLsbD (96 + c)).length < 2) || decide (2 ^ n ≤ mem)
    || !desc.getLsbD (96 + coordOf (dimsOf s m) m (fget F.prDim desc))

/-- Dies that receive each block. -/
def diesOf (m : Nat) (desc : BitVec 512) : List Nat := ((upFrom 0 16).filter fun i => desc.getLsbD (160 + i)).map fun i => m * 16 + i

/-- Global address of a local block (R335). -/
def localBlock (m : Nat) (desc : BitVec 512) (i : Nat) : Nat := m * 2 ^ 48 + fget F.prSrcBase desc + i * 2 ^ 18

/-- Reason 5: a member's own fields. -/
def badOwn (s : State) (m : Nat) (desc : BitVec 512) : Bool :=
  let dies := diesOf m desc
  let ready (d b : Nat) : Bool := (getDie s d).rdy.getLsbD b
  dies.isEmpty || (dies.any fun d => !ready d 1 || !ready d 3) || !dies.contains (m * 16 + fget F.prFdie desc)
    || fget F.prSrcBase desc % 2 ^ 18 != 0
    || (upFrom 0 (fget F.prSrcN desc)).any fun i =>
      let a := localBlock m desc i
      moduleOf a != m || match region a, region (a + 2 ^ 18 - 1) with
        | .hbm d _, .hbm e _ => d != e || !ready d 2
        | .frame d _, .frame e _ => d != e || !ready d 1
        | _, _ => true

/-- Free SRAM frames and frame-table entries for the slots of a die (reason 6). -/
def lacksSlots (s : State) (d n : Nat) : Bool :=
  decide (freeFrames (getDie s d) < n) || decide (((upFrom 0 65536).filter (freeFid (getDie s d))).length < n)

/-- The first of an operation's checks that fails at a member, where the shared fields are the starting member's (R332). -/
def memberCheck (s : State) (r op start : Nat) (own : BitVec 512) (x : Nat) : Option Nat :=
  let ring := tget {} (getMod s x).ringsOf r
  let state := fget F.prState ring.desc
  let desc := sharedFields.foldl (fun d f => fput f d (fget f own)) ring.desc
  let p := ringPort own
  let hop := hopFrom s x (coordOf (dimsOf s x) x (fget F.prDim own)) own
  let next (y : Nat) : Nat := (neighbour (dimsOf s x) y p).getD y
  if (match op with | 0 => state != 0 | 1 => state != 1 | _ => state == 0) then some 1
  else if x = start ∧ badShared s start own then some 2
  else if op = 0 then
    if hop.any fun y => !portUp s y p || !portUp s (next y) (p ^^^ 1) then some 3
    else if hop.any fun y => decide (512 < reservedAt s y p false + fget F.prPf own) || decide (32 < reservedAt s (next y) (p ^^^ 1) true + fget F.prRf own)
    then some 4
    else if badOwn s x desc then some 5
    else if (diesOf x desc).any fun d => lacksSlots s d (fget F.prS own) then some 6
    else none
  else if op = 2 ∧ (!ring.blocks.isEmpty || !ring.forwards.isEmpty || ring.reading.isSome
      || (s.net.any fun n => n.src == tableSrc (16 * x) && match n.body with | .block i _ _ _ _ _ => i == r | _ => false)
      || (upFrom (16 * x) 16).any fun d => (getDie s d).arrival.any fun e => fget F.arV e.2 == 1 && fget F.arRing e.2 == r) then some 7
  else none

/-- An operation ends: PEALSTAT shows its result, and an event is posted (DEDUCED, notes/assumptions 79). -/
def pealEnd (s : State) (m r coord reason : Nat) : State :=
  let st : Word := BitVec.ofNat 64 (coord * 2 ^ 16 + reason)
  postEvent (modMod s m fun x => { x with pealStat := st }) m { unit := r, kind := 8 } 0x42 st.toNat r

/-- The operation that PEALCTL asks for, while PEALSTAT shows busy. -/
def pealOp (x : Mod) (op : Nat) : Option Nat :=
  if x.pealStat.getLsbD 63 ∧ fget ⟨8, 2⟩ x.pealCtl = op then some (fget ⟨0, 4⟩ x.pealCtl) else none

/-- A receive slot of a die takes a free SRAM frame, which is zeroed, and a frame-table entry of KIND 011 (R282, R332) (DEDUCED, notes/assumptions 81). -/
def takeSlot (s : State) (d : Nat) : Option (Nat × State) :=
  (pick s poolFrames fun f => !sramUsed (getDie s d) f).bind fun r =>
    let lo := gaFrame d (r.1 * 2 ^ 18)
    let s1 := { modDie r.2 d fun x => { x with zeroing := sdel r.1 x.zeroing } with
      mem := r.2.mem.filter fun c => !(decide (lo ≤ c.1) && decide (c.1 < lo + 2 ^ 18)) }
    takeFid s1 d 3 r.1 1 0

/-- A member is set up: the shared fields, its slots, and a usable marker for each slot downstream. -/
def setUpMember (s : State) (m r : Nat) (own : BitVec 512) : State :=
  let desc := fput F.prState (sharedFields.foldl (fun d f => fput f d (fget f own)) (getRing s m r).desc) 1
  let n := fget F.prS own
  let slots := (diesOf m desc).flatMap fun d => (upFrom 0 n).map fun j => (d, j)
  let w := slots.foldl (fun (w : State × List (Nat × Nat × Nat)) p =>
    match takeSlot w.1 p.1 with
    | some (fid, t) => (t, w.2 ++ [(p.1, p.2, fid)])
    | none => w) (s, [])
  modRing w.1 m r fun _ => { desc := desc, markers := upFrom 0 n, frames := w.2 }

/-- A receive slot's frame is given back: a quarantined one stays (R281, R288). -/
def releaseSlotFrame (s : State) (d fid : Nat) : State :=
  if quarantined s d fid then s else if hurtFrame s d fid then quarantine s d fid else freeFrame s d fid

/-- A member's slots and its part of the reservations are freed, and it is IDLE (R332). -/
def freeMember (r : Nat) (s : State) (x : Nat) : State :=
  let t := (getRing s x r).frames.foldl (fun s f => releaseSlotFrame s f.1 f.2.2) s
  modRing t x r fun y => { desc := fput F.prState y.desc 0 }

/-! ### Blocks and markers (R334–R336) -/

def blockBytes : Nat := 2 ^ 18

/-- The bytes of a frame that are not 0, by offset, and its poisoned doublewords. -/
def frameData (s : State) (ga : Nat) : List Host.Cell × List Nat :=
  (((upFrom 0 blockBytes).zip (readBytes s 0 ga blockBytes)).filter fun c => c.2 != 0,
   (upFrom 0 (blockBytes / 8)).filter fun j => poisonAt s (ga + 8 * j))

/-- The sender of a module puts a block onto the link to its downstream member, along the ring's own direction. `lost`: both copies of its frame's entry
have failed, and the block goes out poisoned (R288) (DESIGN CHOICE, notes/assumptions 143). -/
def sendBlock (s : State) (m r slot : Nat) (ga : Nat) (eobw : Word) (lost : Bool := false) : State :=
  let ring := getRing s m r
  let (data, bad) := if lost then ([], upFrom 0 (blockBytes / 8)) else frameData s ga
  let peer := downstream s m ring.desc
  let t := sendFrom s (tableSrc (16 * m)) [] 0 .ordered (16 * (16 * peer) + 8) peer none (.block r slot 0 data bad eobw)
  modRing { t with net := t.net.map fun n => if n.id = s.nextId then { n with here := peer } else n } m r fun y =>
    { y with desc := fput F.prBlkOut y.desc (fget F.prBlkOut y.desc + 1) }

/-- A block of the ring is on the link from this member (DEDUCED, notes/assumptions 82). -/
def sending (s : State) (m r : Nat) : Bool :=
  s.net.any fun n => n.src == tableSrc (16 * m) && match n.body with | .block i _ _ _ _ _ => i == r | _ => false

/-- The slot frame of a die. -/
def slotFrame (ring : Ring) (d j : Nat) : Option Nat := (ring.frames.find? fun f => f.1 == d && f.2.1 == j).map fun f => f.2.2

/-- PEAL_BLOCK_START: the oldest forward, or the next local block where two markers are usable and no forward waits (R334, R335). An error in the
entry of the slot's frame is met here (R288) (DESIGN CHOICE, notes/assumptions 143). -/
def pealBlockStart (s : State) (m r : Nat) : State :=
  let ring := getRing s m r
  if fget F.prState ring.desc ≠ 2 ∨ sending s m r ∨ ring.reading.isSome then s
  else match ring.markers, ring.forwards with
    | j :: rest, f :: later =>
      let d := m * 16 + fget F.prFdie ring.desc
      match slotFrame ring d f.slot with
      | some fid =>
        let a := frameGa s d fid 0
        let s0 := mendFrame s d fid
        let lost := badFrame s0 d fid
        let s1 := if lost then s0 else findErrors s0 a blockBytes
        sendBlock (modRing s1 m r fun y => { y with markers := rest, forwards := later, reading := some f.slot }) m r j a f.eobw lost
      | none => s
    | j :: k :: rest, [] =>
      if ring.nextLocal < fget F.prSrcN ring.desc then
        let a := localBlock m ring.desc ring.nextLocal
        let s1 := findErrors s a blockBytes
        sendBlock (modRing s1 m r fun y => { y with markers := k :: rest, nextLocal := y.nextLocal + 1 }) m r j a
          (BitVec.ofNat 64 (m * 2 ^ 48 + r * 2 ^ 40 + ring.nextLocal))
      else s
    | _, _ => s

def execPealBlockStart (s : State) : Host.Outcome State Fault Refusal := .next (pealBlockStart s s.argA s.argB)

/-! ### Operations on the way round the line (R332) -/

/-- A check fails at a member: what the operation has made is undone, and its result names the member and the reason (DEDUCED, notes/assumptions
79). -/
def pealFail (s : State) (r op start : Nat) (own : BitVec 512) (visited : List Nat) (x reason : Nat) : State :=
  pealEnd (if op = 0 then visited.foldl (freeMember r) s else s) start r (coordOf (dimsOf s start) x (fget F.prDim own)) reason

/-- The fates of an undeliverable message, and what becomes of those that R324 does not name: an operation on a ring ends, its links being down (R332)
(DESIGN CHOICE, notes/assumptions 19). -/
def undeliverable (s : State) (m : Msg) : State :=
  let s0 := dropMsg s m.id
  match m.body with
  | .access op _ va _ =>
    match op with
    | .store _ | .fillStore _ => if m.cls = 2 then engineLost s0 m else s0
    | .merged _ _ | .red _ _ | .fe (.fill _) | .fe (.fwr _) => s0
    | _ => failWaiting s m causePOISON va (destOf m.body)
  | .reply _ _ dest => failWaiting s m causePOISON dest.va dest
  | .stream _ xa _ _ _ => failWaiting s m causePOISON xa (destOf m.body)
  | .migrate _ _ _ _ _ _ _ _ _ va _ => migrationFails s0 m.src (m.slots.headD 0) va
  | .peal op r start own visited => pealFail s0 r op start own visited (visited.getLastD start) 3
  | _ => s0

/-- MESSAGE_HOP: a message takes one hop of its route, or is found undeliverable (R321–R324). `full`: an adaptive message finds its channel full and
falls back onto the ordered channels (R326) (DEDUCED, notes/assumptions 135, 146). -/
def messageHop (s : State) (k : Nat) (full : Bool) : State :=
  match findMsg s k with
  | some m0 =>
    if m0.here = m0.dst then s
    else
      let m := if full && m0.route == .adaptive then { m0 with fallen := true } else m0
      match nextHop s m.here m.dst (if m.fallen then .ordered else m.route) m.detour m.cls with
      | some (p, h, e) =>
        setMsg s { m with here := h, detour := e, inPort := some (p ^^^ 1), second := channelAfter (dimsOf s m.here) m p h }
      | none =>
        let p := (openDim (dimsOf s m.here) m.here m.dst m.detour).map (orderedPort (dimsOf s m.here) m.here m.dst)
        postEvent (undeliverable s m) m.here { die := portDie (p.getD 0), unit := p.getD 0, kind := 7 } 0x31
          (m.here + p.getD 0 * 2 ^ 16) 0
  | none => s

def execMessageHop (s : State) : Host.Outcome State Fault Refusal := .next (messageHop s s.argA (s.argV.getLsbD 0))

/-- An operation visits a member: its checks, a set-up's reservations and slots, and on to the next member in ring order, in class 3. -/
def pealVisit (s : State) (r op start : Nat) (own : BitVec 512) (visited : List Nat) (x : Nat) : State :=
  match memberCheck s r op start own x with
  | some reason => pealFail s r op start own visited x reason
  | none =>
    let s1 := if op = 0 then setUpMember s x r own else s
    let next := ((((membersOf s start own).map Prod.snd).dropWhile (· != x)).drop 1).headD start
    sendFrom s1 (tableSrc (16 * x)) [] 3 .ordered (16 * (16 * next) + 8) next none (.peal op r start own (visited ++ [x]))

/-- An operation has come back to the member that started it. A set-up is done; a start makes every member RUNNING at once, and every sender starts its
first block (R334, R375); a removal frees the slots and the reservations, and markers under way for the ring are no more. A member whose link has fallen
meanwhile fails the set-up or start (R337). -/
def pealDone (s : State) (r op start : Nat) (own : BitVec 512) (visited : List Nat) : State :=
  match if op = 2 then none else visited.find? fun x => fget F.prState (getRing s x r).desc != 1 with
  | some x => pealFail s r op start own visited x (if op = 0 then 3 else 1)
  | none =>
    match op with
    | 0 => pealEnd s start r 0 0
    | 1 =>
      let s1 := visited.foldl (fun s x => modRing s x r fun y => { y with desc := fput F.prState y.desc 2 }) s
      pealEnd (visited.foldl (fun s x => pealBlockStart s x r) s1) start r 0 0
    | _ =>
      let s1 := visited.foldl (freeMember r) s
      let s2 := { s1 with net := s1.net.filter fun n => !(visited.contains n.dst && match n.body with | .marker i _ => i == r | _ => false) }
      pealEnd s2 start r 0 0

/-- What an operation on its way has for a module: the message, the ring, the starting module, its descriptor, the members visited. -/
def pealFor (op m : Nat) (n : Msg) : Option (Msg × Nat × Nat × BitVec 512 × List Nat) :=
  match n.body with
  | .peal o r start own visited => if o = op ∧ n.dst = m ∧ n.here = m then some (n, r, start, own, visited) else none
  | _ => none

/-- The operation that a module started is on its way. -/
def pealUnderWay (s : State) (m : Nat) : Bool := s.net.any fun n => match n.body with | .peal _ _ start _ _ => start == m | _ => false

/-- A step of an operation at a module: it arrives there, or it starts there as PEALCTL asks (R332). -/
def pealStep (op : Nat) (s : State) (m : Nat) : State :=
  match s.net.findSome? (pealFor op m) with
  | some (n, r, start, own, visited) =>
    let t := dropMsg s n.id
    if m = start then pealDone t r op start own visited else pealVisit t r op start own visited m
  | none =>
    match if pealUnderWay s m then none else pealOp (getMod s m) op with
    | some r => pealVisit s r op m (getRing s m r).desc [] m
    | none => s

/-- PEAL_SETUP, PEAL_START and PEAL_REMOVE (R332). -/
def execPealSetup (s : State) : Host.Outcome State Fault Refusal := .next (pealStep 0 s s.argA)
def execPealStart (s : State) : Host.Outcome State Fault Refusal := .next (pealStep 1 s s.argA)
def execPealRemove (s : State) : Host.Outcome State Fault Refusal := .next (pealStep 2 s s.argA)

/-! ### Arrivals -/

/-- Bytes lo to lo + n − 1 of a block are written into a slot frame, with their poison (R336). -/
def writePiece (s : State) (ga lo n : Nat) (data : List Host.Cell) (bad : List Nat) : State :=
  let bytes := (upFrom lo n).map fun o => tget 0 data o
  let s1 := writeBytes s 0 (ga + lo) bytes
  (bad.filter fun j => decide (lo ≤ 8 * j) && decide (8 * j < lo + n)).foldl (fun s j => setPoison s (ga + 8 * j) true) s1

/-- PEAL_BLOCK_ARRIVE: the next n bytes of a block, in whole flits of 64 bytes (all that is left for n = 0), reach slot j on every die of DIEMASK;
the last brings the end-of-block word (R209, R336) (DESIGN CHOICE, notes/assumptions 83). An error in a slot frame's entry is met here (R288) (DESIGN
CHOICE, notes/assumptions 143). -/
def pealBlockArrive (s : State) (id n0 : Nat) : State :=
  match findMsg s id with
  | some m =>
    match m.body with
    | .block r j off data bad eobw =>
      let x := m.dst
      let ring := getRing s x r
      if fget F.prState ring.desc ≠ 2 then dropMsg s id
      else
        let left := blockBytes - off
        let n := if n0 = 0 then left else Nat.min left ((n0 + 63) / 64 * 64)
        let first := decide (off = 0)
        let s1 := modRing s x r fun y =>
          { y with
            blocks := tput y.blocks j (off + n, none)
            desc := if first then fput F.prBlkIn y.desc (fget F.prBlkIn y.desc + 1) else y.desc }
        let s2 := (ring.frames.filter fun f => f.2.1 == j).foldl (fun s f =>
          let s0 := mendFrame s f.1 f.2.2
          let t := if badFrame s0 f.1 f.2.2 then s0 else writePiece s0 (frameGa s f.1 f.2.2 0) off n data bad
          mirrorSlot t f.1 r j fun e =>
            fput F.arArr (if first then fput F.arBseq e (fget F.arBseq e + 1) else e) (off + n)) s1
        if n = left then endBlock (dropMsg s2 id) x r j eobw
        else setMsg s2 { m with body := .block r j (off + n) data bad eobw }
    | _ => s
  | none => s

def execPealBlockArrive (s : State) : Host.Outcome State Fault Refusal := .next (pealBlockArrive s s.argA s.argV.toNat)

/-- A die's copy of a slot's block is released; with the last, the slot is free and its release marker goes upstream (R212, R334). -/
def releaseCopy (s : State) (d r j : Nat) : State :=
  let m := d / 16
  let s1 := mirrorSlot s d r j fun e => fput F.arFin (fput F.arEob (fput F.arArr e 0) 0) 0
  let s2 := match entryOf (getDie s1 d) r j with
    | some e => modDie s1 d fun x => { x with pealOps := x.pealOps.filter fun p => p.1 / 128 != e }
    | none => s1
  let ring := getRing s2 m r
  let gone := ring.released ++ [(d, j)]
  if (ring.frames.filter fun f => f.2.1 == j).all fun f => gone.contains (f.1, j) then
    let s3 := modRing s2 m r fun y => { y with blocks := tdel y.blocks j, released := y.released.filter fun p => p.2 != j }
    let peer := upstream s3 m ring.desc
    let t := sendFrom s3 (tableSrc (16 * m)) [] 0 .ordered (16 * (16 * peer) + 8) peer none (.marker r j)
    { t with net := t.net.map fun n => if n.id = s3.nextId then { n with here := peer } else n }
  else modRing s2 m r fun y => { y with released := gone }

/-- PEAL_FORWARD_READ_DONE: the sender has read the FDIE frame of a forward, and that copy is released, where no other forward is still to read
it (R212, R336). -/
def pealForwardReadDone (s : State) (m r : Nat) : State :=
  let ring := getRing s m r
  match ring.reading with
  | some j =>
    let s1 := modRing s m r fun y => { y with reading := none }
    if ring.forwards.any fun f => f.slot == j then s1 else releaseCopy s1 (m * 16 + fget F.prFdie ring.desc) r j
  | none => s

def execPealForwardReadDone (s : State) : Host.Outcome State Fault Refusal := .next (pealForwardReadDone s s.argA s.argB)

/-- RELEASE_MARKER_ARRIVE: the sender has one more usable marker (R334). -/
def releaseMarkerArrive (s : State) (id : Nat) : State :=
  match findMsg s id with
  | some m =>
    match m.body with
    | .marker r j =>
      if !mayPerform s m then s
      else modRing (dropMsg s id) m.dst r fun y => if fget F.prState y.desc = 2 then { y with markers := y.markers ++ [j] } else y
    | _ => s
  | none => s

def execReleaseMarkerArrive (s : State) : Host.Outcome State Fault Refusal := .next (releaseMarkerArrive s s.argA)

/-- A multicast branch leaves a switch on the ordered route, or is found undeliverable there (R324, R328). -/
def forwardBranches (s : State) (m : Msg) (hop : Option (Nat × Nat × Option Nat)) (l : List Nat) : State :=
  match hop with
  | some (p, h, e) =>
    { s with
      net := s.net ++ [{ m with id := s.nextId, here := h, dst := h, detour := e, branches := l, inPort := some (p ^^^ 1) }], nextId := s.nextId + 1 }
  | none =>
    let p := (openDim (dimsOf s m.here) m.here (l.headD 0) m.detour).map (orderedPort (dimsOf s m.here) m.here (l.headD 0))
    postEvent s m.here { die := portDie (p.getD 0), unit := p.getD 0, kind := 7 } 0x31 (m.here + p.getD 0 * 2 ^ 16) 0

/-- The outputs that a multicast wants at the switch it is at: the ports towards its branches, and none for delivery there (R328). -/
def branchOutputs (s : State) (m : Msg) : List (Option Nat) :=
  (m.branches.map fun b => if b = m.here then none else (nextHop s m.here b .ordered m.detour m.cls).map fun h => h.1).dedup

/-- A multicast that reached the same switch earlier wants an output in common, or has the same home (R328). -/
def multicastBefore (s : State) (m : Msg) : Bool :=
  s.net.any fun n => decide (n.id < m.id) && n.here == m.here
    && (match n.body with | .phaseDone _ _ | .exchangeBegin _ _ => true | _ => false)
    && (n.home == m.home || (branchOutputs s n).any fun p => (branchOutputs s m).contains p)

/-- MULTICAST_ADVANCE: a completion that a fabric group's home sends advances one switch on all its branches in one clock, and is delivered where
this module is one of them (R155, R328). -/
def multicastAdvance (s : State) (id : Nat) : State :=
  match findMsg s id with
  | some m =>
    match m.body with
    | .phaseDone _ _ | .exchangeBegin _ _ =>
      if multicastBefore s m then s
      else
        let far := m.branches.filter (· != m.here)
        let hops := far.map fun b => (nextHop s m.here b .ordered m.detour m.cls, b)
        let s1 := ((hops.map Prod.fst).dedup).foldl (fun s h => forwardBranches s m h ((hops.filter fun x => x.1 == h).map Prod.snd)) s
        dropMsg (if m.branches.contains m.here then deliverAt s1 m.here m.body else s1) id
    | _ => s
  | none => s

def execMulticastAdvance (s : State) : Host.Outcome State Fault Refusal := .next (multicastAdvance s s.argA)

/-! ### The arrival table (R209–R212) -/

def arrivalEntry (s : State) (d e : Nat) : BitVec 256 := tget 0 (getDie s d).arrival e
def setArrival (s : State) (d e : Nat) (v : BitVec 256) : State := modDie s d fun x => { x with arrival := tset 0 x.arrival e v }

/-- The slot of an entry holds a block that this die has not released. -/
def holdsBlock (s : State) (d r j : Nat) : Bool :=
  let ring := getRing s (d / 16) r
  (ring.blocks.any fun b => b.1 == j) && !ring.released.contains (d, j)

/-- An `attn` entered on the die names an entry, also one that a pre-empted core's record holds (R210, R274). -/
def attnNames (s : State) (d e : Nat) : Bool :=
  (s.cores ++ s.records ++ s.saves.flatMap SavedCluster.cores).any fun c =>
    dieOf c.1 == d && c.2.cmds.any fun m => m.form == .attn && fget F.mdBsrc m.desc == 1 && fget F.mdAent m.desc == e

/-- The entry that `abind` writes: bits 62 to 33 and V from xB, FID from the slot, and the slot's arrival state; the other H fields are cleared
(R209, R210). -/
def boundEntry (s : State) (d : Nat) (xb : Word) : BitVec 256 :=
  let w := xb.toNat
  let r := bitsOf w 59 4
  let j := bitsOf w 56 3
  let ring := getRing s (d / 16) r
  let got : Nat × Option Word := if holdsBlock s d r j then tget (0, none) ring.blocks j else (0, none)
  let base : BitVec 256 := fput F.arFid (BitVec.ofNat 256 (w / 2 ^ 33 * 2 ^ 33)) ((slotFrame ring d j).getD 0)
  fput F.arArr (match got.2 with | some word => fput F.arEobw (fput F.arEob base 1) word.toNat | none => base) got.1

/-- What `abind` writes, or the cause that it does not (R210). Contexts that wait for the entry look at it again (R212). -/
def bindEntry (s : State) (d : Nat) (xa xb : Word) : Nat × State :=
  let e := xa.toNat
  let w := xb.toNat
  let on := xb.getLsbD 63
  let r := bitsOf w 59 4
  let j := bitsOf w 56 3
  let ncl := bitsOf w 41 8
  let old := arrivalEntry s d e
  if 127 < e ∨ w / 2 ^ 16 % 2 ^ 17 ≠ 0
      ∨ (on ∧ (ncl = 0 ∨ bitsOf w 33 8 = 0 ∨ 128 < bitsOf w 49 7 + ncl ∨ (slotFrame (getRing s (d / 16) r) d j).isNone)) then (2, s)
  else if fget F.arV old = 1 ∧ (holdsBlock s d (fget F.arRing old) (fget F.arSlot old) ∨ attnNames s d e) then (1, s)
  else if on ∧ ((getDie s d).arrival.any fun x => x.1 != e && fget F.arV x.2 == 1 && fget F.arRing x.2 == r && fget F.arSlot x.2 == j) then (3, s)
  else
    let s1 := modDie (setArrival s d e (boundEntry s d xb)) d fun x => { x with pealOps := x.pealOps.filter fun p => p.1 / 128 != e }
    (0, wakePeal s1 d e)

/-- `abind` (R210). -/
def execAbind (p : Pfx) (d a b : Reg) (s : State) : Host.Outcome State Fault Refusal :=
  .next (issue (.abind p d a b) s fun s g k =>
    let xa := readX s g k a
    if xa.toNat ≤ 127 ∧ isBad s (modOf g) (dieLocator 11 (dieOf g) xa.toNat) then .trap causeECC (dieLocator 11 (dieOf g) xa.toNat)
    else
      let r := bindEntry s (dieOf g) xa (readX s g k b)
      retire r.2 g k (.abind p d a b) [(d, BitVec.ofNat 64 r.1)])

/-- The entry that `await` and `aret` name (R212, R411). -/
def withEntry (s : State) (g k : Nat) (i : Instr) (a : Reg) (next : Nat → BitVec 256 → Eff) : Eff :=
  let xa := readX s g k a
  let e := arrivalEntry s (dieOf g) xa.toNat
  if 127 < xa.toNat then .trap causeILL (firstWord i)
  else if isBad s (modOf g) (dieLocator 11 (dieOf g) xa.toNat) then .trap causeECC (dieLocator 11 (dieOf g) xa.toNat)
  else if fget F.arV e = 0 then .trap causeILL (firstWord i)
  else next xa.toNat e

/-- The block of a slot has been handed to the ring's sender, which has not yet read all of its frame on FDIE (R212, R336). -/
def handedOn (s : State) (d r j : Nat) : Bool :=
  let ring := getRing s (d / 16) r
  d % 16 == fget F.prFdie ring.desc && (ring.reading == some j || ring.forwards.any fun f => f.slot == j)

/-- `await` (R212). -/
def execAwait (p : Pfx) (d a : Reg) (s : State) : Host.Outcome State Fault Refusal :=
  .next (issue (.await p d a) s fun s g k =>
    withEntry s g k (.await p d a) a fun n e =>
      if fget F.arEob e = 1 then retire s g k (.await p d a) [(d, BitVec.ofNat 64 (fget F.arEobw e))]
      else .done (switchOut s g k (.waiting (.peal n))))

/-- `aret` (R212, R336, R337). A block that has been handed on already is released by the forward that reads it last, and by no `aret` before (R212,
R376) (DEDUCED, notes/assumptions 84). -/
def execAret (p : Pfx) (a b : Reg) (s : State) : Host.Outcome State Fault Refusal :=
  .next (issue (.aret p a b) s fun s g k =>
    withEntry s g k (.aret p a b) a fun n e =>
      let i := Instr.aret p a b
      let d := dieOf g
      let r := fget F.arRing e
      let j := fget F.arSlot e
      let ring := getRing s (d / 16) r
      if fget F.arEob e = 0 ∨ fget F.arFin e ≠ fget F.arNcl e then .done (switchOut s g k (.waiting (.peal n)))
      else if (readX s g k b).getLsbD 0 ∧ d % 16 = fget F.prFdie ring.desc ∧ fget F.prState ring.desc = 2 then
        retire (modRing s (d / 16) r fun y => { y with forwards := y.forwards ++ [{ slot := j, eobw := BitVec.ofNat 64 (fget F.arEobw e) }] }) g k i []
      else retire (if handedOn s d r j then s else releaseCopy s d r j) g k i [])

end Sys2Proof.Machine
end

