-- ==== Sys2Proof/Machine/Task.lean ====
section
/-!
DEFINITION. Tasks and futures (R235–R237, R272).
-/
namespace Sys2Proof.Machine

/-- Cluster and index of a task handle on a core's die (R235). -/
def handleOf (g : Nat) (xa : Word) : Nat × Nat := (dieOf g * 128 + bitsOf xa.toNat 16 7, bitsOf xa.toNat 0 12)

/-- Trap value of QUEUE_CFG for a TCB (R235). -/
def tcbPa (s : State) (g q idx : Nat) : Word := BitVec.ofNat 64 (paOf (gaSpad q ((tcbTable s (launchOf s g) q).1 - 0x100000 + 64 * idx)))

def tcbExists (s : State) (g q idx : Nat) : Bool := decide (idx < (tcbTable s (launchOf s g) q).2)

/-- The context that has waited longest in `tnext` takes the best task that became ready in an earlier clock (R272), once an outbound port that
it writes has room (R131) (DEDUCED, notes/assumptions 138). It is READY then. -/
def serveWaiter (s : State) (q : Nat) : State :=
  match (getCluster s q).taskWait with
  | w :: rest =>
    match bestOf s w.core q ((readyOf s (launchOf s w.core) q).filter fun t => decide (t.clock < s.now)) with
    | some t =>
      if (getCtx s w.core w.slot).mode ≠ .waiting .task then modCluster s q fun x => { x with taskWait := rest }
      else if canWrite s w.core w.slot [(w.dest, 0)] then
        modCtx (giveTask (modCluster s q fun x => { x with taskWait := rest }) w.core w.slot q t w.dest w.next w.pops) w.core w.slot
          fun x => { x with mode := .ready }
      else s
    | none => s
  | [] => s

/-- Every context that waits is served as far as tasks are ready (R272). -/
def serveWaiters (s : State) (q : Nat) : Nat → State
  | 0 => s
  | n + 1 => serveWaiters (serveWaiter s q) q n

/-- TASK_READY_DISPATCH: one context that waits is served as far as a task is ready (R272). -/
def taskReadyDispatch (s : State) (q : Nat) : State := serveWaiter s q

def execTaskReadyDispatch (s : State) : Host.Outcome State Fault Refusal := .next (taskReadyDispatch s s.argA)

/-- `tspawn`: a release at die scope, then the task is ARMED or READY (R235). -/
def execTspawn (p : Pfx) (a b : Reg) (s : State) : Host.Outcome State Fault Refusal :=
  .next (issue (.tspawn p a b) s fun s g k =>
    let i := Instr.tspawn p a b
    let (q, idx) := handleOf g (readX s g k a)
    let dep := bitsOf (readX s g k b).toNat 0 16
    if !tcbExists s g q idx then .trap causeQUEUE (tcbPa s g q idx)
    else releaseThen s g k 2 fun s0 =>
      let s := findTcb s0 (launchOf s0 g) q idx 8
      if [stFREE, stDONE, stCANCELLED].contains (tcbRead s (launchOf s g) q idx F.tcbStatus) then
        let s1 := tcbWrite s (launchOf s g) q idx F.tcbDep dep
        let s2 := if dep = 0 then makeReady s1 (launchOf s1 g) q idx else tcbWrite s1 (launchOf s1 g) q idx F.tcbStatus stARMED
        .done (retireTo (markDirty s2 g k) g k i [] (nextPc s g k i))
      else .trap causeQUEUE (tcbPa s g q idx))

/-- `tdec`: a release at die scope, then the decrement; xD is the new DEP, or all ones (R235). -/
def execTdec (p : Pfx) (d a : Reg) (s : State) : Host.Outcome State Fault Refusal :=
  .next (issue (.tdec p d a) s fun s g k =>
    let i := Instr.tdec p d a
    let (q, idx) := handleOf g (readX s g k a)
    if !tcbExists s g q idx then .trap causeQUEUE (tcbPa s g q idx)
    else releaseThen s g k 2 fun s =>
      let r := tdecAt s (launchOf s g) q idx
      retire r.2 g k i [(d, match r.1 with | some n => BitVec.ofNat 64 n | none => BitVec.allOnes 64)])

/-- `tnext` (R236, R272): contexts that wait go before a request that comes later. -/
def execTnext (p : Pfx) (d a : Reg) (s : State) : Host.Outcome State Fault Refusal :=
  .next (issue (.tnext p d a) s fun s g k =>
    let i := Instr.tnext p d a
    let q := clusterOf g
    match bestOf s g q (leftOver s g q (readyOf s (launchOf s g) q) (getCluster s q).taskWait.length) with
    | some t => .done (giveTask s g k q t d (nextPc s g k i) (popList s g k i))
    | none =>
      if readX s g k a ≠ 0 then retire s g k i [(d, BitVec.allOnes 64)]
      else
        let w : TaskWait := { core := g, slot := k, dest := d, next := nextPc s g k i, pops := popList s g k i }
        .done (switchOut (modCluster s q fun x => { x with taskWait := x.taskWait ++ [w] }) g k (.waiting .task)))

/-- What reading a list of successors comes to: the list, a trap, or a wait for the page of an address; `seen` are the bytes read on the way. -/
inductive Succs
  | list (s : State) (l : List (Nat × Nat)) (seen : List (Nat × Nat))
  | trap (code : Nat) (val : Word) (seen : List (Nat × Nat))
  | wait (va : Word) (seen : List (Nat × Nat))

/-- Successors of a task: its list is read at the virtual address SUCC (R60) (DEDUCED, notes/assumptions 28). -/
def successors (s : State) (g k q idx : Nat) (seen : List (Nat × Nat)) : Succs :=
  let va : Word := BitVec.ofNat 64 (tcbRead s (launchOf s g) q idx F.tcbSucc)
  (upFrom 0 (tcbRead s (launchOf s g) q idx F.tcbNsucc)).foldl (fun acc i =>
    match acc with
    | .list s l seen =>
      let a := va + BitVec.ofNat 64 (4 * i)
      if a.toNat % 4 ≠ 0 then .trap causeALIGN a seen
      else match translate s (whoOf s g k) needLoad a 4 with
        | .trap c v => .trap c v seen
        | .wait _ _ => .wait a seen
        | .at s1 ga key _ =>
          let seen1 := seen ++ [(redirect s1 g ga, 4)]
          match performAt s1 g key (.load 4) ga with
          | (_, .poisoned p) => .trap causePOISON (a + BitVec.ofNat 64 (p - ga)) seen1
          | (s2, .value b) =>
            let h := handleOf g (BitVec.ofNat 64 (leNat b))
            if tcbExists s2 g h.1 h.2 then .list s2 (l ++ [h]) seen1 else .trap causeQUEUE (tcbPa s2 g h.1 h.2) seen1
    | r => r) (.list s [] seen)

/-- A walk over successors ends without effect but for the errors that its reads have found (R411). -/
def foundAll (s : State) (seen : List (Nat × Nat)) : State := seen.foldl (fun s r => findErrors s r.1 r.2) s

/-- A walk over successors waits for a page: nothing of it has been done, and the instruction is evaluated again (R54, R286). -/
def waitPage (s : State) (g k : Nat) (va : Word) : Eff :=
  match translate s (whoOf s g k) needLoad va 4 with
  | .wait t w => .done (switchOut t g k (.waiting w))
  | .trap c v => .trap c v
  | .at _ _ _ _ => .stall

/-- `tend`: a release at die scope, the successors' decrements in list order, DONE, and on at TRET (R236). -/
def execTend (p : Pfx) (s : State) : Host.Outcome State Fault Refusal :=
  .next (issue (.tend p) s fun s g k =>
    let i := Instr.tend p
    match (getCtx s g k).task with
    | none => .trap causeILL (firstWord i)
    | some (q, idx) => releaseThen s g k 2 fun s =>
      match successors (findTcb s (launchOf s g) q idx 16) g k q idx [(tcbAddr s (launchOf s g) q idx, 16)] with
      | .trap c v seen => .done (raiseTrap (foundAll s seen) (modOf g) g k c v)
      | .wait va seen => waitPage (foundAll s seen) g k va
      | .list s1 l _ =>
        let s2 := l.foldl (fun s h => (tdecAt s (launchOf s g) h.1 h.2).2) s1
        let s3 := tcbWrite s2 (launchOf s2 g) q idx F.tcbStatus stDONE
        .done (modCtx (retireTo s3 g k i [] (getCtx s g k).tret) g k fun x => { x with task := none, dirty := false }))

/-- What the walk of `tcancel` comes to: how many it has cancelled, a trap, or a wait for the page of an address. -/
inductive Cancel
  | done (s : State) (n : Nat)
  | trap (code : Nat) (val : Word) (seen : List (Nat × Nat))
  | wait (va : Word) (seen : List (Nat × Nat))

/-- The walk of `tcancel`: TCBs still to visit, how many it has cancelled, and the bytes that it has read (R235). -/
def cancelWalk (s : State) (g k : Nat) (todo : List (Nat × Nat)) (n : Nat) (seen : List (Nat × Nat)) : Nat → Cancel
  | 0 => .done s n
  | fuel + 1 =>
    match todo with
    | [] => .done s n
    | (q, idx) :: rest =>
      let s := findTcb s (launchOf s g) q idx 16
      let seen := seen ++ [(tcbAddr s (launchOf s g) q idx, 16)]
      if [stARMED, stREADY, stFAULTED].contains (tcbRead s (launchOf s g) q idx F.tcbStatus) then
        let s1 := tcbWrite s (launchOf s g) q idx F.tcbStatus stCANCELLED
        let s2 := setReady s1 (launchOf s1 g) q ((readyOf s1 (launchOf s1 g) q).filter fun r => r.idx != idx)
        match successors s2 g k q idx seen with
        | .trap c v seen => .trap c v seen
        | .wait va seen => .wait va seen
        | .list s3 l seen => cancelWalk s3 g k (l ++ rest) (n + 1) seen fuel
      else cancelWalk s g k rest n seen fuel

/-- `tcancel` (R235). -/
def execTcancel (p : Pfx) (d a : Reg) (s : State) : Host.Outcome State Fault Refusal :=
  .next (issue (.tcancel p d a) s fun s g k =>
    let (q, idx) := handleOf g (readX s g k a)
    if !tcbExists s g q idx then .trap causeQUEUE (tcbPa s g q idx)
    else match cancelWalk s g k [(q, idx)] 0 [] (2 ^ 28) with
      | .trap c v seen => .done (raiseTrap (foundAll s seen) (modOf g) g k c v)
      | .wait va seen => waitPage (foundAll s seen) g k va
      | .done s1 n => retire s1 g k (.tcancel p d a) [(d, BitVec.ofNat 64 n)])

/-- `frd`: DEP rises at the task's TCB, then the request leaves and the context waits (R237) (DEDUCED, notes/assumptions 17). -/
def execFrd (p : Pfx) (d a : Reg) (s : State) : Host.Outcome State Fault Refusal :=
  .next (issue (.frd p d a) s fun s g k =>
    let i := Instr.frd p d a
    let va := readX s g k a
    match (getCtx s g k).task with
    | none => .trap causeILL (firstWord i)
    | some (q, idx) =>
      if (getCtx s g k).dirty then .trap causeFUT va
      else reach s g k needLdSync va 8 fun s ga key rt =>
        afterLine s g k ga fun s =>
          let r := routeFor p rt
          let s0 := findTcb s (launchOf s g) q idx 8
          let s1 := tcbWrite s0 (launchOf s0 g) q idx F.tcbDep (tcbRead s0 (launchOf s0 g) q idx F.tcbDep + 1)
          let dest : Dest :=
            { reg := some d, next := nextPc s g k i, pops := popList s g k i, va := taskHandle q idx, future := true }
          .done (waitReply (sendFrom s1 g [k] (classOf r) (wireRoute r) (homeKey ga) (moduleOf ga) none
            (.access (.fe .frd) ga va dest) key) g k))

/-- `fwr`: the future is written and full, and its waiters are woken (R237). -/
def execFwr (p : Pfx) (a b : Reg) (s : State) : Host.Outcome State Fault Refusal :=
  .next (issue (.fwr p a b) s fun s g k =>
    let i := Instr.fwr p a b
    let va := readX s g k a
    let v := readX s g k b
    reach s g k needPut va 8 fun s ga key rt =>
      (if Pfx.rel p then releaseThen s g k 4 else fun f => f s) fun s =>
      afterLine s g k ga fun s =>
        let r := routeFor p rt
        .done (retireTo (directFill s g k (if r = .deferred then .ordered else r) key ga va (.fwr v)) g k i [] (nextPc s g k i)))

end Sys2Proof.Machine
end

