-- ==== Sys2Proof/Machine/Clock.lean ====
section
/-!
DEFINITION. Clocks: what happens at the end of a clock, the counters that count clocks, the order of what reaches one place in one clock, and whose
turn is next (R30, R46, R63, R135, R141, R272, R305, R308).
-/
namespace Sys2Proof.Machine

/-- Every cascade whose interval ends in this clock is evaluated, after the queue steps and the `cdone` of the clock (R305, R308). -/
def evaluateAll (s : State) : State :=
  s.dies.foldl (fun s e => (upFrom 0 8).foldl (fun s c => balancerEvaluate s e.1 c) s) s

/-- MSTALL of a ring: its sender holds a forward and has no usable marker (R331). -/
def stallRing (x : Ring) : Ring :=
  if fget F.prState x.desc = 2 ∧ !x.forwards.isEmpty ∧ x.markers.isEmpty then { x with desc := fput F.prMstall x.desc (fget F.prMstall x.desc + 1) } else x

/-- The end of a clock: evaluations, then what each core is given, the surplus arrivals that are still to be presented, and the phases that have
all their arrivals; an idle core then runs the first, after the slot that ran last, of those that have become READY (R30, R63, R126, R135, R285,
R305). -/
def clockEnd (s : State) : State :=
  let s1 := evaluateAll s
  let b := s1.cores.foldl (fun s e => boundaryEnd s e.1) s1
  let s2 := b.cores.foldl (fun s e => coreClockEnd s e.1) b
  let s3 := completeBarriers (retrySurplus s2 fun _ => true)
  let s4 : State := { s3 with dies := s3.dies.map fun e => (e.1, poolEnd e.2) }
  s4.cores.foldl (fun s e => settle s e.1) s4

/-- ISSUE_GATING: the governor holds the issue of a die in this clock, or not, until it has held it as often as the window needs; GATED counts the clock
(R417) (DESIGN CHOICE, notes/assumptions 124). -/
def gateClock (now d : Nat) (x : Die) : Die :=
  if 0 < x.gateLeft ∧ Config.gates d now then { x with gateLeft := x.gateLeft - 1, gated := true, dtel2 := fbump ⟨0, 64⟩ x.dtel2 }
  else if x.gated then { x with gated := false } else x

/-- The clock rises: CYCLE of every running core (R46), NEXTIV of every installed cascade (R299), MSTALL of every ring (R331), and the governor gates dies (R417) (DEDUCED,
notes/assumptions 134). -/
def clockRise (s : State) : State :=
  { s with
    now := s.now + 1
    turnKey := 0
    cores := s.cores.map fun e => (e.1, if e.2.run then { e.2 with cycle := e.2.cycle + 1 } else e.2)
    dies := s.dies.map fun e =>
      (e.1, gateClock (s.now + 1) e.1 { e.2 with cblk := e.2.cblk.map fun b =>
        (b.1, if fget F.cbV b.2 = 1 then fput F.cbNextIv b.2 (fget F.cbNextIv b.2 - 1) else b.2) })
    mods := s.mods.map fun e => (e.1, { e.2 with ringsOf := e.2.ringsOf.map fun r => (r.1, stallRing r.2) }) }

/-- One clock passes; in the next, contexts that wait in `tnext` receive the tasks that became ready (R272). -/
def clock (s : State) : State :=
  let t := clockRise (clockEnd s)
  t.clusters.foldl (fun s e => serveWaiters s e.1 e.2.taskWait.length) t

/-- Clocks pass. -/
def tick (s : State) : Nat → State
  | 0 => s
  | n + 1 => tick (clock s) n

/-! ### The order within a clock (R141) -/

/-- Place in the order of R141 of a core and slot. -/
def orderKey (g k : Nat) : Nat := 16 * g + k + 1

/-- The context slot by which a message goes in R141's order: that of the context that issued its access, for an engine's piece that of the context
which commanded it, for stores of several contexts the lowest of theirs (R141, R144, R218) (DESIGN CHOICE, notes/assumptions 6). -/
def slotPlace (s : State) (m : Msg) : Nat :=
  let k := (m.slots.drop 1).foldl Nat.min (m.slots.headD 0)
  if k < chanTag 0 then k % 16
  else (((tget {} (getCore s m.src).chans (k - chanTag 0)).queue.head?).map XCmd.slot).getD 0

/-- Place of a turn within its clock: what reaches memory-side units, ready queues and stage queues goes by source module, core and slot (R141,
R272, R312), the patrol scrubber after every request of the clock (R412), an evaluation last (R308), and other steps have no place (DESIGN CHOICE, notes/assumptions 6). -/
def turnPlace (s : State) (act : Act) : Option Nat :=
  match act with
  | .core g => some (orderKey g (getCore s g).slot)
  | .event i a b _ =>
    match i with
    | .accessAtHome | .savedCopyAccess | .feRequest | .barrierArrivalMessage | .remoteStreamStep | .coreStartMessage | .coreStopMessage | .migrationArrive =>
      (findMsg s a).map fun m => orderKey m.src (slotPlace s m)
    | .vectorMemoryAccess => some (orderKey a (((getCore s a).vq.head?.map VqEntry.slot).getD 0))
    | .enginePiece | .feedStripDeliver | .feedStripWrite => some (orderKey a ((((tget {} (getCore s a).chans b).queue.head?).map XCmd.slot).getD 0))
    | .translationWalkDone => some (orderKey a b)
    | .drainRowDispatch => some (orderKey a 0)
    | .patrolScrubVisit => some (2 ^ 39)
    | .balancerEvaluate => some (2 ^ 40)
    | _ => none

/-- A turn that would come before one that has been in this clock, or a second instruction of a core, waits for the next clock, and so does any step once
the patrol scrubber has made a visit (R412). -/
def inOrder (s : State) (t : Turn) : Turn :=
  match turnPlace s t.act with
  | none => if t.dt = 0 ∧ 2 ^ 39 ≤ s.turnKey then { t with dt := 1 } else t
  | some k =>
    let again : Bool := match t.act with | .core g => decide (0 < s.turnKey) && (s.turnKey - 1) / 16 == g | _ => false
    if t.dt = 0 ∧ (k < s.turnKey ∨ again) then { t with dt := 1 } else t

/-- The turn takes its place in its clock. -/
def takePlace (s : State) (act : Act) : State := { s with turnKey := (turnPlace s act).getD s.turnKey }

/-- Whose turn is next: the head of the schedule; without one the steps that are due and the cores alternate (DESIGN CHOICE, notes/assumptions 6). -/
def nextTurn (s : State) : Turn × State :=
  match s.sched with
  | t :: rest => (inOrder s t, { s with sched := rest })
  | [] =>
    match if s.now % 2 = 0 then hardwareStep s else none with
    | some h => (⟨1, .event h.ins h.a h.b 0⟩, s)
    | none => (⟨1, .core (nextCore s)⟩, s)

end Sys2Proof.Machine
end

