-- ==== Sys2Proof/Machine/Crypto.lean ====
section
/-!
DEFINITION. SHA-256 and the verification of RSASSA-PSS signatures with RSA-3072, which the manual names by standard (R405–R407) (PRESUMED,
notes/assumptions 10).
-/
namespace Sys2Proof.Machine

/-- The round constants and the initial hash value. -/
def shaK : List (BitVec 32) :=
  [0x428A2F98, 0x71374491, 0xB5C0FBCF, 0xE9B5DBA5, 0x3956C25B, 0x59F111F1, 0x923F82A4, 0xAB1C5ED5]
    ++ [0xD807AA98, 0x12835B01, 0x243185BE, 0x550C7DC3, 0x72BE5D74, 0x80DEB1FE, 0x9BDC06A7, 0xC19BF174]
    ++ [0xE49B69C1, 0xEFBE4786, 0x0FC19DC6, 0x240CA1CC, 0x2DE92C6F, 0x4A7484AA, 0x5CB0A9DC, 0x76F988DA]
    ++ [0x983E5152, 0xA831C66D, 0xB00327C8, 0xBF597FC7, 0xC6E00BF3, 0xD5A79147, 0x06CA6351, 0x14292967]
    ++ [0x27B70A85, 0x2E1B2138, 0x4D2C6DFC, 0x53380D13, 0x650A7354, 0x766A0ABB, 0x81C2C92E, 0x92722C85]
    ++ [0xA2BFE8A1, 0xA81A664B, 0xC24B8B70, 0xC76C51A3, 0xD192E819, 0xD6990624, 0xF40E3585, 0x106AA070]
    ++ [0x19A4C116, 0x1E376C08, 0x2748774C, 0x34B0BCB5, 0x391C0CB3, 0x4ED8AA4A, 0x5B9CCA4F, 0x682E6FF3]
    ++ [0x748F82EE, 0x78A5636F, 0x84C87814, 0x8CC70208, 0x90BEFFFA, 0xA4506CEB, 0xBEF9A3F7, 0xC67178F2]
def shaInit : List (BitVec 32) := [0x6A09E667, 0xBB67AE85, 0x3C6EF372, 0xA54FF53A, 0x510E527F, 0x9B05688C, 0x1F83D9AB, 0x5BE0CD19]

/-- The low n bytes of a number, highest first, and the number that such bytes give. -/
def beBytes (v n : Nat) : List Byte := (leBytes v n).reverse
def beNat (l : List Byte) : Nat := leNat l.reverse

def ror (x : BitVec 32) (n : Nat) : BitVec 32 := (x >>> n) ||| (x <<< (32 - n))

/-- The message followed by a 1 bit, zeros and its length in bits, a multiple of 64 bytes. -/
def shaPad (l : List Byte) : List Byte := l ++ 0x80 :: List.replicate ((119 - l.length % 64) % 64) 0 ++ beBytes (8 * l.length) 8

/-- The message schedule, latest word first: each further word comes of the words 16, 15, 7 and 2 before it. -/
def shaSchedule (w : List (BitVec 32)) : Nat → List (BitVec 32)
  | 0 => w
  | n + 1 =>
    let at_ (i : Nat) : BitVec 32 := w.getD (i - 1) 0
    let s0 := ror (at_ 15) 7 ^^^ ror (at_ 15) 18 ^^^ (at_ 15 >>> 3)
    let s1 := ror (at_ 2) 17 ^^^ ror (at_ 2) 19 ^^^ (at_ 2 >>> 10)
    shaSchedule ((at_ 16 + s0 + at_ 7 + s1) :: w) n

/-- One round on the eight working words. -/
def shaRound (h : List (BitVec 32)) (kw : BitVec 32) : List (BitVec 32) :=
  match h with
  | [a, b, c, d, e, f, g, x] =>
    let t1 := x + (ror e 6 ^^^ ror e 11 ^^^ ror e 25) + ((e &&& f) ^^^ (~~~e &&& g)) + kw
    let t2 := (ror a 2 ^^^ ror a 13 ^^^ ror a 22) + ((a &&& b) ^^^ (a &&& c) ^^^ (b &&& c))
    [t1 + t2, a, b, c, d + t1, e, f, g]
  | _ => h

/-- One block of 64 bytes. -/
def shaBlock (h : List (BitVec 32)) (block : List Byte) : List (BitVec 32) :=
  let first := (upFrom 0 16).map fun i => BitVec.ofNat 32 (beNat ((block.drop (4 * i)).take 4))
  let w := (shaSchedule first.reverse 48).reverse
  let r := ((shaK.zip w).map fun x => x.1 + x.2).foldl shaRound h
  (h.zip r).map fun x => x.1 + x.2

/-- The digest as its 32 bytes in their order. -/
def shaBytes (l : List Byte) : List Byte :=
  let p := shaPad l
  ((upFrom 0 (p.length / 64)).foldl (fun h i => shaBlock h ((p.drop (64 * i)).take 64)) shaInit).flatMap fun w => beBytes w.toNat 4

/-- The digest as a number whose lowest byte is the digest's first (R21). -/
def sha256 (l : List Byte) : BitVec 256 := BitVec.ofNat 256 (leNat (shaBytes l))

/-- b to the power that the bits give, highest first, modulo n. -/
def powMod (n b : Nat) (bits : List Bool) : Nat := bits.foldl (fun r x => (if x then r * r % n * b else r * r) % n) (1 % n)

/-- The bits of bytes, highest first. -/
def bitsOfBytes (l : List Byte) : List Bool := l.flatMap fun b => (upFrom 0 8).map fun i => b.getLsbD (7 - i)

/-- MGF1 with SHA-256: n bytes of mask. -/
def mgf1 (seed : List Byte) (n : Nat) : List Byte := ((upFrom 0 ((n + 31) / 32)).flatMap fun i => shaBytes (seed ++ beBytes i 4)).take n

/-- EMSA-PSS verification of a message against an encoded message of 3071 bits with a salt of 32 bytes. -/
def pssGood (msg em : List Byte) : Bool :=
  let masked := em.take 351
  let h := (em.drop 351).take 32
  let db := ((masked.zip (mgf1 h 351)).map fun x => x.1 ^^^ x.2).zip (upFrom 0 351) |>.map fun x => if x.2 = 0 then x.1 &&& 0x7F else x.1
  em.length == 384 && em.getD 383 0 == 0xBC && !(em.getD 0 0).getLsbD 7
    && (db.take 318).all (· == 0) && db.getD 318 0 == 1
    && h == shaBytes (List.replicate 8 0 ++ shaBytes msg ++ db.drop 319)

/-- RSASSA-PSS signature of a message with RSA-3072 (R407): a key is its modulus and its private exponent; the salt has 32 bytes. -/
def pssSign (key : Nat × Nat) (salt msg : List Byte) : List Byte :=
  let h := shaBytes (List.replicate 8 0 ++ shaBytes msg ++ salt)
  let db := List.replicate 318 0 ++ 1 :: salt
  let masked := ((db.zip (mgf1 h 351)).map fun x => x.1 ^^^ x.2).zip (upFrom 0 351) |>.map fun x => if x.2 = 0 then x.1 &&& 0x7F else x.1
  beBytes (powMod key.1 (beNat (masked ++ h ++ [0xBC])) ((upFrom 0 3072).map fun i => key.2.testBit (3071 - i))) 384

/-- RSASSA-PSS verification with RSA-3072 (R405): a key is its modulus of 384 bytes and its public exponent, highest byte first. -/
def signatureGood (key msg sig : List Byte) : Bool :=
  let n := beNat (key.take 384)
  let v := beNat sig
  sig.length == 384 && decide (2 ^ 3071 ≤ n) && decide (v < n) && pssGood msg (beBytes (powMod n v (bitsOfBytes (key.drop 384))) 384)

end Sys2Proof.Machine
end

