-- ==== Sys2Proof/Machine/Vector.lean ====
section
/-!
DEFINITION. The vector issue queue: entry, arbitration, retirement, memory forms, feeds and repeat runs (R33, R162–R179, R255, R256, R271), and
the forms of page 3.
-/
namespace Sys2Proof.Machine

/-! ### Which vector registers a form names -/

def Opd.vNums : Opd → List Reg
  | .v r => [r]
  | .vEven r => [r, r + 1]
  | _ => []

/-- Mask registers as 16 to 19. -/
def Opd.mNums : Opd → List Nat
  | .m r => [16 + r.toNat]
  | _ => []

/-- The form stores its d register. -/
def storesD : Instr → Bool
  | .vst _ _ _ _ | .vstx _ _ _ _ _ => true
  | _ => false

/-- The form reads its destination whatever its mask (R166). -/
def readsDest : Instr → Bool
  | .vfma _ _ _ _ _ | .vfms _ _ _ _ _ | .vfnma _ _ _ _ _ | .cvt8 _ _ _ _ | .cvt4 _ _ _ _ | .qz _ _ _ _ _ => true
  | _ => false

def vDests (i : Instr) : List Reg := if storesD i then [] else (i.shape.map fun h => Opd.vNums h.d).getD []
def vSources (i : Instr) : List Reg :=
  (i.shape.map fun h =>
    Opd.vNums h.a ++ Opd.vNums h.b ++ if storesD i || readsDest i then Opd.vNums h.d else []).getD []

/-- The feed bound to a register of a core (R33). -/
def feedOf (c : Core) (r : Reg) : Option Feed := tget none c.feeds r.toNat
def inFeed (c : Core) (r : Reg) : Bool := (feedOf c r).any Feed.inbound
def outFeed (c : Core) (r : Reg) : Bool := (feedOf c r).any fun f => !f.inbound

/-- Misuse of a feed: an inbound feed written, or an outbound feed read (R166) (DEDUCED, notes/assumptions 42). -/
def feedMisuse (c : Core) (i : Instr) : Bool := (vDests i).any (inFeed c) || (vSources i).any (outFeed c)

/-- The role that a register has for a queued instruction is that of its entry (R162, R166): the feed it was then, where that binding is still in
force. -/
def liveFeed (c : Core) (e : VqEntry) (r : Reg) : Option Feed :=
  match e.feeds.lookup r.toNat with
  | some (x, ch) => (feedOf c r).filter fun f => f.xcore == x && f.chan == ch
  | none => none

/-- Every strip the instruction pops is there, and every outbound feed it writes can take a strip, behind executions that pop and push before it (R166)
(DEDUCED, notes/assumptions 41). -/
def feedsReadyBehind (c : Core) (ahead : List VqEntry) (e : VqEntry) : Bool :=
  ((vSources e.ins).all fun r => (liveFeed c e r).all fun f =>
      !f.inbound || decide ((ahead.filter fun a => (vSources a.ins).contains r).length < f.strips.length))
    && (vDests e.ins).all fun r => (liveFeed c e r).all fun f =>
      f.inbound || decide (f.strips.length + (ahead.filter fun a => (vDests a.ins).contains r).length < 4)

def feedsReady (c : Core) (e : VqEntry) : Bool := feedsReadyBehind c [] e

/-- Value of a source: the strip at the head of an inbound feed, else the register, which holds the last strip of a binding that has ended
(R33). -/
def sourceV (c : Core) (e : VqEntry) (r : Reg) : VReg :=
  match liveFeed c e r with
  | some f => if f.inbound then f.strips.headD (tget 0 c.v r.toNat) else tget 0 c.v r.toNat
  | none => tget 0 c.v r.toNat

/-- Pop an inbound feed: the register holds the strip; with its last strip the binding ends (R33, R223). -/
def popFeed (e : VqEntry) (c : Core) (r : Reg) : Core :=
  match liveFeed c e r with
  | some f =>
    match f.inbound, f.strips with
    | true, x :: rest =>
      { c with
        v := tset 0 c.v r.toNat x
        feeds := tset none c.feeds r.toNat (if rest.isEmpty && f.last then none else some { f with strips := rest }) }
    | _, _ => c
  | none => c

/-- Each inbound feed that the instruction names is popped once (R166). -/
def popFeeds (c : Core) (e : VqEntry) : Core := (vSources e.ins).dedup.foldl (popFeed e) c

/-- Write a vector result: into the register, masked-off lanes kept, or as a strip pushed to an outbound feed, masked-off lanes zero (R32, R33). A
strip for a binding that has ended is discarded, as lanes beyond a pattern's last element are (R166, R223) (DEDUCED, notes/assumptions 147). -/
def writeRes (e : VqEntry) (c : Core) (o : VRes) : Core :=
  match liveFeed c e o.reg with
  | some f =>
    if f.inbound then c
    else
      let strip := vregOf fun i => if o.lanes i then laneOf o.val i else 0
      { c with feeds := tset none c.feeds o.reg.toNat (some { f with strips := f.strips ++ [strip] }) }
  | none =>
    if (e.feeds.lookup o.reg.toNat).isSome then c
    else
      let old := tget 0 c.v o.reg.toNat
      { c with v := tset 0 c.v o.reg.toNat (vregOf fun i => if o.lanes i then laneOf o.val i else laneOf old i) }

/-! ### Entry (R162, R166, R178, R179) -/

/-- The scalar operand that a form reads at entry (R162). -/
def scalarOf : Instr → Option Reg
  | .vbcast _ _ _ a | .vseed _ a | .vmskFromx _ _ a | .vld _ _ a _ | .vst _ _ a _ | .vldx _ _ _ a _ | .vstx _ _ _ a _ => some a
  | .vtopk _ _ _ _ _ b => some b
  | _ => none

/-- The feeds among the registers that a form names (R162). -/
def feedRoles (c : Core) (i : Instr) : Tbl (Nat × Nat) :=
  (vSources i ++ vDests i).dedup.filterMap fun r => (feedOf c r).map fun f => (r.toNat, f.xcore, f.chan)

/-- The entry of an instruction of a context (R162). -/
def vqEntry (s : State) (g k : Nat) (i : Instr) : VqEntry :=
  { ins := i, slot := k, xa := ((scalarOf i).map (readX s g k)).getD 0, rm := dynRm s g, ftz := dynFtz s g, run := 1, reps := 1
    feeds := feedRoles (getCore s g) i }

/-- Entries are written behind the last of a queue (R411). -/
def pushEntries (s : State) (g : Nat) (l : List VqEntry) : State :=
  (upFrom (getCore s g).vq.length l.length).foldl (fun s n => rewritten s (modOf g) (locator 4 g n))
    (modCore s g fun c => { c with vq := c.vq ++ l })

/-- A queued form issues: it enters the queue and the context goes on; a full queue stalls, misuse of a feed raises ILL (R162,
R166). -/
def enqueueV (i : Instr) (s : State) : State :=
  issue i s fun s g k =>
    if feedMisuse (getCore s g) i then .trap causeILL (firstWord i)
    else if 16 ≤ (getCore s g).vq.length then .stall
    else retire (pushEntries s g [vqEntry s g k i]) g k i []

/-- A vector memory form issues: it enters the queue, and the context stays at it until the access has finished (R164). -/
def enqueueMem (i : Instr) (s : State) : State :=
  issue i s fun s g k =>
    if feedMisuse (getCore s g) i then .trap causeILL (firstWord i)
    else if 16 ≤ (getCore s g).vq.length then .stall
    else .done (pushEntries s g [vqEntry s g k i])

/-! ### Arbitration (R255, R256, R271) -/

/-- The nine cores of vector unit u of a cluster, in index order, the K-core last (R271). -/
def unitCores (q u : Nat) : List Nat :=
  ((upFrom (4 * u) 4).flatMap fun t => [coreAt q t 1, coreAt q t 2]) ++ [kcoreAt q u]

/-- The instruction that executes next: the head, or the member of its run (R178). -/
def vqHead (c : Core) : Option VqEntry := c.vq[c.vpos]?

/-- A queue once the execution at its head is over: at the next member of the run, its next repetition, or past it (R178). -/
def queueMove (vq : List VqEntry) (vpos : Nat) : List VqEntry × Nat :=
  match vq with
  | [] => ([], vpos)
  | e :: rest =>
    if vpos + 1 < e.run then (vq, vpos + 1)
    else if 1 < e.reps then ({ e with reps := e.reps - 1 } :: rest, 0)
    else (vq.drop e.run, 0)

/-- The next n executions of a queue, in order. -/
def executions (vq : List VqEntry) (vpos : Nat) : Nat → List VqEntry
  | 0 => []
  | n + 1 =>
    match vq[vpos]? with
    | some e => e :: executions (queueMove vq vpos).1 (queueMove vq vpos).2 n
    | none => []

/-- The mask register that a form names in its minor field; `vsel` names m0 too (R32, R172). -/
def maskNum (i : Instr) : Option Nat :=
  i.shape.bind fun h =>
    if h.page = 3 ∧ h.op ≠ 20 ∧ (h.minor ≠ 0 ∨ h.op = 21) ∧ (Opd.mNums h.d ++ Opd.mNums h.a).isEmpty then some (16 + h.minor.toNat) else none

/-- The form is masked: lanes that its mask turns off keep what its destination holds, which it so reads (R32, R166). -/
def isMasked (i : Instr) : Bool := (maskNum i).isSome && (i.shape.any fun h => h.op != 21)

/-- Vector registers as 0 to 15, mask registers as 16 to 19, that a queued form reads, an outbound feed that a masked form writes apart; those that
it writes (R32, R166, R172, R411). -/
def vReadNums (e : VqEntry) : List Nat :=
  let kept := if isMasked e.ins then (vDests e.ins).filter fun r => (e.feeds.lookup r.toNat).isNone else []
  (vSources e.ins ++ kept).map (·.toNat) ++ ((e.ins.shape.map fun h => Opd.mNums h.a ++ Opd.mNums h.b).getD []) ++ (maskNum e.ins).toList
def vWriteNums (i : Instr) : List Nat := (vDests i).map (·.toNat) ++ (i.shape.map fun h => Opd.mNums h.d).getD []

/-- A core holds a lane group: it was granted one less than 4 clocks ago (R256). -/
def holdsLane (s : State) (g : Nat) : Bool := (getCore s g).lane.isSome && decide (s.now < (getCore s g).laneAt + 4)

/-- A queue that holds no group and whose first execution not yet granted one is ready: what it reads is written by no execution under way, and its feeds
can deliver (R255). -/
def wantsGroup (s : State) (g : Nat) : Bool :=
  let c := getCore s g
  let ahead := executions c.vq c.vpos c.flight
  !holdsLane s g && ((executions c.vq c.vpos (c.flight + 1))[c.flight]?).any fun e =>
    !isVmem e.ins && (vReadNums e).all (fun r => ahead.all fun a => !(vWriteNums a.ins).contains r) && feedsReadyBehind c ahead e

def weightOf (s : State) (g : Nat) : Nat := fget F.vqwW (getCore s g).vqw

/-- The queue with the largest credit, ties to the earlier one. -/
def bestCredit (s : State) : List Nat → Option Nat
  | [] => none
  | g :: rest =>
    some (rest.foldl (fun b h => if (getCore s b).credit < (getCore s h).credit then h else b) g)

/-- Bind a group to a queue head, for 4 clocks: it is free then, whether or not that head has retired (R255, R256). -/
def grantGroup (s : State) (cores : List Nat) (grp : Nat) : State :=
  if cores.any fun g => (getCore s g).lane == some grp && holdsLane s g then s
  else
    let ready := cores.filter (wantsGroup s)
    let heavy := ready.filter fun g => weightOf s g ≠ 0
    let e := if heavy.isEmpty then ready else heavy
    let s1 := e.foldl (fun s g => modCore s g fun c => { c with credit := c.credit + weightOf s g }) s
    match bestCredit s1 e with
    | some g => modCore s1 g fun c =>
        { c with
          credit := c.credit - ((e.map (weightOf s)).foldl (· + ·) 0 : Nat)
          lane := some grp, laneAt := s.now, flight := c.flight + 1 }
    | none => s1

/-- VECTOR_LANE_GRANT: one clock of the arbiter: free groups in ascending order (R256). -/
def vectorLaneGrant (s : State) (q u : Nat) : State :=
  (upFrom 0 4).foldl (fun s grp => grantGroup s (unitCores q u) grp) s

def execVectorLaneGrant (s : State) : Host.Outcome State Fault Refusal := .next (vectorLaneGrant s s.argA s.argB)

/-! ### Retirement (R162, R178) -/

def vinOf (c : Core) (e : VqEntry) : VIn where
  v := sourceV c e
  m := tget 0 c.m
  xa := e.xa
  rm := e.rm.toNat
  ftz := e.ftz
  gen := tget 0 c.gen

/-- Generators after a form: seeded, or advanced by its draws (R112). -/
def gensAfter (c : Core) (o : VOut) : Tbl Lane :=
  match o.seed with
  | some x => (upFrom 0 64).foldl (fun t i => tset 0 t i (seedLane x i)) c.gen
  | none => o.draws.foldl (fun t i => tset 0 t i (genStep (tget 0 t i))) c.gen

/-- The queue moves on as the execution at its head retires (R162, R178); an empty queue has no credit (R256). -/
def advanceQueue (c : Core) : Core :=
  let r := queueMove c.vq c.vpos
  { c with vq := r.1, vpos := r.2, flight := c.flight - 1, credit := if r.1.isEmpty then 0 else c.credit }

/-- NF of a form (R72). -/
def nfOf (i : Instr) : Bool := (i.shape.map fun h => Pfx.nf h.pfx).getD false

/-- What retiring an entry does to its core. -/
def retireCore (c : Core) (e : VqEntry) (o : VOut) : Core :=
  let c1 := o.v.foldl (writeRes e) (popFeeds c e)
  advanceQueue { c1 with
    m := o.m.foldl (fun t w => tset 0 t w.1.toNat w.2) c1.m
    gen := gensAfter c o }

def vecLocator (g n : Nat) : Word := locator 2 g n

/-- Registers that the form writes hold good parity again. -/
def goodRegs (s : State) (g : Nat) (i : Instr) : State := (vWriteNums i).foldl (fun s n => rewritten s (modOf g) (vecLocator g n)) s

/-- What a retirement makes of a core; the entries that leave its queue go with their errors (R411). -/
def movedCore (s : State) (g : Nat) (f : Core → Core) : State :=
  queueShift (modCore s g f) 4 g ((getCore s g).vq.length - (f (getCore s g)).vq.length)

/-- The head of the queue meets an uncorrectable error: in its queue entry, and the queue is discarded; in a register that it reads, and its
run is discarded. ECC_UE is pending in its context (R411). -/
def vectorError (s : State) (g : Nat) (e : VqEntry) : Option State :=
  let m := modOf g
  let loc := locator 4 g (getCore s g).vpos
  if isBad s m loc then
    some (reportError (modCore s g fun c => { c with vq := [], vpos := 0, vjob := none, flight := 0, credit := 0, vfault := some (e.slot, loc) }) m g causeECC loc)
  else ((vReadNums e).find? fun n => isBad s m (vecLocator g n)).map fun n =>
    movedCore s g fun c =>
      let left := c.vq.drop ((c.vq.head?).elim 1 VqEntry.run)
      { c with
        vq := left, vpos := 0, vjob := none, flight := 0, credit := if left.isEmpty then 0 else c.credit
        vfault := some (e.slot, vecLocator g n) }

/-- VECTOR_RETIRE: the head, once it has been granted a group, writes its destinations, moves its feeds, makes its draws and raises its flags
(R162). -/
def vectorRetire (s : State) (g : Nat) : State :=
  let c := getCore s g
  match vqHead c with
  | some e =>
    let o := vectorEffect e.ins (vinOf c e)
    if c.flight = 0 || isVmem e.ins || !feedsReady c e || !canWrite s g e.slot o.x then s
    else match vectorError s g e with
      | some t => t
      | none => raise (writeXs (movedCore (goodRegs s g e.ins) g fun c => retireCore c e o) g e.slot o.x) g (nfOf e.ins) o.flags
  | none => s

def execVectorRetire (s : State) : Host.Outcome State Fault Refusal := .next (vectorRetire s s.argA)

/-! ### Memory forms (R164, R168, R169) -/

/-- What the address checks of a memory form come to. -/
inductive VCheck
  | ok (s : State) (l : List VPiece)
  | wait (s : State) (w : Wait)
  | trap (code : Nat) (val : Word)

/-- Check accesses of n bytes in ascending order: alignment, then R54 and R55. -/
def checkPieces (s : State) (g k : Nat) (need : Need) (n : Nat) : List (Word × Nat) → VCheck
  | [] => .ok s []
  | (va, off) :: rest =>
    if va.toNat % n ≠ 0 then .trap causeALIGN va
    else match translate s (whoOf s g k) need va n with
      | .trap c v => .trap c v
      | .wait t w => .wait t w
      | .at t ga key rt =>
        match checkPieces t g k need n rest with
        | .ok u l =>
          let edge := beginsPiece t (clusterOf g) (whoOf s g k).ten va.toNat
          .ok u ({ ga := ga, key := key, va := va, len := n, off := off, route := rt, edge := edge } :: l)
        | r => r

/-- Join neighbours that lie at one home, in one page and one block of a stripe, and at consecutive addresses (R168). -/
def joinPieces : List VPiece → List VPiece
  | a :: rest =>
    match joinPieces rest with
    | b :: more =>
      if homeKey a.ga = homeKey b.ga ∧ a.ga + a.len = b.ga ∧ a.key = b.key ∧ !b.edge then
        { a with len := a.len + b.len } :: more
      else a :: b :: more
    | [] => [a]
  | [] => []

/-- The lane that completes a doubleword of which an earlier lane names the other half is marked: with it the form has written all eight bytes
(R146, R164). -/
def wholeLanes (l : List VPiece) : List VPiece :=
  (l.zip (upFrom 0 l.length)).map fun e => { e.1 with whole := (l.take e.2).any fun q => q.ga / 8 == e.1.ga / 8 && q.ga != e.1.ga }

/-- The accesses of a memory form: (address, place in the register), with their size, and whether neighbours join (DEDUCED, notes/assumptions 46). -/
def vmemAccesses (c : Core) (e : VqEntry) : Nat × Bool × List (Word × Nat) :=
  let lanes (mk : BitVec 2) (b : Reg) : List (Word × Nat) :=
    ((upFrom 0 64).filter fun i => mk == 0 || (tget 0 c.m mk.toNat).getLsbD i).map fun i =>
      (e.xa + 4 * (laneOf (sourceV c e b) i).signExtend 64, 4 * i)
  let whole (imm : Int) : List (Word × Nat) :=
    (upFrom 0 32).map fun j => (effAddr e.xa imm 8 + BitVec.ofNat 64 (8 * j), 8 * j)
  match e.ins with
  | .vld _ _ _ imm => (8, true, whole imm)
  | .vst _ _ _ imm => (8, true, whole imm)
  | .vldx _ mk _ _ b => (4, false, lanes mk b)
  | .vstx _ mk _ _ b => (4, false, lanes mk b)
  | _ => (1, false, [])

/-- Bytes of a vector register from a place. -/
def regBytes (v : VReg) (off n : Nat) : List Byte := leBytes (v.toNat / 2 ^ (8 * off)) n

/-- d register of a memory form. -/
def vmemReg : Instr → Reg
  | .vld _ d _ _ | .vst _ d _ _ | .vldx _ _ d _ _ | .vstx _ _ d _ _ => d
  | _ => 0

/-- Page-level route of a piece, or that of the QUAL prefix; a deferred page default is taken as ordered by a store, which has no deferred form
(R142, R168) (DEDUCED, notes/assumptions 148). -/
def vmemRoute (i : Instr) (page : Nat) : Route :=
  match (i.shape.map fun h => routeFor h.pfx page).getD .ordered with
  | .deferred => if storesD i then .ordered else .deferred
  | r => r

/-- Perform one piece: a load at its local home; a store at its local home, or towards a remote one, behind the held stores that it must not
overtake (R141, R168, R239). -/
def performPiece (s : State) (g k : Nat) (e : VqEntry) (j : VJob) (p : VPiece) : State × VJob :=
  let rest := j.left.filter (· != p)
  if storesD e.ins then
    let cells := cellsAt p.ga (regBytes (sourceV (getCore s g) e (vmemReg e.ins)) p.off p.len)
    let r := vmemRoute e.ins p.route
    let s1 := flushBeforeV (markDirty s g k) g r p.ga p.len
    let op := if p.whole then MemOp.merged cells [p.ga / 8] else .store cells
    (granting (directWrite s1 g k r p.key p.ga p.va op (part := some j.part)) g k p.ga (isLocal g p.ga), { j with left := rest })
  else
    match performAt s g p.key (.load p.len) p.ga with
    | (t, .value l) => (granting t g k p.ga true, { j with left := rest, got := (cellsAt p.off l).foldl (fun t c => tput t c.1 c.2) j.got })
    | (t, .poisoned q) => (t, { j with left := rest, bad := lowerBad j.bad (causePOISON, p.va + BitVec.ofNat 64 (q - redirect s g p.ga)) })

/-- The reads of a vector load's pieces that lie off the core set out, in class 1 by their route, or in class 0 with route deferred (R168,
R325). -/
def sendReads (s : State) (g k : Nat) (e : VqEntry) (l : List VPiece) : State × VJob :=
  let job : VJob := { left := l.filter fun p => isLocal g p.ga, got := [], bad := none, part := s.nextId }
  (l.filter fun p => !isLocal g p.ga).foldl (fun (s, j) p =>
    let r := vmemRoute e.ins p.route
    (sendFrom s g [k] (classOf r) (wireRoute r) (homeKey p.ga) (moduleOf p.ga) none
      (.access (.load p.len) p.ga p.va { va := p.va, part := some j.part, strm := windowStrm s g k p.va }) p.key,
     { j with out := j.out ++ [(s.nextId, p)] })) (s, job)

/-- The first piece of each home that is left: the order between homes is free (R168, R169). -/
def frontPieces : List VPiece → List VPiece
  | [] => []
  | p :: rest => p :: (frontPieces rest).filter fun r => homeKey r.ga != homeKey p.ga

/-- The access has finished: the load's lanes are written, the context goes on; or the load met poison or was refused and traps with nothing written
(R164). -/
def finishMem (s : State) (g : Nat) (e : VqEntry) (j : VJob) : State :=
  let k := e.slot
  let c := getCore s g
  let d := vmemReg e.ins
  let away := (getCtx s g k).mode == .waiting .vector
  let back (s : State) : State := if away then wake s g k else s
  let clear (c : Core) : Core := { advanceQueue c with vjob := none }
  match j.bad with
  | some (code, v) => raiseTrap (back (movedCore s g clear)) (modOf g) g k code v
  | none =>
    let (_, _, acc) := vmemAccesses c e
    let val : VReg := BitVec.ofNat 2048 (leNat ((upFrom 0 256).map fun i => tget 0 j.got i))
    let on (i : Nat) : Bool := match e.ins with | .vld _ _ _ _ => true | _ => acc.any fun a => a.2 == 4 * i
    let put (c : Core) : Core :=
      let c1 := popFeeds c e
      clear (if storesD e.ins then c1 else writeRes e c1 { reg := d, val := val, lanes := on })
    let s1 := movedCore (goodRegs s g e.ins) g put
    back (retireTo s1 g k e.ins [] (nextPc s1 g k e.ins))

/-- Perform one of the pieces that may go next, and finish with the last. -/
def stepPieces (s : State) (g : Nat) (e : VqEntry) (j : VJob) : State :=
  match frontPieces j.left with
  | [] => if j.out.isEmpty then finishMem s g e j else s
  | p :: more =>
    let (v, s0) := if more.isEmpty then (0, s) else draw s
    let front := p :: more
    let (s1, j1) := performPiece s0 g e.slot e j ((front[v % front.length]?).getD p)
    if j1.left.isEmpty && j1.out.isEmpty then finishMem s1 g e j1
    else modCore s1 g fun c => { c with vjob := some j1 }

/-- The checked pieces of the form at the queue head are performed: held stores of their bytes leave and are acknowledged first; a load with a
piece from off the core sends for it and switches its context out (R164, R168). -/
def startPieces (s : State) (g k : Nat) (e : VqEntry) (l : List VPiece) : State :=
  let store := storesD e.ins
  let hit (x : Comb) : Bool := l.any fun p =>
    entryHits x p.ga p.len || (!store && x.slots.contains k && entryMeets x p.ga p.len) || entryMoved x (windowStrm s g k p.va) p.va p.ga
  if (getCore s g).comb.any hit then flushWhile s g hit
  else if l.any fun p => (store && locked s g p.ga p.len) || unacked s g p.ga p.len then s
  else if !store && l.any fun p => !isLocal g p.ga then
    let (t, j) := sendReads s g k e l
    switchOut (modCore t g fun c => { c with vjob := some j }) g k (.waiting .vector)
  else stepPieces s g e { left := l, got := [], bad := none, part := s.nextId }

/-- The queue head is a vector memory form of this context, which stands at it until its access has finished (R164). -/
def atVmem (s : State) (g k : Nat) : Bool := (getCore s g).vq.head?.any fun e => e.slot == k && isVmem e.ins

/-- TRANSLATION_WALK_DONE: the walk of a waiting context reads its next entry at its node's home (R430); at its end its leaf enters the
cluster's buffer and the context becomes READY, or the context traps (R54). A walk for the vector memory form at the queue head fails with that form gone from the queue, so that its trap
is taken there (R164, R165). -/
def translationWalkDone (s : State) (g k : Nat) : State :=
  match (getCtx s g k).mode with
  | .waiting (.walk va next) =>
    let m := modOf g
    let ten := fget F.ten (getCtx s g k).priv
    let fail (t : State) (c : Nat) : State :=
      let u := if atVmem t g k then movedCore t g advanceQueue else t
      if ownsQueue u g k then s else takeTrap (wake u g k) g k c va
    match next.or ((walkRoot s m ten).map fun r => (r, 3)) with
    | none => fail s causeXLAT
    | some (node, level) =>
      match walkEntry s m va.toNat node level with
      | (t, .leaf e) => wake (tlbInsert t (clusterOf g) (tlbEntry t m ten va.toNat e)) g k
      | (t, .node n) => modCtx t g k fun x => { x with mode := .waiting (.walk va (some (n, level - 1))) }
      | (t, .fault c) => fail t c
  | _ => s

def execTranslationWalkDone (s : State) : Host.Outcome State Fault Refusal := .next (translationWalkDone s s.argA s.argB)

/-- VECTOR_MEMORY_ACCESS: the memory form at the queue head makes its checks, then performs its pieces (R164). -/
def vectorMemoryAccess (s : State) (g : Nat) : State :=
  let c := getCore s g
  match c.vq with
  | e :: _ =>
    let k := e.slot
    let wait := match (getCtx s g k).mode with | .waiting .vector => false | .waiting _ => true | _ => false
    if !isVmem e.ins || !feedsReady c e || wait then s
    else match c.vjob with
      | some j => stepPieces s g e j
      | none =>
        match vectorError s g e with
        | some t => t
        | none =>
        let (n, join, acc) := vmemAccesses c e
        let need := if storesD e.ins then needStore else needLoad
        let start := if join then (acc.headD (0, 0)).1 else 0
        let drop (s : State) : State := movedCore s g advanceQueue
        if start.toNat % 8 ≠ 0 then takeTrap (drop s) g k causeALIGN start
        else match checkPieces s g k need n acc with
          | .trap code v => raiseTrap (drop s) (modOf g) g k code v
          | .wait t w => switchOut t g k (.waiting w)
          | .ok t l => startPieces t g k e (if join then joinPieces l else wholeLanes l)
  | [] => s

def execVectorMemoryAccess (s : State) : Host.Outcome State Fault Refusal := .next (vectorMemoryAccess s s.argA)

/-! ### Repeat runs (R178, R179) -/

/-- A form that may stand in a run. -/
def runMember (i : Instr) : Bool :=
  (i.shape.any fun h => h.page == 3 || h.page == 4) && !isVmem i && (match i with | .vrep _ _ _ => false | _ => true)

/-- The n instructions from an offset, with the offset behind them, or the trap that one of them raises (R178, R179). TRAPVAL of an ILL is the
first word of the member that raises it, while TRAPPC is the `vrep`'s (DEDUCED, notes/assumptions 9). -/
def runOf (s : State) (g k pc : Nat) : Nat → Except (Nat × Word) (List Instr × Nat)
  | 0 => .ok ([], pc)
  | n + 1 =>
    let i := fetchedAt s g pc
    match i with
    | .undefinedEncoding why => .error (undefinedTrap s g k why)
    | _ =>
      if !runMember i then .error (causeILL, firstWord i)
      else match issueCheck s g k i with
        | some t => .error t
        | none =>
          if feedMisuse (getCore s g) i then .error (causeILL, firstWord i)
          else match if portMode s g k then unmappedPort s g i else none with
            | some p => .error (causePORT, BitVec.ofNat 64 p)
            | none =>
              match badSource s g k i with
              | some v => .error (causeECC, v)
              | none => (runOf s g k (pc + 2 * i.len) n).map fun r => (i :: r.1, r.2)

/-- Capture members in order, popping the port words they read, until one has to wait for a word (R131, R162). -/
def captureRun (s : State) (g k : Nat) : List Instr → State
  | [] => s
  | i :: rest =>
    if portMode s g k && !portsReady s g i then s
    else
      let s1 := (popList s g k i).foldl (fun s p => popPort s g p) s
      captureRun (modCore s1 g fun c => { c with capture := c.capture ++ [vqEntry s g k i] }) g k rest

/-- Registers that the earlier members of a run will write hold up a later member that names them (R163) (DEDUCED, notes/assumptions 44). -/
def runClash : List Instr → Bool
  | [] => false
  | i :: rest => (rest.any fun j => (vqDest i).any fun r => j.xReads.contains r || j.xWrites.contains r) || runClash rest

/-- The captured members of a run enter the queue as one unit, and the context goes on behind them (R178). -/
def enterRun (s : State) (g k reps : Nat) (pc : Code) : State :=
  let got := (getCore s g).capture
  let entries := match got with
    | e :: rest => { e with run := got.length, reps := reps } :: rest
    | [] => []
  modCtx (modCore (pushEntries s g entries) g fun c => { c with capture := [], runLeft := none }) g k fun x =>
    { x with pc := pc, instret := x.instret + BitVec.ofNat 64 (got.length + 1), begun := false }

/-- The members of a checked run are captured, and enter the queue with the last (R178, R179). -/
def goOnRun (s : State) (g k reps : Nat) (l : List Instr) (pc : Code) : State :=
  let s1 := captureRun s g k (l.drop (getCore s g).capture.length)
  if (getCore s1 g).capture.length < l.length then modCore s1 g fun c => { c with runLeft := some (l, pc) }
  else enterRun s1 g k reps pc

/-- `vrep`: the members of its run enter the queue with it as one unit (R178, R179). All checks are made before the first is captured. -/
def execVrep (p : Pfx) (n : Reg) (imm : Nat) (s : State) : Host.Outcome State Fault Refusal :=
  .next (issue (.vrep p n imm) s fun s g k =>
    let count := n.toNat + 1
    match (getCore s g).runLeft with
    | some (l, pc) => .done (goOnRun s g k imm l pc)
    | none =>
      match runOf s g k (nextPc s g k (.vrep p n imm)).toNat count with
      | .error (c, v) => .trap c v
      | .ok (l, pc) =>
        if 16 < (getCore s g).vq.length + count || (l.any fun m => scoreboard s g k m) || runClash l then .stall
        else .done (goOnRun s g k imm l (BitVec.ofNat 16 pc)))

/-! ### Forms of page 3. Each enters the queue; `vectorEffect` gives what it does at retirement -/

/-- `vld` (R168). -/
def execVld (p : Pfx) (d a : Reg) (imm : Int) (s : State) : Host.Outcome State Fault Refusal := .next (enqueueMem (.vld p d a imm) s)

/-- `vst` (R168). -/
def execVst (p : Pfx) (d a : Reg) (imm : Int) (s : State) : Host.Outcome State Fault Refusal := .next (enqueueMem (.vst p d a imm) s)

/-- `vldx`: a gather (R169). -/
def execVldx (p : Pfx) (mk : BitVec 2) (d a b : Reg) (s : State) : Host.Outcome State Fault Refusal := .next (enqueueMem (.vldx p mk d a b) s)

/-- `vstx`: a scatter (R169). -/
def execVstx (p : Pfx) (mk : BitVec 2) (d a b : Reg) (s : State) : Host.Outcome State Fault Refusal := .next (enqueueMem (.vstx p mk d a b) s)

/-- `vmov`: lanes copied bit for bit (R170). -/
def execVmov (p : Pfx) (mk : BitVec 2) (d a : Reg) (s : State) : Host.Outcome State Fault Refusal := .next (enqueueV (.vmov p mk d a) s)

/-- `vabs` (R170). -/
def execVabs (p : Pfx) (mk : BitVec 2) (t : Elem) (d a : Reg) (s : State) : Host.Outcome State Fault Refusal := .next (enqueueV (.vabs p mk t d a) s)

/-- `vneg` (R170). -/
def execVneg (p : Pfx) (mk : BitVec 2) (t : Elem) (d a : Reg) (s : State) : Host.Outcome State Fault Refusal := .next (enqueueV (.vneg p mk t d a) s)

/-- `vbcast`: xA[31:0] in every active lane (R170). -/
def execVbcast (p : Pfx) (mk : BitVec 2) (d a : Reg) (s : State) : Host.Outcome State Fault Refusal := .next (enqueueV (.vbcast p mk d a) s)

/-- `vadd` (R170). -/
def execVadd (p : Pfx) (mk : BitVec 2) (t : Elem) (d a b : Reg) (s : State) : Host.Outcome State Fault Refusal := .next (enqueueV (.vadd p mk t d a b) s)

/-- `vsub` (R170). -/
def execVsub (p : Pfx) (mk : BitVec 2) (t : Elem) (d a b : Reg) (s : State) : Host.Outcome State Fault Refusal := .next (enqueueV (.vsub p mk t d a b) s)

/-- `vmul` (R170). -/
def execVmul (p : Pfx) (mk : BitVec 2) (t : Elem) (d a b : Reg) (s : State) : Host.Outcome State Fault Refusal := .next (enqueueV (.vmul p mk t d a b) s)

/-- `vfma`: a × b + d, rounded once (R170). -/
def execVfma (p : Pfx) (mk : BitVec 2) (d a b : Reg) (s : State) : Host.Outcome State Fault Refusal := .next (enqueueV (.vfma p mk d a b) s)

/-- `vfms`: a × b − d (R170). -/
def execVfms (p : Pfx) (mk : BitVec 2) (d a b : Reg) (s : State) : Host.Outcome State Fault Refusal := .next (enqueueV (.vfms p mk d a b) s)

/-- `vfnma`: −(a × b) + d (R170). -/
def execVfnma (p : Pfx) (mk : BitVec 2) (d a b : Reg) (s : State) : Host.Outcome State Fault Refusal := .next (enqueueV (.vfnma p mk d a b) s)

/-- `vmin` (R170). -/
def execVmin (p : Pfx) (mk : BitVec 2) (t : Elem) (d a b : Reg) (s : State) : Host.Outcome State Fault Refusal := .next (enqueueV (.vmin p mk t d a b) s)

/-- `vmax` (R170). -/
def execVmax (p : Pfx) (mk : BitVec 2) (t : Elem) (d a b : Reg) (s : State) : Host.Outcome State Fault Refusal := .next (enqueueV (.vmax p mk t d a b) s)

/-- `vand` (R170). -/
def execVand (p : Pfx) (mk : BitVec 2) (d a b : Reg) (s : State) : Host.Outcome State Fault Refusal := .next (enqueueV (.vand p mk d a b) s)

/-- `vor` (R170). -/
def execVor (p : Pfx) (mk : BitVec 2) (d a b : Reg) (s : State) : Host.Outcome State Fault Refusal := .next (enqueueV (.vor p mk d a b) s)

/-- `vxor` (R170). -/
def execVxor (p : Pfx) (mk : BitVec 2) (d a b : Reg) (s : State) : Host.Outcome State Fault Refusal := .next (enqueueV (.vxor p mk d a b) s)

/-- `vshl` (R170). -/
def execVshl (p : Pfx) (mk : BitVec 2) (d a b : Reg) (s : State) : Host.Outcome State Fault Refusal := .next (enqueueV (.vshl p mk d a b) s)

/-- `vshr.a`, `vshr.l` (R170). -/
def execVshr (p : Pfx) (mk : BitVec 2) (k : ShKind) (d a b : Reg) (s : State) : Host.Outcome State Fault Refusal := .next (enqueueV (.vshr p mk k d a b) s)

/-- `vcmp` (R171). -/
def execVcmp (p : Pfx) (k : CmpP) (t : Elem) (d a b : Reg) (s : State) : Host.Outcome State Fault Refusal := .next (enqueueV (.vcmp p k t d a b) s)

/-- `vsel` (R172). -/
def execVsel (p : Pfx) (mk : BitVec 2) (d a b : Reg) (s : State) : Host.Outcome State Fault Refusal := .next (enqueueV (.vsel p mk d a b) s)

/-- `vredsum` (R173). -/
def execVredsum (p : Pfx) (mk : BitVec 2) (t : Elem) (d a : Reg) (s : State) : Host.Outcome State Fault Refusal := .next (enqueueV (.vredsum p mk t d a) s)

/-- `vredmax` (R173). -/
def execVredmax (p : Pfx) (mk : BitVec 2) (t : Elem) (d a : Reg) (s : State) : Host.Outcome State Fault Refusal := .next (enqueueV (.vredmax p mk t d a) s)

/-- `vredmin` (R173). -/
def execVredmin (p : Pfx) (mk : BitVec 2) (t : Elem) (d a : Reg) (s : State) : Host.Outcome State Fault Refusal := .next (enqueueV (.vredmin p mk t d a) s)

/-- `vargmax` (R173). -/
def execVargmax (p : Pfx) (mk : BitVec 2) (t : Elem) (d a : Reg) (s : State) : Host.Outcome State Fault Refusal := .next (enqueueV (.vargmax p mk t d a) s)

/-- `vscan` (R174). -/
def execVscan (p : Pfx) (mk : BitVec 2) (t : Elem) (d a : Reg) (s : State) : Host.Outcome State Fault Refusal := .next (enqueueV (.vscan p mk t d a) s)

/-- `vtopk` (R175). -/
def execVtopk (p : Pfx) (mk : BitVec 2) (t : Elem) (d a b : Reg) (s : State) : Host.Outcome State Fault Refusal := .next (enqueueV (.vtopk p mk t d a b) s)

/-- `vperm` (R176). -/
def execVperm (p : Pfx) (mk : BitVec 2) (d a b : Reg) (s : State) : Host.Outcome State Fault Refusal := .next (enqueueV (.vperm p mk d a b) s)

/-- `vmsk.and` (R172). -/
def execVmskAnd (p : Pfx) (d a b : Reg) (s : State) : Host.Outcome State Fault Refusal := .next (enqueueV (.vmskAnd p d a b) s)

/-- `vmsk.or` (R172). -/
def execVmskOr (p : Pfx) (d a b : Reg) (s : State) : Host.Outcome State Fault Refusal := .next (enqueueV (.vmskOr p d a b) s)

/-- `vmsk.xor` (R172). -/
def execVmskXor (p : Pfx) (d a b : Reg) (s : State) : Host.Outcome State Fault Refusal := .next (enqueueV (.vmskXor p d a b) s)

/-- `vmsk.not` (R172). -/
def execVmskNot (p : Pfx) (d a : Reg) (s : State) : Host.Outcome State Fault Refusal := .next (enqueueV (.vmskNot p d a) s)

/-- `vmsk.fromx` (R172). -/
def execVmskFromx (p : Pfx) (d a : Reg) (s : State) : Host.Outcome State Fault Refusal := .next (enqueueV (.vmskFromx p d a) s)

/-- `vmsk.tox` (R172). -/
def execVmskTox (p : Pfx) (d a : Reg) (s : State) : Host.Outcome State Fault Refusal := .next (enqueueV (.vmskTox p d a) s)

/-- `vseed` (R177). -/
def execVseed (p : Pfx) (a : Reg) (s : State) : Host.Outcome State Fault Refusal := .next (enqueueV (.vseed p a) s)

/-- `vrand` (R177). -/
def execVrand (p : Pfx) (mk : BitVec 2) (d : Reg) (s : State) : Host.Outcome State Fault Refusal := .next (enqueueV (.vrand p mk d) s)

end Sys2Proof.Machine
end

