-- ==== Sys2Proof/Machine/Matrix.lean ====
section
/-!
DEFINITION. Page 5 on M-cores: matrix commands, rings, attention, gates, drains, self-test and remapping (R34, R117, R187–R211, R339–R343).
-/
namespace Sys2Proof.Machine

/-- M-core of a triad of a cluster (R5). -/
def mcore (q t : Nat) : Nat := coreAt q t 2

def ringForm (f : MForm) : Bool := match f with | .mring | .attn => true | _ => false

/-- Major opcode of a command (R187). -/
def mOpcode : MForm → Nat
  | .mzero => 1 | .mring => 2 | .mop => 3 | .attn => 7 | .aini => 8

/-! ### Geometry (R62, R193, R203) -/

/-- Rank of a live member (R193). -/
def rankOf (s : State) (q t : Nat) : Nat := ((upFrom 0 t).filter fun u => !disabled s q u).length

/-- Rows that the member of a triad computes (R193). -/
def localRows (s : State) (q t m : Nat) : Nat := if disabled s q t then 0 else Nat.min 8 (m - 8 * rankOf s q t)

/-! ### Entry (R188–R190) -/

def fldMask (f : Fld) : Nat := (2 ^ f.len - 1) * 2 ^ f.lo

/-- Bits of the descriptor that a command uses (R189). -/
def usedBits (c : MCmd) : Nat :=
  let all := [F.mdA, F.mdB, F.mdK, F.mdN, F.mdM, F.mdBsrc, F.mdHold, F.mdSc, F.mdZ]
  let more :=
    if c.form = .attn then [F.mdVbase, F.mdCausal, F.mdTs] ++ (if fget F.mdBsrc c.desc = 1 then [F.mdAent] else [])
    else if fget F.mdSc c.desc = 1 then [F.mdSa, F.mdSb] else []
  ((all ++ more).map fldMask).foldl (· + ·) 0

/-- Limits of R194 to R196, those against geometry apart (R190). -/
def limitsOk (c : MCmd) : Bool :=
  let d := c.desc
  let m := fget F.mdM d
  let n := fget F.mdN d
  let k := fget F.mdK d
  let cols := decide (n % 16 = 0 ∧ 16 ≤ n ∧ n ≤ 1024)
  let depth := decide (1 ≤ k ∧ k ≤ 16384)
  match c.form with
  | .mring => decide (1 ≤ m) && [256, 512, 768, 1024].contains n && depth && fget F.mdBsrc d == 0
  | .mop => decide (1 ≤ m ∧ m ≤ 512 ∧ m * n ≤ 8192) && cols && depth && fget F.mdBsrc d == 0
  | .attn =>
    decide (1 ≤ m) && cols && depth && decide (1 ≤ fget F.mdTs d ∧ fget F.mdTs d ≤ 64)
      && fget F.mdZ d == 0 && fget F.mdSc d == 0 && decide (fget F.mdBsrc d ≤ 1)
  | _ => true

/-- Formats that may carry scales (R190). -/
def scalable : Elem → Bool
  | .e4m3 | .e5m2 | .e2m1 => true
  | _ => false

/-- The arrival entry of an `attn` with BSRC = 01 is valid and binds the cluster (R190, R209). -/
def slotBound (s : State) (q : Nat) (c : MCmd) : Bool :=
  fget F.mdBsrc c.desc == 0 || (
    let e := tget 0 (getDie s (q / 128)).arrival (fget F.mdAent c.desc)
    fget F.arV e == 1 && decide (fget F.arCl0 e ≤ q % 128) && decide (q % 128 < fget F.arCl0 e + fget F.arNcl e))

/-- The first entry check that fails (R190) (DEDUCED, notes/assumptions 48). -/
def entryFault (s : State) (q : Nat) (i : Instr) (c : MCmd) : Option (Nat × Word) :=
  let tcm := tcmRanges c
  let slot := slotRanges c
  let beyond (lim : Nat) (l : List (Nat × Nat)) : Option Nat :=
    (l.find? fun r => decide (lim < r.1 + r.2)).map fun r => Nat.max r.1 lim
  if c.desc.toNat &&& (2 ^ 256 - 1 - usedBits c) ≠ 0 ∨ !limitsOk c ∨ (fget F.mdSc c.desc = 1 ∧ !scalable c.elem) ∨ !slotBound s q c then
    some (causeILL, firstWord i)
  else match (tcm ++ slot).find? fun r => decide (r.1 % 64 ≠ 0) with
    | some r => some (causeALIGN, BitVec.ofNat 64 r.1)
    | none => ((beyond 0x1F000 tcm).or (beyond 0x40000 slot)).map fun a => (causePROT, BitVec.ofNat 64 a)

/-- A command enters the queue; a full queue stalls it. While it stalls, each evaluation reads its registers and its descriptor and makes its entry
checks again, so that the copy is that of the clock of entry (R188) (DESIGN CHOICE, notes/assumptions 155). A ring command whose operation has been discarded meanwhile is discarded (R197, R199)
(DEDUCED, notes/assumptions 149). -/
def enterCmd (s : State) (g k : Nat) (i : Instr) (c : MCmd) : Eff :=
  let n := (getCore s g).rings
  if 4 ≤ (getCore s g).cmds.length then .stall
  else if ringForm c.form && (getCore s g).ringsLost.contains n then
    retire (modCore s g fun x => { x with rings := n + 1, ringsLost := sdel n x.ringsLost }) g k i []
  else
    let s1 := modCore s g fun x =>
      { x with
        cmds := x.cmds ++ [{ c with ring := x.rings }]
        rings := if ringForm c.form then x.rings + 1 else x.rings }
    retire (rewritten s1 (modOf g) (locator 5 g (getCore s g).cmds.length)) g k i []

/-- A pending fault is taken at the next command, gate or wait, with nothing of it performed (R197). -/
def afterFault (s : State) (g : Nat) (next : Eff) : Eff :=
  match (getCore s g).mfault with
  | some (c, v) => .trap c v
  | none => next

/-- What a form reads of the core's own TCM at a multiple of n bytes: a misaligned or outlying range raises ALIGN or PROT, and so does the drain
window while a drain runs (R189, R200, R206). -/
def ownBytes (s : State) (g k : Nat) (xa : Word) (n : Nat) (next : State → List Byte → Eff) : Eff :=
  if xa.toNat % n ≠ 0 then .trap causeALIGN xa
  else if 0x20000 < xa.toNat + n ∨ ((whoOf s g k).noWindow ∧ 0x1F000 < xa.toNat + n) then .trap causePROT xa
  else match readAt s 0 (gaTcm g xa.toNat) n with
    | (t, .poisoned p) => .done (takeTrap t g k causePOISON (BitVec.ofNat 64 (p - gaTcm g 0)))
    | (t, .value l) => next t l

/-- A matrix operation issues: descriptor, entry checks, queue (R188). -/
def issueCmd (i : Instr) (form : MForm) (elem : Elem) (a : Reg) (b : Option Reg) (s : State) : State :=
  issue i s fun s g k => afterFault s g (
    let pos := (b.map (readX s g k)).getD 0
    ownBytes s g k (readX s g k a) 32 fun s1 l =>
      let c : MCmd := { form := form, elem := elem, desc := BitVec.ofNat 256 (leNat l), pos := pos, ring := 0, gate := false, started := false }
      match entryFault s1 (clusterOf g) i c with
      | some (code, v) => .trap code v
      | none => enterCmd s1 g k i c)

/-- A command without a descriptor issues (R192). -/
def issueBare (i : Instr) (form : MForm) (s : State) : State :=
  issue i s fun s g k => afterFault s g (
    enterCmd s g k i { form := form, elem := .fp32, desc := 0, pos := 0, ring := 0, gate := false, started := false })

/-- `mzero` (R192). -/
def execMzero (p : Pfx) (s : State) : Host.Outcome State Fault Refusal := .next (issueBare (.mzero p) .mzero s)

/-- `aini` (R192). -/
def execAini (p : Pfx) (s : State) : Host.Outcome State Fault Refusal := .next (issueBare (.aini p) .aini s)

/-- `mring` (R194). -/
def execMring (p : Pfx) (f : Elem) (a : Reg) (s : State) : Host.Outcome State Fault Refusal :=
  .next (issueCmd (.mring p f a) .mring f a none s)

/-- `mop` (R195). -/
def execMop (p : Pfx) (f : Elem) (a : Reg) (s : State) : Host.Outcome State Fault Refusal :=
  .next (issueCmd (.mop p f a) .mop f a none s)

/-- `attn` (R196). -/
def execAttn (p : Pfx) (f : Elem) (a b : Reg) (s : State) : Host.Outcome State Fault Refusal :=
  .next (issueCmd (.attn p f a b) .attn f a (some b) s)

/-! ### Faults (R197) -/

/-- TRAPVAL of MAC_FAULT. -/
def macVal (blk opc reason count : Nat) : Word := BitVec.ofNat 64 (blk + opc * 2 ^ 16 + reason * 2 ^ 24 + count * 2 ^ 32)

/-- MATRIX_FAULT: the command at the head is discarded with those behind it, and the fault becomes pending; `val` takes the opcode and the
number discarded. It takes the place of a fault that is pending already, while a ring operation discarded at another member keeps an earlier one
(R197) (DESIGN CHOICE, notes/assumptions 156). -/
def faultHead (s : State) (g code : Nat) (val : Nat → Nat → Word) : State :=
  modCore s g fun c =>
    { c with
      cmds := [], work := none
      mfault := some (code, val (((c.cmds.head?).map fun m => mOpcode m.form).getD 0) c.cmds.length) }

/-- A ring command of a number is discarded at another member with what that core has entered after it, or, where it is not yet entered, once it
is; the fault is pending there (R197, R199) (DEDUCED, notes/assumptions 149). A member that a pre-emption has recorded loses it from its record. -/
def discardRing (s : State) (g n : Nat) (fault : Nat × Word) : State :=
  let drop (c : Core) : Core :=
    { c with
      cmds := c.cmds.takeWhile fun m => !(ringForm m.form && m.ring == n)
      ringsLost := if c.rings ≤ n then sadd n c.ringsLost else c.ringsLost
      mfault := c.mfault.or (some fault) }
  if s.records.any fun e => e.1 == g then { s with records := s.records.map fun e => if e.1 = g then (g, drop e.2) else e }
  else modCore s g drop

/-- What a member's discarded command does at the other members: a ring command is discarded there too (R197). -/
def discardElsewhere (s : State) (g : Nat) (m : MCmd) (fault : Nat × Word) : State :=
  if ringForm m.form then
    (((upFrom 0 16).map (mcore (clusterOf g))).filter (· != g)).foldl (fun s t => discardRing s t m.ring fault) s
  else s

/-- The entry at the head of a core's queue has an uncorrectable error: it is discarded with those behind it, and ECC_UE is pending; a ring command is
discarded at every member (R197, R411) (DESIGN CHOICE, notes/assumptions 157). -/
def faultEntry (s : State) (g : Nat) (m : MCmd) : State :=
  let loc := locator 5 g 0
  discardElsewhere (reportError (faultHead s g causeECC fun _ _ => loc) (modOf g) g causeECC loc) g m (causeECC, loc)

/-- A faulted ring operation is discarded at every member. -/
def faultRing (s : State) (q code : Nat) (val : Nat → Nat → Word) : State :=
  (upFrom 0 16).foldl (fun s t => faultHead s (mcore q t) code val) s

/-! ### Starting (R188, R193, R197, R199, R206, R211, R343) -/

/-- No command, sweep or drain starts while a sweep waits or runs or a remap is pending. -/
def mapHold (s : State) (q : Nat) : Bool := !(getCluster s q).mapOps.isEmpty

def setHead (s : State) (g : Nat) (f : MCmd → MCmd) : State :=
  modCore s g fun c => { c with cmds := c.cmds.modify 0 f }

def isHeld (m : MCmd) : Bool := fget F.mdHold m.desc == 1 && !m.gate

/-- MATRIX_COMMAND_START: the head command consumes its release credit where it holds for one, and starts; a ring command then waits for
its ring. An error of the entry itself is met here (R411). -/
def matrixCommandStart (s : State) (g : Nat) : State :=
  let c := getCore s g
  match c.cmds with
  | m :: _ =>
    if !c.run || c.preempting || m.started then s
    else if isHeld m && c.credits == 0 then s
    else
      let s1 := if isHeld m then setHead (modCore s g fun c => { c with credits := c.credits - 1 }) g fun m => { m with gate := true } else s
      if isBad s (modOf g) (locator 5 g 0) then faultEntry s1 g m
      else if ringForm m.form || mapHold s (clusterOf g) then s1
      else if m.form = .mop ∧ disabled s (clusterOf g) (triadOf g) then
        faultHead s1 g causeMAC fun opc n => macVal (triadOf g) opc 1 n
      else setHead s1 g fun m => { m with started := true }
  | [] => s

def execMatrixCommandStart (s : State) : Host.Outcome State Fault Refusal := .next (matrixCommandStart s s.argA)

/-- What the members of a ring operation must agree on (R193). -/
def ringKey (m : MCmd) : MForm × Elem × List Nat :=
  (m.form, m.elem, [F.mdK, F.mdN, F.mdM, F.mdTs, F.mdCausal, F.mdBsrc, F.mdSc, F.mdZ, F.mdAent].map fun f => fget f m.desc)

/-- The 16 head commands that form one ring operation (DEDUCED, notes/assumptions 51). -/
def ringHeads (s : State) (q : Nat) : Option (List MCmd) :=
  let l := (upFrom 0 16).filterMap fun t => (getCore s (mcore q t)).cmds.head?
  if l.length = 16 ∧ (l.all fun m => ringForm m.form) ∧ l.all fun m => m.ring == ((l.head?).map MCmd.ring).getD 0 then some l else none

/-- End of the slot-frame bytes that the members of an `attn` read (R190, R211). -/
def slotEnd (l : List MCmd) : Nat :=
  let ends := (l.zip (upFrom 0 16)).map fun e =>
    let d := e.1.desc
    let b := matBits e.1.elem
    let ts := fget F.mdTs d
    Nat.max (fget F.mdB d + (e.2 + 1) * ts * rowBytes (fget F.mdK d) b) (fget F.mdVbase d + (e.2 + 1) * ts * rowBytes (fget F.mdN d) b)
  ends.foldl Nat.max 0

/-- RING_OPERATION_START: all 16 members are at the head with gates open (R193). An error of a member's queue entry is met as at any start (R411). -/
def ringOperationStart (s : State) (q : Nat) : State :=
  match ringHeads s q with
  | none => s
  | some l =>
    let ready := (upFrom 0 16).all fun t => let c := getCore s (mcore q t); c.run && !c.preempting
    if !ready || mapHold s q || l.any fun m => m.started || isHeld m then s
    else
      let m := (l.head?).getD { form := .mring, elem := .fp32, desc := 0, pos := 0, ring := 0, gate := false, started := false }
      match ((upFrom 0 16).map (mcore q)).find? fun g => isBad s (modOf g) (locator 5 g 0) with
      | some g => faultEntry s g m
      | none =>
      if l.any fun x => ringKey x ≠ ringKey m then faultRing s q causeMAC fun opc n => macVal 0xFF opc 2 n
      else if 8 * liveCount s q < fget F.mdM m.desc then faultRing s q causeMAC fun opc n => macVal 0xFF opc 1 n
      else
        let start (s : State) : State := (upFrom 0 16).foldl (fun s t => setHead s (mcore q t) fun m => { m with started := true }) s
        if fget F.mdBsrc m.desc = 0 then start s
        else
          let ent := fget F.mdAent m.desc
          let e := tget 0 (getDie s (q / 128)).arrival ent
          if fget F.arArr e < slotEnd l then
            if fget F.arEob e = 1 then faultRing s q causeMAC fun opc n => macVal 0xFF opc 3 n else s
          else if fget F.arNeed e ≤ tget 0 (getDie s (q / 128)).pealOps (128 * ent + q % 128) then s
          else start s

def execRingOperationStart (s : State) : Host.Outcome State Fault Refusal := .next (ringOperationStart s s.argA)

/-! ### Arithmetic (R117, R194–R196) -/

/-- Element k of a row of packed elements at a global address (R190). -/
def matElem (s : State) (base b len row k : Nat) : Nat :=
  let a := base + row * rowBytes len b + k * b / 8
  if b = 4 then (rawByte s a).toNat / 16 ^ (k % 2) % 16 else leNat ((upFrom a (b / 8)).map (rawByte s))

/-- Exact sum of a chunk's terms: −0 only when every term is −0 (R117). -/
def chunkSum : List Val → Val
  | [] => .num false 0 0
  | t :: rest => rest.foldl (fun a b => (addVal .rne a b).1) t

/-- An E8M0 scale applied (R104, R117). -/
def applyScale (x : Val) (e : Nat) : Val := if e = 255 then .nan false else scaleVal x ((e : Int) - 127)

/-- A chunk sum added to a word (R117). -/
def addChunk (w : Lane) (x : Val) : Lane := addLane w (lane (roundFP x fp32 .rne false false 0))

/-- Positions of chunk c of a depth (R117). -/
def chunkAt (k c : Nat) : List Nat := upFrom (32 * c) (Nat.min 32 (k - 32 * c))

/-- A product that an error has changed by an amount (R342). -/
def upsetVal (x : Val) (d : Int) : Val :=
  match x with
  | .num neg m e =>
    if d = 0 then x
    else
      let i : Int := (if neg then -(m : Int) else m) + d
      .num (decide (i < 0)) i.natAbs e
  | y => y

/-- Ones in the low n bits. -/
def popBits (x n : Nat) : Nat := ((upFrom 0 n).filter fun i => x / 2 ^ i % 2 == 1).length

/-- Rows and columns of a shape (R62). -/
def shapeCells (shape : Nat) : Nat × Nat := match shape with | 0 => (32, 16) | 1 => (32, 8) | 2 => (16, 16) | _ => (0, 0)

/-- A physical row or column is one of the first n that a map entry does not exclude (R62). -/
def lineInUse (excluded n j : Nat) : Bool := excluded / 2 ^ j % 2 == 0 && decide (j - popBits excluded j < n)

/-- The cell that makes an error is in use: it lies in the logical shape that the block's map entry makes of the rows and columns that it does not exclude
(R62, R344). -/
def cellInUse (s : State) (u : Upset) : Bool :=
  u.cell.all fun c =>
    let e := tget 0 (getCluster s u.cluster).fmap u.block
    let z := shapeCells (fget F.fmShape e)
    lineInUse (fget F.fmRowx e) z.1 c.1 && lineInUse (fget F.fmColx e) z.2 c.2

/-- The amount by which errors of a block change a product of a phase (R207, R342). -/
def upsetAt (s : State) (g phase word depth : Nat) : Int :=
  ((s.upsets.filter fun u => cellInUse s u && u.cluster == clusterOf g && u.block == triadOf g && u.phase == phase && u.word == word && u.depth == depth).map
    Upset.amount).foldl (· + ·) 0

/-- A word accumulated over the depth: the operands' elements as numbers, the scales of each chunk, and what errors change of each product
(R117, R342). -/
def accumulate (f : Elem) (w : Lane) (k : Nat) (a b : Nat → Nat) (scales : Option ((Nat → Nat) × (Nat → Nat))) (err : Nat → Int) : Lane :=
  if f = .int8 then
    let t (j : Nat) : Int := (BitVec.ofNat 8 (a j)).toInt * (BitVec.ofNat 8 (b j)).toInt + err j
    w + BitVec.ofInt 32 ((upFrom 0 k).foldl (fun acc j => acc + t j) 0)
  else
    let v (x : Nat) : Val := valueOf (fmtOf f) false x
    (upFrom 0 (scaleCols k)).foldl (fun w c =>
      let x := chunkSum ((chunkAt k c).map fun j => upsetVal (mulVal (v (a j)) (v (b j))).1 (err j))
      addChunk w (match scales with | some (sa, sb) => applyScale (applyScale x (sa c)) (sb c) | none => x)) w

/-- Words 0 to n − 1 of a bank recomputed. -/
def setWords (t : Tbl Lane) (n : Nat) (f : Nat → Lane → Lane) : Tbl Lane :=
  (upFrom 0 n).foldl (fun acc i => tset 0 acc i (f i (tget 0 t i))) t

/-- Words of the committed bank that read as poisoned: an error that is found sets the poison bit (R34, R411). -/
def accBad (c : Core) : List Nat := c.accLatent.foldl (fun l n => sadd n l) c.accPoison

/-- The committed bank as a working copy (R34) (DESIGN CHOICE, notes/assumptions 20). -/
def workOf (c : Core) (shape : Option (Nat × Nat)) : Work :=
  { acc := c.acc, accPoison := accBad c, rowMax := c.rowMax, rowSum := c.rowSum, shape := shape }

/-- C += A × B on the rows of one core; column j of B lies in the slab of member j / W at column j % W (R194, R195). `slab` gives the core
and descriptor that hold a slab. -/
def matmul (s : State) (g : Nat) (m : MCmd) (rows : Nat) (slab : Nat → Nat × BitVec 256) : Work :=
  let d := m.desc
  let n := fget F.mdN d
  let k := fget F.mdK d
  let b := matBits m.elem
  let w := slabWidth m
  let z := fget F.mdZ d == 1
  let c := getCore s g
  let base := if z then [] else c.acc
  let word (i : Nat) (old : Lane) : Lane :=
    let r := i / n
    let col := i % n
    let (h, hd) := slab (col / w)
    let sc := if fget F.mdSc d = 1 then
        some ((fun x => matElem s (gaTcm g (fget F.mdSa d)) 8 (scaleCols k) r x),
              (fun x => matElem s (gaTcm h (fget F.mdSb hd)) 8 w x (col % w)))
      else none
    accumulate m.elem old k (fun x => matElem s (gaTcm g (fget F.mdA d)) b k r x)
      (fun x => matElem s (gaTcm h (fget F.mdB hd)) b w x (col % w)) sc (upsetAt s g 0 i)
  { acc := setWords base (rows * n) word, accPoison := if z then [] else accBad c
    rowMax := c.rowMax, rowSum := c.rowSum, shape := some (rows, n) }

def negInf : Lane := 0xFF800000
def exp2Lane (x : Lane) : Lane := (specialFn 0 false x).1
def subLane (a b : Lane) : Lane := (round32 (addVal .rne (val32 false a) (negVal (val32 false b))) .rne false false 0).1
/-- A product of two words, changed by the amount of an error (R117, R342). -/
def mulLane (a b : Lane) (err : Int := 0) : Lane :=
  let x := mulVal (val32 false a) (val32 false b)
  (round32 (upsetVal x.1 err, x.2) .rne false false 0).1

/-- One local row of `attn` folded (R196): the words of its row, ROWMAX and ROWSUM. `err`: what errors change of the product of key k with word e; `errC`:
of the products with the correction c, of word e and, at n, of ROWSUM (R342). -/
def attnRow (scores : List Lane) (value : Nat → Nat → Val) (n : Nat) (old : Nat → Lane) (rmax rsum : Lane) (err : Nat → Nat → Int)
    (errC : Nat → Int) : List Lane × Lane × Lane :=
  let m1 := scores.foldl (fun a b => (pickL .fp32 false true a b).1) rmax
  let c := if m1 = negInf then 0x3F800000 else exp2Lane (subLane rmax m1)
  let p := scores.map fun x => if m1 = negInf then 0 else exp2Lane (subLane x m1)
  let pv (k : Nat) : Val := val32 false (p.getD k 0)
  let chunks := upFrom 0 (scaleCols scores.length)
  let sum := chunks.foldl (fun w ch => addChunk w (chunkSum ((chunkAt scores.length ch).map pv))) (mulLane rsum c (errC n))
  let word (e : Nat) : Lane :=
    chunks.foldl (fun w ch => addChunk w (chunkSum ((chunkAt scores.length ch).map fun k => upsetVal (mulVal (pv k) (value k e)).1 (err e k))))
      (mulLane (old e) c (errC e))
  ((upFrom 0 n).map word, m1, sum)

/-- The row state at a row: as after `aini` until written (R192). -/
def rowMaxOf (c : Core) (r : Nat) : Lane := tget negInf c.rowMax r
def rowSumOf (c : Core) (r : Nat) : Lane := tget 0 c.rowSum r

/-- Where slab t of an operand lies: the member's TCM, or the receive slot's frame (R190, R193). -/
def slabBase (s : State) (q t : Nat) (m : MCmd) (value : Bool) : Nat :=
  let d := m.desc
  let off := if value then fget F.mdVbase d else fget F.mdB d
  let row := rowBytes (if value then fget F.mdN d else fget F.mdK d) (matBits m.elem)
  if fget F.mdBsrc d = 1 then
    frameGa s (q / 128) (fget F.arFid (tget 0 (getDie s (q / 128)).arrival (fget F.mdAent d))) (off + t * fget F.mdTs d * row)
  else gaTcm (mcore q t) off

/-- `attn` on the rows of the member of a triad (R196). -/
def attention (s : State) (q t : Nat) (m : MCmd) (members : List MCmd) (rows : Nat) : Work :=
  let g := mcore q t
  let c := getCore s g
  let d := m.desc
  let k := fget F.mdK d
  let n := fget F.mdN d
  let ts := fget F.mdTs d
  let b := matBits m.elem
  let member (key : Nat) : MCmd := members.getD (key / ts) m
  let keyElem (key x : Nat) : Nat := matElem s (slabBase s q (key / ts) (member key) false) b k (key % ts) x
  let value (key e : Nat) : Val := valueOf (fmtOf m.elem) false (matElem s (slabBase s q (key / ts) (member key) true) b n (key % ts) e)
  let score (r key : Nat) : Lane :=
    if fget F.mdCausal d = 1 ∧ m.pos.toNat % 2 ^ 32 + (8 * rankOf s q t + r) < m.pos.toNat / 2 ^ 32 + key then negInf
    else accumulate m.elem 0 k (fun x => matElem s (gaTcm g (fget F.mdA d)) b k r x) (keyElem key) none (upsetAt s g 0 (r * (16 * ts) + key))
  (upFrom 0 rows).foldl (fun (w : Work) r =>
    let o := attnRow ((upFrom 0 (16 * ts)).map (score r)) value n (fun e => tget 0 c.acc (r * n + e)) (rowMaxOf c r) (rowSumOf c r)
      (fun e k => upsetAt s g 1 (r * n + e) k) (fun e => upsetAt s g 2 (if e < n then r * n + e else rows * n + r) 0)
    { w with
      acc := (o.1.zip (upFrom 0 n)).foldl (fun t x => tset 0 t (r * n + x.2) x.1) w.acc
      rowMax := tset negInf w.rowMax r o.2.1
      rowSum := tset 0 w.rowSum r o.2.2 }) (workOf c (some (rows, n)))

/-! ### Completion (R188, R191, R194–R197, R207, R211) -/

/-- Operand ranges that the core reads, by global address (R190). -/
def readRanges (s : State) (q t : Nat) (m : MCmd) (rows : Nat) : List (Nat × Nat) :=
  let d := m.desc
  let b := matBits m.elem
  let k := fget F.mdK d
  let g := mcore q t
  let own := (fget F.mdA d, rows * rowBytes k b) :: (if fget F.mdSc d = 1 then [(fget F.mdSa d, rows * rowBytes (scaleCols k) 8)] else [])
  let slabs :=
    if m.form = .attn then
      [(slabBase s q t m false, fget F.mdTs d * rowBytes k b), (slabBase s q t m true, fget F.mdTs d * rowBytes (fget F.mdN d) b)]
    else ((fget F.mdB d, k * rowBytes (slabWidth m) b) ::
      (if fget F.mdSc d = 1 then [(fget F.mdSb d, scaleCols k * rowBytes (slabWidth m) 8)] else [])).map fun r => (gaTcm g r.1, r.2)
  ((own.map fun r => (gaTcm g r.1, r.2)) ++ slabs).filter fun r => decide (0 < r.2)

/-- The lowest poisoned doubleword among ranges, as a local or slot-frame address (R191) (DEDUCED, notes/assumptions 49). -/
def poisonIn (s : State) (l : List (Nat × Nat)) : Option Word :=
  (l.findSome? fun r => poisoned s r.1 r.2).map fun p =>
    BitVec.ofNat 64 (match region p with | .tcm _ off => off | .frame _ off => off % 2 ^ 18 | _ => p)

/-- Residue mismatches among the blocks that formed products: events and counters (R207, R414, R415) (DEDUCED, notes/assumptions 53). -/
def residueEvents (s : State) (q : Nat) (blocks : List Nat) (count : Nat → Nat) (opc : Nat) : State :=
  let low := blocks.headD 0
  blocks.foldl (fun s t =>
    let s1 := modDie s (q / 128) fun d =>
      { d with cltel := tset 0 d.cltel (q % 128) (fbump ⟨0, 16⟩ (tget 0 d.cltel (q % 128))) }
    postEvent s1 (q / 2048) (srcCluster q) 0x20 (q % 128 + 256 * t) (macVal low opc 0 (count t)).toNat) s

/-- Errors among the products that a command forms in a block: its rows of N words over its depth, and of an `attn` also those with values. -/
def upsetsIn (s : State) (g : Nat) (m : MCmd) (rows : Nat) : List Upset :=
  let n := fget F.mdN m.desc
  let keys := 16 * fget F.mdTs m.desc
  s.upsets.filter fun u => cellInUse s u && u.cluster == clusterOf g && u.block == triadOf g &&
    match u.phase with
    | 0 => decide (u.word < rows * (if m.form = .attn then keys else n) ∧ u.depth < fget F.mdK m.desc)
    | 1 => m.form == .attn && decide (u.word < rows * n ∧ u.depth < keys)
    | _ => m.form == .attn && decide (u.word < rows * (n + 1) ∧ u.depth = 0)

/-- The mod-7 residue check of a block meets a mismatch: errors change some product by an amount that 7 does not divide (R207, R342). -/
def residueBad (s : State) (g : Nat) (m : MCmd) (rows : Nat) : Bool :=
  (upsetsIn s g m rows).any fun u => upsetAt s g u.phase u.word u.depth % 7 != 0

/-- The errors of a command's products are over with it, but for those that a failed cell makes (R344). -/
def spendUpsets (s t : State) (g : Nat) (m : MCmd) (rows : Nat) : State :=
  { t with upsets := t.upsets.filter fun u => u.cell.isSome || !(upsetsIn s g m rows).contains u }

/-- The committed bank is read: errors of its words that nothing has found set their poison bits and are counted (R34, R411). -/
def findAcc (s : State) (g : Nat) : State :=
  let n := (getCore s g).accLatent.length
  if n = 0 then s
  else (upFrom 0 n).foldl (fun s _ => countUe s (dieOf g)) (modCore s g fun c => { c with accPoison := accBad c, accLatent := [] })

/-- A command reads the committed bank, unless it starts from zero (R194, R195). -/
def findBank (s : State) (g : Nat) (m : MCmd) : State := if fget F.mdZ m.desc = 1 then s else findAcc s g

/-- What a command that has finished its work comes to: its results in the working bank, or a fault. -/
def finishMop (s : State) (g : Nat) (m : MCmd) : State :=
  let q := clusterOf g
  let t := triadOf g
  let rows := fget F.mdM m.desc
  let l := readRanges s q t m rows
  let s1 := l.foldl (fun s r => findErrors s r.1 r.2) (findBank s g m)
  match poisonIn s1 l with
  | some v => faultHead s1 g causePOISON fun _ _ => v
  | none =>
    let s2 := spendUpsets s1 s1 g m rows
    if residueBad s1 g m rows then
      let n := (getCore s1 g).cmds.length
      faultHead (residueEvents s2 q [t] (fun _ => n) 3) g causeMAC fun opc n => macVal t opc 0 n
    else modCore s2 g fun c => { c with work := some (matmul s1 g m rows fun _ => (g, m.desc)) }

/-- The slot frame that the members of an operation read with BSRC = 01 (R190). -/
def slotFid (s : State) (q : Nat) (m : MCmd) : Option Nat :=
  if m.form = .attn ∧ fget F.mdBsrc m.desc = 1 then some (fget F.arFid (tget 0 (getDie s (q / 128)).arrival (fget F.mdAent m.desc))) else none

/-- The work of a ring operation at every member: results in the working banks, or a fault at every member (R193, R197). An error in the entry of a slot
frame quarantines it; with both copies gone the operation faults with ECC_UE and the entry's locator (R288). -/
def finishRing (s0 : State) (q : Nat) (l : List MCmd) : State :=
  let m := (l.head?).getD { form := .mring, elem := .fp32, desc := 0, pos := 0, ring := 0, gate := false, started := false }
  let s := (slotFid s0 q m).elim s0 (mendFrame s0 (q / 128))
  match (slotFid s0 q m).filter (badFrame s (q / 128)) with
  | some fid => faultRing s q causeECC fun _ _ => dieLocator 7 (q / 128) fid
  | none =>
  let rows (t : Nat) : Nat := localRows s q t (fget F.mdM m.desc)
  let cmd (t : Nat) : MCmd := l.getD t m
  let ranges := (upFrom 0 16).flatMap fun t => readRanges s q t (cmd t) (rows t)
  let s1 := ranges.foldl (fun s r => findErrors s r.1 r.2) ((upFrom 0 16).foldl (fun s t => findBank s (mcore q t) m) s)
  match poisonIn s1 ranges with
  | some v => faultRing s1 q causePOISON fun _ _ => v
  | none =>
    let clean := (upFrom 0 16).foldl (fun t u => spendUpsets s1 t (mcore q u) (cmd u) (rows u)) s1
    match (upFrom 0 16).filter fun t => residueBad s1 (mcore q t) (cmd t) (rows t) with
    | low :: more =>
      let count (t : Nat) : Nat := (getCore s1 (mcore q t)).cmds.length
      faultRing (residueEvents clean q (low :: more) count (mOpcode m.form)) q causeMAC fun opc n => macVal low opc 0 n
    | [] =>
      (upFrom 0 16).foldl (fun s t =>
        let g := mcore q t
        let c := getCore s1 g
        let w :=
          if rows t = 0 then workOf c (some (0, fget F.mdN m.desc))
          else if m.form = .mring then matmul s1 g (cmd t) (rows t) fun u => (mcore q u, (cmd u).desc)
          else attention s1 q t (cmd t) l (rows t)
        modCore s g fun c => { c with work := some w }) clean

/-- The work of the head command has been done. -/
def finishCmd (s : State) (g : Nat) : State :=
  match (getCore s g).cmds with
  | m :: _ =>
    if (getCore s g).work.isSome || !m.started then s
    else match m.form with
      | .mzero => modCore s g fun c => { c with work := some { workOf c none with acc := [], accPoison := [] } }
      | .aini => modCore s g fun c => { c with work := some { acc := [], accPoison := [], rowMax := [], rowSum := [], shape := none } }
      | .mop => finishMop s g m
      | _ => match ringHeads s (clusterOf g) with
        | some l => if l.all MCmd.started then finishRing s (clusterOf g) l else s
        | none => s
  | [] => s

/-- The banks of a core whose command has done its work are exchanged (R34). -/
def exchangeBank (s : State) (g : Nat) : State :=
  match (getCore s g).work with
  | some w => queueShift (modCore s g fun c =>
    { c with
      acc := w.acc, accPoison := w.accPoison, accLatent := [], rowMax := w.rowMax, rowSum := w.rowSum
      cmds := c.cmds.drop 1, work := none, drainShape := w.shape.or c.drainShape }) 5 g 1
  | none => s

/-- Work is done, and no drain has a row left to copy (R200). -/
def mayExchange (c : Core) : Bool := c.work.isSome && !c.drain.any fun d => decide (d.row < d.rows)

/-- A ring `attn` on an arrival entry has completed: it counts in its ring, and FIN rises with the NEED-th (R211). -/
def countPeal (s : State) (q : Nat) (m : MCmd) : State :=
  if fget F.mdBsrc m.desc ≠ 1 then s
  else
    let d := q / 128
    let ent := fget F.mdAent m.desc
    let key := 128 * ent + q % 128
    let n := tget 0 (getDie s d).pealOps key + 1
    let e := tget 0 (getDie s d).arrival ent
    let s1 := modDie s d fun x =>
      { x with
        pealOps := tset 0 x.pealOps key n
        arrival := if n = fget F.arNeed e then tset 0 x.arrival ent (fput F.arFin e (fget F.arFin e + 1)) else x.arrival }
    wakeAll s1 fun g m => dieOf g == d && m == .waiting (.peal ent)

/-- The banks are exchanged, once a drain has copied its last row (R34, R200); a ring operation completes at all its members together, so that a
pre-emption finds it running at all of them or at none (R208, R211). -/
def exchangeBanks (s : State) (g : Nat) : State :=
  let q := clusterOf g
  let ring := (upFrom 0 16).map (mcore q)
  match (getCore s g).cmds with
  | m :: _ =>
    if ringForm m.form then
      if ring.all fun u => mayExchange (getCore s u) then countPeal (ring.foldl exchangeBank s) q m else s
    else if mayExchange (getCore s g) then exchangeBank s g else s
  | [] => s

/-- MATRIX_COMMAND_COMPLETE: the head command completes, or faults (R188) (DEDUCED, notes/assumptions 45). -/
def matrixCommandComplete (s : State) (g : Nat) : State := exchangeBanks (finishCmd s g) g

def execMatrixCommandComplete (s : State) : Host.Outcome State Fault Refusal := .next (matrixCommandComplete s s.argA)

/-! ### Waits and gates (R198, R199) -/

/-- Commands and drains of the core are all over (R198). -/
def matrixIdle (s : State) (g : Nat) : Bool := (getCore s g).cmds.isEmpty && (getCore s g).drain.isNone

/-- The oldest held command and those behind it are discarded (R199); a ring command is discarded at every member (R197). -/
def discardHeld (s : State) (g : Nat) (fault : Nat × Word) : State :=
  let l := (getCore s g).cmds
  let s1 := modCore s g fun c => { c with cmds := l.takeWhile fun m => !isHeld m }
  (l.find? isHeld).elim s1 fun m => discardElsewhere s1 g m fault

/-- The wait of `mwait` and `mdrain` for the matrix queue and the drains: while a drain runs, the waiting context gives up the core, so that
the drain contexts can run, and is evaluated again when it next runs (R198, R200, R202) (DEDUCED, notes/assumptions 127). -/
def matrixWait (s : State) (g k : Nat) : Eff := if (getCore s g).drain.isSome then .done (switchOut s g k .ready) else .stall

/-- The gate of `mwait` on a transfer (R199). -/
def transferGate (s : State) (g k : Nat) (i : Instr) (ch id : Nat) : Eff :=
  if 15 < ch then .trap causeILL (firstWord i)
  else
    let x := tget {} (getCore s (coreAt (clusterOf g) (triadOf g) 0)).chans ch
    let val : Word := BitVec.ofNat 64 (ch * 2 ^ 48 + id)
    if x.pid.any fun q => decide (q ≤ id) then .done (takeTrap (discardHeld s g (causeDEP, val)) g k causeDEP val)
    else if id < x.w ∨ id = 0 then
      if 4 ≤ (getCore s g).credits then .stall
      else retire (modCore s g fun c => { c with credits := c.credits + 1 }) g k i []
    else .stall

/-- `mwait` (R198, R199): the wait for the commands and drains takes a pending fault when they have ended. -/
def execMwait (p : Pfx) (a b : Reg) (s : State) : Host.Outcome State Fault Refusal :=
  .next (issue (.mwait p a b) s fun s g k =>
    let i := Instr.mwait p a b
    let xa := readX s g k a
    let xb := readX s g k b
    if xa.getLsbD 63 then
      if xb ≠ 0 then .trap causeILL (firstWord i)
      else if matrixIdle s g then afterFault s g (retire s g k i [])
      else matrixWait s g k
    else afterFault s g (transferGate s g k i (xa.toNat % 2 ^ 16) (xb.toNat % 2 ^ 48)))

/-! ### Drains (R200, R201) -/

/-- `mdrain`: waits as `mwait` does, then starts a drain (R200). -/
def execMdrain (p : Pfx) (a b : Reg) (s : State) : Host.Outcome State Fault Refusal :=
  .next (issue (.mdrain p a b) s fun s g k =>
    let i := Instr.mdrain p a b
    if !matrixIdle s g then matrixWait s g k
    else afterFault s g (
      if mapHold s (clusterOf g) then .stall
      else
        let (rows, cols) := (getCore s g).drainShape.getD (0, 0)
        let d : Drain := { rows := rows, row := 0, pc := regTarget (readX s g k a), arg := readX s g k b, cols := cols, slot := none }
        retire (if rows = 0 then s else modCore s g fun c => { c with drain := some d }) g k i []))

/-- Registers of a drain context (R200). -/
def drainRegs (c : Core) (d : Drain) : Tbl Word :=
  let r := d.row
  let row (x : Lane) : Word := if r < 8 then x.zeroExtend 64 else 0
  [(0, BitVec.ofNat 64 r), (1, d.arg), (2, BitVec.ofNat 64 d.cols), (3, row (rowSumOf c r)), (4, row (rowMaxOf c r))].foldl
    (fun t e => tset 0 t e.1 e.2) []

/-- DRAIN_ROW_DISPATCH: the next row's words go to the window and a drain context starts in the lowest FREE slot (R200) (DEDUCED, notes/assumptions 50). -/
def drainRowDispatch (s : State) (g : Nat) : State :=
  let c := getCore s g
  match c.drain with
  | some d =>
    match (upFrom 1 10).find? fun k => (getCtx s g k).mode == .free with
    | some k =>
      if d.slot.isSome || decide (d.rows ≤ d.row) || !c.run || c.preempting then s
      else
        let win := gaTcm g 0x1F000
        let words := (upFrom 0 1024).map fun i => if i < d.cols then tget 0 c.acc (d.row * d.cols + i) else 0
        let s1 := writeBytes (findAcc s g) 0 win (words.flatMap fun w => leBytes w.toNat 4)
        let s2 := (upFrom 0 d.cols).foldl (fun s i =>
          if (accBad c).contains (d.row * d.cols + i) then setPoison s (win + 4 * i) true else s) s1
        let base := getCtx s g 0
        let x : Ctx :=
          { mode := .ready, kind := .drain, pc := d.pc, x := drainRegs c d, strm := base.strm
            priv := BitVec.ofNat 64 (fget F.ten base.priv * 2 ^ 16) }
        putCtx (modCore s2 g fun c => { c with drain := some { d with row := d.row + 1, slot := some k } }) g k x
    | none => s
  | none => s

def execDrainRowDispatch (s : State) : Host.Outcome State Fault Refusal := .next (drainRowDispatch s s.argA)

/-- The drain context ends; with the last row the drain (R200, R201). -/
def endRow (s : State) (g k : Nat) : State :=
  let s1 := modCore s g fun c =>
    { c with drain := match c.drain with
        | some d => if d.rows ≤ d.row then none else some { d with slot := none }
        | none => none }
  switchOut (modCtx s1 g k fun x => { x with kind := .helper, instret := x.instret + 1 }) g k .free

/-- Output of a window row: packed elements, flags, and the generators after its draws (R201, R113). -/
def drainOut (f : Elem) (mode : RMode) (sat ftz : Bool) (gen : Tbl Lane) : Nat → List Lane → List Nat × Flags × Tbl Lane
  | _, [] => ([], {}, gen)
  | c, w :: rest =>
    if f = .fp32 then
      let r := drainOut f mode sat ftz gen (c + 1) rest
      (w.toNat :: r.1, r.2)
    else
      let g := tget 0 gen (c % 64)
      let o := convVal f (val32 ftz w) mode sat ftz g
      let r := drainOut f mode sat ftz (if mode = .sr then tset 0 gen (c % 64) (genStep g) else gen) (c + 1) rest
      (o.1 :: r.1, o.2.or r.2.1, r.2.2)

/-- Bytes of one store: all its pieces are checked before any is performed (R168, R201). -/
def storeWide (s : State) (g k : Nat) (va : Word) (bytes : List Byte) (next : State → Eff) : Eff :=
  let acc := (upFrom 0 (bytes.length / 8)).map fun j => (va + BitVec.ofNat 64 (8 * j), 8 * j)
  match checkPieces s g k needWrite 8 acc with
  | .trap c v => .trap c v
  | .wait t w => .done (switchOut t g k (.waiting w))
  | .ok t l0 =>
    let l := joinPieces l0
    if l.any fun p => locked s g p.ga p.len then .stall
    else if (getCore s g).comb.any fun x => l.any fun p => entryHits x p.ga p.len then
      .done (flushWhile s g fun x => l.any fun p => entryHits x p.ga p.len)
    else if l.any fun p => unacked s g p.ga p.len then .stall
    else next (l.foldl (fun s p =>
      let r := match routeFor { page := true, reg := false, qual := none, imms := 0 } p.route with | .deferred => Route.ordered | x => x
      granting (directWrite s g k r p.key p.ga p.va (.store (cellsAt p.ga ((bytes.drop p.off).take p.len)))) g k p.ga (isLocal g p.ga)) t)

/-- `dret` (R201). -/
def execDret (p : Pfx) (f : Elem) (a b : Reg) (s : State) : Host.Outcome State Fault Refusal :=
  .next (issue (.dret p f a b) s fun s g k =>
    let xa := readX s g k a
    if ownsQueue s g k then .stall
    else if !(readX s g k b).getLsbD 0 then .done (endRow s g k)
    else if xa.toNat % 8 ≠ 0 then .trap causeALIGN xa
    else
      let n := ((getCore s g).drain.map Drain.cols).getD 0
      match readAt s 0 (gaTcm g 0x1F000) (4 * n) with
      | (t, .poisoned q) => .done (takeTrap t g k causePOISON (BitVec.ofNat 64 (q / 8 * 8 - gaTcm g 0)))
      | (s1, .value l) =>
        let words := (upFrom 0 n).map fun c => BitVec.ofNat 32 (leNat ((l.drop (4 * c)).take 4))
        let mode := rmodeOf (if Pfx.rnd p = 6 then (dynRm s1 g).toNat else Pfx.rnd p)
        let o := drainOut f mode (Pfx.sat p) (dynFtz s1 g) (getCore s1 g).gen 0 words
        let bits := matBits f
        storeWide s1 g k xa (leBytes (packElems bits o.1) (n * bits / 8)) fun t =>
          .done (endRow (raise (modCore t g fun c => { c with gen := o.2.2 }) g (Pfx.nf p) o.2.1) g k))

/-! ### Geometry, self-test and remapping (R203–R206, R339, R343) -/

/-- `mgeom` (R203) (DEDUCED, notes/assumptions 103). -/
def execMgeom (p : Pfx) (d : Reg) (s : State) : Host.Outcome State Fault Refusal :=
  .next (issue (.mgeom p d) s fun s g k =>
    let q := clusterOf g
    let shapes := ((upFrom 0 16).map fun t => shapeOf s q t * 4 ^ t).foldl (· + ·) 0
    retire s g k (.mgeom p d) [(d, BitVec.ofNat 64 (((getCluster s q).mapGen + 65536 - (getCore s g).mapBase) % 65536 * 2 ^ 48 + liveCount s q * 2 ^ 32 + shapes))])

/-- `mfmap` (R204). -/
def execMfmap (p : Pfx) (d a : Reg) (s : State) : Host.Outcome State Fault Refusal :=
  .next (issue (.mfmap p d a) s fun s g k =>
    retire s g k (.mfmap p d a) [(d, tget 0 (getCluster s (clusterOf g)).fmap ((readX s g k a).toNat % 16))])

/-- `mtest`: its context waits for its sweep (R205). -/
def execMtest (p : Pfx) (d a b : Reg) (s : State) : Host.Outcome State Fault Refusal :=
  .next (issue (.mtest p d a b) s fun s g k =>
    let i := Instr.mtest p d a b
    let o : MapOp :=
      { core := g, slot := k, dest := d, pops := popList s g k i, next := nextPc s g k i, block := some ((readX s g k a).toNat % 16)
        seed := (readX s g k b).setWidth 32, map := [], running := false }
    .done (switchOut (modCluster s (clusterOf g) fun x => { x with mapOps := x.mapOps ++ [o] }) g k (.waiting .sweep)))

/-- No command, drain or sweep runs in the cluster. -/
def quiescent (s : State) (q : Nat) : Bool :=
  ((upFrom 0 16).all fun t => let c := getCore s (mcore q t); c.drain.isNone && !(c.cmds.head?).any MCmd.started)
    && !(getCluster s q).mapOps.any MapOp.running

/-- MTEST_SWEEP_START: the oldest sweep starts at quiescence (R205, R343). -/
def mtestSweepStart (s : State) (q : Nat) : State :=
  match (getCluster s q).mapOps with
  | o :: rest =>
    if o.block.isSome && !o.running && quiescent s q then modCluster s q fun x => { x with mapOps := { o with running := true } :: rest }
    else s
  | [] => s

def execMtestSweepStart (s : State) : Host.Outcome State Fault Refusal := .next (mtestSweepStart s s.argA)

/-- The cells that a sweep of a block reports: those that fail, and those that the seed's patterns happen to find (R205) (DESIGN CHOICE,
notes/assumptions 21). -/
def sweepCells (s : State) (q blk : Nat) (seed : BitVec 32) (occasion : Nat) : List (Nat × Nat × Nat × Nat) :=
  let mine (c : Nat × Nat × Nat × Nat) : Bool := c.1 == q && c.2.1 == blk
  s.cells.filter mine ++ s.rareCells.filter fun c => mine c && Config.sweepFinds c seed occasion

/-- Result of a sweep: rows and columns of the cells that it reports (R205). -/
def sweepResult (s : State) (q blk : Nat) (seed : BitVec 32) (occasion : Nat) : Word :=
  let bad := sweepCells s q blk seed occasion
  let rows := ((upFrom 0 34).filter fun r => bad.any fun c => c.2.2.1 == r).foldl (fun n r => n + 2 ^ r) 0
  let cols := ((upFrom 0 18).filter fun j => bad.any fun c => c.2.2.2 == j).foldl (fun n j => n + 2 ^ j) 0
  if bad.isEmpty then 0 else BitVec.ofNat 64 (2 ^ 63 + cols * 2 ^ 34 + rows)

/-- MTEST_SWEEP_END: the running sweep ends and its context goes on with the result (R205). -/
def mtestSweepEnd (s : State) (q : Nat) : State :=
  match (getCluster s q).mapOps with
  | o :: rest =>
    let v := sweepResult s q (o.block.getD 0) o.seed s.draws
    let waits := (getCtx s o.core o.slot).mode == .waiting .sweep
    if !o.running || (waits && !canWrite s o.core o.slot [(o.dest, v)]) then s
    else
      let s1 := modCluster { s with draws := s.draws + 1 } q fun x => { x with mapOps := rest }
      let s2 := modDie s1 (q / 128) fun d =>
        let w := fbump ⟨16, 16⟩ (tget 0 d.cltel (q % 128))
        { d with cltel := tset 0 d.cltel (q % 128) (if v.getLsbD 63 then fbump ⟨32, 16⟩ w else w) }
      if waits then completeWait s2 o.core o.slot o.pops [(o.dest, v)] o.next else s2
  | [] => s

def execMtestSweepEnd (s : State) : Host.Outcome State Fault Refusal := .next (mtestSweepEnd s s.argA)

/-- A fault-map entry is valid and has no reserved bit set (R62). -/
def mapValid (e : Word) : Bool :=
  let rows := 34 - popBits (fget F.fmRowx e) 34
  let cols := 18 - popBits (fget F.fmColx e) 18
  fget ⟨52, 10⟩ e == 0 &&
    match fget F.fmShape e with
    | 0 => decide (32 ≤ rows ∧ 16 ≤ cols)
    | 1 => decide (32 ≤ rows ∧ 8 ≤ cols)
    | 2 => decide (16 ≤ rows ∧ 16 ≤ cols)
    | _ => true

/-- A new entry shrinks the old one (R206) (DEDUCED, notes/assumptions 52). -/
def mapShrinks (old new : Word) : Bool :=
  (old &&& ~~~new &&& (ones F.fmRowx ||| ones F.fmColx)) == 0
    && (fget F.fmShape new == fget F.fmShape old || fget F.fmShape new == 3 || fget F.fmShape old == 0)

/-- The lowest entry of a new map that a user-level remap may not install over the map in force. -/
def growsAt (s : State) (q : Nat) (map : List Word) : Option Nat :=
  (upFrom 0 16).find? fun t => !mapShrinks (tget 0 (getCluster s q).fmap t) (map.getD t 0)

def userLevel (s : State) (g k : Nat) : Bool := fget F.lvl (getCtx s g k).priv == 0

/-- `mremap`: the new map is read and checked, then pending until quiescence, the context staying RUNNING (R206). -/
def execMremap (p : Pfx) (d a : Reg) (s : State) : Host.Outcome State Fault Refusal :=
  .next (issue (.mremap p d a) s fun s g k =>
    let i := Instr.mremap p d a
    let q := clusterOf g
    if (getCluster s q).mapOps.any fun o => o.core == g && o.slot == k then .stall
    else ownBytes s g k (readX s g k a) 128 fun s1 l =>
        let map := (upFrom 0 16).map fun t => BitVec.ofNat 64 (leNat ((l.drop (8 * t)).take 8))
        match (upFrom 0 16).find? fun t => !mapValid (map.getD t 0) with
        | some t => retire s1 g k i [(d, BitVec.ofNat 64 (0x100 + t))]
        | none =>
          match if userLevel s1 g k && !mapHold s1 q then growsAt s1 q map else none with
          | some t => retire s1 g k i [(d, BitVec.ofNat 64 (0x200 + t))]
          | none =>
            let o : MapOp :=
              { core := g, slot := k, dest := d, pops := popList s1 g k i, next := nextPc s1 g k i, block := none, map := map, running := false }
            .done (modCluster s1 q fun x => { x with mapOps := x.mapOps ++ [o] }))

/-- A map is put in force whole: the generation rises and an event is posted (R206, R339, R414). -/
def putMap (s : State) (q : Nat) (map : List Word) : State :=
  let old := (getCluster s q).fmap
  let changed := ((upFrom 0 16).filter fun t => tget 0 old t ≠ map.getD t 0).foldl (fun n t => n + 2 ^ t) 0
  let gen := ((getCluster s q).mapGen + 1) % 65536
  let s1 := modCluster s q fun x =>
    { x with mapGen := gen, fmap := (upFrom 0 16).foldl (fun t i => tset 0 t i (map.getD i 0)) [] }
  postEvent s1 (q / 2048) (srcCluster q) 0x21 gen changed

/-- A map is installed, and is to be committed to flash, with the cluster's retirement if it has been retired (R339, R414, R420, R422). -/
def installMap (s : State) (q : Nat) (map : List Word) : State :=
  let s1 := putMap s q map
  modMod s1 (q / 2048) fun x =>
    { x with journalDue := x.journalDue ++ [{ cl := q % 2048, gen := (getCluster s1 q).mapGen, retire := (getCluster s q).retired, map := map }] }

/-- FAULT_MAP_INSTALL: at quiescence the pending map is installed and its `mremap` retires (R206). One issued behind another is checked
against the map that the other left. -/
def faultMapInstall (s : State) (q : Nat) : State :=
  match (getCluster s q).mapOps with
  | o :: rest =>
    if o.block.isSome || !quiescent s q then s
    else
      let grows := if userLevel s o.core o.slot then growsAt s q o.map else none
      let v : Word := match grows with | some t => BitVec.ofNat 64 (0x200 + t) | none => 0
      if !canWrite s o.core o.slot [(o.dest, v)] then s
      else
        let s1 := modCluster s q fun x => { x with mapOps := rest }
        let s2 := if grows.isSome then s1 else stranded (installMap s1 q o.map) (q / 128)
        let s3 := writeXs (o.pops.foldl (fun s p => popPort s o.core p) s2) o.core o.slot [(o.dest, v)]
        modCtx s3 o.core o.slot fun x => { x with pc := o.next, instret := x.instret + 1 }
  | [] => s

def execFaultMapInstall (s : State) : Host.Outcome State Fault Refusal := .next (faultMapInstall s s.argA)

end Sys2Proof.Machine
end

