-- ==== Sys2Proof/Machine/Save.lean ====
section
/-!
DEFINITION. The save records and queues of a cluster's save area as bytes (R274–R276, R395). The places of the items inside a group of R395 are
the model's (DESIGN CHOICE, notes/assumptions 38).
-/
namespace Sys2Proof.Machine

/-- Where the record of a core lies in a cluster's area (R395). -/
def recordAt (area g : Nat) : Nat := area + 0xB00000 + 0x10000 * indexOf g

def modeNumber : Mode → Nat
  | .free => 0
  | .ready => 1
  | .running => 2
  | .waiting _ => 3
  | .blockedJoin k => 4 + 16 * k
  | .blockedEvent => 5
  | .ended => 6

def kindNumber : Kind → Nat
  | .base => 0
  | .helper => 1
  | .drain => 2
  | .migrant o k _ _ => 3 + 4 * (16 * o + k)

/-- A slot's words: state and kind, PC, x0 to x15, its CSRs and its result. -/
def slotWords (x : Ctx) : List Word :=
  [BitVec.ofNat 64 (modeNumber x.mode + 2 ^ 8 * kindNumber x.kind), x.pc.zeroExtend 64] ++ (upFrom 0 16).map (tget 0 x.x)
    ++ [x.priv, x.strm, x.trapCause, x.trapPc, x.trapVal, x.instret, x.result]

/-- A task handle as a doubleword, 0 for none. -/
def taskWord (t : Option (Nat × Nat)) : Word := t.elim 0 fun h => BitVec.ofNat 64 (2 ^ 63 + h.1 * 2 ^ 12 + h.2)

def taskOf (w : Word) : Option (Nat × Nat) := if w.getLsbD 63 then some (w.toNat % 2 ^ 63 / 2 ^ 12, w.toNat % 2 ^ 12) else none

/-- The reductions by number. -/
def rmwList : List Rmw := [.add, .min, .max, .minu, .maxu, .and, .or, .xor, .swap, .cas, .bump, .fadd]

/-- What an entry of an exchange buffer does, as a number below 64 and 16 bytes: a store of 1 to 16 bytes, a reduction with its operation, or
`st.fill`. -/
def opNumber : MemOp → Nat × Nat
  | .store l | .merged l _ | .fillStore l => (l.length - 1, leNat (l.map Prod.snd))
  | .red o v => (16 + rmwList.idxOf o, v.toNat)
  | .fe (.fill v) => (32, v.toNat)
  | _ => (63, 0)

/-- The access that the number and the bytes give at an address; none for a number that stands for nothing. -/
def opAt (n data ga : Nat) : Option MemOp :=
  if n < 16 then some (.store (cellsAt ga (leBytes data (n + 1))))
  else if n = 32 then some (.fe (.fill (BitVec.ofNat 64 data)))
  else rmwList[n - 16]?.map fun o => .red o (BitVec.ofNat 64 data)

/-- An entry of an exchange buffer as 32 bytes: address and number, virtual address with slot, levels and key, and 16 bytes of data (R145, R147,
R395). -/
def entryBytes (e : XEnt) : List Byte :=
  leBytes (e.ga % 2 ^ 58 + 2 ^ 58 * (opNumber e.op).1) 8
    ++ leBytes (e.va.toNat % 2 ^ 48 + 2 ^ 48 * (e.slot % 16 + 16 * e.hold.toNat + 256 * (e.key % 256))) 8 ++ leBytes (opNumber e.op).2 16

/-- The entry that 32 bytes give; the stream of a state-window entry stands beside them. -/
def entryAt (s : State) (a : Nat) (strm : Word) : Option XEnt :=
  let w := readNat s a 8
  let v := readNat s (a + 8) 8
  (opAt (w / 2 ^ 58) (readNat s (a + 16) 16) (w % 2 ^ 58)).map fun op =>
    { slot := v / 2 ^ 48 % 16, ga := w % 2 ^ 58, key := v / 2 ^ 56, va := BitVec.ofNat 64 (v % 2 ^ 48), op := op, strm := strm
      hold := BitVec.ofNat 4 (v / 2 ^ 52) }

def formList : List MForm := [.mzero, .mring, .mop, .attn, .aini]
def elemList : List Elem := [.fp32, .int32, .uint32, .bf16, .fp16, .e4m3, .e5m2, .int8, .e2m1, .int4]

/-- A queued matrix command as 64 bytes: descriptor, positions, number among the ring commands and gate, form and format (R188, R199, R395). -/
def commandBytes (m : MCmd) : List Byte :=
  leBytes m.desc.toNat 32 ++ leBytes m.pos.toNat 8 ++ leBytes (m.ring * 2 + if m.gate then 1 else 0) 8
    ++ leBytes (formList.idxOf m.form + 16 * elemList.idxOf m.elem) 8 ++ leBytes 0 8

/-- The command that 64 bytes give, not started (R208, R276); none where they name no form or no format. -/
def commandAt (s : State) (a : Nat) : Option MCmd :=
  let n := readNat s (a + 48) 8
  match formList[n % 16]?, elemList[n / 16]? with
  | some f, some e =>
    some { form := f, elem := e, desc := BitVec.ofNat 256 (readNat s a 32), pos := BitVec.ofNat 64 (readNat s (a + 32) 8)
           ring := readNat s (a + 40) 8 / 2, gate := readNat s (a + 40) 1 % 2 == 1, started := false }
  | _, _ => none

/-- Drain, pending fault and shape of the latest operation as words (R200, R395). -/
def drainWords (d : Option Drain) : List Word :=
  match d with
  | some d => [BitVec.ofNat 64 (2 ^ 63 + d.pc.toNat * 2 ^ 32 + d.rows * 2 ^ 16 + d.row), d.arg,
      BitVec.ofNat 64 (d.cols + 2 ^ 32 * d.slot.elim 0 (· + 1))]
  | none => [0, 0, 0]

def drainOf (a b c : Word) : Option Drain :=
  if a.getLsbD 63 then
    some { rows := bitsOf a.toNat 16 16, row := bitsOf a.toNat 0 16, pc := regTarget (a >>> 32), arg := b, cols := bitsOf c.toNat 0 32
           slot := if bitsOf c.toNat 32 32 = 0 then none else some (bitsOf c.toNat 32 32 - 1) }
  else none

def wordsBytes (l : List Word) : List Byte := l.flatMap fun w => leBytes w.toNat 8
def lanesBytes (l : List Lane) : List Byte := l.flatMap fun w => leBytes w.toNat 4

/-- A port queue: how many words, then the words. -/
def portWords (l : List Word) : List Word := BitVec.ofNat 64 l.length :: l

/-- The parts of a save record that hardware writes: offset and bytes (R395). -/
def recordParts (c : Core) : List (Nat × List Byte) :=
  ((upFrom 1 10).map fun k => (0x800 + 256 * (k - 1), wordsBytes (slotWords (tget {} c.ctx k))))
    ++ ((upFrom 0 16).map fun i => (0x1800 + 256 * i, leBytes (tget 0 c.v i).toNat 256))
    ++ [(0x2800, wordsBytes ((upFrom 0 4).map (tget 0 c.m))), (0x2900, lanesBytes ((upFrom 0 64).map (tget 0 c.gen))),
        (0x2A00, wordsBytes [c.rng, if c.ev then 1 else 0, c.cycle]),
        (0x2A20, wordsBytes (portWords c.port0)), (0x2A80, wordsBytes (portWords c.port1))]
    ++ (((upFrom 0 512).zip c.xbuf).map fun e =>
        (0x3000 + 32 * e.1, entryBytes e.2))
    ++ [(0x7000, wordsBytes ([BitVec.ofNat 64 c.cmds.length, BitVec.ofNat 64 c.credits,
          c.mfault.elim 0 fun f => BitVec.ofNat 64 (2 ^ 63 + f.1), c.mfault.elim 0 Prod.snd,
          BitVec.ofNat 64 (c.xbuf.length + 2 ^ 32 * c.phase.toNat),
          c.drainShape.elim 0 fun d => BitVec.ofNat 64 (2 ^ 63 + d.1 * 2 ^ 16 + d.2)] ++ drainWords c.drain))]
    ++ (((upFrom 0 28).zip c.cmds).map fun m => (0x7100 + 64 * m.1, commandBytes m.2))
    ++ [(0x7800, lanesBytes ((upFrom 0 64).map (rowMaxOf c))), (0x7900, lanesBytes ((upFrom 0 64).map (rowSumOf c)))]
    ++ ((upFrom 0 11).map fun k =>
        (0x7C00 + 16 * k, wordsBytes [(tget {} c.ctx k).tret.zeroExtend 64, taskWord (tget {} c.ctx k).task]))
    ++ [(0x8000, lanesBytes ((upFrom 0 8192).map (tget 0 c.acc)))]

/-- Hardware writes a core's save record into an area (R274). -/
def putRecord (s : State) (area g : Nat) (c : Core) : State :=
  (recordParts c).foldl (fun s p => writeBytes s 0 (recordAt area g + p.1) p.2) s

/-- A table of n lanes as bytes give them. -/
def lanesAt (s : State) (ga n : Nat) : Tbl Lane :=
  (upFrom 0 n).foldl (fun t i => tset 0 t i (BitVec.ofNat 32 (readNat s (ga + 4 * i) 4))) []

def wordAt (s : State) (ga : Nat) : Word := BitVec.ofNat 64 (readNat s ga 8)

def portAt (s : State) (ga : Nat) : List Word := (upFrom 0 (Nat.min 8 (readNat s ga 8))).map fun i => wordAt s (ga + 8 + 8 * i)

/-- A slot as its words of the area give it; its state, kind and result stand, which a migrant's return may have changed meanwhile (R275). Addresses
of code stay even and reserved bits of the CSRs read as zero, whatever the bytes hold (R25, R35). -/
def slotAt (s : State) (ga : Nat) (x : Ctx) : Ctx :=
  let w (j : Nat) : Word := wordAt s (ga + 8 * j)
  { x with
    pc := regTarget (w 1), x := (upFrom 0 16).foldl (fun t i => tset 0 t i (w (2 + i))) x.x
    priv := privWritten (w 18), strm := strmWritten (w 19), trapCause := trapCauseWritten (w 20), trapPc := trapPcWritten (w 21), trapVal := w 22
    instret := w 23 }

/-- Hardware reads a core's save record: registers, CSRs, generators, counters, port queues, exchange buffer, matrix queue with its credits, drain and
fault, phase states, row state and accumulator come from its bytes (R276). -/
def getRecord (s : State) (area g : Nat) (r : Core) : Core :=
  let a := recordAt area g
  let h (i : Nat) : Word := wordAt s (a + 0x7000 + 8 * i)
  let slots := (upFrom 1 10).foldl (fun t k =>
    if (tget {} r.ctx k).mode = .free then t else tput t k (slotAt s (a + 0x800 + 256 * (k - 1)) (tget {} r.ctx k))) r.ctx
  { r with
    ctx := (slots.map Prod.fst).foldl (fun t k => tput t k
      { tget {} t k with tret := regTarget (wordAt s (a + 0x7C00 + 16 * k)), task := taskOf (wordAt s (a + 0x7C08 + 16 * k)) }) slots
    v := (upFrom 0 16).foldl (fun t i => tset 0 t i (BitVec.ofNat 2048 (readNat s (a + 0x1800 + 256 * i) 256))) []
    m := (upFrom 0 4).foldl (fun t i => tset 0 t i (wordAt s (a + 0x2800 + 8 * i))) []
    gen := lanesAt s (a + 0x2900) 64
    rng := if wordAt s (a + 0x2A00) = 0 then r.rng else wordAt s (a + 0x2A00), ev := (wordAt s (a + 0x2A08)).getLsbD 0, cycle := wordAt s (a + 0x2A10)
    cmds := (upFrom 0 (Nat.min 28 (h 0).toNat)).filterMap fun i => commandAt s (a + 0x7100 + 64 * i)
    credits := (h 1).toNat
    mfault := if (h 2).getLsbD 63 then some (bitsOf (h 2).toNat 0 8, h 3) else none
    xbuf := (upFrom 0 (Nat.min 512 (bitsOf (h 4).toNat 0 32))).filterMap fun i =>
      entryAt s (a + 0x3000 + 32 * i) ((r.xbuf[i]?).elim 0 XEnt.strm)
    phase := BitVec.ofNat 4 (bitsOf (h 4).toNat 32 4)
    drainShape := if (h 5).getLsbD 63 then some (bitsOf (h 5).toNat 16 16, bitsOf (h 5).toNat 0 16) else none
    drain := drainOf (h 6) (h 7) (h 8)
    port0 := portAt s (a + 0x2A20), port1 := portAt s (a + 0x2A80)
    rowMax := (upFrom 0 64).foldl (fun t i => tset negInf t i (BitVec.ofNat 32 (readNat s (a + 0x7800 + 4 * i) 4))) []
    rowSum := (upFrom 0 64).foldl (fun t i => tset 0 t i (BitVec.ofNat 32 (readNat s (a + 0x7900 + 4 * i) 4))) []
    acc := lanesAt s (a + 0x8000) 8192 }

end Sys2Proof.Machine
end

