-- ==== Sys2Proof/Machine/Xfer.lean ====
section
/-!
DEFINITION. Page 6: transfer channels, patterns, the data commands element by element, and feeds (R213–R223).
-/
namespace Sys2Proof.Machine

/-! ### Patterns (R215) -/

def patCount (p : BitVec 256) (l : Nat) : Nat := fget (F.paC l) p + 1
def patStride (p : BitVec 256) (l : Nat) : Word := (BitVec.ofNat 32 (fget (F.paS l) p)).signExtend 64

/-- T, the elements of a pattern. -/
def patTotal (p : BitVec 256) : Nat := patCount p 0 * patCount p 1 * patCount p 2 * patCount p 3

/-- ES in bytes. -/
def patSize (p : BitVec 256) : Nat := 2 ^ fget F.paEs p
def patFill (p : BitVec 256) : Bool := fget F.paFill p == 1

/-- Address of element n. -/
def patAddr (p : BitVec 256) (base : Word) (n : Nat) : Word :=
  let i0 := n % patCount p 0
  let n1 := n / patCount p 0
  let i1 := n1 % patCount p 1
  let n2 := n1 / patCount p 1
  let i2 := n2 % patCount p 2
  let i3 := n2 / patCount p 2
  base + BitVec.ofNat 64 i0 * patStride p 0 + BitVec.ofNat 64 i1 * patStride p 1 + BitVec.ofNat 64 i2 * patStride p 2
    + BitVec.ofNat 64 i3 * patStride p 3

/-! ### Commands (R214, R216, R217, R223) -/

def getChan (s : State) (g ch : Nat) : Chan := tget {} (getCore s g).chans ch

/-- The identifier after another (R214). -/
def nextXid (i : Nat) : Nat := if (i + 1) % 2 ^ 48 = 0 then 1 else (i + 1) % 2 ^ 48

/-- Commands that await execution (R214). -/
def awaiting (c : Chan) : Nat := (c.queue.filter fun x => !x.begun).length

/-- A command issues: it takes NEXT, copies the channel's items and joins the queue; on a faulted channel it completes at once unperformed
(R214, R219). -/
def issueXfer (i : Instr) (kind : XKind) (d a b : Reg) (legal : Chan → Bool) (s : State) : State :=
  issue i s fun s g k =>
    let ch := (readX s g k d).toNat % 16
    let c := getChan s g ch
    if !legal c then .trap causeILL (firstWord i)
    else if c.pid.isNone && decide (8 ≤ awaiting c) then .stall
    else
      let x : XCmd :=
        { kind := kind, id := c.next, spat := c.spat, dpat := c.dpat, tbase := c.tbase, nb := c.nb
          xa := readX s g k a, xb := readX s g k b, slot := k, priv := (getCtx s g k).priv, strm := (getCtx s g k).strm
          pos := 0, bytes := 0, begun := false, ended := false, place := none }
      let s1 := modChan s g ch fun c =>
        { c with next := nextXid c.next, queue := if c.pid.isSome then c.queue else c.queue ++ [x] }
      retire s1 g k i [(d, BitVec.ofNat 64 c.next)]

/-- `xcfg` (R216). -/
def execXcfg (p : Pfx) (a b : Reg) (s : State) : Host.Outcome State Fault Refusal :=
  .next (issue (.xcfg p a b) s fun s g k =>
    let i := Instr.xcfg p a b
    let xa := (readX s g k a).toNat
    let xb := readX s g k b
    let ch := xa % 16
    match bitsOf xa 8 2 with
    | 2 => retire (modChan s g ch fun c => { c with tbase := xb }) g k i []
    | 3 =>
      let n := xb.toNat % 2 ^ 13
      if n = 0 ∨ 4096 < n then .trap causeILL (firstWord i)
      else retire (modChan s g ch fun c => { c with nb := n }) g k i []
    | sel =>
      if xb.toNat % 32 ≠ 0 then .trap causeALIGN xb
      else if 0x20000 < xb.toNat + 32 then .trap causePROT xb
      else match readAt s 0 (gaTcm g xb.toNat) 32 with
        | (t, .poisoned q) => .done (takeTrap t g k causePOISON (BitVec.ofNat 64 (q - gaTcm g 0)))
        | (s1, .value l) =>
          let pat : BitVec 256 := BitVec.ofNat 256 (leNat l)
          if fget F.paRsv1 pat ≠ 0 ∨ fget F.paRsv0 pat ≠ 0 then .trap causeILL (firstWord i)
          else retire (modChan s1 g ch fun c => if sel = 0 then { c with spat := pat } else { c with dpat := pat }) g k i [])

/-- `xcopy` (R217). -/
def execXcopy (p : Pfx) (d a b : Reg) (s : State) : Host.Outcome State Fault Refusal :=
  .next (issueXfer (.xcopy p d a b) .copy d a b (fun c => patTotal c.spat == patTotal c.dpat && patSize c.spat == patSize c.dpat) s)

/-- `xgat` (R217). -/
def execXgat (p : Pfx) (d a b : Reg) (s : State) : Host.Outcome State Fault Refusal :=
  .next (issueXfer (.xgat p d a b) .gat d a b (fun _ => true) s)

/-- `xsct` (R217). -/
def execXsct (p : Pfx) (d a b : Reg) (s : State) : Host.Outcome State Fault Refusal :=
  .next (issueXfer (.xsct p d a b) .sct d a b (fun _ => true) s)

/-- `xbins` (R217). -/
def execXbins (p : Pfx) (d a b : Reg) (s : State) : Host.Outcome State Fault Refusal :=
  .next (issueXfer (.xbins p d a b) .bins d a b (fun c => patSize c.spat == 8) s)

/-- `xfill` (R217). -/
def execXfill (p : Pfx) (d a b : Reg) (s : State) : Host.Outcome State Fault Refusal :=
  .next (issueXfer (.xfill p d a b) .fill d a b (fun _ => true) s)

/-- `xbind.in` (R223). -/
def execXbindIn (p : Pfx) (d a b : Reg) (s : State) : Host.Outcome State Fault Refusal :=
  .next (issueXfer (.xbindIn p d a b) .bindIn d a b (fun c => patSize c.spat == 4) s)

/-- `xbind.out` (R223). -/
def execXbindOut (p : Pfx) (d a b : Reg) (s : State) : Host.Outcome State Fault Refusal :=
  .next (issueXfer (.xbindOut p d a b) .bindOut d a b (fun c => patSize c.dpat == 4) s)

/-! ### Starting and completing (R214, R223) -/

/-- Elements of a command. -/
def xTotal (x : XCmd) : Nat :=
  match x.kind with
  | .copy | .sct | .bins | .bindIn => patTotal x.spat
  | .gat | .fill | .bindOut => patTotal x.dpat

/-- A queued vector instruction, or a run being captured with its members still to come, names a register (R33, R178). -/
def namesV (c : Core) (r : Nat) : Bool :=
  let left := match c.runLeft with | some (l, _) => l | none => []
  ((c.vq ++ c.capture).map VqEntry.ins ++ left).any fun i => (vDests i ++ vSources i).any fun x => x.toNat == r

/-- XFER_COMMAND_START: the head of a channel begins; a binding comes into force once its register is free of other bindings and of queued
instructions under its old role (R166, R214, R223). -/
def xferCommandStart (s : State) (g ch : Nat) : State :=
  match (getChan s g ch).queue with
  | x :: rest =>
    let begin_ (s : State) : State := modChan s g ch fun c => { c with queue := { x with begun := true } :: rest }
    if x.begun then s
    else if isBinding x then
      let (t, r) := bindTarget g x.xa
      let c := getCore s t
      if (tget none c.feeds r).isSome || namesV c r then s
      else
        let f : Feed := { xcore := g, chan := ch, inbound := x.kind == .bindIn, strips := [], last := false }
        begin_ (modCore s t fun c => { c with feeds := tset none c.feeds r (some f) })
    else begin_ s
  | [] => s

def execXferCommandStart (s : State) : Host.Outcome State Fault Refusal := .next (xferCommandStart s s.argA s.argB)

/-- The binding of a command is in force. -/
def bound (s : State) (g ch : Nat) (x : XCmd) : Bool :=
  let (t, r) := bindTarget g x.xa
  (tget none (getCore s t).feeds r).any fun f => f.xcore == g && f.chan == ch

/-- XFER_COMMAND_COMPLETE: all is performed, and the watermark passes the identifier (R214). -/
def xferCommandComplete (s : State) (g ch : Nat) : State :=
  match (getChan s g ch).queue with
  | x :: rest =>
    let spent : Bool := match x.kind with
      | .bindIn => !bound s g ch x
      | .bindOut => x.ended || decide (xTotal x ≤ x.pos)
      | _ => decide (xTotal x ≤ x.pos)
    if x.begun && spent && x.fault.isNone && !chanOut s g ch then
      let s1 := if x.kind = .bindOut then unbind s g ch x else s
      modChan s1 g ch fun c => { c with queue := rest, w := nextXid x.id }
    else s
  | [] => s

def execXferCommandComplete (s : State) : Host.Outcome State Fault Refusal := .next (xferCommandComplete s s.argA s.argB)

/-! ### Engine accesses (R218, R219) -/

/-- The engine accesses with the tenant of the issuing context. -/
def engineWho (g : Nat) (x : XCmd) : Who :=
  { g := g, ten := fget F.ten x.priv, fw := fget F.lvl x.priv == 1, strm := x.strm }

/-- What an engine access comes to. -/
inductive Eng
  | ok (s : State) (ga key route : Nat) (l : List Byte)
  | fault (s : State) (code : Nat)
  | wait (s : State)

/-- Alignment and translation of n bytes. -/
def engAddr (s : State) (g : Nat) (x : XCmd) (need : Need) (va : Word) (n : Nat) : Eng :=
  if va.toNat % n ≠ 0 then .fault s causeALIGN
  else match translateNow s (engineWho g x) need va n with
    | (t, .trap c v) => .fault (reportError t (modOf g) g c v) c
    | (_, .wait t _) => .wait t
    | (_, .at t ga key rt) => .ok t ga key rt []

/-- The route of an engine access: the page's, a deferred one taken as ordered (R218). -/
def engRoute (route : Nat) : Route := match routeOfCode route with | .adaptive => .adaptive | _ => .ordered

/-- The command at the head of a channel. -/
def xHead (s : State) (g ch : Nat) : Option XCmd := (getChan s g ch).queue.head?

/-- An access of a channel sets out in class 2 (R218), one through the state window with its stream (R248). `done`: the bytes of the command before
it. -/
def engSend (s : State) (g ch key route : Nat) (op : MemOp) (ga : Nat) (va : Word) (done : Nat) : State :=
  sendFrom s g [chanTag ch] 2 (engRoute route) (homeKey ga) (moduleOf ga) none
    (.access op ga va { va := va, part := some done, strm := if inWindow va then ((xHead s g ch).elim 0 XCmd.strm) else 0 }) key

/-- Elements from one on whose addresses follow one another within a 256-byte block: those of one home are read as one piece (R218). -/
def runLen (addr : Nat → Word) (n k left : Nat) : Nat :=
  1 + ((upFrom 1 (Nat.min ((256 - (addr n).toNat % 256) / k) left - 1)).takeWhile fun j => addr (n + j) == addr n + BitVec.ofNat 64 (j * k)).length

/-- Bytes of an earlier read of a piece. -/
def askedBytes (a : XAsk) (va : Word) (n : Nat) : Option (List Byte) := a.data.map fun l => (l.drop (va - a.va).toNat).take n

/-- The read of a piece covers these bytes. -/
def XAsk.covers (a : XAsk) (va : Word) (n : Nat) : Bool := decide ((va - a.va).toNat + n ≤ a.len)

/-- Of `run` elements of n bytes from an address on, those whose home is the first one's (R218). -/
def sameHome (ga n run : Nat) : Nat := 1 + ((upFrom 1 (run - 1)).takeWhile fun j => homeKey (ga + j * n) == homeKey ga).length

/-- Bytes from off the core: those of a read that has come back; where a read met poison behind them, they are read again up to it (R218,
R219). -/
def engAsk (s : State) (g ch key route ga : Nat) (x : XCmd) (va : Word) (n run : Nat) : Eng :=
  let ask (len : Nat) : Eng :=
    let s1 := engSend s g ch key route (.load len) ga va x.bytes
    .wait (setXHead s1 g ch fun y => { y with asks := y.asks.filter (fun a => !a.covers va n) ++ [{ va := va, len := len, id := s.nextId }] })
  match ((xHead s g ch).elim [] XCmd.asks).find? fun a => a.covers va n with
  | none => ask (n * sameHome ga n run)
  | some a =>
    match askedBytes a va n, a.bad with
    | some l, _ => .ok s ga key route l
    | none, some (code, v) =>
      let good := (v - va).toNat / n * n
      if code ≠ causePOISON ∨ v.toNat < va.toNat ∨ good = 0 then .fault s code else ask good
    | none, none => .wait s

/-- A read of an element, `run` of which follow one another; bytes that the piece has gathered are read from it (R217, R218) (DEDUCED,
notes/assumptions 54). -/
def engRead (s : State) (g ch : Nat) (x : XCmd) (va : Word) (n run : Nat) (held : List Host.Cell) : Eng :=
  let merge (ga : Nat) (l : List Byte) : List Byte :=
    (upFrom ga n).zip l |>.map fun b => ((held.find? fun c => c.1 == b.1).map Prod.snd).getD b.2
  match engAddr s g x needLoad va n with
  | .ok t ga key rt _ =>
    if isLocal g ga then
      match performAt t g key (.load n) ga with
      | (u, .value l) => .ok u ga key rt (merge ga l)
      | (u, .poisoned _) => .fault u causePOISON
    else match engAsk t g ch key rt ga x va n run with
      | .ok u _ _ _ l => .ok u ga key rt (merge ga l)
      | r => r
  | r => r

/-- A write of cells at a local home, or towards a remote one in class 2 (R218). -/
def engStore (s : State) (g ch key route : Nat) (fill : Bool) (va : Word) (done : Nat) (cells : List Host.Cell) : State :=
  match cells with
  | [] => s
  | c :: _ =>
    let op := if fill then MemOp.fillStore cells else .store cells
    if isLocal g c.1 then
      let t := (performAt s g key op c.1).1
      if fill then servedCells t g cells else t
    else engSend s g ch key route op c.1 va done

/-- A destination of a command sets full bits where it has FILL (R218). -/
def fillsOf (x : XCmd) : Bool :=
  match x.kind with
  | .copy | .gat | .fill | .bindOut => patFill x.dpat
  | _ => false

def writeNeed (x : XCmd) : Need := if fillsOf x then needPut else needWrite

/-- Signed element i of an index list as an offset in a table of elements of n bytes (R217). -/
def indexed (tbase : Word) (l : List Byte) (n : Nat) : Word :=
  tbase + (BitVec.ofNat 32 (leNat l)).signExtend 64 * BitVec.ofNat 64 n

/-- Element n of a command: its bytes and the address it is written to. -/
inductive Elt
  | ok (s : State) (l : List Byte) (dst : Word)
  | fault (s : State) (code : Nat)
  | wait (s : State)

/-- Element n of a copy, gather, scatter or fill: source bytes and destination (R217). -/
def element (s : State) (g ch : Nat) (x : XCmd) (n : Nat) (held : List Host.Cell) : Elt :=
  let left := xTotal x - n
  let read (s : State) (va : Word) (k run : Nat) (next : State → List Byte → Elt) : Elt :=
    match engRead s g ch x va k run held with
    | .ok t _ _ _ l => next t l
    | .fault t c => .fault t c
    | .wait t => .wait t
  let list (base : Word) (i : Nat) : Word := base + BitVec.ofNat 64 (4 * i)
  match x.kind with
  | .copy =>
    let k := patSize x.spat
    read s (patAddr x.spat x.xa n) k (runLen (patAddr x.spat x.xa) n k left) fun t l => .ok t l (patAddr x.dpat x.xb n)
  | .gat =>
    let k := patSize x.dpat
    read s (list x.xa n) 4 (runLen (list x.xa) n 4 left) fun t i =>
      read t (indexed x.tbase i k) k 1 fun u l => .ok u l (patAddr x.dpat x.xb n)
  | .sct =>
    let k := patSize x.spat
    read s (list x.xb n) 4 (runLen (list x.xb) n 4 left) fun t i =>
      read t (patAddr x.spat x.xa n) k (runLen (patAddr x.spat x.xa) n k left) fun u l => .ok u l (indexed x.tbase i k)
  | .fill => .ok s (leBytes x.xb.toNat (patSize x.dpat)) (patAddr x.dpat x.xa n)
  | .bindOut =>
    let (t, r) := bindTarget g x.xa
    match (tget none (getCore s t).feeds r).bind fun f => f.strips.head? with
    | some strip => .ok s (regBytes strip (4 * (n % 64)) 4) (patAddr x.dpat x.xb n)
    | none => .wait s
  | _ => .wait s

/-- What has been gathered of a piece: elements done, cells, the address behind them, and why it ends. -/
structure Gather where
  s : State
  pos : Nat
  cells : List Host.Cell
  va : Word
  key : Nat
  route : Nat
  fault : Option Nat

/-- Gather elements at contiguous destination addresses within one 256-byte block, in ascending n (R218). An element whose bytes are still under way
holds up the piece: it is gathered anew when they are there. -/
def gather (g ch : Nat) (x : XCmd) (stop : Nat) (w : Gather) : Nat → Gather
  | 0 => w
  | fuel + 1 =>
    if stop ≤ w.pos then w
    else match element w.s g ch x w.pos w.cells with
      | .fault t c => { w with s := t, fault := some c }
      | .wait t => { w with s := t, pos := x.pos, cells := [] }
      | .ok t l dst =>
        if !w.cells.isEmpty && (dst != w.va || dst.toNat % 256 == 0) then w
        else match engAddr t g x (writeNeed x) dst l.length with
          | .fault u c => { w with s := u, fault := some c }
          | .wait u => if w.cells.isEmpty then { w with s := u } else w
          | .ok u ga key rt _ =>
            if !w.cells.isEmpty && (key != w.key || homeKey ga != homeKey ((w.cells.headD (ga, 0)).1)) then w
            else gather g ch x stop
              { s := u, pos := w.pos + 1, cells := cellsAt ga l ++ w.cells.filter (fun c => !(cellsAt ga l).any fun b => b.1 == c.1)
                va := dst + BitVec.ofNat 64 l.length, key := key, route := rt, fault := none } fuel

def sortCells (l : List Host.Cell) : List Host.Cell := l.foldl (fun t c => tput t c.1 c.2) []

/-- One piece of a command, up to an element: gathered, written, and a fault after it (R218, R219) (DEDUCED, notes/assumptions 55). What was
read for the piece is forgotten with it. -/
def doPiece (s : State) (g ch : Nat) (x : XCmd) (stop : Nat) : State :=
  let w := gather g ch x stop { s := s, pos := x.pos, cells := [], va := 0, key := 0, route := 0, fault := none } 256
  let bytes := x.bytes + w.cells.length
  let s1 := engStore w.s g ch w.key w.route (fillsOf x) (w.va - BitVec.ofNat 64 w.cells.length) x.bytes (sortCells w.cells)
  let s2 := setXHead s1 g ch fun x => { x with pos := w.pos, bytes := bytes, asks := if w.cells.isEmpty then x.asks else [] }
  match w.fault with
  | some c => failXfer s2 g ch c bytes
  | none => s2

/-! ### Bins (R217) -/

/-- A bump of a token's bin by 1: made at once at a local home, else with its message, whose reply is awaited. -/
def binBump (s : State) (g ch : Nat) (x : XCmd) (b : Nat) : State :=
  let va := x.tbase + BitVec.ofNat 64 (16 * b)
  match engAddr s g x needAmo va 8 with
  | .ok t ga key rt _ =>
    if isLocal g ga then
      match performAt t g key (.rmw .bump 1 0) ga with
      | (u, .value l) => setXHead u g ch fun y => { y with bumped := some (b, BitVec.ofNat 64 (leNat l)) }
      | (u, .poisoned _) => failXfer u g ch causePOISON x.bytes
    else setXHead (engSend t g ch key rt (.rmw .bump 1 0) ga va x.bytes) g ch fun y => { y with bumping := some (b, t.nextId), bumped := none }
  | .fault t c => failXfer t g ch c x.bytes
  | .wait t => t

/-- The token at hand is done, with so many bytes written. -/
def binDone (s : State) (g ch n : Nat) : State :=
  setXHead s g ch fun y => { y with pos := y.pos + 1, bytes := y.bytes + n, place := none, bumped := none, asks := [] }

/-- A bump has been made: a refused one sends the token to the overflow bin, or drops it there; else the bin's base says where it goes. -/
def binAim (s : State) (g ch : Nat) (x : XCmd) (b : Nat) (c : Word) : State :=
  if c = BitVec.allOnes 64 then (if b = x.nb then binDone s g ch 0 else binBump s g ch x x.nb)
  else match engRead s g ch x (x.tbase + BitVec.ofNat 64 (16 * b + 8)) 8 1 [] with
    | .ok t _ _ _ l => setXHead t g ch fun y => { y with place := some (BitVec.ofNat 64 (leNat l) + 8 * c), bumped := none }
    | .fault t e => failXfer t g ch e x.bytes
    | .wait t => t

/-- The token is copied to its place. -/
def binPut (s : State) (g ch : Nat) (x : XCmd) (va : Word) : State :=
  match engRead s g ch x (patAddr x.spat x.xa x.pos) 8 1 [] with
  | .fault t e => failXfer t g ch e x.bytes
  | .wait t => t
  | .ok t _ _ _ l =>
    match engAddr t g x needWrite va 8 with
    | .ok u ga key rt _ => binDone (engStore u g ch key rt false va x.bytes (cellsAt ga l)) g ch 8
    | .fault u e => failXfer u g ch e x.bytes
    | .wait u => u

/-- One part of a token of `xbins`: its bin's bump, that of the overflow bin, its place, or its write. -/
def binStep (s : State) (g ch : Nat) (x : XCmd) : State :=
  match x.place, x.bumped, x.bumping with
  | some va, _, _ => binPut s g ch x va
  | none, some (b, c), _ => binAim s g ch x b c
  | none, none, some _ => s
  | none, none, none =>
    let list (i : Nat) : Word := x.xb + BitVec.ofNat 64 (2 * i)
    match engRead s g ch x (list x.pos) 2 (runLen list x.pos 2 (xTotal x - x.pos)) [] with
    | .fault t e => failXfer t g ch e x.bytes
    | .wait t => t
    | .ok t _ _ _ l => binBump t g ch x (Nat.min (leNat l) x.nb)

/-- A fault of the command at the head of a channel shows once every earlier byte has been performed (R219). -/
def faultDue (s : State) (g ch : Nat) (f : Nat × Nat) : State := if chanOut s g ch then s else chanFault s g ch f.1 f.2

/-- ENGINE_PIECE: the next piece of the command at the head of a channel (R218). -/
def enginePiece (s : State) (g ch : Nat) : State :=
  match (getChan s g ch).queue with
  | x :: _ =>
    match x.fault with
    | some f => faultDue s g ch f
    | none =>
      if !x.begun || isBinding x || decide (xTotal x ≤ x.pos) then s
      else match x.kind with
        | .bins => binStep s g ch x
        | _ => doPiece s g ch x (xTotal x)
  | [] => s

def execEnginePiece (s : State) : Host.Outcome State Fault Refusal := .next (enginePiece s s.argA s.argB)

/-! ### Feeds (R223) -/

/-- Elements of a strip from n on, or the fault of the first that fails. -/
def stripElems (s : State) (g ch : Nat) (x : XCmd) (n : Nat) : Nat → Except (State × Option Nat) (State × List Lane)
  | 0 => .ok (s, [])
  | k + 1 =>
    match engRead s g ch x (patAddr x.spat x.xb n) 4 (runLen (patAddr x.spat x.xb) n 4 (k + 1)) [] with
    | .fault t c => .error (t, some c)
    | .wait t => .error (t, none)
    | .ok t _ _ _ l => (stripElems t g ch x (n + 1) k).map fun r => (r.1, BitVec.ofNat 32 (leNat l) :: r.2)

/-- FEED_STRIP_DELIVER: the next strip of an inbound binding, up to four ahead of the pops. -/
def feedStripDeliver (s : State) (g ch : Nat) : State :=
  match (getChan s g ch).queue with
  | x :: _ =>
    let (t, r) := bindTarget g x.xa
    match tget none (getCore s t).feeds r with
    | some f =>
      let total := patTotal x.spat
      if x.fault.isSome then s
      else if x.kind ≠ .bindIn ∨ !x.begun ∨ !bound s g ch x ∨ total ≤ x.pos ∨ 4 ≤ f.strips.length then s
      else
        match stripElems s g ch x x.pos (Nat.min 64 (total - x.pos)) with
        | .ok (s1, l) =>
          let s2 := setXHead s1 g ch fun y => { y with pos := y.pos + 64, bytes := y.bytes + 4 * l.length, asks := [] }
          modCore s2 t fun c =>
            { c with feeds := tset none c.feeds r (some { f with strips := f.strips ++ [vregOfList l], last := decide (total ≤ x.pos + 64) }) }
        | .error (s1, some c) => failXfer s1 g ch c x.bytes
        | .error (s1, none) => s1
    | none => s
  | [] => s

def execFeedStripDeliver (s : State) : Host.Outcome State Fault Refusal := .next (feedStripDeliver s s.argA s.argB)

/-- FEED_STRIP_WRITE: a piece of the oldest pushed strip is written to the next elements; lanes beyond the last are discarded. -/
def feedStripWrite (s : State) (g ch : Nat) : State :=
  match (getChan s g ch).queue with
  | x :: _ =>
    let total := patTotal x.dpat
    if x.kind ≠ .bindOut ∨ !x.begun ∨ x.fault.isSome ∨ !bound s g ch x ∨ total ≤ x.pos then s
    else
      let stop := Nat.min total (x.pos / 64 * 64 + 64)
      let s1 := doPiece s g ch x stop
      let (t, r) := bindTarget g x.xa
      if ((getChan s1 g ch).queue.head?).any fun y => y.pos == stop then
        modCore s1 t fun c => { c with feeds := tset none c.feeds r ((tget none c.feeds r).map fun f => { f with strips := f.strips.drop 1 }) }
      else s1
  | [] => s

def execFeedStripWrite (s : State) : Host.Outcome State Fault Refusal := .next (feedStripWrite s s.argA s.argB)

/-! ### Waits, reads and cancellation (R220–R222) -/

/-- `xwait` (R220). -/
def execXwait (p : Pfx) (a b : Reg) (s : State) : Host.Outcome State Fault Refusal :=
  .next (issue (.xwait p a b) s fun s g k =>
    let ch := (readX s g k a).toNat % 16
    let id := (readX s g k b).toNat % 2 ^ 48
    let c := getChan s g ch
    if c.pid.any fun q => decide (q ≤ id) then .trap causeDEP (BitVec.ofNat 64 (ch * 2 ^ 48 + id))
    else if id = 0 ∨ id < c.w then retire s g k (.xwait p a b) []
    else .stall)

/-- `xid` (R221). -/
def execXid (p : Pfx) (d a : Reg) (s : State) : Host.Outcome State Fault Refusal :=
  .next (issue (.xid p d a) s fun s g k =>
    let xa := (readX s g k a).toNat
    let c := getChan s g (xa % 16)
    let v : Word := match bitsOf xa 8 2 with
      | 0 => BitVec.ofNat 64 c.w
      | 1 => BitVec.ofNat 64 c.next
      | 2 => BitVec.ofNat 64 (c.pid.getD 0)
      | _ => c.frec
    retire s g k (.xid p d a) [(d, v)])

/-- What `xcancel` does at once: commands that have not begun are poisoned, and a binding in progress ends (R222) (DEDUCED, notes/assumptions 56). -/
def cancelChan (s : State) (g ch : Nat) : State :=
  let c := getChan s g ch
  let waiting := c.queue.filter fun x => !x.begun
  let s1 := match c.queue with
    | x :: _ => if x.begun && isBinding x then unbind s g ch x else s
    | [] => s
  modChan s1 g ch fun c =>
    { c with
      queue := (c.queue.filter XCmd.begun).map fun x => { x with ended := isBinding x }
      pid := c.pid.or (waiting.head?.map XCmd.id)
      cancelled := waiting.length }

/-- `xcancel` (R222). -/
def execXcancel (p : Pfx) (d a : Reg) (s : State) : Host.Outcome State Fault Refusal :=
  .next (issue (.xcancel p d a) s fun s g k =>
    let i := Instr.xcancel p d a
    let xa := (readX s g k a).toNat
    let ch := xa % 16
    let s1 := if (getCtx s g k).begun then s else cancelChan s g ch
    let c := getChan s1 g ch
    let out : List (Reg × Word) := [(d, BitVec.ofNat 64 c.cancelled)]
    if xa / 256 % 2 = 0 then retire (modChan s1 g ch fun c => { c with cancelled := 0 }) g k i out
    else if c.queue.isEmpty then
      retire (modChan s1 g ch fun c => { c with pid := none, frec := 0, w := c.next, cancelled := 0 }) g k i out
    else if (getCtx s g k).begun then .stall
    else .done (modCtx s1 g k fun x => { x with begun := true }))

end Sys2Proof.Machine
end

