-- ==== Sys2Proof/Machine/Launch.lean ====
section
/-!
DEFINITION. Launch queues, records, graphs, taking and preparing cores, retirement and pre-emption (R89, R90, R264–R276, R314, R390–R397).
-/
namespace Sys2Proof.Machine

/-! ### Queues and records (R390–R392). A queue is numbered 4 × die + q. -/

def launchAt (s : State) (q : Nat) : Option Launch := (getLq s (q / 4) (q % 4)).launch
def putLaunch (s : State) (q : Nat) (l : Option Launch) : State := modLq s (q / 4) (q % 4) fun x => { x with launch := l }

/-- Global address of a module physical address of the module of a queue. -/
def onModule (q pa : Nat) : Nat := q / 64 * 2 ^ 48 + pa

/-- n bytes of a record from an offset, as a number. -/
def recNum (r : List Byte) (o n : Nat) : Nat := leNat ((r.drop o).take n)

def recKind (r : List Byte) : Nat := recNum r 8 1 % 4
def recPrio (r : List Byte) : Nat := recNum r 8 1 / 4 % 4
def recScrub (r : List Byte) : Bool := recNum r 8 1 / 16 % 2 == 1
def recVqwv (r : List Byte) : Bool := recNum r 8 1 / 32 % 2 == 1
def recVqw (r : List Byte) (role : Nat) : Nat := bitsOf (recNum r 8 8) (16 + 4 * role) 4
/-- Image address of a role, 0 for none. -/
def recImage (r : List Byte) (role : Nat) : Nat := recNum r (0x30 + 8 * role) 6
def recNtcb (r : List Byte) : Nat := bitsOf (recNum r 0x50 8) 0 13
def recTcbBase (r : List Byte) : Nat := bitsOf (recNum r 0x50 8) 32 21
def recSetup (r : List Byte) : Nat := recNum r 0x58 6
def recSave (r : List Byte) : Nat := recNum r 0x60 6
def recGraph (r : List Byte) : Nat := recNum r 0x68 6
def recNnode (r : List Byte) : Nat := recNum r 0x70 2

/-- Targets of a record, in ascending core number; core indices 52 to 63 are kept for the check of R264. -/
def targetsOf (q : Nat) (r : List Byte) : List Nat :=
  ([0x10, 0x20].flatMap fun o =>
    let w := recNum r o 8
    let cores := recNum r (o + 8) 8
    ((upFrom 0 16).filter fun d => w / 2 ^ d % 2 == 1).flatMap fun d =>
      ((upFrom (bitsOf w 16 7) (bitsOf w 23 8 + 1)).filter fun c => decide (c < 128)).flatMap fun c =>
        ((upFrom 0 64).filter fun i => cores / 2 ^ i % 2 == 1).map fun i => q / 64 * 131072 + d * 8192 + c * 64 + i).foldl (fun l g => sadd g l) []

/-- Clusters of the targets, ascending. -/
def clustersOf (l : List Nat) : List Nat := l.foldl (fun t g => sadd (clusterOf g) t) []

/-! ### Completions (R396) -/

/-- COMPLETION_RECORD: the record goes to the queue's ring in host memory, and its vector is signalled; the queue is free. -/
def completeLaunch (s : State) (q : Nat) (tag : Word) (head status code node runs amount : Nat) : State :=
  let x := getLq s (q / 4) (q % 4)
  let a := x.cq.toNat / 32 * 32 + 32 * (x.cqt.toNat % 2 ^ fget F.lqLogCq x.cfg)
  let s1 := hostWrite s a (leBytes tag.toNat 8 ++ leBytes (status + code * 2 ^ 8 + node * 2 ^ 16 + runs * 2 ^ 32) 8 ++ leBytes amount 8
    ++ leBytes (head % 2 ^ 32 + q % 64 * 2 ^ 32) 8)
  let s2 := modLq s1 (q / 4) (q % 4) fun x => { x with cqt := x.cqt + 1, launch := none }
  modMod s2 (q / 64) fun m => { m with msix := m.msix ++ [q % 64] }

/-! ### The checks of a record (R90, R264, R393, R394) -/

/-- First byte that is not 0 among n bytes from an offset. -/
def firstSet (get : Nat → Nat) (o n : Nat) : Option Nat := (upFrom o n).find? fun i => get i != 0

/-- An image: n bytes from an offset as a number. -/
def imgNum (s : State) (ga o n : Nat) : Nat := readNat s (ga + o) n

def imgSecs (s : State) (ga : Nat) : Nat := imgNum s ga 7 1

/-- Sections of an image: KIND, LOAD, SIZE, FILE. -/
def sections (s : State) (ga : Nat) : List (Nat × Nat × Nat × Nat) :=
  (upFrom 0 (imgSecs s ga)).map fun i =>
    let o := 0x40 + 16 * i
    (imgNum s ga o 1, imgNum s ga (o + 4) 4, imgNum s ga (o + 8) 4, imgNum s ga (o + 12) 4)

/-- Bytes that the header declares for a section's kind, and where its memory begins (R84, R89) (DEDUCED, notes/assumptions 89). -/
def declared (s : State) (ga kind : Nat) : Nat × Nat :=
  match kind with
  | 0 => (imgNum s ga 0x0A 2, 0)
  | 1 => (imgNum s ga 0x0C 4, 0)
  | 2 => (imgNum s ga 0x10 4, 0)
  | _ => (imgNum s ga 0x16 2, 0xC000)

/-- Where the memory of a section's kind ends on a core of a role: frames below the firmware's for code, the TCM, the scratchpad, and the migrant region,
which only a K-core has (R84, R264) (DEDUCED, notes/assumptions 164). -/
def memoryEnd (role kind : Nat) : Nat :=
  match kind with
  | 0 => if role = 3 then 0xB800 else 0x7800
  | 1 => 131072
  | 2 => 2097152
  | _ => if role = 3 then 0x10000 else 0xC000

/-- Some section of a kind passes the end of its memory: codes 3, 4, 7 and 9, never code 1 (R264). -/
def sectionBeyond (s : State) (ga role kind : Nat) : Bool :=
  (sections s ga).any fun y => (if 3 ≤ y.1 then 3 else y.1) == kind && decide (memoryEnd role kind < y.2.1 + y.2.2.1)

/-- Code 1: offset of the offending byte of an image that is not well formed, its conditions in R264's order (R90, R264). A section beyond its memory is
left to the other codes (DEDUCED, notes/assumptions 164). -/
def badFormat (s : State) (ga role : Nat) : Option Nat :=
  let get (i : Nat) : Nat := imgNum s ga i 1
  if imgNum s ga 0 4 ≠ 0x4D4C4F44 then some 0
  else if imgNum s ga 4 2 ≠ 1 then some 4
  else if get 6 ≠ role then some 6
  else if imgSecs s ga < 1 ∨ 4 < imgSecs s ga then some 7
  else
    let descs := (upFrom 0 (imgSecs s ga)).map fun i => 0x40 + 16 * i
    let kinds := descs.find? fun o => decide (3 < get o)
    let reserved := ((0x28, 24) :: descs.map fun o => (o + 1, 3)).findSome? fun p => firstSet get p.1 p.2
    let contents := descs.findSome? fun o =>
      let size := imgNum s ga (o + 8) 4
      let file := imgNum s ga (o + 12) 4
      if size ≠ 0 ∧ (file < 0x40 + 16 * imgSecs s ga ∨ region (ga + file + size - 1) = .hole) then some (o + 12) else none
    let sizes := descs.findSome? fun o =>
      let load := imgNum s ga (o + 4) 4
      let last := load + imgNum s ga (o + 8) 4
      let d := declared s ga (get o)
      if load < d.2 then some (o + 4)
      else if d.2 + d.1 < last ∧ last ≤ memoryEnd role (get o) then some (o + 8)
      else none
    kinds.or (reserved.or (contents.or sizes))

/-- The images that a record names: role and global address (DEDUCED, notes/assumptions 87). -/
def imagesOf (q : Nat) (r : List Byte) : List (Nat × Nat) :=
  ((upFrom 0 4).filter fun role => recImage r role != 0).map fun role => (role, onModule q (recImage r role))

/-- The set-up block with its entries lies in HBM at a multiple of 8 (R394). -/
def setupOk (s : State) (q : Nat) (r : List Byte) : Bool :=
  decide (recSetup r % 8 = 0 ∧ recSetup r + 0x20 ≤ 0x010000000000
    ∧ recSetup r + 0x20 + 16 * Nat.min 48 (readNat s (onModule q (recSetup r)) 1) ≤ 0x010000000000)

/-- Barrier entries of the set-up block: name, level, instance, EXPECT. -/
def setupBars (s : State) (q : Nat) (r : List Byte) : List (Nat × Nat × Nat × Nat) :=
  if recSetup r = 0 ∨ !setupOk s q r then []
  else
    let a := onModule q (recSetup r)
    (upFrom 0 (readNat s a 1 % 64)).map fun i =>
      let w := readNat s (a + 0x20 + 16 * i) 8
      (bitsOf w 0 6, bitsOf w 8 2, bitsOf w 16 8, bitsOf w 32 32)

def setupDommem (s : State) (q : Nat) (r : List Byte) : Word :=
  if recSetup r = 0 ∨ !setupOk s q r then 0 else BitVec.ofNat 64 (readNat s (onModule q (recSetup r) + 8) 8)

def setupCount (s : State) (q : Nat) (r : List Byte) (level : Nat) : Nat :=
  if recSetup r = 0 ∨ !setupOk s q r then 0 else readNat s (onModule q (recSetup r) + 0x10 + 4 * level) 4

/-- Targets in the unit of a level that a target lies in. -/
def groupSize (targets : List Nat) (level g : Nat) : Nat :=
  let unit (x : Nat) : Nat := match level with | 0 => clusterOf x | 1 => dieOf x | _ => modOf x
  (targets.filter fun x => unit x == unit g).length

/-- First bad byte of the set-up block, from its start (DEDUCED, notes/assumptions 92). -/
def badSetup (s : State) (q : Nat) (r : List Byte) (targets : List Nat) : Option Nat :=
  if recSetup r = 0 then none
  else
    let a := onModule q (recSetup r)
    let get (i : Nat) : Nat := readNat s (a + i) 1
    let dm := setupDommem s q r
    if 48 < get 0 then some 0
    else match firstSet get 1 7 with
      | some o => some o
      | none =>
        if dm.getLsbD 63 ∧ !inDomain s (q / 64) (bitsOf dm.toNat 53 10) then some 8
        else match (upFrom 0 3).find? fun l => dm.getLsbD (16 * l + 15) && targets.any fun g => groupSize targets l g != setupCount s q r l with
          | some l => some (0x10 + 4 * l)
          | none => (upFrom 0 (get 0)).findSome? fun i =>
            let o := 0x20 + 16 * i
            let bars := setupBars s q r
            let n := get o
            if 47 < n ∨ (bars.take i).any (fun b => b.1 == n) then some o
            else if 3 < get (o + 1) then some (o + 1)
            else if get (o + 1) = 3 ∧ 64 ≤ get (o + 2) then some (o + 2)
            else if get (o + 3) ≠ 0 then some (o + 3)
            else firstSet get (o + 8) 8

/-- First byte of a launch record that holds a reserved bit or a bad field (R392) (DEDUCED, notes/assumptions 88, 91, 93). -/
def badRecord (s : State) (q : Nat) (r : List Byte) (targets : List Nat) : Option Nat :=
  let get (i : Nat) : Nat := recNum r i 1
  let bad (i : Nat) : Bool :=
    if i = 0x08 then decide (2 ≤ get i % 4 ∨ 64 ≤ get i)
    else if i = 0x09 ∨ (0x0C ≤ i ∧ i < 0x10) then get i != 0
    else if i = 0x12 ∨ i = 0x22 then decide (127 < bitsOf (recNum r (i - 2) 8) 16 7 + bitsOf (recNum r (i - 2) 8) 23 8)
    else if i = 0x13 ∨ i = 0x23 then decide (128 ≤ get i)
    else if (0x14 ≤ i ∧ i < 0x18) ∨ (0x24 ≤ i ∧ i < 0x28) then get i != 0
    else if i = 0x1E ∨ i = 0x2E then decide (16 ≤ get i)
    else if i = 0x1F ∨ i = 0x2F then get i != 0
    else if 0x30 ≤ i ∧ i < 0x50 then
      let role := (i - 0x30) / 8
      (i % 8 == 0 && recImage r role == 0 && targets.any fun g => roleOf g == role) || (decide (6 ≤ i % 8) && get i != 0)
    else if i = 0x50 then decide (4096 < recNum r 0x50 2 % 8192)
    else if i = 0x51 then decide (32 ≤ get i)
    else if i = 0x52 ∨ i = 0x53 then get i != 0
    else if i = 0x54 then
      recNtcb r != 0 && (recTcbBase r % 64 != 0 || decide (recTcbBase r < 0x100000) || decide (0x300000 < recTcbBase r + 64 * recNtcb r))
    else if i = 0x56 then decide (32 ≤ get i)
    else if i = 0x57 then get i != 0
    else if i = 0x58 then recSetup r != 0 && !setupOk s q r
    else if 0x5E ≤ i ∧ i < 0x60 then get i != 0
    else if (0x66 ≤ i ∧ i < 0x68) ∨ (0x6E ≤ i ∧ i < 0x70) ∨ (0x72 ≤ i ∧ i < 0x80) then get i != 0
    else false
  (upFrom 0 128).find? bad

/-- First byte of a graph record that holds a field it may not set (R392). -/
def badGraph (r : List Byte) : Option Nat :=
  let get (i : Nat) : Nat := recNum r i 1
  (upFrom 0 128).find? fun i =>
    if i < 8 then false
    else if i = 8 then decide (16 ≤ get i)
    else if 0x68 ≤ i ∧ i < 0x6E then false
    else if i = 0x70 ∨ i = 0x71 then false
    else get i != 0

/-- Check 10: the queue's tenant (R393). -/
def badTenant (s : State) (q : Nat) : Option Nat :=
  let ten := fget F.lqTen (getLq s (q / 4) (q % 4)).cfg
  if ten = 0 ∨ !(tget 0 (getMod s (q / 64)).tenants ten).getLsbD 63 then some ten else none

/-- The first failing check of a launch record: code and amount (R264, R393). The limit of a section is the end of its memory; an image whose role is not
K holds no migrant image, so a MIGSIZE above 0 fails check 9 there (DEDUCED, notes/assumptions 164). -/
def checkLaunch (s : State) (q : Nat) (r : List Byte) : Option (Nat × Nat) :=
  let targets := targetsOf q r
  let images := imagesOf q r
  let perImage (code : Nat) (amount : Nat → Nat) (limit : Nat → Nat) : Option (Nat × Nat) :=
    (images.find? fun i => decide (limit i.1 < amount i.2)).map fun i => (code, amount i.2)
  let perKind (code kind : Nat) (amount : Nat → Nat) (limit : Nat → Nat) : Option (Nat × Nat) :=
    (images.find? fun i => decide (limit i.1 < amount i.2) || sectionBeyond s i.2 i.1 kind).map fun i => (code, amount i.2)
  let asked (l : Nat) : Nat := (((setupBars s q r).filter fun b => b.2.1 == l).map fun b => b.2.2.1).dedup.length
  let checks : List (Option (Nat × Nat)) :=
    [(images.findSome? fun i => badFormat s i.2 i.1).map fun o => (1, o),
     (targets.find? fun g => decide (52 ≤ indexOf g) || !(getDie s (dieOf g)).rdyCl.getLsbD (clusterOf g % 128)).map fun g => (2, g % 131072),
     perKind 3 0 (fun ga => imgNum s ga 0x0A 2) (memoryEnd · 0),
     perKind 4 1 (fun ga => imgNum s ga 0x0C 4) (memoryEnd · 1),
     perImage 5 (fun ga => imgNum s ga 0x14 1) (fun role => if role = 2 then 9 else 10),
     perImage 6 (fun ga => imgNum s ga 0x15 1) (fun _ => 48),
     perKind 7 2 (fun ga => imgNum s ga 0x10 4 + 64 * recNtcb r) (memoryEnd · 2),
     ((upFrom 0 4).find? fun l => decide ((if l = 3 then 64 else 256) < asked l)).map fun l => (8, asked l),
     perKind 9 3 (fun ga => imgNum s ga 0x16 2) (fun role => memoryEnd role 3 - 0xC000),
     (badTenant s q).map fun t => (10, t),
     (badRecord s q r targets).map fun o => (11, o),
     (badSetup s q r targets).map fun o => (11, 0x100 + o),
     if recSave r ≠ 0 ∧ (recSave r % 2 ^ 24 ≠ 0 ∨ 0x010000000000 < recSave r + 2 ^ 24 * (clustersOf targets).length) then some (12, recSave r)
     else none]
  checks.findSome? id

/-- The launch unit reads the headers of a record's images and its set-up block: their errors are found (R411). -/
def findRecord (s : State) (q : Nat) (r : List Byte) : State :=
  findWhere s fun ga => ((imagesOf q r).any fun i => within i.2 128 ga) || (recSetup r != 0 && within (onModule q (recSetup r)) 0x320 ga)

/-- The launch unit reads the contents of a record's images (R411). -/
def findContents (s : State) (q : Nat) (r : List Byte) : State :=
  findWhere s fun ga => (imagesOf q r).any fun i => (sections s i.2).any fun y => within (i.2 + y.2.2.2) y.2.2.1 ga

/-! ### Graphs (R397) -/

/-- The queue accepts the launch of a record: it waits for its cores (R265) (DEDUCED, notes/assumptions 86). -/
def acceptLaunch (s : State) (q : Nat) (r : List Byte) (tag : Word) (head prio : Nat) (g : Option GraphRun) : State :=
  putLaunch { s with launches := s.launches + 1 } q
    (some { rcd := r, tag := tag, head := head, prio := prio, tenant := fget F.lqTen (getLq s (q / 4) (q % 4)).cfg, order := s.launches
            taken := false, begun := false, clusters := clustersOf (targetsOf q r), graph := g })

/-- Nodes are walked until a LAUNCH node's launch is accepted or the graph completes: END, a fault, or a rejection (R397) (DEDUCED, notes/assumptions 94, 95). -/
def walkGraph (s0 : State) (q : Nat) (tag : Word) (head prio : Nat) (g : GraphRun) : Nat → State
  | 0 => s0
  | fuel + 1 =>
    let s := findWhere s0 (within (onModule q (g.base + 32 * g.node)) 32)
    let fault (s : State) (r : Nat) (g : GraphRun) : State := completeLaunch s q tag head 2 r g.node g.runs 0
    let go (s : State) (n : Nat) (iter : Tbl Nat) : State :=
      let g1 := { g with node := n, idle := g.idle + 1, iter := iter }
      if g1.idle = 65536 then fault s 5 g1 else walkGraph s q tag head prio g1 fuel
    if g.nodes ≤ g.node then fault s0 1 g
    else
      let a := onModule q (g.base + 32 * g.node)
      let w := readNat s a 8
      let addr := readNat s (a + 8) 6
      let nxt := bitsOf w 16 16
      let alt := bitsOf w 32 16
      match bitsOf w 0 4 with
      | 0 => completeLaunch s q tag head 0 0 g.node g.runs 0
      | 1 =>
        let r := readBytes s 0 (onModule q addr) 128
        let t := findRecord (findWhere s (within (onModule q addr) 128)) q r
        if recKind r ≠ 0 then fault t 3 g
        else match checkLaunch t q r with
          | some (code, amount) => completeLaunch t q tag head 1 code g.node g.runs amount
          | none => acceptLaunch t q r tag head prio (some { g with next := nxt })
      | 2 =>
        let ga := onModule q addr
        if addr % 8 ≠ 0 ∨ region ga = .hole ∨ (isWindow ga ∧ (readReg s ga).isNone) then fault s 4 g
        else
          let v := if isWindow ga then ((readReg s ga).getD 0).toNat else readNat s ga 8
          go (if isWindow ga then s else findWhere s (within ga 8)) (if v &&& readNat s (a + 0x10) 8 = readNat s (a + 0x18) 8 then nxt else alt) g.iter
      | 3 =>
        if tget 0 g.iter g.node < readNat s (a + 0x10) 4 then go s nxt (tput g.iter g.node (tget 0 g.iter g.node + 1))
        else go s alt (tput g.iter g.node 0)
      | _ => fault s 2 g

def walkFuel : Nat := 65537

/-! ### Taking records (R391) -/

/-- The launch unit takes the next record (R391, R403). -/
def mayTake (s : State) (d q : Nat) : Bool :=
  let x := getLq s d q
  (getDie s d).rdy.getLsbD 0 && fget F.lqEn x.cfg == 1 && !x.qerr && x.head != x.tail && x.launch.isNone
    && decide ((x.cqt - x.cqh).toNat < 2 ^ fget F.lqLogCq x.cfg)

/-- Where the record at HEAD lies (DEDUCED, notes/assumptions 96), and the record. -/
def nextRecordGa (s : State) (d q : Nat) : Nat :=
  let x := getLq s d q
  d / 16 * 2 ^ 48 + x.base.toNat + 128 * (x.head.toNat % 2 ^ fget F.lqLogSz x.cfg)
def nextRecord (s : State) (d q : Nat) : List Byte := readBytes s 0 (nextRecordGa s d q) 128

/-- LAUNCH_TAKE: a launch record is taken and checked; LAUNCH_REJECT completes it (R264, R391, R393). -/
def launchTake (s : State) (d q : Nat) : State :=
  let r := nextRecord s d q
  if !mayTake s d q || recKind r == 1 then s
  else
    let head := (getLq s d q).head.toNat
    let tag : Word := BitVec.ofNat 64 (recNum r 0 8)
    let s1 := findRecord (findWhere (modLq s d q fun x => { x with head := x.head + 1 }) (within (nextRecordGa s d q) 128)) (4 * d + q) r
    match checkLaunch s1 (4 * d + q) r with
    | some (code, amount) => completeLaunch s1 (4 * d + q) tag head 1 code 0 0 amount
    | none => acceptLaunch s1 (4 * d + q) r tag head (recPrio r) none

def execLaunchTake (s : State) : Host.Outcome State Fault Refusal := .next (launchTake s s.argA s.argB)

/-- GRAPH_START: a graph record is taken and its nodes are walked (R391, R397). -/
def graphStart (s : State) (d q : Nat) : State :=
  let r := nextRecord s d q
  if !mayTake s d q || recKind r != 1 then s
  else
    let n := 4 * d + q
    let head := (getLq s d q).head.toNat
    let tag : Word := BitVec.ofNat 64 (recNum r 0 8)
    let s1 := findWhere (modLq s d q fun x => { x with head := x.head + 1 }) (within (nextRecordGa s d q) 128)
    match (badTenant s1 n).map fun t => (10, t), badGraph r with
    | some (code, amount), _ => completeLaunch s1 n tag head 1 code 0 0 amount
    | none, some o => completeLaunch s1 n tag head 1 11 0 0 o
    | none, none =>
      walkGraph s1 n tag head (recPrio r) { base := recGraph r, nodes := recNnode r, node := 0, next := 0, runs := 0, idle := 0, iter := [] } walkFuel

def execGraphStart (s : State) : Host.Outcome State Fault Refusal := .next (graphStart s s.argA s.argB)

/-! ### Taking cores (R265, R273) -/

/-- Cores of a cluster. -/
def coresIn (q : Nat) : List Nat := upFrom (q * 64) 52

/-- Launches that hold cores of a cluster. -/
def launchesOn (s : State) (c : Nat) : List Nat := ((coresIn c).filterMap fun g => (getCore s g).launch).dedup

/-- The launch unit's start message to a core of a cluster is under way. -/
def starting (s : State) (c : Nat) (g : Nat) : Bool :=
  clusterOf g == c && s.net.any fun m => match m.body with | .launchStart t _ _ => t == g | _ => false

/-- Every core of a launch in a cluster has started (R273). -/
def startedOn (s : State) (c o : Nat) : Bool :=
  !(getCluster s c).prepare.contains o && (coresIn c).all fun g => (getCore s g).launch != some o || !starting s c g

/-- A launch on a cluster stands in the way of a new one: it holds a target, belongs to another tenant, or the new one scrubs (R265) (DEDUCED, notes/assumptions 99). -/
def conflicts (s : State) (c : Nat) (l : Launch) (targets : List Nat) (o : Nat) : Bool :=
  (targets.any fun g => clusterOf g == c && (getCore s g).launch == some o) || recScrub l.rcd
    || (launchAt s o).any fun x => x.tenant != l.tenant

/-- A launch can be pre-empted on a cluster by one of a priority (R265, R273, R395). -/
def preemptible (s : State) (c prio o : Nat) : Bool :=
  ((launchAt s o).any fun x => decide (x.prio < prio) && recSave x.rcd != 0) && startedOn s c o

/-- Launches to pre-empt on a cluster. -/
def lowerOn (s : State) (c q : Nat) : List Nat :=
  match launchAt s q with
  | some l => (launchesOn s c).filter fun o => o != q && conflicts s c l (targetsOf q l.rcd) o
  | none => []

/-- A launch saved from a cluster comes before a waiting one of no higher priority that would stand in its way (R265, R276) (DEDUCED, notes/assumptions
109). -/
def savedFirst (s : State) (c q : Nat) (l : Launch) : Bool :=
  (s.saves.filter fun v => v.cluster == c).any fun v =>
    (v.queues.any fun o => (launchAt s o).any fun x => decide (l.prio ≤ x.prio))
      && (v.tenant != l.tenant || recScrub l.rcd || (targetsOf q l.rcd).any fun g => v.owned.any fun p => p.1 == g)

/-- The first target whose cluster is not READY: it has been retired since the record was checked (R264, R403) (DEDUCED, notes/assumptions 98). -/
def retiredTarget (s : State) (q : Nat) (l : Launch) : Option Nat :=
  (targetsOf q l.rcd).find? fun g => !(getDie s (dieOf g)).rdyCl.getLsbD (clusterOf g % 128)

/-- A waiting launch can take all its cores (R265, R403). -/
def canTake (s : State) (q : Nat) : Bool :=
  match launchAt s q with
  | some l => !l.taken && (retiredTarget s q l).isNone && l.clusters.all fun c =>
      (getCluster s c).preemptFor.isNone && !savedFirst s c q l && (lowerOn s c q).all (preemptible s c l.prio)
  | none => false

/-- Queues of a module whose launches wait, in the order in which they are considered (R265). -/
def waitingLaunches (s : State) (m : Nat) : List Nat :=
  let before (a b : Launch) : Bool := decide (b.prio < a.prio) || (a.prio == b.prio && decide (a.order ≤ b.order))
  ((((upFrom (m * 64) 64).filterMap fun q => (launchAt s q).map fun l => (q, l)).filter fun p => !p.2.taken).mergeSort
    fun a b => before a.2 b.2).map Prod.fst

/-- Save area of a launch for one of its clusters (R395). -/
def areaFor (s : State) (q c : Nat) : Nat :=
  match launchAt s q with
  | some l => onModule q (recSave l.rcd + 2 ^ 24 * (l.clusters.takeWhile fun x => x != c).length)
  | none => 0

/-- A cluster's free targets go to the launch, and the cluster waits for its preparation (R267). -/
def giveCluster (s : State) (q c : Nat) (targets : List Nat) : State :=
  let s1 := (targets.filter fun g => clusterOf g == c).foldl (fun s g => modCore s g fun x => { x with launch := some q }) s
  modCluster s1 c fun x => { x with prepare := x.prepare ++ [q], preemptFor := none }

/-- TAKE_CORES: the first waiting launch that can takes its cores; clusters of lower launches are to be given up (R265, R273). One that a
retired cluster keeps from ever taking them is rejected (R264, R403). -/
def takeCores (s : State) (d q : Nat) : State :=
  let n := 4 * d + q
  match launchAt s n with
  | some l =>
    match if l.taken then none else retiredTarget s n l with
    | some g => completeLaunch s n l.tag l.head 1 2 (l.graph.elim 0 GraphRun.node) (l.graph.elim 0 GraphRun.runs) (g % 131072)
    | none =>
    if (waitingLaunches s (d / 16)).find? (canTake s) = some n then
      let s1 := putLaunch s n (some { l with taken := true })
      let targets := targetsOf n l.rcd
      l.clusters.foldl (fun t c =>
        match lowerOn s c n with
        | [] => giveCluster t n c targets
        | o :: _ => modCluster t c fun x => { x with preemptFor := some n, saveBase := BitVec.ofNat 64 (paOf (areaFor s o c)) }) s1
    else s
  | none => s

def execTakeCores (s : State) : Host.Outcome State Fault Refusal := .next (takeCores s s.argA s.argB)

/-! ### Preparation and start (R90, R267–R269, R314, R394) -/

/-- A byte of a cluster's TCMs or scratchpad: its place, TCMs first (R395) (DEDUCED, notes/assumptions 90). -/
def placeIn (c ga : Nat) : Option Nat :=
  match region ga with
  | .tcm g off => if g / 64 = c then some (g % 64 * 2 ^ 17 + off) else none
  | .spad q off => if q = c then some (52 * 2 ^ 17 + off) else none
  | _ => none

/-- Where that place lies. -/
def placeGa (c i : Nat) : Nat := if i < 52 * 2 ^ 17 then gaTcm (c * 64 + i / 2 ^ 17) (i % 2 ^ 17) else gaSpad c (i - 52 * 2 ^ 17)

/-- The request stands in a list at a unit of the cluster itself, not of a copy that is away: a deferred list or the tasks recorded at a future
(R149, R237). -/
def listedIn (s : State) (c : Nat) (m : Msg) : Bool :=
  m.listed && (feOpOf m).any fun o => (placeIn c o.2.1).isSome && placeFor s m o.2.1 == o.2.1

/-- Scrub: TCMs, scratchpad, full bits, barrier instances and queues of a cluster are zeroed, the lists at its full/empty units among them
(R267). -/
def scrubCluster (s : State) (c : Nat) : State :=
  let mine (ga : Nat) : Bool := (placeIn c ga).isSome
  let s1 := { s with
    mem := s.mem.filter fun e => !mine e.1
    memKey := s.memKey.filter fun e => !mine (16 * e.1)
    full := s.full.filter fun d => !mine (8 * d)
    poison := s.poison.filter fun d => !mine (8 * d)
    latent := s.latent.filter fun d => !mine (8 * d)
    soft := s.soft.filter fun d => !mine (8 * d)
    net := s.net.filter fun m => !listedIn s c m
    bars := (upFrom 0 256).foldl (fun t i => tdel t (gaBarCluster c i)) s.bars }
  modCluster s1 c fun x => { x with ready := [], taskWait := [], tcbCount := 0 }

/-- Bytes of a section of an image. -/
def secBytes (s : State) (ga : Nat) (x : Nat × Nat × Nat × Nat) : List Byte := readBytes s 0 (ga + x.2.2.2) x.2.2.1

def putCode (code : Tbl Byte) (o : Nat) (bytes : List Byte) : Tbl Byte := (cellsAt o bytes).foldl (fun t b => tset 0 t b.1 b.2) code

/-- Frames that a section touches. -/
def touched (x : Nat × Nat × Nat × Nat) : BitVec 64 :=
  ((upFrom 0 64).filter fun f => decide (x.2.2.1 ≠ 0) && decide (x.2.1 / 1024 ≤ f) && decide (f ≤ (x.2.1 + x.2.2.1 - 1) / 1024)).foldl
    (fun v f => v ||| BitVec.ofNat 64 (2 ^ f)) 0

/-- Frames 48 to 63, the migrant region of a K-core (R84). -/
def migrantFrames : BitVec 64 := 0xFFFF000000000000

/-- The instruction store as a load leaves it: code sections and the firmware trap image that the launch of queue q started with, with their
frame bits (R90, R269, R406). What an earlier load left outside the migrant region is dropped, so that a byte which no section covers reads 0 (DESIGN
CHOICE, notes/assumptions 163). -/
def loadCode (s : State) (g q img : Nat) (x : Core) : Core :=
  let k := decide (roleOf g = 3)
  let fw := if k then 0xB800 else 0x7800
  let fwFrames : BitVec 64 := BitVec.ofNat 64 (3 * 2 ^ (fw / 1024))
  let keep : BitVec 64 := if k then migrantFrames else 0
  let secs := (sections s img).filter fun y => y.1 == 0
  let v := secs.foldl (fun v y => v ||| touched y) 0 &&& ~~~keep &&& ~~~fwFrames
  let xm : BitVec 64 := BitVec.ofNat 64 (imgNum s img 0x20 8)
  let old := x.code.filter fun b => k && decide (0xC000 ≤ b.1)
  let code := secs.foldl (fun t y => putCode t y.2.1 (secBytes s img y)) old
  let trap := (launchAt s q).elim [] fun l => if k then l.trapK else l.trapTriad
  { x with
    code := putCode code fw trap
    frameV := (x.frameV &&& keep) ||| v ||| fwFrames
    frameX := (x.frameX &&& keep) ||| (xm &&& ~~~keep &&& ~~~fwFrames) ||| fwFrames }

/-- The state in which a launch starts a core (R268); the migrant region and its records stand (R90). -/
def startState (s : State) (g q : Nat) (r : List Byte) : Core :=
  let old := getCore s g
  let img := onModule q (recImage r (roleOf g))
  let ten := (launchAt s q).elim 0 Launch.tenant
  let fresh : Core :=
    { launch := some q
      helpers := imgNum s img 0x14 1
      image := BitVec.ofNat 64 (imgNum s img 0x18 8)
      code := old.code, frameV := old.frameV, frameX := old.frameX, migTenant := old.migTenant, migImage := old.migImage
      ctx := [(0, { kind := .base, priv := BitVec.ofNat 64 (ten * 2 ^ 16) })]
      vqw := if recVqwv r then BitVec.ofNat 64 (recVqw r (roleOf g)) else 4
      dommem := setupDommem s q r
      barmap := (setupBars s q r).foldl (fun t b => tput t b.1 (BitVec.ofNat 64 (2 ^ 63 + b.2.1 * 2 ^ 32 + b.2.2.1))) []
      trapvec := BitVec.ofNat 64 ((if roleOf g = 3 then 0x2E0 else 0x1E0) * 64)
      gen := (upFrom 0 64).foldl (fun t i => tset 0 t i (seedLane 0 i)) []
      mapBase := (getCluster s (clusterOf g)).mapGen
      rng := let v : Word := BitVec.ofNat 64 (g % 131072 * 0x9E3779B97F4A7C15 + 1); if v = 0 then 1 else v }
  loadCode s g q img fresh

/-- An error that the test of a core's register files, queues or instruction store would meet: its kind and index satisfy p. -/
def coreErrors (s : State) (g : Nat) (p : Nat → Nat → Bool) : State :=
  { s with ue := s.ue.filter fun e =>
      !(e.1 == modOf g && bitsOf e.2.toNat 39 17 == g % 131072 && p (bitsOf e.2.toNat 56 7) (bitsOf e.2.toNat 0 39)) }

/-- The register files, queues and instruction store of a core are written afresh, but for the migrant region, which no code load changes (R90, R411). -/
def freshCode (s : State) (g : Nat) : State :=
  coreErrors s g fun kind n => decide (kind < 6) && !(kind == 3 && decide (24576 ≤ n))

/-- The words of the migrant region that a section covers are written afresh (R90, R411). -/
def freshMigrant (s : State) (g : Nat) (secs : List (Nat × Nat × Nat × Nat)) : State :=
  coreErrors s g fun kind n => kind == 3 && secs.any fun y => decide (y.2.1 ≤ 2 * n) && decide (2 * n < y.2.1 + y.2.2.1)

/-- A barrier instance is set (R394). -/
def setInstance (s : State) (ga expect : Nat) : State := setBar s ga (BitVec.ofNat 128 (expect * 2 ^ 32))

/-- The fabric group that a launch's set-up block names (DEDUCED, notes/assumptions 104). -/
def fabricGroup (dm : Word) : Nat := dm.toNat / 2 ^ 48 % 2 ^ 15

/-- A core is a member of a fabric group by a launch other than q that has prepared it, or whose core is saved (R43, R273). -/
def stillMember (s : State) (q key g : Nat) : Bool :=
  memberAway s key g
    || ((getCore s g).launch.any fun o => o != q && !(getCluster s (clusterOf g)).prepare.contains o) && groupKey s g 3 == some key

/-- What a launch sets once: barrier instances above cluster level, group counts, and the migrant image (R90, R314, R394) (DEDUCED, notes/assumptions 101, 108). The
cores of launches that have retired are no more in a fabric group that it joins, be it at the group's home or not (DEDUCED, notes/assumptions 104). -/
def beginLaunch (s : State) (q : Nat) (r : List Byte) : State :=
  let m := q / 64
  let targets := targetsOf q r
  let dm := setupDommem s q r
  let grp := fabricGroup dm
  let home := decide (grp / 32 = m)
  let dies := (targets.map dieOf).dedup
  let s1 := (setupBars s q r).foldl (fun s b =>
    match b.2.1 with
    | 1 => dies.foldl (fun s d => setInstance s (gaBarDie d b.2.2.1) b.2.2.2) s
    | 2 => setInstance s (gaBarModule m b.2.2.1) b.2.2.2
    | 3 =>
      if home then
        let ga := gaBarFabric grp b.2.2.1
        setInstance { s with fabSet := tput s.fabSet ga q, bars := (upFrom 0 1024).foldl (fun t x => tdel t (phaseCopy x ga)) s.bars } ga b.2.2.2
      else s
    | _ => s) s
  let groups (s : State) : State := (upFrom 0 4).foldl (fun s level =>
    if !dm.getLsbD (16 * level + 15) then s
    else if level = 3 then
      let key := (dm.toNat / 2 ^ 48 % 32768) * 4 + 3
      let here : Nat → Bool := stillMember s q key
      if home then
        beginIfFull (modGroup s key fun x =>
          { x with count := setupCount s q r 3, arrived := x.arrived.filter here, gone := x.gone.filter here }) key
      else modGroup s key fun x => { x with arrived := x.arrived.filter here, gone := x.gone.filter here }
    else
      let units := (targets.map fun g => match level with | 0 => clusterOf g | 1 => dieOf g | _ => modOf g).dedup
      let ident := dm.toNat / 2 ^ (16 * level) % 32768
      units.foldl (fun s u =>
        modGroup s (((((q + 1) * 2 ^ 21 + u) * 32768) + ident) * 4 + level) fun _ => { count := setupCount s q r level }) s) s
  let mig (s : State) : State :=
    let img := onModule q (recImage r 3)
    if recImage r 3 = 0 ∨ imgNum s img 0x16 2 = 0 then s
    else
      let secs := (sections s img).filter fun y => y.1 == 3
      let v := secs.foldl (fun v y => v ||| touched y) 0
      (((upFrom 0 2048).flatMap fun c => (upFrom 0 4).map fun k => kcoreAt (m * 2048 + c) k)).foldl (fun s g => modCore (freshMigrant s g secs) g fun x =>
        { x with
          code := secs.foldl (fun t y => putCode t y.2.1 (secBytes s img y)) x.code
          frameV := (x.frameV &&& ~~~migrantFrames) ||| v
          frameX := (x.frameX &&& ~~~migrantFrames) ||| v
          migTenant := some ((launchAt s q).elim 0 Launch.tenant)
          migImage := BitVec.ofNat 64 (imgNum s img 0x18 8) }) s
  mig (groups s1)

/-- The launch unit's start message to a core (R267, R276). -/
def sendStart (s : State) (q g : Nat) (entry : Code) (restore : Bool) : State :=
  sendFrom s (tableSrc (q / 4)) [] 1 .ordered (16 * g + 6) (modOf g) none (.launchStart g entry restore)

/-- A section of an image is copied to an address, with the poison of the doublewords that its bytes come from (DESIGN CHOICE, notes/assumptions 114). -/
def loadSection (s : State) (img : Nat) (y : Nat × Nat × Nat × Nat) (dst : Nat) : State :=
  let src := img + y.2.2.2
  let hurt := (s.poison.filter fun d => within src y.2.2.1 (8 * d)).flatMap fun d =>
    ((upFrom (8 * d) 8).filter fun a => decide (src ≤ a) && decide (a < src + y.2.2.1)).map fun a => dst + (a - src)
  hurt.foldl (fun s a => setPoison s a true) (writeBytes s 0 dst (secBytes s img y))

/-- Data sections of a launch's images go into a cluster's TCMs, and once into its scratchpad (R267). -/
def loadData (s : State) (q c : Nat) (r : List Byte) (targets : List Nat) : State :=
  let mine := targets.filter fun g => clusterOf g == c
  let s1 := mine.foldl (fun s g =>
    let img := onModule q (recImage r (roleOf g))
    ((sections s img).filter fun y => y.1 == 1).foldl (fun s y => loadSection s img y (gaTcm g y.2.1)) s) s
  ((upFrom 0 4).filter fun role => mine.any fun g => roleOf g == role).foldl (fun s role =>
    let img := onModule q (recImage r role)
    ((sections s img).filter fun y => y.1 == 2).foldl (fun s y => loadSection s img y (gaSpad c y.2.1)) s) s1

/-- CLUSTER_PREPARE: the oldest preparation of a cluster: scrub, unless a launch that has been prepared runs there, load, initialise, fence, and
the start messages (R267) (DEDUCED, notes/assumptions 100, 102). An odd ENTRY starts at the halfword it lies in, since a PC is even (DESIGN CHOICE,
notes/assumptions 150). -/
def clusterPrepare (s0 : State) (c : Nat) : State :=
  match (getCluster s0 c).prepare with
  | q :: rest =>
    match launchAt s0 q with
    | some l =>
      let r := l.rcd
      let s := findContents (findRecord s0 q r) q r
      let targets := targetsOf q r
      let alone := (launchesOn s c).all fun o => o == q || rest.contains o
      let scrub := alone && (recScrub r || (getCluster s c).tenant != l.tenant)
      let s1 := if scrub then scrubCluster s c else s
      let s2 := modCluster s1 c fun x =>
        { x with
          prepare := rest, tenant := l.tenant
          tcbBase := if recNtcb r = 0 then x.tcbBase else recTcbBase r
          tcbCount := if recNtcb r = 0 then x.tcbCount else recNtcb r }
      let s3 := if l.begun then s2 else beginLaunch (putLaunch s2 q (some { l with begun := true, trapTriad := (getMod s (q / 64)).trapTriad, trapK := (getMod s (q / 64)).trapK })) q r
      let s4 := (setupBars s3 q r).foldl (fun s b => if b.2.1 = 0 then setInstance s (gaBarCluster c b.2.2.1) b.2.2.2 else s) s3
      let s5 := loadData s4 q c r targets
      (targets.filter fun g => clusterOf g == c).foldl (fun s g =>
        let entry := regTarget (BitVec.ofNat 64 (imgNum s (onModule q (recImage r (roleOf g))) 8 2))
        sendStart (putCore (freshCode s g) g (startState s g q r)) q g entry false) s5
    | none => modCluster s0 c fun x => { x with prepare := rest }
  | [] => s0

def execClusterPrepare (s : State) : Host.Outcome State Fault Refusal := .next (clusterPrepare s s.argA)

/-! ### Retirement (R266) -/

/-- A core holds or has under way nothing that its launch must still perform. -/
def coreDone (s : State) (g : Nat) : Bool :=
  let c := getCore s g
  !c.run && c.comb.isEmpty && (c.chans.all fun h => h.2.queue.isEmpty)
    && (s.net.all fun m => m.src != g || m.listed || match m.body with | .access _ _ _ _ => false | _ => true)
    && (s.net.all fun m => match m.body with
      | .launchStart t _ _ => t != g
      | .migrate _ _ _ _ _ o _ _ _ _ _ => o != g
      | .result o _ _ _ => o != g
      | _ => true)
    && ((s.cores ++ s.records ++ s.saves.flatMap SavedCluster.cores).all fun e => e.2.ctx.all fun x =>
      match x.2.kind with | .migrant o _ _ _ => x.2.mode == .free || o != g | _ => true)

/-- The cores that a launch holds (DEDUCED, notes/assumptions 97). -/
def coresOf (s : State) (q : Nat) : List Nat := (s.cores.filter fun e => e.2.launch == some q).map Prod.fst

/-- The launch of a queue has retired: every core has stopped, and everything they issued is done (R266). A core that its save routine has
stopped is to resume, and has not retired (R275, R276) (DEDUCED, notes/assumptions 129). -/
def launchDone (s : State) (q : Nat) (l : Launch) : Bool :=
  l.taken && (l.clusters.all fun c => !(getCluster s c).prepare.contains q && (getCluster s c).preemptFor != some q)
    && !(s.saves.any fun v => v.queues.contains q) && (coresOf s q).all fun g => coreDone s g && !(getCore s g).saved

/-- Held stores of a stopped launch leave, so that they can be performed (R144, R266). -/
def flushLaunch (s : State) (q : Nat) : State := (coresOf s q).foldl (fun s g => if (getCore s g).run then s else flushAll s g) s

/-- Some launch but that of queue q still has a core in a fabric group, here or saved (R314). -/
def groupInUse (s : State) (q key : Nat) : Bool :=
  (s.cores.any fun e => stillMember s q key e.1)
    || s.saves.any fun v => v.cores.any fun r => groupKeyOf r.2 r.1 3 == some key

/-- A fabric group whose last launch has retired is formed anew by later ones: its count and its arrivals are over (R314) (DEDUCED, notes/assumptions
104). -/
def retireGroups (s : State) (q : Nat) : State :=
  { s with groups := s.groups.map fun e =>
      if e.1 % 4 = 3 && !groupInUse s q e.1 then (e.1, { e.2 with count := 0, arrived := [], gone := [] }) else e }

/-- LAUNCH_RETIRE: the launch retires; its completion record is written, or its graph goes on (R266, R396, R397). -/
def launchRetire (s0 : State) (d q : Nat) : State :=
  let n := 4 * d + q
  match launchAt s0 n with
  | some l =>
    let s := flushLaunch s0 n
    if !launchDone s n l then s
    else
      let s1 := retireGroups { s with
        cores := s.cores.map fun e => (e.1, if e.2.launch = some n then { e.2 with launch := none } else e.2)
        fabSet := s.fabSet.filter fun e => e.2 != n } n
      match l.graph with
      | none => completeLaunch s1 n l.tag l.head 0 0 0 1 0
      | some g => walkGraph s1 n l.tag l.head l.prio { g with node := g.next, runs := g.runs + 1, idle := 0 } walkFuel
  | none => s0

def execLaunchRetire (s : State) : Host.Outcome State Fault Refusal := .next (launchRetire s s.argA s.argB)

/-! ### Pre-emption (R273–R276) -/

/-- The launch for which a cluster is being given up, where it is the cluster's turn: those of one die go in ascending index (R273). -/
def preempting (s : State) (c : Nat) : Option Nat :=
  if (upFrom (c / 128 * 128) (c % 128)).any fun x => (getCluster s x).preemptFor.isSome then none else (getCluster s c).preemptFor

/-- A wait that can be withdrawn is: its context is at its instruction again, with nothing of it performed (R149, R274, R343). A surplus arrival
that is not yet counted has performed nothing either, and is presented anew when its instruction issues again (R63, R274). -/
def withdraw (s0 : State) (g k : Nat) : State :=
  let s := { s0 with surplus := s0.surplus.filter fun x => x.core != g || x.slot != k || x.msg.isSome }
  let ready (s : State) : State := modCtx s g k fun x => { x with mode := .ready }
  let q := clusterOf g
  match (getCtx s g k).mode with
  | .waiting (.reply id) =>
    if (findMsg s id).any fun m => (feOpOf m).isSome && (m.listed || m.refused) then ready (dropMsg s id) else s
  | .waiting .task => ready (modCluster s q fun x => { x with taskWait := x.taskWait.filter fun w => !(w.core == g && w.slot == k) })
  | .waiting (.peal _) => ready s
  | .waiting .sweep =>
    if (getCluster s q).mapOps.any fun o => o.core == g && o.slot == k && !o.running && o.block.isSome then
      ready (modCluster s q fun x => { x with mapOps := x.mapOps.filter fun o => !(o.core == g && o.slot == k && !o.running && o.block.isSome) })
    else s
  | _ => s

/-- A running matrix command is discarded and stays first in its queue; a ring command at every member (R208, R274). -/
def discardRunning (s : State) (g : Nat) : State :=
  let stop (s : State) (g : Nat) : State := modCore s g fun c =>
    { c with
      work := none
      cmds := match c.cmds with | m :: rest => { m with started := false } :: rest | [] => [] }
  match (getCore s g).cmds with
  | m :: _ =>
    if !m.started then s
    else if m.form = .mring ∨ m.form = .attn then
      ((upFrom 0 16).map (coreAt (clusterOf g) · 2)).foldl (fun s t => if ((getCore s t).cmds.head?).any MCmd.started then stop s t else s) s
    else stop s g
  | [] => s

/-- An address of a barrier instance of a fabric group (R49). -/
def isBarrierGa (ga : Nat) : Bool := match region ga with | .modWin _ off => decide (0x10000 ≤ off ∧ off < 0x20000) | _ => false

/-- Everything that a pre-empted core waits for before its record is written has come: the writes whose copies have come are performed, and arrivals
under way are counted and acknowledged (R155, R274). -/
def coreQuiet (s : State) (g : Nat) : Bool :=
  let c := getCore s g
  c.vq.isEmpty && c.vjob.isNone && c.capture.isEmpty
    && ((upFrom 0 11).all fun k => !owesWrite s g k && match (getCtx s g k).mode with | .waiting .away => true | .waiting _ => false | _ => true)
    && !((getCluster s (clusterOf g)).mapOps.any fun o => o.core == g)
    && (s.net.all fun m => m.src != g || match m.body with
      | .migrate _ _ _ _ _ _ _ _ _ _ _ | .arrive _ _ => false
      | .ack ga _ _ => !isBarrierGa ga
      | _ => true)
    && (s.net.all fun m => match m.body with
      | .exchangeBegin key epoch => groupKey s g 3 != some key || !c.phase.getLsbD 3 || tget 0 c.phaseAt 3 != epoch
      | _ => true)

/-- The save record is written into the area that SAVEBASE names, and slot 0 takes the pre-emption trap; the other slots and the queues live on
in the record (R274, R395) (DESIGN CHOICE, notes/assumptions 38). -/
def writeRecord (s0 : State) (g : Nat) : State :=
  let s := flushAll s0 g
  let c := getCore s g
  let r := { takeDeposits c with
    run := false, preempting := false, runLeft := none
    ev := c.ev || c.evNext, evNext := false
    ctx := c.ctx.map fun x => (x.1, { x.2 with held := none }) }
  let rest := { c with
    run := true, preempting := false, saved := true, slot := 0, runLeft := none
    ctx := [(0, { tget {} c.ctx 0 with mode := .running, held := none })]
    cmds := [], ringsLost := [], work := none, credits := 0, drain := none, mfault := none, xbuf := []
    port0 := [], deposit0 := [], port1 := [], deposit1 := [], ev := false, evNext := false }
  let s1 := putRecord s (modOf g * 2 ^ 48 + (getCluster s (clusterOf g)).saveBase.toNat) g r
  enterTrap { putCore s1 g rest with records := tput s1.records g r } g 0 0 0 true

/-- PREEMPT: a core of a launch that is pre-empted issues no more, withdraws its waits and discards its running command; once quiet, it writes
its record and takes the trap (R274). A run whose members are being captured is captured to its end first; one of which no member has been captured
has performed nothing, and its `vrep` issues again after the resume (DESIGN CHOICE, notes/assumptions 27) (DEDUCED, notes/assumptions 106). -/
def preemptCore (s : State) (g : Nat) : State :=
  match preempting s (clusterOf g) with
  | some q =>
    let c := getCore s g
    if !c.run || c.saved || !(c.launch.any fun o => (lowerOn s (clusterOf g) q).contains o) || !c.capture.isEmpty then s
    else
      let s1 := modCore s g fun c =>
        { c with
          preempting := true, runLeft := none
          ctx := c.ctx.map fun x => (x.1, if x.2.mode = .running ∧ !owesWrite s g x.1 then { x.2 with mode := .ready } else x.2) }
      let s2 := discardRunning ((upFrom 0 11).foldl (fun s k => withdraw s g k) s1) g
      if coreQuiet s2 g then writeRecord s2 g else s2
  | none => s

def execPreempt (s : State) : Host.Outcome State Fault Refusal := .next (preemptCore s s.argA)

/-- The channels of a core have run their copies; a binding in force or waiting stays (R223, R274). -/
def chansQuiet (c : Core) : Bool := c.chans.all fun h => match h.2.queue with | [] => true | x :: _ => x.kind == .bindIn || x.kind == .bindOut

/-- A core of a cluster that is given up has stopped with everything it issued performed, and its channels have what they asked for (R137, R275). -/
def stopDone (s : State) (g : Nat) : Bool :=
  let c := getCore s g
  !c.run && c.comb.isEmpty && chansQuiet c && s.net.all fun m => m.src != g || m.listed || match m.body with
    | .access _ _ _ _ => false
    | .reply _ _ _ => decide (m.slots.headD 0 < 64)
    | _ => true

/-- The record as it is kept: transfer channels and feeds as they stand now, and what senders have deposited since it was written (R30, R42,
R135, R274). -/
def finishRecord (c : Core) (r : Core) : Core :=
  { r with
    chans := c.chans, feeds := c.feeds
    port0 := r.port0 ++ (takeDeposits c).port0, port1 := r.port1 ++ (takeDeposits c).port1, ev := r.ev || c.ev || c.evNext
    v := [12, 13, 14, 15].foldl (fun t i => if tget none c.feeds i = tget none r.feeds i then t else tset 0 t i (tget 0 c.v i)) r.v }

/-- TCMs, scratchpad, full and poison bits and barrier instances of a cluster go into a save area (R275, R395) (DEDUCED, notes/assumptions 112); the errors
of what is read are found (R411). -/
def copyOut (s0 : State) (c area : Nat) : State :=
  let s := findWhere s0 fun ga => (placeIn c ga).isSome
  let inArea (ga : Nat) : Bool := decide (area ≤ ga) && decide (ga < area + 0xAA0000)
  let bytes := s.mem.filterMap fun e => (placeIn c e.1).map fun i => (area + i, e.2)
  let bits (base : Nat) (l : List Nat) : List Host.Cell :=
    let set := l.filterMap fun d => (placeIn c (8 * d)).map fun i => i / 8
    ((set.map (· / 8)).dedup).map fun b => (area + base + b, BitVec.ofNat 8 (((upFrom 0 8).filter fun j => set.contains (8 * b + j)).foldl (fun n j => n + 2 ^ j) 0))
  let bars := (upFrom 0 256).flatMap fun i => cellsAt (area + 0xA90000 + 16 * i) (leBytes (getBar s (gaBarCluster c i)).toNat 16)
  { s with
    mem := (bytes ++ bits 0x880000 s.full ++ bits 0x980000 s.poison ++ bars).foldl (fun t e => tset 0 t e.1 e.2) (s.mem.filter fun e => !inArea e.1)
    memKey := s.memKey.filter fun e => !inArea (16 * e.1)
    poison := s.poison.filter fun d => !inArea (8 * d)
    latent := s.latent.filter fun d => !inArea (8 * d)
    soft := s.soft.filter fun d => !inArea (8 * d) }

/-- A listed request as a doubleword: the doubleword it names by its place in the cluster, its source core and slot, and its kind (R149, R275). -/
def listedWord (c : Nat) (m : Msg) : Nat :=
  match feOpOf m with
  | some (op, ga, _, _) =>
    let kind := match op with | .ldSync => 0 | .take => 1 | .tryt => 2 | .put _ => 3 | .fill _ => 4 | .frd => 5 | .fwr _ => 6
    ((placeIn c ga).getD 0) / 8 + 2 ^ 24 * m.src + 2 ^ 56 * (m.slots.headD 0 % 16) + 2 ^ 60 * kind
  | none => 0

/-- What a listed request brings: the value that a `put` is to store; of a task recorded at a future the handle of its TCB with the launch queue that it
runs for; 0 for the others (R149, R237, R275). -/
def listedValue (m : Msg) : Nat :=
  match feOpOf m with
  | some (.put v, _) => v.toNat
  | some (.frd, _, task, _) => task.toNat % 2 ^ 48 + 2 ^ 48 * m.queue.elim 0 fun q => q % 64 + 1
  | _ => 0

/-- The deferred lists of a cluster and the tasks recorded at its futures, which the saved copy at `copy` answers, go behind the ready queue of a save
area, oldest first (R149, R237, R275, R395) (DESIGN CHOICE, notes/assumptions 38). -/
def putLists (s : State) (c copy area : Nat) : State :=
  let l := s.net.filter fun m => m.listed && (feOpOf m).any fun o => (placeIn c o.2.1).any fun i => placeFor s m o.2.1 == copy + i
  writeBytes s 0 (area + 0xA88008) (leBytes l.length 8 ++ (l.take 2047).flatMap fun m => leBytes (listedWord c m) 8 ++ leBytes (listedValue m) 8)

/-- The records that hardware wrote, as the words deposited since then leave them; and those of cores that had stopped before, which keep their
state as well (R274, R276, R371). -/
def putRecords (s : State) (area : Nat) (cores : Tbl Core) : State := cores.foldl (fun s r => putRecord s area r.1 r.2) s

/-- What firmware's save routine has stored of slot 0 is copied from the area that SAVEBASE named to another (R395). -/
def copyRoutine (s : State) (src dst : Nat) (cores : List Nat) : State :=
  if src = dst then s else cores.foldl (fun s g => writeBytes s 0 (recordAt dst g) (readBytes s 0 (recordAt src g) 0x800)) s

/-- CLUSTER_SAVE: with every core stopped, the cluster is saved for the lower launches, into the area of each, and goes to the higher one; a
launch with a core that halted in its save routine is abandoned here (R275, R410) (DEDUCED, notes/assumptions 109), and such a core and those abandoned
with it never count as arrived at their groups' exchanges (DEDUCED, notes/assumptions 177). -/
def clusterSave (s0 : State) (c : Nat) : State :=
  match preempting s0 c with
  | some q =>
    let lower := lowerOn s0 c q
    let mine := (coresIn c).filter fun g => (getCore s0 g).launch.any fun o => lower.contains o
    let s := mine.foldl (fun s g => if (getCore s g).run then s else flushAll s g) s0
    if !mine.all (stopDone s) then s
    else
      let lost := lower.filter fun o => mine.any fun g => (getCore s g).launch == some o && (getCore s g).saved && !(s.records.any fun r => r.1 == g)
      let kept := lower.filter fun o => !lost.contains o
      let owned := (mine.filterMap fun g => (getCore s g).launch.map fun o => (g, o)).filter fun p => kept.contains p.2
      let x := getCluster s c
      let stopped := (owned.map Prod.fst).filter fun g => !(s.records.any fun r => r.1 == g)
      let save : Option SavedCluster := kept.head?.map fun o =>
        { queues := kept, cluster := c, area := areaFor s o c, tenant := x.tenant, owned := owned
          cores := ((s.records.filter fun r => owned.any fun p => p.1 == r.1).map fun r => (r.1, finishRecord (getCore s r.1) r.2))
            ++ stopped.map fun g => (g, getCore s g)
          stopped := stopped
          ready := x.ready, tcbBase := x.tcbBase, tcbCount := x.tcbCount }
      let s1 := match save with
        | some v =>
          let t := kept.foldl (fun s o =>
            let a := areaFor s o c
            copyRoutine (putRecords (putReady (copyOut s c a) a x.ready) a v.cores) (modOf (c * 64) * 2 ^ 48 + x.saveBase.toNat) a (owned.map Prod.fst)) s
          kept.foldl (fun s o => putLists s c v.area (areaFor s o c)) { t with saves := t.saves ++ [v] }
        | none => s
      let s2 := mine.foldl (fun s g => modCore s g fun y => { y with launch := none, saved := false }) s1
      let s3 := { s2 with records := s2.records.filter fun r => !mine.contains r.1 }
      giveCluster s3 q c (targetsOf q ((launchAt s q).elim [] Launch.rcd))
  | none => s0

def execClusterSave (s : State) : Host.Outcome State Fault Refusal := .next (clusterSave s s.argA)

/-- SAVED_COPY_ACCESS: an access to a cluster that its launch is away from is performed on the saved copy, whose lists follow (R275). -/
def savedCopyAccess (s : State) (id : Nat) : State :=
  match findMsg s id with
  | some m =>
    match m.body with
    | .access (.fe _) ga _ _ =>
      if redirect s m.src ga = ga then s
      else (areaOf s (redirect s m.src ga)).elim (feRequest s id) fun v => putLists (feRequest s id) v.cluster v.area v.area
    | .access _ ga _ _ => if redirect s m.src ga = ga then s else accessAtHome s id
    | _ => s
  | none => s

def execSavedCopyAccess (s : State) : Host.Outcome State Fault Refusal := .next (savedCopyAccess s s.argA)

/-- A save area's contents go back (R276); the TCM of a core that another launch runs on stands (DEDUCED, notes/assumptions 109). The errors of the area are
found as it is read, and a doubleword goes back with its poison (R411) (DESIGN CHOICE, notes/assumptions 114). -/
def copyIn (s0 : State) (c area : Nat) : State :=
  let s := findWhere s0 (within area (2 ^ 24))
  let busy (ga : Nat) : Bool := match region ga with | .tcm g _ => (getCore s g).launch.isSome | _ => false
  let mine (ga : Nat) : Bool := (placeIn c ga).isSome && !busy ga
  let bytes := (s.mem.filterMap fun e => if area ≤ e.1 ∧ e.1 < area + 0x880000 then some (placeGa c (e.1 - area), e.2) else none).filter fun e => mine e.1
  let bits (base : Nat) : List Nat := ((s.mem.filter fun e => decide (area + base ≤ e.1) && decide (e.1 < area + base + 0x22000)).flatMap fun e =>
    ((upFrom 0 8).filter fun j => e.2.getLsbD j).map fun j => placeGa c (8 * (8 * (e.1 - area - base) + j)) / 8).filter fun d => mine (8 * d)
  let hurt := ((s.poison.filter fun d => within area 0x880000 (8 * d)).map fun d => placeGa c (8 * d - area) / 8).filter fun d => mine (8 * d)
  { s with
    mem := bytes.foldl (fun t e => tset 0 t e.1 e.2) (s.mem.filter fun e => !mine e.1)
    memKey := s.memKey.filter fun e => !mine (16 * e.1)
    full := (bits 0x880000).foldl (fun l d => sadd d l) (s.full.filter fun d => !mine (8 * d))
    poison := (bits 0x980000 ++ hurt).foldl (fun l d => sadd d l) (s.poison.filter fun d => !mine (8 * d))
    latent := s.latent.filter fun d => !mine (8 * d)
    soft := s.soft.filter fun d => !mine (8 * d)
    bars := (upFrom 0 256).foldl (fun t i => tset 0 t (gaBarCluster c i) (BitVec.ofNat 128 (readNat s (area + 0xA90000 + 16 * i) 16))) s.bars }

/-- A core as its record restores it; slot 0 comes back with its INSTRET, TRET and task, for the restore routine to fill (R274, R276) (DESIGN
CHOICE, notes/assumptions 111). -/
def restoreCore (s : State) (g o : Nat) (r : Core) : Core :=
  let old := getCore s g
  let l := launchAt s o
  let x0 := tget {} r.ctx 0
  loadCode s g o (onModule o (recImage (l.elim [] Launch.rcd) (roleOf g)))
    { r with
      run := false, launch := some o, slot := 0
      code := old.code, frameV := old.frameV, frameX := old.frameX, migTenant := old.migTenant, migImage := old.migImage
      ctx := tput r.ctx 0 { kind := .base, priv := BitVec.ofNat 64 (l.elim 0 Launch.tenant * 2 ^ 16), instret := x0.instret, tret := x0.tret, task := x0.task
                            dirty := x0.dirty, begunSaved := x0.begun } }

/-- A core that had stopped before the pre-emption: its state stands, and its code is loaded again (R276, R371). -/
def restoreStopped (s : State) (g o : Nat) (r : Core) : Core :=
  let old := getCore s g
  loadCode s g o (onModule o (recImage ((launchAt s o).elim [] Launch.rcd) (roleOf g)))
    { r with
      run := false, launch := some o, saved := false
      code := old.code, frameV := old.frameV, frameX := old.frameX, migTenant := old.migTenant, migImage := old.migImage }

/-- The save of a cluster whose launch resumes first: highest priority, then oldest. -/
def nextSave (s : State) (c : Nat) : Option SavedCluster :=
  let prio (v : SavedCluster) : Nat := v.queues.foldl (fun n o => Nat.max n ((launchAt s o).elim 0 Launch.prio)) 0
  (s.saves.filter fun v => v.cluster == c).foldl (fun b v => match b with
    | none => some v
    | some w => if prio w < prio v then some v else some w) none

/-- A launch keeps a save from going back: it holds one of its cores, or belongs to another tenant (R265, R276). -/
def inTheWay (s : State) (c : Nat) (v : SavedCluster) : Bool :=
  (v.owned.any fun p => (getCore s p.1).launch.isSome)
    || (launchesOn s c).any fun o => (launchAt s o).any fun l => l.tenant != v.tenant

/-- A launch of higher priority needs a cluster: it runs there, or could take it now (R276). -/
def needed (s : State) (c prio : Nat) : Bool :=
  ((launchesOn s c).any fun q => (launchAt s q).any fun l => decide (prio < l.prio)) || (waitingLaunches s (c / 2048)).any fun q => canTake s q && (launchAt s q).any fun l => decide (prio < l.prio) && l.clusters.contains c

/-- LAUNCH_RESUME: a cluster goes back to the launches saved from it, once no launch of higher priority needs it and their cores are free
(R276). -/
def launchResume (s : State) (c : Nat) : State :=
  match nextSave s c with
  | some v =>
    let x := getCluster s c
    let prio := v.queues.foldl (fun n o => Nat.max n ((launchAt s o).elim 0 Launch.prio)) 0
    if inTheWay s c v || !x.prepare.isEmpty || x.preemptFor.isSome || needed s c prio then s
    else
      let s1 := if x.tenant = v.tenant then s else scrubCluster s c
      let s2 := copyIn { s1 with saves := s1.saves.filter fun w => !(w.area == v.area && w.cluster == c) } c v.area
      let s3 := modCluster s2 c fun y =>
        { y with
          tenant := v.tenant, ready := v.ready, tcbBase := v.tcbBase, tcbCount := v.tcbCount, saveBase := BitVec.ofNat 64 (paOf v.area) }
      let s4 := v.owned.foldl (fun s p => modCore s p.1 fun y => { y with launch := some p.2 }) s3
      let s5 := v.cores.foldl (fun s r =>
        let o := (getCore s r.1).launch.getD 0
        let x := getRecord s v.area r.1 r.2
        if v.stopped.contains r.1 then putCore s r.1 (restoreStopped s r.1 o x)
        else sendStart (putCore s r.1 (restoreCore s r.1 o x)) o r.1 (Config.restoreEntry (roleOf r.1) &&& 0xFFFE) true) s4
      v.cores.foldl (fun s r => (upFrom 0 4).foldl (fun s level =>
        match groupKey s r.1 level with | some key => beginIfFull s key | none => s) s) s5
  | none => s

def execLaunchResume (s : State) : Host.Outcome State Fault Refusal := .next (launchResume s s.argA)

end Sys2Proof.Machine
end

