-- ==== Sys2Proof/Machine/HostIf.lean ====
section
/-!
DEFINITION. What the host reaches through the endpoint: its accesses, firmware bundles, the trap-image registers and the firmware mailbox (R389, R404–R406,
R425), and the SPDM responder (R407).
-/
namespace Sys2Proof.Machine

/-! ### Host accesses (R389, R404) -/

/-- Global address of an offset in a BAR. -/
def barAddr (s : State) (m bar off : Nat) : Nat :=
  match bar with
  | 0 => gaModWin m (off % 2 ^ 28)
  | 2 => gaDieWin (m * 16) (off % 2 ^ 32)
  | _ => m * 2 ^ 48 + ((getMod s m).apbase.toNat + off % 2 ^ 36) % 2 ^ 48

/-- The address is one of the recovery mailbox of a module (R404, R425). -/
def inMailbox (m ga : Nat) : Bool := decide (gaModWin m 0x4305000 ≤ ga) && decide (ga < gaModWin m 0x4305018)

/-- A host access of this address fails: a hole, HBM that is not READY, and in recovery everything but the mailbox (R404) (DEDUCED,
notes/assumptions 116). -/
def hostHole (s : State) (ga : Nat) : Bool :=
  ((getMod s (moduleOf ga)).booted.isNone && !inMailbox (moduleOf ga) ga) ||
  match region ga with
  | .hole => true
  | .hbm d _ => !(getDie s d).rdy.getLsbD 2
  | .dieWin _ _ | .modWin _ _ => (readReg s (ga / 8 * 8)).isNone
  | _ => false

/-- HOST_HOLE_ACCESS: the event of a failing access (R389, R404, R414). -/
def hostEvent (s : State) (m ga read : Nat) : State := postEvent s m { kind := 9 } 0x32 (paOf ga) read

/-- The endpoint passes an access on once the link is trained, and in recovery (R403, R404) (DEDUCED, notes/assumptions 116). -/
def hostReaches (s : State) (m : Nat) : Bool :=
  let x := getMod s m
  powered s m && (x.rdyMod.getLsbD 1 || x.booted.isNone)

/-- HOST_WRITE: the oldest host access, a write, is performed whole at its home before the next (R389) (DEDUCED, notes/assumptions 115). -/
def hostStore (s : State) (m : Nat) : State :=
  match (getMod s m).hostQ with
  | h :: rest =>
    let a := barAddr s m h.bar h.off
    if !h.write || !hostReaches s m then s
    else
      let s1 := modMod s m fun x => { x with hostQ := rest }
      let cells := cellsAt a h.data
      let good := cells.filter fun c => !hostHole s c.1
      let s2 := writeRegBytes s1 (good.filter fun c => isWindow c.1)
      let s3 := writeCells s2 0 (good.filter fun c => !isWindow c.1)
      match cells.find? fun c => hostHole s c.1 with
      | some c => hostEvent s3 m c.1 0
      | none => s3
  | [] => s

def execHostWrite (s : State) : Host.Outcome State Fault Refusal := .next (hostStore s s.argA)

/-- A byte as the host reads it. -/
def hostByte (s : State) (ga : Nat) : Byte :=
  if hostHole s ga then 0xFF
  else if isWindow ga then BitVec.ofNat 8 (((readReg s (ga / 8 * 8)).getD 0).toNat / 2 ^ (8 * (ga % 8)))
  else readByte s 0 ga

/-- HOST_READ: the oldest host access, a read, returns (R389). -/
def hostLoad (s : State) (m : Nat) : State :=
  match (getMod s m).hostQ with
  | h :: rest =>
    let a := barAddr s m h.bar h.off
    if h.write || !hostReaches s m then s
    else
      let s1 := findErrors (modMod s m fun x => { x with hostQ := rest }) a h.len
      let s2 := modMod s1 m fun x => { x with hostReads := x.hostReads ++ [(upFrom a h.len).map (hostByte s)] }
      match (upFrom a h.len).find? (hostHole s) with
      | some ga => hostEvent s2 m ga 1
      | none => s2
  | [] => s

def execHostRead (s : State) : Host.Outcome State Fault Refusal := .next (hostLoad s s.argA)

/-! ### Firmware bundles (R405) -/

/-- The layout of a bundle of n bytes. -/
def bunFormat (b : List Byte) : Bool :=
  bunNum b 0 4 == 0x4E554244 && decide (bunSlot b < 4) && bunNum b 0x30 464 == 0 && b.length == 0x200 + bunLen b + 384

/-- BUNDLE_VERIFY: the key's digest matches its fuse and is not revoked, and the signature and the payload digest hold. -/
def bunSigned (f : Flash) (b : List Byte) : Bool :=
  let key := tget [] f.keys (bunSlot b)
  f.keyDigest.any (fun e => e.1 == bunSlot b && e.2 == sha256 key) && !f.revoked.contains (bunSlot b)
    && signatureGood key (b.take 0x200) ((b.drop (0x200 + bunLen b)).take 384)
    && BitVec.ofNat 256 (bunNum b 0x10 32) == sha256 (bunPayload b)

/-- The result of checking a bundle: 0 good, 1 signature or digest, 2 SVN, 3 format (R406, R425) (DEDUCED, notes/assumptions 117). -/
def bunCheck (f : Flash) (b : List Byte) : Nat :=
  if !bunFormat b then 3 else if !bunSigned f b then 1 else if bunSvn b < f.minSvn then 2 else 0

/-- TRAPIMG_INSTALL: the image that TRAPIMG names is checked, and used by launches that start from now on (R406) (DEDUCED, notes/assumptions 118). -/
def trapimgInstall (s0 : State) (m : Nat) : State :=
  let x := getMod s0 m
  if !x.trapstat.getLsbD 63 then s0
  else
    let a := m * 2 ^ 48 + fget ⟨7, 41⟩ x.trapimg * 128
    let s := findWhere s0 (within a (0x200 + 4096 + 384))
    let b := readBytes s 0 a (0x200 + 4096 + 384)
    let r := if bunLen b ≠ 4096 then 3 else bunCheck x.flash b
    let s1 := modMod s m fun y =>
      { y with
        trapstat := BitVec.ofNat 64 r
        trapTriad := if r = 0 then (bunPayload b).take 2048 else y.trapTriad
        trapK := if r = 0 then (bunPayload b).drop 2048 else y.trapK }
    postEvent s1 m { kind := 9 } 0x71 r (bunSvn b)

def execTrapimgInstall (s : State) : Host.Outcome State Fault Refusal := .next (trapimgInstall s s.argA)

/-- The bundle of the operation in progress, read from the host by DMA (R425). -/
def fwmbBundle (s : State) (x : Mod) : List Byte := hostRead s (x.fwmbJob.1.toNat / 4096 * 4096) (fget ⟨0, 32⟩ x.fwmbJob.2)

/-- What the SMU finds before it erases anything: 0 the write may go on, 1 to 3 of the bundle's check, 4 the copy is in use (R425). -/
def fwmbResult (s : State) (x : Mod) : Nat :=
  let c := bunCheck x.flash (fwmbBundle s x)
  if c ≠ 0 then c else if x.booted = some (x.fwmbJob.2.getLsbD 32) then 4 else 0

/-- Flash with other bytes in the copy that the operation names. -/
def fwmbWritten (x : Mod) (b : List Byte) : Flash :=
  if x.fwmbJob.2.getLsbD 32 then { x.flash with bundleB := b } else { x.flash with bundleA := b }

/-- FWMB_UPDATE: the bundle is read from the host, checked, and written to its copy unless that is in use, once no journal record waits, since commits
take precedence (R425). `argV` 1: the flash write fails, and the copy is left erased (DESIGN CHOICE, notes/assumptions 159). -/
def fwmbUpdate (s : State) (m : Nat) (fails : Bool) : State :=
  let x := getMod s m
  if !x.fwmbStat.getLsbD 63 || !powered s m || !x.journalDue.isEmpty then s
  else
    let c := fwmbResult s x
    let r := if c = 0 ∧ fails then 5 else c
    modMod s m fun y =>
      { y with
        fwmbStat := BitVec.ofNat 64 r
        flash := if c ≠ 0 then y.flash else fwmbWritten y (if fails then [] else fwmbBundle s x) }

def execFwmbUpdate (s : State) : Host.Outcome State Fault Refusal := .next (fwmbUpdate s s.argA (s.argV.getLsbD 0))

/-! ### Attestation (R407). Codes and layouts are those of SPDM 1.3 (PRESUMED, notes/assumptions 5). -/

/-- The oldest request, where the SMU answers: its code is the one expected, and the SMU is up. -/
def spdmNext (s : State) (m code : Nat) : Option (List Byte) :=
  let x := getMod s m
  if powered s m && x.rdyMod.getLsbD 0 then x.spdmIn.head?.filter fun r => (r.getD 1 0).toNat == code else none

/-- A response goes out and its request is done. -/
def spdmAnswer (s : State) (m : Nat) (out : List Byte) (f : Mod → Mod) : State :=
  modMod s m fun x => { f x with spdmIn := x.spdmIn.drop 1, spdmOut := x.spdmOut ++ [out] }

/-- An ERROR response: 7 UnsupportedRequest, with the request's code as its data, 4 UnexpectedRequest, 1 InvalidRequest. -/
def spdmError (s : State) (m err : Nat) (data : Byte := 0) : State := spdmAnswer s m [0x13, 0x7F, BitVec.ofNat 8 err, data] id

/-- What a signature of SPDM 1.3 covers: the version's prefix four times, the context's name filled up to 36 bytes from the front, and the digest of the
transcript. -/
def spdmMessage (context : String) (transcript : List Byte) : List Byte :=
  let text (x : String) : List Byte := x.toList.map fun c => BitVec.ofNat 8 c.toNat
  (List.replicate 4 (text "dmtf-spdm-v1.3.*")).flatten ++ List.replicate (36 - context.length) 0 ++ text context ++ shaBytes transcript

/-- The module's device key signs, with a salt that nothing constrains. -/
def deviceSign (s : State) (m : Nat) (context : String) (transcript : List Byte) : List Byte × State :=
  let (v, t) := draw s
  (pssSign (Config.deviceKey m) (leBytes v 32) (spdmMessage context transcript), t)

/-- Requests that the responder supports. -/
def spdmCodes : List Nat := [0x84, 0xE1, 0xE3, 0x81, 0x82, 0x83, 0xE0]

/-- n bytes that nothing constrains. -/
def drawBytes (s : State) (n : Nat) : List Byte × State := let (v, t) := draw s; (leBytes v n, t)

/-- GET_VERSION: version 1.3; the connection starts again. -/
def getVersion (s : State) (m : Nat) : State :=
  match spdmNext s m 0x84 with
  | some r =>
    let out : List Byte := [0x10, 0x04, 0, 0, 0, 1, 0, 0x13]
    spdmAnswer s m out fun x => { x with spdmStage := 1, spdmA := r ++ out, spdmB := [], spdmL := [] }
  | none => s

def execGetVersion (s : State) : Host.Outcome State Fault Refusal := .next (getVersion s s.argA)

/-- GET_CAPABILITIES: certificates, challenge and fresh signed measurements, and nothing else; the sizes and the timing exponent are free. -/
def getCapabilities (s : State) (m : Nat) : State :=
  match spdmNext s m 0xE1 with
  | some r =>
    if (getMod s m).spdmStage ≠ 1 then spdmError s m 4
    else
      let (ct, s1) := drawBytes s 1
      let (size, s2) := drawBytes s1 4
      let out : List Byte := [0x13, 0x61, 0, 0, 0] ++ ct ++ [0, 0] ++ leBytes 0x36 4 ++ size ++ size
      spdmAnswer s2 m out fun x => { x with spdmStage := 2, spdmA := x.spdmA ++ r ++ out }
  | none => s

def execGetCapabilities (s : State) : Host.Outcome State Fault Refusal := .next (getCapabilities s s.argA)

/-- NEGOTIATE_ALGORITHMS: RSASSA-PSS with a 3072-bit key and SHA-256 are the only ones. -/
def negotiateAlgorithms (s : State) (m : Nat) : State :=
  match spdmNext s m 0xE3 with
  | some r =>
    if (getMod s m).spdmStage ≠ 2 then spdmError s m 4
    else
      let asym := leNat ((r.drop 8).take 4) &&& 8
      let hash := leNat ((r.drop 12).take 4) &&& 1
      let out : List Byte := [0x13, 0x63, 0, 0] ++ leBytes 36 2 ++ [1, 0] ++ leBytes 2 4 ++ leBytes asym 4 ++ leBytes hash 4 ++ leBytes 0 12 ++ [0, 0, 0, 0]
      spdmAnswer s m out fun x => { x with spdmStage := 3, spdmA := x.spdmA ++ r ++ out }
  | none => s

def execNegotiateAlgorithms (s : State) : Host.Outcome State Fault Refusal := .next (negotiateAlgorithms s s.argA)

/-- Bytes of the fault maps of a bundle's payload, and of what comes before the certificate chain. -/
def mapsBytes : Nat := 2048 * 128
def certChain (x : Mod) : List Byte := (bunPayload (bootBundle x)).drop (4096 + mapsBytes)

def digestBytes (d : BitVec 256) : List Byte := leBytes d.toNat 32

/-- GET_DIGESTS: the digest of the chain in slot 0. -/
def getDigests (s : State) (m : Nat) : State :=
  match spdmNext s m 0x81 with
  | some r =>
    if (getMod s m).spdmStage < 3 then spdmError s m 4
    else
      let out : List Byte := [0x13, 0x01, 1, 1] ++ digestBytes (sha256 (certChain (getMod s m)))
      spdmAnswer s m out fun x => { x with spdmB := x.spdmB ++ r ++ out }
  | none => s

def execGetDigests (s : State) : Host.Outcome State Fault Refusal := .next (getDigests s s.argA)

/-- GET_CERTIFICATE: a portion of the chain in slot 0. -/
def getCertificate (s : State) (m : Nat) : State :=
  match spdmNext s m 0x82 with
  | some r =>
    let chain := certChain (getMod s m)
    let off := leNat ((r.drop 4).take 2)
    let len := leNat ((r.drop 6).take 2)
    if (getMod s m).spdmStage < 3 then spdmError s m 4
    else if (r.getD 2 0).toNat % 16 ≠ 0 ∨ chain.length < off then spdmError s m 1
    else
      let part := (chain.drop off).take len
      let out : List Byte := [0x13, 0x02, 0, 0] ++ leBytes part.length 2 ++ leBytes (chain.length - off - part.length) 2 ++ part
      spdmAnswer s m out fun x => { x with spdmB := x.spdmB ++ r ++ out }
  | none => s

def execGetCertificate (s : State) : Host.Outcome State Fault Refusal := .next (getCertificate s s.argA)

/-- Fault maps in force of a module, all clusters in order. -/
def mapsInForce (s : State) (m : Nat) : List Byte :=
  (upFrom (m * 2048) 2048).flatMap fun q => (upFrom 0 16).flatMap fun t => leBytes (tget 0 (getCluster s q).fmap t).toNat 8

/-- Value of a measurement block, and whether it is a digest. -/
def measurement (s : State) (m i : Nat) : Bool × List Byte :=
  let x := getMod s m
  match i with
  | 1 => (true, digestBytes Config.romDigest)
  | 2 => (true, digestBytes (sha256 ((bootBundle x).take 0x200)))
  | 3 => (false, leBytes x.flash.minSvn 4 ++ leBytes (bunSvn (bootBundle x)) 4)
  | 4 => (true, digestBytes (sha256 (x.trapTriad ++ x.trapK)))
  | 5 => (true, digestBytes (sha256 (mapsInForce s m)))
  | _ => (false, (upFrom (m * 16) 16).flatMap fun d => leBytes (getDie s d).rdyCl.toNat 16)

/-- A measurement block as it is sent: its index, the DMTF form, its size, its type and its value. -/
def measBlock (s : State) (m i : Nat) : List Byte :=
  let v := measurement s m i
  let type : Nat := (match i with | 1 => 0 | 2 => 1 | 3 => 7 | 4 => 1 | _ => 3) + if v.1 then 0 else 128
  [BitVec.ofNat 8 i, 1] ++ leBytes (v.2.length + 3) 2 ++ [BitVec.ofNat 8 type] ++ leBytes v.2.length 2 ++ v.2

/-- CHALLENGE: the device key signs the transcript. -/
def challenge (s : State) (m : Nat) : State :=
  match spdmNext s m 0x83 with
  | some r =>
    if (getMod s m).spdmStage < 3 then spdmError s m 4
    else if (r.getD 2 0).toNat % 16 ≠ 0 then spdmError s m 1
    else
      let x := getMod s m
      let (nonce, s1) := drawBytes s 32
      let kind := (r.getD 3 0).toNat
      let blocks := if kind = 1 then [1, 2] else upFrom 1 6
      let summary := if kind = 0 then [] else digestBytes (sha256 (blocks.flatMap (measBlock s m)))
      let body : List Byte := [0x13, 0x03, 0, 1] ++ digestBytes (sha256 (certChain x)) ++ nonce ++ summary ++ [0, 0] ++ (r.drop 36).take 8
      let (sig, s2) := deviceSign s1 m "responder-challenge_auth signing" (x.spdmA ++ x.spdmB ++ r ++ body)
      spdmAnswer s2 m (body ++ sig) fun x => { x with spdmB := [], spdmL := [] }
  | none => s

def execChallenge (s : State) : Host.Outcome State Fault Refusal := .next (challenge s s.argA)

/-- GET_MEASUREMENTS: the number of blocks, one block or all of them, signed where asked; a signature covers the transcript. -/
def getMeasurements (s : State) (m : Nat) : State :=
  match spdmNext s m 0xE0 with
  | some r =>
    let op := (r.getD 3 0).toNat
    let signed := (r.getD 2 0).getLsbD 0
    if (getMod s m).spdmStage < 3 then spdmError s m 4
    else if 6 < op ∧ op ≠ 255 then spdmError s m 1
    else
      let x := getMod s m
      let (nonce, s1) := drawBytes s 32
      let l := if op = 0 then [] else if op = 255 then upFrom 1 6 else [op]
      let blocks := l.flatMap (measBlock s m)
      let body : List Byte := [0x13, 0x60, if op = 0 then 6 else 0, 0, BitVec.ofNat 8 l.length] ++ leBytes blocks.length 3 ++ blocks ++ nonce ++ [0, 0]
        ++ (r.drop (if signed then 37 else 4)).take 8
      if signed then
        let (sig, s2) := deviceSign s1 m "responder-measurements signing" (x.spdmA ++ x.spdmL ++ r ++ body)
        spdmAnswer s2 m (body ++ sig) fun x => { x with spdmL := [] }
      else spdmAnswer s1 m body fun x => { x with spdmL := x.spdmL ++ r ++ body }
  | none => s

def execGetMeasurements (s : State) : Host.Outcome State Fault Refusal := .next (getMeasurements s s.argA)

/-- SPDM_UNSUPPORTED: any other request receives ERROR with UnsupportedRequest. -/
def spdmUnsupported (s : State) (m : Nat) : State :=
  let x := getMod s m
  match x.spdmIn with
  | r :: _ => if powered s m && x.rdyMod.getLsbD 0 && !spdmCodes.contains (r.getD 1 0).toNat then spdmError s m 7 (r.getD 1 0) else s
  | [] => s

def execSpdmUnsupported (s : State) : Host.Outcome State Fault Refusal := .next (spdmUnsupported s s.argA)

end Sys2Proof.Machine
end

