-- ==== Sys2Proof/Machine/Boot.lean ====
section
/-!
DEFINITION. Power, bring-up, telemetry, the patrol scrubber and the fault-map journal (R340, R400–R405, R411, R412, R414–R422).

Bring-up functions are numbered: 0 SMU, 1 key table, 2 PCIe, 8 + p port p, 16 + d state SRAM of die d, 32 + d its HBM stack, 48 + d its stream,
frame and Basin tables and Spillway, 64 + d its launch unit, 2048 + c cluster c of the module.
-/
namespace Sys2Proof.Machine

/-! ### Power (R400) -/

/-- Module of a barrier instance's key. -/
def barModule (k : Nat) : Nat := if k < 2 ^ 64 then moduleOf k else k / 2 ^ 64 - 1

/-- Module of a superstep group's key: that of its unit, or the home of a fabric group. -/
def groupModule (k : Nat) : Nat :=
  match k % 4 with
  | 0 => k / 131072 % 2 ^ 21 / 2048
  | 1 => k / 131072 % 2 ^ 21 / 16
  | 2 => k / 131072 % 2 ^ 21
  | _ => k / 4 % 32768 / 32

/-- What power-off leaves of flash: a copy that a firmware update is writing fails its verification from then on (R425) (DESIGN CHOICE,
notes/assumptions 159). -/
def flashAfter (s : State) (x : Mod) : Flash :=
  if x.fwmbStat.getLsbD 63 && fwmbResult s x == 0 then fwmbWritten x [] else x.flash

/-- A module as nothing but its own state x: all that it holds elsewhere is as at reset, but for the defects of its MAC blocks (R400). -/
def emptied (s : State) (m : Nat) (x : Mod) : State :=
  { s with
    cores := s.cores.filter fun e => modOf e.1 != m
    clusters := s.clusters.filter fun e => e.1 / 2048 != m
    dies := s.dies.filter fun e => e.1 / 16 != m
    mods := tput s.mods m x
    mem := s.mem.filter fun e => moduleOf e.1 != m
    memKey := s.memKey.filter fun e => moduleOf (16 * e.1) != m
    full := s.full.filter fun d => moduleOf (8 * d) != m
    poison := s.poison.filter fun d => moduleOf (8 * d) != m
    latent := s.latent.filter fun d => moduleOf (8 * d) != m
    soft := s.soft.filter fun d => moduleOf (8 * d) != m
    bars := s.bars.filter fun e => barModule e.1 != m
    groups := s.groups.filter fun e => groupModule e.1 != m
    ue := s.ue.filter fun e => e.1 != m
    ueFound := s.ueFound.filter fun e => e.1 != m
    net := s.net.filter fun x => !(x.here == m && modOf x.src == m)
    surplus := s.surplus.filter fun x => modOf x.core != m
    records := s.records.filter fun e => modOf e.1 != m
    saves := s.saves.filter fun v => v.cluster / 2048 != m
    fabSet := s.fabSet.filter fun e => moduleOf e.1 != m }

/-- A module loses power: all it holds is lost but flash and the defects of its MAC blocks; its links go down; messages that it holds for others meet
the fates of R324 (R400, R418) (DEDUCED, notes/assumptions 125). -/
def powerOff (s : State) (m : Nat) : State :=
  let far := (upFrom 0 8).filterMap fun p => if portUp s m p then (neighbour (dimsOf s m) m p).map fun n => (n, p ^^^ 1) else none
  let stuck := s.net.filter fun x => x.here == m && modOf x.src != m
  let s1 := emptied s m { flash := flashAfter s (getMod s m) }
  let s2 := stuck.foldl undeliverable s1
  far.foldl (fun s n => portUpChange s n.1 n.2 false) s2

/-- MAIN_POWER_LOSS (R400). -/
def execMainPowerLoss (s : State) : Host.Outcome State Fault Refusal := .next (if powered s s.argA then powerOff s s.argA else s)

/-- Junction temperature of a die, in 1/16 °C (R415). -/
def tj (s : State) (d : Nat) : Nat := fget ⟨0, 16⟩ (getDie s d).dtel1

/-- THERMAL_SHUTDOWN: at 110 °C of a junction, 45 °C at the inlet, or 1,000 ms of too little flow, main power goes (R418). -/
def execThermalShutdown (s : State) : Host.Outcome State Fault Refusal :=
  .next (
    let m := s.argA
    let x := getMod s m
    if powered s m && ((upFrom (m * 16) 16).any (fun d => decide (1760 ≤ tj s d)) || decide (720 ≤ fget ⟨0, 16⟩ x.cool) || decide (1000 ≤ x.lowFlow))
    then powerOff s m else s)

/-! ### Bring-up (R401–R405, R421) -/

/-- All bring-up functions (DESIGN CHOICE, notes/assumptions 119). -/
def bringupFunctions : List Nat := [0, 1, 2] ++ upFrom 8 8 ++ upFrom 16 64 ++ upFrom 2048 2048

/-- The copy that the SMU accepts: of two good copies the one of higher SVN, A on a tie (R405). -/
def chooseCopy (f : Flash) : Option Bool :=
  let a := flashCopy f.bundleA
  let b := flashCopy f.bundleB
  match bunCheck f a == 0, bunCheck f b == 0 with
  | true, true => some (decide (bunSvn a < bunSvn b))
  | true, false => some false
  | false, true => some true
  | false, false => none

/-- POWER_GOOD: the module starts from the reset state, whatever was done to it while it was off; the SMU verifies both copies and takes the default trap
images from one. With no good copy only recovery is left (R400, R401, R404, R405). -/
def powerGood (s : State) (m : Nat) : State :=
  if powered s m then s
  else
    let f := (getMod s m).flash
    let on : Mod := { flash := f, hostQ := (getMod s m).hostQ, spdmIn := (getMod s m).spdmIn, booted := chooseCopy f, power := .on [] }
    let pay := bunPayload (bootBundle on)
    let x := if on.booted.isNone then on
      else { on with power := .on bringupFunctions, trapTriad := pay.take 2048, trapK := (pay.drop 2048).take 2048 }
    emptied s m x

def execPowerGood (s : State) : Host.Outcome State Fault Refusal := .next (powerGood s s.argA)

/-! ### The journal (R420) -/

/-- Records in a half of 1 MiB (DEDUCED, notes/assumptions 123). -/
def halfRecords : Nat := 6553

/-- JOURNAL_APPEND: the oldest change is appended, and a map change's commit event is posted. JOURNAL_HALF_COPY: a full half is first copied, the
latest record of each cluster, into the other half and erased (R420, R422) (DEDUCED, notes/assumptions 122). -/
def journalAppend (s : State) (m : Nat) : State :=
  let x := getMod s m
  match x.journalDue with
  | r :: rest =>
    if !powered s m then s
    else
      let j := if x.flash.journal.length < halfRecords then x.flash.journal else (upFrom 0 2048).filterMap (lastRecord x.flash.journal)
      let f := { x.flash with journal := j ++ [recordBytes r (x.flash.seq + 1)], seq := x.flash.seq + 1 }
      let s1 := modMod s m fun y => { y with journalDue := rest, flash := f }
      if !r.change then s1 else postEvent s1 m { kind := 9 } 0x22 r.gen r.cl
  | [] => s

def execJournalAppend (s : State) : Host.Outcome State Fault Refusal := .next (journalAppend s s.argA)

/-! ### READY bits (R403) -/

/-- A READY bit is set and an event posted: offset in the status table and bit. -/
def readyEvent (s : State) (m off bit : Nat) : State := postEvent s m { kind := 9 } 0x01 off bit

def setRdyMod (s : State) (m bit : Nat) : State :=
  readyEvent (modMod s m fun x => { x with rdyMod := x.rdyMod ||| BitVec.ofNat 64 (2 ^ bit) }) m 0 bit
def setRdyPort (s : State) (m p : Nat) : State :=
  readyEvent (modMod s m fun x => { x with rdyPort := x.rdyPort ||| BitVec.ofNat 64 (2 ^ p) }) m 8 p
def setRdyDie (s : State) (d bit : Nat) : State :=
  readyEvent (modDie s d fun x => { x with rdy := x.rdy ||| BitVec.ofNat 64 (2 ^ bit) }) (d / 16) (0x100 + 8 * (d % 16)) bit
def setRdyCl (s : State) (q : Nat) : State :=
  let d := q / 128
  readyEvent (modDie s d fun x => { x with rdyCl := x.rdyCl ||| BitVec.ofNat 128 (2 ^ (q % 128)) }) (d / 16) (0x200 + 16 * (d % 16)) (q % 128)

/-! ### The fault map at bring-up (R340, R402, R421) -/

/-- The canonical rule for a block's new entry from the one in force and a sweep's result (R340). -/
def deriveEntry (o s : Word) : Word :=
  if !s.getLsbD 63 ∨ fget F.fmShape o = 3 then o
  else
    let rowx := fget F.fmRowx o
    let colx := fget F.fmColx o
    let fr := (upFrom 0 34).filter fun i => s.getLsbD i && !o.getLsbD i
    let fc := (upFrom 0 18).filter fun j => s.getLsbD (34 + j) && !o.getLsbD (34 + j)
    let add (x : Nat) (l : List Nat) : Nat := l.foldl (fun n i => n + 2 ^ i) x
    let pr := (add rowx fr, colx)
    let pc := (rowx, add colx fc)
    let pairs := if fc.length < fr.length then [pc, pr] else [pr, pc]
    let shapes := if fget F.fmShape o = 0 then [0, 1, 2] else [fget F.fmShape o]
    let entry (h : Nat) (p : Nat × Nat) : Word := fput F.fmShape (fput F.fmColx (fput F.fmRowx 0 p.1) p.2) h
    let fits := shapes.flatMap fun h => (pairs.map (entry h)).filter mapValid
    fits.headD (entry 3 (rowx, colx))

/-- The bring-up sweep of a block; its seed is as free as what it finds (R401). -/
def bootSweep (s : State) (q t : Nat) : Word := sweepResult s q t 0 (s.draws + t)

/-- The bring-up sweep reports a cell of a block that an entry does not exclude (R402). -/
def uncovered (s : State) (q t : Nat) (e : Word) : Bool :=
  fget F.fmShape e != 3 && (sweepCells s q t 0 (s.draws + t)).any fun c => !e.getLsbD c.2.2.1 && !e.getLsbD (34 + c.2.2.2)

/-- Memory that the condition names is zero, with its full bits, poison and errors cleared (R401). -/
def zeroMemory (s : State) (mine : Nat → Bool) : State :=
  { s with
    mem := s.mem.filter fun e => !mine e.1
    memKey := s.memKey.filter fun e => !mine (16 * e.1)
    full := s.full.filter fun d => !mine (8 * d)
    poison := s.poison.filter fun d => !mine (8 * d)
    latent := s.latent.filter fun d => !mine (8 * d)
    soft := s.soft.filter fun d => !mine (8 * d) }

/-- The state SRAM of a die is zeroed (R401 step 2). -/
def zeroFrames (s : State) (d : Nat) : State := zeroMemory s fun ga => match region ga with | .frame e _ => e == d | _ => false

/-- The stream, frame, Basin and arrival tables of a die are cleared (R401 step 2). -/
def clearTables (s : State) (d : Nat) : State :=
  modDie s d fun x =>
    { x with
      scb := [], frames := [], age := [], zeroing := [], work := [], walk := [], owed := [], steps := [], spillUsed := [], evicting := false
      arrival := [], pealOps := [], sets := [], topoLeft := none, topoNodes := [], snaps := [], incoming := [] }

/-- The ECC of a die's HBM is initialised, so that none of its doublewords is in error or poisoned, and every full bit is cleared (R401 step 3). -/
def initHbm (s : State) (d : Nat) : State :=
  let keep (w : Nat) : Bool := match region (8 * w) with | .hbm e _ => e != d | _ => true
  { s with full := s.full.filter keep, poison := s.poison.filter keep, latent := s.latent.filter keep, soft := s.soft.filter keep }

/-- TCMs, scratchpad, instruction stores and queues of a cluster are zeroed (R401 step 4). -/
def zeroCluster (s : State) (q : Nat) : State :=
  let s1 := zeroMemory s fun ga => (placeIn q ga).isSome
  { s1 with
    cores := s1.cores.filter fun e => clusterOf e.1 != q
    bars := (upFrom 0 256).foldl (fun t i => tdel t (gaBarCluster q i)) s1.bars }

/-- A cluster is retired: by its stored record, or by a write of this power cycle, whose record may still wait for the flash (R403, R422). -/
def retiredNow (s : State) (q : Nat) : Bool :=
  (storedMap s q).2 || (getCluster s q).retired || (getMod s (q / 2048)).journalDue.any fun r => r.cl == q % 2048 && r.retire

/-- A cluster comes up: it is zeroed, its stored map goes in force with its event and its record (R339, R420), its 16 blocks are swept, and BRINGUP_SWEEP_REMAP installs the derived entries of blocks with a
failed cell that the map does not exclude (R402). A retired one never turns READY (R403). -/
def bringUpCluster (s : State) (q : Nat) : State :=
  let map := (storedMap s q).1
  let retired := retiredNow s q
  let s1 := installMap (modCluster (zeroCluster s q) q fun _ => { retired := retired }) q map
  let s2 := modDie { s1 with draws := s1.draws + 16 } (q / 128) fun d =>
    { d with cltel := (upFrom 0 16).foldl (fun t b =>
        let w := fbump ⟨16, 16⟩ (tget 0 t (q % 128))
        tset 0 t (q % 128) (if (bootSweep s q b).getLsbD 63 then fbump ⟨32, 16⟩ w else w)) d.cltel }
  let bad := (upFrom 0 16).filter fun t => uncovered s q t (map.getD t 0)
  let s3 := if bad.isEmpty then s2
    else installMap s2 q ((upFrom 0 16).map fun t => if bad.contains t then deriveEntry (map.getD t 0) (bootSweep s q t) else map.getD t 0)
  if retired then s3 else setRdyCl s3 q

/-- A function may end: the SMU's first, a launch unit after its die's tables (R401, R404). -/
def mayFinish (s : State) (m f : Nat) : Bool :=
  f == 0 || ((getMod s m).rdyMod.getLsbD 0
    && (!(decide (64 ≤ f) && decide (f < 80)) || (let d := getDie s (m * 16 + (f - 64)); d.rdy.getLsbD 1 && d.rdy.getLsbD 3)))

/-- BRINGUP_FUNCTION_READY: a function's last step ends. With the last of all, a higher SVN becomes the minimum (R401, R405) (DEDUCED, notes/assumptions 120, 132). -/
def bringupReady (s : State) (m f : Nat) : State :=
  match (getMod s m).power with
  | .on left =>
    if !left.contains f || !mayFinish s m f then s
    else
      let rest := left.filter (· != f)
      let s1 := modMod s m fun x =>
        { x with
          power := .on rest
          flash := if rest.isEmpty && decide (x.flash.minSvn < bunSvn (bootBundle x)) then { x.flash with minSvn := bunSvn (bootBundle x) } else x.flash }
      if f = 0 then setRdyMod s1 m 0
      else if f = 1 then setRdyMod s1 m 2
      else if f = 2 then setRdyMod s1 m 1
      else if f < 16 then setRdyPort s1 m (f - 8)
      else if f < 32 then setRdyDie (zeroFrames s1 (m * 16 + (f - 16))) (m * 16 + (f - 16)) 1
      else if f < 48 then setRdyDie (initHbm s1 (m * 16 + (f - 32))) (m * 16 + (f - 32)) 2
      else if f < 64 then setRdyDie (clearTables s1 (m * 16 + (f - 48))) (m * 16 + (f - 48)) 3
      else if f < 80 then setRdyDie s1 (m * 16 + (f - 64)) 0
      else bringUpCluster s1 (m * 2048 + (f - 2048))
  | .off => s

def execBringupFunctionReady (s : State) : Host.Outcome State Fault Refusal := .next (bringupReady s s.argA s.argB)

/-! ### Telemetry and power (R415, R417) -/

/-- The larger of a field and a reading. -/
def fmax {n : Nat} (f : Fld) (x : BitVec n) (v : Nat) : BitVec n := if fget f x < v then fput f x v else x

/-- The effective cap of a window in watts: PCAP as the window began, less 5 % of it for each step of the thermal reduction (R417). -/
def effectiveCap (x : Mod) : Nat := Nat.min 5400 (x.pcapNow * (20 - x.capSteps) / 20)

/-- POWER_WINDOW: readings of the sensors, which nothing but the cap constrains, refresh the telemetry; the governor has kept the window's average
at or below the effective cap, and the module below 5,400 W; the cap falls or rises by a step; how many clocks of the next window the governor gates on
each die is free (R12, R415, R417) (DESIGN CHOICE, notes/assumptions 124). -/
def powerWindow (s : State) (m : Nat) : State :=
  if !powered s m then s
  else
    let s1 := (upFrom (m * 16) 16).foldl (fun s d =>
      let (t, s1) := draw s
      let (g, s2) := draw s1
      modDie s2 d fun x =>
        { x with
          dtel1 := fmax ⟨16, 16⟩ (fput ⟨0, 16⟩ x.dtel1 t) (t % 65536)
          gateLeft := g % 1600001 }) s
    let (p, s2) := draw s1
    let (flow, s3) := draw s2
    let (tout, s4) := draw s3
    let (tin, s5) := draw s4
    let hot := (upFrom (m * 16) 16).any fun d => decide (1520 ≤ tj s5 d)
    let cold := (upFrom (m * 16) 16).all fun d => decide (tj s5 d < 1488)
    modMod s5 m fun x =>
      { x with
        pwr := p % (effectiveCap x + 1)
        ppeak := Nat.max x.ppeak (p % (effectiveCap x + 1))
        pcapNow := x.pcap
        cool := BitVec.ofNat 64 (flow % 65536 * 2 ^ 48 + tout % 65536 * 2 ^ 16 + tin % 65536)
        capSteps := if hot then Nat.min 20 (x.capSteps + 1) else if cold then x.capSteps - 1 else x.capSteps
        lowFlow := if flow % 65536 < 300 then x.lowFlow + 1 else 0 }

def execPowerWindow (s : State) : Host.Outcome State Fault Refusal := .next (powerWindow s s.argA)

/-! ### The patrol scrubber (R411, R412) -/

/-- PATROL_SCRUB_VISIT: the doubleword of an address is read: a correctable error is corrected and counted, an uncorrectable one poisons it. With bit 63
of `argV` set the step stands for a correctable error that the hardware corrects as it reads a structure: `argV` is its locator, `argA` an address of its
module (R411, R412, R415) (DESIGN CHOICE, notes/assumptions 126). -/
def patrolVisit (s : State) (ga : Nat) (loc : Word) : State :=
  if loc.getLsbD 63 then countCe s (moduleOf ga * 16 + bitsOf loc.toNat 52 4)
  else if scrubbed ga then findError (correct s (ga / 8)) (ga / 8) 0
  else s

def execPatrolScrubVisit (s : State) : Host.Outcome State Fault Refusal := .next (whilePowered s (moduleOf s.argA) (patrolVisit s s.argA s.argV))

end Sys2Proof.Machine
end

