-- ==== Sys2Proof/Machine/Convert.lean ====
section
/-!
DEFINITION. The forms of page 4: conversion, quantisation and special functions (R180–R186). Each enters the vector queue; `vectorEffect` gives what
it does at retirement.
-/
namespace Sys2Proof.Machine

/-- `cvt2` (R180). -/
def execCvt2 (p : Pfx) (f : Elem) (d a b : Reg) (s : State) : Host.Outcome State Fault Refusal := .next (enqueueV (.cvt2 p f d a b) s)

/-- `cvt8` (R181). -/
def execCvt8 (p : Pfx) (f : Elem) (d a : Reg) (s : State) : Host.Outcome State Fault Refusal := .next (enqueueV (.cvt8 p f d a) s)

/-- `cvt4` (R181). -/
def execCvt4 (p : Pfx) (f : Elem) (d a : Reg) (s : State) : Host.Outcome State Fault Refusal := .next (enqueueV (.cvt4 p f d a) s)

/-- `cvtu` (R182). -/
def execCvtu (p : Pfx) (f : Elem) (d a part : Reg) (s : State) : Host.Outcome State Fault Refusal := .next (enqueueV (.cvtu p f d a part) s)

/-- `cvti.i32` (R183). -/
def execCvtiI32 (p : Pfx) (d a : Reg) (s : State) : Host.Outcome State Fault Refusal := .next (enqueueV (.cvtiI32 p d a) s)

/-- `cvti.f32` (R183). -/
def execCvtiF32 (p : Pfx) (d a : Reg) (s : State) : Host.Outcome State Fault Refusal := .next (enqueueV (.cvtiF32 p d a) s)

/-- `qscale` (R184). -/
def execQscale (p : Pfx) (f : Elem) (d a : Reg) (s : State) : Host.Outcome State Fault Refusal := .next (enqueueV (.qscale p f d a) s)

/-- `qz` (R185). -/
def execQz (p : Pfx) (f : Elem) (d a b : Reg) (s : State) : Host.Outcome State Fault Refusal := .next (enqueueV (.qz p f d a b) s)

/-- `vexp2` (R186). -/
def execVexp2 (p : Pfx) (d a : Reg) (s : State) : Host.Outcome State Fault Refusal := .next (enqueueV (.vexp2 p d a) s)

/-- `vlog2` (R186). -/
def execVlog2 (p : Pfx) (d a : Reg) (s : State) : Host.Outcome State Fault Refusal := .next (enqueueV (.vlog2 p d a) s)

/-- `vrcp` (R186). -/
def execVrcp (p : Pfx) (d a : Reg) (s : State) : Host.Outcome State Fault Refusal := .next (enqueueV (.vrcp p d a) s)

/-- `vrsqrt` (R186). -/
def execVrsqrt (p : Pfx) (d a : Reg) (s : State) : Host.Outcome State Fault Refusal := .next (enqueueV (.vrsqrt p d a) s)

/-- `vtanh` (R186). -/
def execVtanh (p : Pfx) (d a : Reg) (s : State) : Host.Outcome State Fault Refusal := .next (enqueueV (.vtanh p d a) s)

/-- `vsig` (R186). -/
def execVsig (p : Pfx) (d a : Reg) (s : State) : Host.Outcome State Fault Refusal := .next (enqueueV (.vsig p d a) s)

end Sys2Proof.Machine
end

