-- ==== Sys2Proof/Machine/Scalar.lean ====
section
/-!
DEFINITION. Integer and bit operations of pages 0 and 2 (R119–R121, R114), branches and jumps (R123, R124).
-/
namespace Sys2Proof.Machine

/-! ### Results (R114, R119) -/

def boolWord (b : Bool) : Word := if b then 1 else 0

/-- Shift amounts are bits [5:0] (R114). -/
def shamt (b : Word) : Nat := b.toNat % 64

def resSll (a b : Word) : Word := a <<< shamt b
def resSrl (a b : Word) : Word := a >>> shamt b
def resSra (a b : Word) : Word := a.sshiftRight (shamt b)
def resSlt (a b : Word) : Word := boolWord (decide (a.toInt < b.toInt))
def resSltu (a b : Word) : Word := boolWord (decide (a.toNat < b.toNat))
def resSeq (a b : Word) : Word := boolWord (a == b)

/-- Bits [127:64] of the exact product (R119). -/
def resMulh (a b : Word) : Word := BitVec.ofInt 64 (a.toInt * b.toInt / 2 ^ 64)
def resMulhu (a b : Word) : Word := BitVec.ofNat 64 (a.toNat * b.toNat / 2 ^ 64)

/-- Quotient truncated towards zero; divisor 0 gives all ones; −2^63 by −1 gives −2^63 (R114). -/
def resDiv (a b : Word) : Word := if b = 0 then BitVec.allOnes 64 else BitVec.ofInt 64 (a.toInt.tdiv b.toInt)
def resDivu (a b : Word) : Word := if b = 0 then BitVec.allOnes 64 else BitVec.ofNat 64 (a.toNat / b.toNat)

/-- Remainder with the sign of the dividend; divisor 0 gives the dividend (R114). -/
def resRem (a b : Word) : Word := if b = 0 then a else BitVec.ofInt 64 (a.toInt.tmod b.toInt)
def resRemu (a b : Word) : Word := if b = 0 then a else BitVec.ofNat 64 (a.toNat % b.toNat)

def resMin (a b : Word) : Word := if b.toInt < a.toInt then b else a
def resMax (a b : Word) : Word := if a.toInt < b.toInt then b else a
def resMinu (a b : Word) : Word := if b.toNat < a.toNat then b else a
def resMaxu (a b : Word) : Word := if a.toNat < b.toNat then b else a

/-- Number of leading bits, counted from the top of n bits, that are zero. -/
def leadingZeros (a : Word) : Nat → Nat
  | 0 => 0
  | n + 1 => if a.getLsbD n then 0 else leadingZeros a n + 1

/-- Number of trailing zero bits among bits i to 63, with n bits left. -/
def trailingZeros (a : Word) (i : Nat) : Nat → Nat
  | 0 => 0
  | n + 1 => if a.getLsbD i then 0 else trailingZeros a (i + 1) n + 1

def popCount (a : Word) : Nat := ((upFrom 0 64).filter fun i => a.getLsbD i).length

def resClz (a : Word) : Word := BitVec.ofNat 64 (leadingZeros a 64)
def resCtz (a : Word) : Word := BitVec.ofNat 64 (trailingZeros a 0 64)
def resPopc (a : Word) : Word := BitVec.ofNat 64 (popCount a)
def resRor (a b : Word) : Word := a.rotateRight (shamt b)

/-- The condition of `sel` is xD as it stood (R119). -/
def resSel (d a b : Word) : Word := if d = 0 then b else a

/-- Position and width of a bit-field immediate (R97, R121). -/
def bfPos (imm : Nat) : Nat := imm % 64
def bfWidth (imm : Nat) : Nat := imm / 64 % 64 + 1

def resBfx (a : Word) (imm : Nat) : Word := BitVec.ofNat 64 (a.toNat / 2 ^ bfPos imm % 2 ^ bfWidth imm)

def bfMask (imm : Nat) : Word := BitVec.ofNat 64 ((2 ^ bfWidth imm - 1) * 2 ^ bfPos imm)
def resBfi (d a : Word) (imm : Nat) : Word := (d &&& ~~~bfMask imm) ||| ((a <<< bfPos imm) &&& bfMask imm)

/-! ### The instructions -/

/-- `add`: xA + xB modulo 2^64 (R119). -/
def execAdd (p : Pfx) (d a b : Reg) (s : State) : Host.Outcome State Fault Refusal :=
  .next (issue (.add p d a b) s fun s g k => retire s g k (.add p d a b) [(d, readX s g k a + readX s g k b)])

/-- `sub`: xA − xB modulo 2^64 (R119). -/
def execSub (p : Pfx) (d a b : Reg) (s : State) : Host.Outcome State Fault Refusal :=
  .next (issue (.sub p d a b) s fun s g k => retire s g k (.sub p d a b) [(d, readX s g k a - readX s g k b)])

/-- `and`: bitwise (R119). -/
def execAnd (p : Pfx) (d a b : Reg) (s : State) : Host.Outcome State Fault Refusal :=
  .next (issue (.and p d a b) s fun s g k => retire s g k (.and p d a b) [(d, readX s g k a &&& readX s g k b)])

/-- `or`: bitwise (R119). -/
def execOr (p : Pfx) (d a b : Reg) (s : State) : Host.Outcome State Fault Refusal :=
  .next (issue (.or p d a b) s fun s g k => retire s g k (.or p d a b) [(d, readX s g k a ||| readX s g k b)])

/-- `xor`: bitwise (R119). -/
def execXor (p : Pfx) (d a b : Reg) (s : State) : Host.Outcome State Fault Refusal :=
  .next (issue (.xor p d a b) s fun s g k => retire s g k (.xor p d a b) [(d, readX s g k a ^^^ readX s g k b)])

/-- `sll`: left shift by xB[5:0] (R119). -/
def execSll (p : Pfx) (d a b : Reg) (s : State) : Host.Outcome State Fault Refusal :=
  .next (issue (.sll p d a b) s fun s g k => retire s g k (.sll p d a b) [(d, resSll (readX s g k a) (readX s g k b))])

/-- `srl`: right shift by xB[5:0], zeros (R119). -/
def execSrl (p : Pfx) (d a b : Reg) (s : State) : Host.Outcome State Fault Refusal :=
  .next (issue (.srl p d a b) s fun s g k => retire s g k (.srl p d a b) [(d, resSrl (readX s g k a) (readX s g k b))])

/-- `sra`: right shift by xB[5:0], sign (R119). -/
def execSra (p : Pfx) (d a b : Reg) (s : State) : Host.Outcome State Fault Refusal :=
  .next (issue (.sra p d a b) s fun s g k => retire s g k (.sra p d a b) [(d, resSra (readX s g k a) (readX s g k b))])

/-- `slt`: 1 if less, signed (R119). -/
def execSlt (p : Pfx) (d a b : Reg) (s : State) : Host.Outcome State Fault Refusal :=
  .next (issue (.slt p d a b) s fun s g k => retire s g k (.slt p d a b) [(d, resSlt (readX s g k a) (readX s g k b))])

/-- `sltu`: 1 if less, unsigned (R119). -/
def execSltu (p : Pfx) (d a b : Reg) (s : State) : Host.Outcome State Fault Refusal :=
  .next (issue (.sltu p d a b) s fun s g k => retire s g k (.sltu p d a b) [(d, resSltu (readX s g k a) (readX s g k b))])

/-- `seq`: 1 if equal (R119). -/
def execSeq (p : Pfx) (d a b : Reg) (s : State) : Host.Outcome State Fault Refusal :=
  .next (issue (.seq p d a b) s fun s g k => retire s g k (.seq p d a b) [(d, resSeq (readX s g k a) (readX s g k b))])

/-- `mov`: copies xA (R119); with port registers it pops and pushes (R131). -/
def execMov (p : Pfx) (d a : Reg) (s : State) : Host.Outcome State Fault Refusal :=
  .next (issue (.mov p d a) s fun s g k => retire s g k (.mov p d a) [(d, readX s g k a)])

/-- `addi`: xA plus the signed immediate modulo 2^64 (R120). -/
def execAddi (p : Pfx) (d a : Reg) (imm : Int) (s : State) : Host.Outcome State Fault Refusal :=
  .next (issue (.addi p d a imm) s fun s g k => retire s g k (.addi p d a imm) [(d, readX s g k a + wordOfInt imm)])

/-- `li`: the signed immediate (R120). -/
def execLi (p : Pfx) (d : Reg) (imm : Int) (s : State) : Host.Outcome State Fault Refusal :=
  .next (issue (.li p d imm) s fun s g k => retire s g k (.li p d imm) [(d, wordOfInt imm)])

/-- `mul`: low 64 bits of the product (R119). -/
def execMul (p : Pfx) (d a b : Reg) (s : State) : Host.Outcome State Fault Refusal :=
  .next (issue (.mul p d a b) s fun s g k => retire s g k (.mul p d a b) [(d, readX s g k a * readX s g k b)])

/-- `mulh`: high half of the signed product (R119). -/
def execMulh (p : Pfx) (d a b : Reg) (s : State) : Host.Outcome State Fault Refusal :=
  .next (issue (.mulh p d a b) s fun s g k => retire s g k (.mulh p d a b) [(d, resMulh (readX s g k a) (readX s g k b))])

/-- `mulhu`: high half of the unsigned product (R119). -/
def execMulhu (p : Pfx) (d a b : Reg) (s : State) : Host.Outcome State Fault Refusal :=
  .next (issue (.mulhu p d a b) s fun s g k => retire s g k (.mulhu p d a b) [(d, resMulhu (readX s g k a) (readX s g k b))])

/-- `div`: signed quotient (R114). -/
def execDiv (p : Pfx) (d a b : Reg) (s : State) : Host.Outcome State Fault Refusal :=
  .next (issue (.div p d a b) s fun s g k => retire s g k (.div p d a b) [(d, resDiv (readX s g k a) (readX s g k b))])

/-- `divu`: unsigned quotient (R114). -/
def execDivu (p : Pfx) (d a b : Reg) (s : State) : Host.Outcome State Fault Refusal :=
  .next (issue (.divu p d a b) s fun s g k => retire s g k (.divu p d a b) [(d, resDivu (readX s g k a) (readX s g k b))])

/-- `rem`: signed remainder (R114). -/
def execRem (p : Pfx) (d a b : Reg) (s : State) : Host.Outcome State Fault Refusal :=
  .next (issue (.rem p d a b) s fun s g k => retire s g k (.rem p d a b) [(d, resRem (readX s g k a) (readX s g k b))])

/-- `remu`: unsigned remainder (R114). -/
def execRemu (p : Pfx) (d a b : Reg) (s : State) : Host.Outcome State Fault Refusal :=
  .next (issue (.remu p d a b) s fun s g k => retire s g k (.remu p d a b) [(d, resRemu (readX s g k a) (readX s g k b))])

/-- `min`: smaller, signed (R119). -/
def execMin (p : Pfx) (d a b : Reg) (s : State) : Host.Outcome State Fault Refusal :=
  .next (issue (.min p d a b) s fun s g k => retire s g k (.min p d a b) [(d, resMin (readX s g k a) (readX s g k b))])

/-- `max`: larger, signed (R119). -/
def execMax (p : Pfx) (d a b : Reg) (s : State) : Host.Outcome State Fault Refusal :=
  .next (issue (.max p d a b) s fun s g k => retire s g k (.max p d a b) [(d, resMax (readX s g k a) (readX s g k b))])

/-- `minu`: smaller, unsigned (R119). -/
def execMinu (p : Pfx) (d a b : Reg) (s : State) : Host.Outcome State Fault Refusal :=
  .next (issue (.minu p d a b) s fun s g k => retire s g k (.minu p d a b) [(d, resMinu (readX s g k a) (readX s g k b))])

/-- `maxu`: larger, unsigned (R119). -/
def execMaxu (p : Pfx) (d a b : Reg) (s : State) : Host.Outcome State Fault Refusal :=
  .next (issue (.maxu p d a b) s fun s g k => retire s g k (.maxu p d a b) [(d, resMaxu (readX s g k a) (readX s g k b))])

/-- `clz`: leading zero bits (R119). -/
def execClz (p : Pfx) (d a : Reg) (s : State) : Host.Outcome State Fault Refusal :=
  .next (issue (.clz p d a) s fun s g k => retire s g k (.clz p d a) [(d, resClz (readX s g k a))])

/-- `ctz`: trailing zero bits (R119). -/
def execCtz (p : Pfx) (d a : Reg) (s : State) : Host.Outcome State Fault Refusal :=
  .next (issue (.ctz p d a) s fun s g k => retire s g k (.ctz p d a) [(d, resCtz (readX s g k a))])

/-- `popc`: number of 1 bits (R119). -/
def execPopc (p : Pfx) (d a : Reg) (s : State) : Host.Outcome State Fault Refusal :=
  .next (issue (.popc p d a) s fun s g k => retire s g k (.popc p d a) [(d, resPopc (readX s g k a))])

/-- `ror`: rotation right by xB[5:0] (R119). -/
def execRor (p : Pfx) (d a b : Reg) (s : State) : Host.Outcome State Fault Refusal :=
  .next (issue (.ror p d a b) s fun s g k => retire s g k (.ror p d a b) [(d, resRor (readX s g k a) (readX s g k b))])

/-- `sel`: xA if xD is not zero, else xB (R119). -/
def execSel (p : Pfx) (d a b : Reg) (s : State) : Host.Outcome State Fault Refusal :=
  .next (issue (.sel p d a b) s fun s g k => retire s g k (.sel p d a b) [(d, resSel (readX s g k d) (readX s g k a) (readX s g k b))])

/-- `bfx`: the bit field of xA, zero-extended (R121). -/
def execBfx (p : Pfx) (d a : Reg) (imm : Nat) (s : State) : Host.Outcome State Fault Refusal :=
  .next (issue (.bfx p d a imm) s fun s g k => retire s g k (.bfx p d a imm) [(d, resBfx (readX s g k a) imm)])

/-- `bfi`: xD with the bit field taken from xA (R121). -/
def execBfi (p : Pfx) (d a : Reg) (imm : Nat) (s : State) : Host.Outcome State Fault Refusal :=
  .next (issue (.bfi p d a imm) s fun s g k => retire s g k (.bfi p d a imm) [(d, resBfi (readX s g k d) (readX s g k a) imm)])

/-! ### Branches and jumps (R123, R124) -/

/-- Continue at the target when the condition holds, else at Next (R123). -/
def branch (s : State) (g k : Nat) (i : Instr) (taken : Bool) (disp : Int) : Eff :=
  .done (retireTo s g k i [] (if taken then target (getCtx s g k).pc disp else nextPc s g k i))

/-- `bz` (R123). -/
def execBz (p : Pfx) (d : Reg) (imm : Int) (s : State) : Host.Outcome State Fault Refusal :=
  .next (issue (.bz p d imm) s fun s g k => branch s g k (.bz p d imm) (readX s g k d == 0) imm)

/-- `bnz` (R123). -/
def execBnz (p : Pfx) (d : Reg) (imm : Int) (s : State) : Host.Outcome State Fault Refusal :=
  .next (issue (.bnz p d imm) s fun s g k => branch s g k (.bnz p d imm) (readX s g k d != 0) imm)

/-- `blt` (R123, R92). -/
def execBlt (p : Pfx) (d a : Reg) (imm : Int) (s : State) : Host.Outcome State Fault Refusal :=
  .next (issue (.blt p d a imm) s fun s g k => branch s g k (.blt p d a imm) (decide ((readX s g k d).toInt < (readX s g k a).toInt)) imm)

/-- `bge` (R123, R92). -/
def execBge (p : Pfx) (d a : Reg) (imm : Int) (s : State) : Host.Outcome State Fault Refusal :=
  .next (issue (.bge p d a imm) s fun s g k => branch s g k (.bge p d a imm) (decide ((readX s g k a).toInt ≤ (readX s g k d).toInt)) imm)

/-- `bltu` (R123, R92). -/
def execBltu (p : Pfx) (d a : Reg) (imm : Int) (s : State) : Host.Outcome State Fault Refusal :=
  .next (issue (.bltu p d a imm) s fun s g k => branch s g k (.bltu p d a imm) (decide ((readX s g k d).toNat < (readX s g k a).toNat)) imm)

/-- `bgeu` (R123, R92). -/
def execBgeu (p : Pfx) (d a : Reg) (imm : Int) (s : State) : Host.Outcome State Fault Refusal :=
  .next (issue (.bgeu p d a imm) s fun s g k => branch s g k (.bgeu p d a imm) (decide ((readX s g k a).toNat ≤ (readX s g k d).toNat)) imm)

/-- `j`: continue at the target (R124). -/
def execJ (p : Pfx) (imm : Int) (s : State) : Host.Outcome State Fault Refusal :=
  .next (issue (.j p imm) s fun s g k => .done (retireTo s g k (.j p imm) [] (target (getCtx s g k).pc imm)))

/-- `jal`: the link register receives Next, and the pc the target (R124). LR is never a port register (R131). -/
def execJal (p : Pfx) (imm : Int) (s : State) : Host.Outcome State Fault Refusal :=
  .next (issue (.jal p imm) s fun s g k =>
    .done (retireTo s g k (.jal p imm) [(linkReg k, (nextPc s g k (.jal p imm)).zeroExtend 64)] (target (getCtx s g k).pc imm)))

/-- `jr`: continue at xA[15:1] × 2 (R124). -/
def execJr (p : Pfx) (a : Reg) (s : State) : Host.Outcome State Fault Refusal :=
  .next (issue (.jr p a) s fun s g k => .done (retireTo s g k (.jr p a) [] (regTarget (readX s g k a))))

/-- `jalr`: the target is read before xD receives Next (R124). -/
def execJalr (p : Pfx) (d a : Reg) (s : State) : Host.Outcome State Fault Refusal :=
  .next (issue (.jalr p d a) s fun s g k =>
    .done (retireTo s g k (.jalr p d a) [(d, (nextPc s g k (.jalr p d a)).zeroExtend 64)] (regTarget (readX s g k a))))

/-- `nop` (R124). -/
def execNop (p : Pfx) (s : State) : Host.Outcome State Fault Refusal :=
  .next (issue (.nop p) s fun s g k => retire s g k (.nop p) [])

end Sys2Proof.Machine
end

