-- ==== Sys2Proof/Machine/Dispatch.lean ====
section
/-!
DEFINITION. The dispatch: one arm for every constructor of Instr.
-/
namespace Sys2Proof.Machine

/-- The meaning of an instruction. -/
def exec (i : Instr) (s : State) : Host.Outcome State Fault Refusal :=
  match i with
  | .add p d a b => Sys2Proof.Machine.execAdd p d a b s
  | .sub p d a b => Sys2Proof.Machine.execSub p d a b s
  | .and p d a b => Sys2Proof.Machine.execAnd p d a b s
  | .or p d a b => Sys2Proof.Machine.execOr p d a b s
  | .xor p d a b => Sys2Proof.Machine.execXor p d a b s
  | .sll p d a b => Sys2Proof.Machine.execSll p d a b s
  | .srl p d a b => Sys2Proof.Machine.execSrl p d a b s
  | .sra p d a b => Sys2Proof.Machine.execSra p d a b s
  | .slt p d a b => Sys2Proof.Machine.execSlt p d a b s
  | .sltu p d a b => Sys2Proof.Machine.execSltu p d a b s
  | .seq p d a b => Sys2Proof.Machine.execSeq p d a b s
  | .mov p d a => Sys2Proof.Machine.execMov p d a s
  | .addi p d a imm => Sys2Proof.Machine.execAddi p d a imm s
  | .li p d imm => Sys2Proof.Machine.execLi p d imm s
  | .ld p z d a imm => Sys2Proof.Machine.execLd p z d a imm s
  | .st p z d a imm => Sys2Proof.Machine.execSt p z d a imm s
  | .bz p d imm => Sys2Proof.Machine.execBz p d imm s
  | .bnz p d imm => Sys2Proof.Machine.execBnz p d imm s
  | .blt p d a imm => Sys2Proof.Machine.execBlt p d a imm s
  | .bge p d a imm => Sys2Proof.Machine.execBge p d a imm s
  | .bltu p d a imm => Sys2Proof.Machine.execBltu p d a imm s
  | .bgeu p d a imm => Sys2Proof.Machine.execBgeu p d a imm s
  | .j p imm => Sys2Proof.Machine.execJ p imm s
  | .jal p imm => Sys2Proof.Machine.execJal p imm s
  | .jr p a => Sys2Proof.Machine.execJr p a s
  | .jalr p d a => Sys2Proof.Machine.execJalr p d a s
  | .nop p => Sys2Proof.Machine.execNop p s
  | .ldp p d a imm => Sys2Proof.Machine.execLdp p d a imm s
  | .stp p d a imm => Sys2Proof.Machine.execStp p d a imm s
  | .ldSync p d a imm => Sys2Proof.Machine.execLdSync p d a imm s
  | .stFill p d a imm => Sys2Proof.Machine.execStFill p d a imm s
  | .take p d a imm => Sys2Proof.Machine.execTake p d a imm s
  | .put p d a imm => Sys2Proof.Machine.execPut p d a imm s
  | .tryt p d a imm => Sys2Proof.Machine.execTryt p d a imm s
  | .amoAdd p d a b => Sys2Proof.Machine.execAmoAdd p d a b s
  | .amoMin p d a b => Sys2Proof.Machine.execAmoMin p d a b s
  | .amoMax p d a b => Sys2Proof.Machine.execAmoMax p d a b s
  | .amoMinu p d a b => Sys2Proof.Machine.execAmoMinu p d a b s
  | .amoMaxu p d a b => Sys2Proof.Machine.execAmoMaxu p d a b s
  | .amoAnd p d a b => Sys2Proof.Machine.execAmoAnd p d a b s
  | .amoOr p d a b => Sys2Proof.Machine.execAmoOr p d a b s
  | .amoXor p d a b => Sys2Proof.Machine.execAmoXor p d a b s
  | .amoSwap p d a b => Sys2Proof.Machine.execAmoSwap p d a b s
  | .amoCas p d a b => Sys2Proof.Machine.execAmoCas p d a b s
  | .bump p d a b => Sys2Proof.Machine.execBump p d a b s
  | .redAdd p a b => Sys2Proof.Machine.execRedAdd p a b s
  | .redMin p a b => Sys2Proof.Machine.execRedMin p a b s
  | .redMax p a b => Sys2Proof.Machine.execRedMax p a b s
  | .redFadd p a b => Sys2Proof.Machine.execRedFadd p a b s
  | .fence p imm => Sys2Proof.Machine.execFence p imm s
  | .fenceRt p imm => Sys2Proof.Machine.execFenceRt p imm s
  | .fenceEng p imm => Sys2Proof.Machine.execFenceEng p imm s
  | .barArv p imm => Sys2Proof.Machine.execBarArv p imm s
  | .barWait p imm => Sys2Proof.Machine.execBarWait p imm s
  | .barSync p imm => Sys2Proof.Machine.execBarSync p imm s
  | .barPhase p d imm => Sys2Proof.Machine.execBarPhase p d imm s
  | .sphX p imm => Sys2Proof.Machine.execSphX p imm s
  | .sphC p imm => Sys2Proof.Machine.execSphC p imm s
  | .mig p a imm => Sys2Proof.Machine.execMig p a imm s
  | .mul p d a b => Sys2Proof.Machine.execMul p d a b s
  | .mulh p d a b => Sys2Proof.Machine.execMulh p d a b s
  | .mulhu p d a b => Sys2Proof.Machine.execMulhu p d a b s
  | .div p d a b => Sys2Proof.Machine.execDiv p d a b s
  | .divu p d a b => Sys2Proof.Machine.execDivu p d a b s
  | .rem p d a b => Sys2Proof.Machine.execRem p d a b s
  | .remu p d a b => Sys2Proof.Machine.execRemu p d a b s
  | .min p d a b => Sys2Proof.Machine.execMin p d a b s
  | .max p d a b => Sys2Proof.Machine.execMax p d a b s
  | .minu p d a b => Sys2Proof.Machine.execMinu p d a b s
  | .maxu p d a b => Sys2Proof.Machine.execMaxu p d a b s
  | .clz p d a => Sys2Proof.Machine.execClz p d a s
  | .ctz p d a => Sys2Proof.Machine.execCtz p d a s
  | .popc p d a => Sys2Proof.Machine.execPopc p d a s
  | .ror p d a b => Sys2Proof.Machine.execRor p d a b s
  | .sel p d a b => Sys2Proof.Machine.execSel p d a b s
  | .bfx p d a imm => Sys2Proof.Machine.execBfx p d a imm s
  | .bfi p d a imm => Sys2Proof.Machine.execBfi p d a imm s
  | .hstart p d a imm => Sys2Proof.Machine.execHstart p d a imm s
  | .hend p a => Sys2Proof.Machine.execHend p a s
  | .hjoin p d a => Sys2Proof.Machine.execHjoin p d a s
  | .yield p => Sys2Proof.Machine.execYield p s
  | .csrr p d imm => Sys2Proof.Machine.execCsrr p d imm s
  | .csrw p d imm => Sys2Proof.Machine.execCsrw p d imm s
  | .csrs p d imm => Sys2Proof.Machine.execCsrs p d imm s
  | .csrc p d imm => Sys2Proof.Machine.execCsrc p d imm s
  | .trap p imm => Sys2Proof.Machine.execTrap p imm s
  | .eret p => Sys2Proof.Machine.execEret p s
  | .wfe p => Sys2Proof.Machine.execWfe p s
  | .sev p a => Sys2Proof.Machine.execSev p a s
  | .brk p => Sys2Proof.Machine.execBrk p s
  | .cstart p d a b => Sys2Proof.Machine.execCstart p d a b s
  | .cstop p d a => Sys2Proof.Machine.execCstop p d a s
  | .finv p a => Sys2Proof.Machine.execFinv p a s
  | .rng p d a => Sys2Proof.Machine.execRng p d a s
  | .vld p d a imm => Sys2Proof.Machine.execVld p d a imm s
  | .vst p d a imm => Sys2Proof.Machine.execVst p d a imm s
  | .vldx p mk d a b => Sys2Proof.Machine.execVldx p mk d a b s
  | .vstx p mk d a b => Sys2Proof.Machine.execVstx p mk d a b s
  | .vmov p mk d a => Sys2Proof.Machine.execVmov p mk d a s
  | .vabs p mk t d a => Sys2Proof.Machine.execVabs p mk t d a s
  | .vneg p mk t d a => Sys2Proof.Machine.execVneg p mk t d a s
  | .vbcast p mk d a => Sys2Proof.Machine.execVbcast p mk d a s
  | .vadd p mk t d a b => Sys2Proof.Machine.execVadd p mk t d a b s
  | .vsub p mk t d a b => Sys2Proof.Machine.execVsub p mk t d a b s
  | .vmul p mk t d a b => Sys2Proof.Machine.execVmul p mk t d a b s
  | .vfma p mk d a b => Sys2Proof.Machine.execVfma p mk d a b s
  | .vfms p mk d a b => Sys2Proof.Machine.execVfms p mk d a b s
  | .vfnma p mk d a b => Sys2Proof.Machine.execVfnma p mk d a b s
  | .vmin p mk t d a b => Sys2Proof.Machine.execVmin p mk t d a b s
  | .vmax p mk t d a b => Sys2Proof.Machine.execVmax p mk t d a b s
  | .vand p mk d a b => Sys2Proof.Machine.execVand p mk d a b s
  | .vor p mk d a b => Sys2Proof.Machine.execVor p mk d a b s
  | .vxor p mk d a b => Sys2Proof.Machine.execVxor p mk d a b s
  | .vshl p mk d a b => Sys2Proof.Machine.execVshl p mk d a b s
  | .vshr p mk k d a b => Sys2Proof.Machine.execVshr p mk k d a b s
  | .vcmp p k t d a b => Sys2Proof.Machine.execVcmp p k t d a b s
  | .vsel p mk d a b => Sys2Proof.Machine.execVsel p mk d a b s
  | .vredsum p mk t d a => Sys2Proof.Machine.execVredsum p mk t d a s
  | .vredmax p mk t d a => Sys2Proof.Machine.execVredmax p mk t d a s
  | .vredmin p mk t d a => Sys2Proof.Machine.execVredmin p mk t d a s
  | .vargmax p mk t d a => Sys2Proof.Machine.execVargmax p mk t d a s
  | .vscan p mk t d a => Sys2Proof.Machine.execVscan p mk t d a s
  | .vtopk p mk t d a b => Sys2Proof.Machine.execVtopk p mk t d a b s
  | .vperm p mk d a b => Sys2Proof.Machine.execVperm p mk d a b s
  | .vmskAnd p d a b => Sys2Proof.Machine.execVmskAnd p d a b s
  | .vmskOr p d a b => Sys2Proof.Machine.execVmskOr p d a b s
  | .vmskXor p d a b => Sys2Proof.Machine.execVmskXor p d a b s
  | .vmskNot p d a => Sys2Proof.Machine.execVmskNot p d a s
  | .vmskFromx p d a => Sys2Proof.Machine.execVmskFromx p d a s
  | .vmskTox p d a => Sys2Proof.Machine.execVmskTox p d a s
  | .vrep p n imm => Sys2Proof.Machine.execVrep p n imm s
  | .vseed p a => Sys2Proof.Machine.execVseed p a s
  | .vrand p mk d => Sys2Proof.Machine.execVrand p mk d s
  | .cvt2 p f d a b => Sys2Proof.Machine.execCvt2 p f d a b s
  | .cvt8 p f d a => Sys2Proof.Machine.execCvt8 p f d a s
  | .cvt4 p f d a => Sys2Proof.Machine.execCvt4 p f d a s
  | .cvtu p f d a part => Sys2Proof.Machine.execCvtu p f d a part s
  | .cvtiI32 p d a => Sys2Proof.Machine.execCvtiI32 p d a s
  | .cvtiF32 p d a => Sys2Proof.Machine.execCvtiF32 p d a s
  | .qscale p f d a => Sys2Proof.Machine.execQscale p f d a s
  | .qz p f d a b => Sys2Proof.Machine.execQz p f d a b s
  | .vexp2 p d a => Sys2Proof.Machine.execVexp2 p d a s
  | .vlog2 p d a => Sys2Proof.Machine.execVlog2 p d a s
  | .vrcp p d a => Sys2Proof.Machine.execVrcp p d a s
  | .vrsqrt p d a => Sys2Proof.Machine.execVrsqrt p d a s
  | .vtanh p d a => Sys2Proof.Machine.execVtanh p d a s
  | .vsig p d a => Sys2Proof.Machine.execVsig p d a s
  | .mzero p => Sys2Proof.Machine.execMzero p s
  | .mring p f a => Sys2Proof.Machine.execMring p f a s
  | .mop p f a => Sys2Proof.Machine.execMop p f a s
  | .mwait p a b => Sys2Proof.Machine.execMwait p a b s
  | .mdrain p a b => Sys2Proof.Machine.execMdrain p a b s
  | .dret p f a b => Sys2Proof.Machine.execDret p f a b s
  | .attn p f a b => Sys2Proof.Machine.execAttn p f a b s
  | .aini p => Sys2Proof.Machine.execAini p s
  | .mgeom p d => Sys2Proof.Machine.execMgeom p d s
  | .mtest p d a b => Sys2Proof.Machine.execMtest p d a b s
  | .mfmap p d a => Sys2Proof.Machine.execMfmap p d a s
  | .mremap p d a => Sys2Proof.Machine.execMremap p d a s
  | .abind p d a b => Sys2Proof.Machine.execAbind p d a b s
  | .await p d a => Sys2Proof.Machine.execAwait p d a s
  | .aret p a b => Sys2Proof.Machine.execAret p a b s
  | .xcfg p a b => Sys2Proof.Machine.execXcfg p a b s
  | .xcopy p d a b => Sys2Proof.Machine.execXcopy p d a b s
  | .xgat p d a b => Sys2Proof.Machine.execXgat p d a b s
  | .xsct p d a b => Sys2Proof.Machine.execXsct p d a b s
  | .xbins p d a b => Sys2Proof.Machine.execXbins p d a b s
  | .xfill p d a b => Sys2Proof.Machine.execXfill p d a b s
  | .xbindIn p d a b => Sys2Proof.Machine.execXbindIn p d a b s
  | .xbindOut p d a b => Sys2Proof.Machine.execXbindOut p d a b s
  | .xid p d a => Sys2Proof.Machine.execXid p d a s
  | .xwait p a b => Sys2Proof.Machine.execXwait p a b s
  | .xcancel p d a => Sys2Proof.Machine.execXcancel p d a s
  | .snew p d a => Sys2Proof.Machine.execSnew p d a s
  | .sfork p d a b => Sys2Proof.Machine.execSfork p d a b s
  | .sbind p a => Sys2Proof.Machine.execSbind p a s
  | .sunbind p => Sys2Proof.Machine.execSunbind p s
  | .sstep p d => Sys2Proof.Machine.execSstep p d s
  | .smark p => Sys2Proof.Machine.execSmark p s
  | .scommit p d a b => Sys2Proof.Machine.execScommit p d a b s
  | .sroll p d => Sys2Proof.Machine.execSroll p d s
  | .sret p a => Sys2Proof.Machine.execSret p a s
  | .sjoin p d a b => Sys2Proof.Machine.execSjoin p d a b s
  | .sprune p a => Sys2Proof.Machine.execSprune p a s
  | .sfree p a => Sys2Proof.Machine.execSfree p a s
  | .smig p d a b => Sys2Proof.Machine.execSmig p d a b s
  | .sstat p d a b => Sys2Proof.Machine.execSstat p d a b s
  | .shold p d a b => Sys2Proof.Machine.execShold p d a b s
  | .cenq p d a b => Sys2Proof.Machine.execCenq p d a b s
  | .cenqNb p d a b => Sys2Proof.Machine.execCenqNb p d a b s
  | .cdeq p d a b => Sys2Proof.Machine.execCdeq p d a b s
  | .cdone p d a => Sys2Proof.Machine.execCdone p d a s
  | .cocc p d a => Sys2Proof.Machine.execCocc p d a s
  | .tspawn p a b => Sys2Proof.Machine.execTspawn p a b s
  | .tdec p d a => Sys2Proof.Machine.execTdec p d a s
  | .tnext p d a => Sys2Proof.Machine.execTnext p d a s
  | .tend p => Sys2Proof.Machine.execTend p s
  | .tcancel p d a => Sys2Proof.Machine.execTcancel p d a s
  | .frd p d a => Sys2Proof.Machine.execFrd p d a s
  | .fwr p a b => Sys2Proof.Machine.execFwr p a b s
  | .undefinedEncoding why => Sys2Proof.Machine.execUndefinedEncoding why s
  | .barrierSurplusRetry => Sys2Proof.Machine.execBarrierSurplusRetry s
  | .barrierArrivalMessage => Sys2Proof.Machine.execBarrierArrivalMessage s
  | .accessAtHome => Sys2Proof.Machine.execAccessAtHome s
  | .remoteReply => Sys2Proof.Machine.execRemoteReply s
  | .writeAcknowledge => Sys2Proof.Machine.execWriteAcknowledge s
  | .feRequest => Sys2Proof.Machine.execFeRequest s
  | .feReissue => Sys2Proof.Machine.execFeReissue s
  | .combiningIdleFlush => Sys2Proof.Machine.execCombiningIdleFlush s
  | .translationWalkDone => Sys2Proof.Machine.execTranslationWalkDone s
  | .migrationArrive => Sys2Proof.Machine.execMigrationArrive s
  | .helperResultReturn => Sys2Proof.Machine.execHelperResultReturn s
  | .vectorLaneGrant => Sys2Proof.Machine.execVectorLaneGrant s
  | .vectorRetire => Sys2Proof.Machine.execVectorRetire s
  | .vectorMemoryAccess => Sys2Proof.Machine.execVectorMemoryAccess s
  | .matrixCommandStart => Sys2Proof.Machine.execMatrixCommandStart s
  | .ringOperationStart => Sys2Proof.Machine.execRingOperationStart s
  | .matrixCommandComplete => Sys2Proof.Machine.execMatrixCommandComplete s
  | .drainRowDispatch => Sys2Proof.Machine.execDrainRowDispatch s
  | .mtestSweepStart => Sys2Proof.Machine.execMtestSweepStart s
  | .mtestSweepEnd => Sys2Proof.Machine.execMtestSweepEnd s
  | .faultMapInstall => Sys2Proof.Machine.execFaultMapInstall s
  | .xferCommandStart => Sys2Proof.Machine.execXferCommandStart s
  | .enginePiece => Sys2Proof.Machine.execEnginePiece s
  | .xferCommandComplete => Sys2Proof.Machine.execXferCommandComplete s
  | .feedStripDeliver => Sys2Proof.Machine.execFeedStripDeliver s
  | .feedStripWrite => Sys2Proof.Machine.execFeedStripWrite s
  | .frameCopyComplete => Sys2Proof.Machine.execFrameCopyComplete s
  | .frameZero => Sys2Proof.Machine.execFrameZero s
  | .spillwayEvict => Sys2Proof.Machine.execSpillwayEvict s
  | .evictionComplete => Sys2Proof.Machine.execEvictionComplete s
  | .fetchBackComplete => Sys2Proof.Machine.execFetchBackComplete s
  | .countWalk => Sys2Proof.Machine.execCountWalk s
  | .basinReduce => Sys2Proof.Machine.execBasinReduce s
  | .topologyPrune => Sys2Proof.Machine.execTopologyPrune s
  | .remoteStreamStep => Sys2Proof.Machine.execRemoteStreamStep s
  | .smigRequestArrive => Sys2Proof.Machine.execSmigRequestArrive s
  | .smigRefuse => Sys2Proof.Machine.execSmigRefuse s
  | .snapshotPage => Sys2Proof.Machine.execSnapshotPage s
  | .smigComplete => Sys2Proof.Machine.execSmigComplete s
  | .balancerEvaluate => Sys2Proof.Machine.execBalancerEvaluate s
  | .strandedToPool => Sys2Proof.Machine.execStrandedToPool s
  | .cascadeInstall => Sys2Proof.Machine.execCascadeInstall s
  | .cascadeRemove => Sys2Proof.Machine.execCascadeRemove s
  | .taskReadyDispatch => Sys2Proof.Machine.execTaskReadyDispatch s
  | .futureReply => Sys2Proof.Machine.execFutureReply s
  | .topoLoad => Sys2Proof.Machine.execTopoLoad s
  | .pealSetup => Sys2Proof.Machine.execPealSetup s
  | .pealStart => Sys2Proof.Machine.execPealStart s
  | .pealRemove => Sys2Proof.Machine.execPealRemove s
  | .pealBlockStart => Sys2Proof.Machine.execPealBlockStart s
  | .pealBlockArrive => Sys2Proof.Machine.execPealBlockArrive s
  | .pealForwardReadDone => Sys2Proof.Machine.execPealForwardReadDone s
  | .releaseMarkerArrive => Sys2Proof.Machine.execReleaseMarkerArrive s
  | .portUpChange => Sys2Proof.Machine.execPortUpChange s
  | .flitReplay => Sys2Proof.Machine.execFlitReplay s
  | .messageHop => Sys2Proof.Machine.execMessageHop s
  | .multicastAdvance => Sys2Proof.Machine.execMulticastAdvance s
  | .hostWrite => Sys2Proof.Machine.execHostWrite s
  | .hostRead => Sys2Proof.Machine.execHostRead s
  | .lqtailDoorbell => Sys2Proof.Machine.execLqtailDoorbell s
  | .lqcfgEnWrite => Sys2Proof.Machine.execLqcfgEnWrite s
  | .launchTake => Sys2Proof.Machine.execLaunchTake s
  | .takeCores => Sys2Proof.Machine.execTakeCores s
  | .clusterPrepare => Sys2Proof.Machine.execClusterPrepare s
  | .coreStartMessage => Sys2Proof.Machine.execCoreStartMessage s
  | .coreStopMessage => Sys2Proof.Machine.execCoreStopMessage s
  | .launchRetire => Sys2Proof.Machine.execLaunchRetire s
  | .graphStart => Sys2Proof.Machine.execGraphStart s
  | .preempt => Sys2Proof.Machine.execPreempt s
  | .clusterSave => Sys2Proof.Machine.execClusterSave s
  | .savedCopyAccess => Sys2Proof.Machine.execSavedCopyAccess s
  | .launchResume => Sys2Proof.Machine.execLaunchResume s
  | .tbinvWrite => Sys2Proof.Machine.execTbinvWrite s
  | .tbinvmWrite => Sys2Proof.Machine.execTbinvmWrite s
  | .tbinvComplete => Sys2Proof.Machine.execTbinvComplete s
  | .spillwayAreaWrite => Sys2Proof.Machine.execSpillwayAreaWrite s
  | .fabcfgWrite => Sys2Proof.Machine.execFabcfgWrite s
  | .linkstatEnWrite => Sys2Proof.Machine.execLinkstatEnWrite s
  | .stripeSetWrite => Sys2Proof.Machine.execStripeSetWrite s
  | .trapimgInstall => Sys2Proof.Machine.execTrapimgInstall s
  | .keyctlWrite => Sys2Proof.Machine.execKeyctlWrite s
  | .rdyclRetire => Sys2Proof.Machine.execRdyclRetire s
  | .pcapWrite => Sys2Proof.Machine.execPcapWrite s
  | .fwmbUpdate => Sys2Proof.Machine.execFwmbUpdate s
  | .registerWrite => Sys2Proof.Machine.execRegisterWrite s
  | .powerGood => Sys2Proof.Machine.execPowerGood s
  | .bringupFunctionReady => Sys2Proof.Machine.execBringupFunctionReady s
  | .powerWindow => Sys2Proof.Machine.execPowerWindow s
  | .thermalShutdown => Sys2Proof.Machine.execThermalShutdown s
  | .patrolScrubVisit => Sys2Proof.Machine.execPatrolScrubVisit s
  | .journalAppend => Sys2Proof.Machine.execJournalAppend s
  | .getVersion => Sys2Proof.Machine.execGetVersion s
  | .getCapabilities => Sys2Proof.Machine.execGetCapabilities s
  | .negotiateAlgorithms => Sys2Proof.Machine.execNegotiateAlgorithms s
  | .getDigests => Sys2Proof.Machine.execGetDigests s
  | .getCertificate => Sys2Proof.Machine.execGetCertificate s
  | .challenge => Sys2Proof.Machine.execChallenge s
  | .getMeasurements => Sys2Proof.Machine.execGetMeasurements s
  | .spdmUnsupported => Sys2Proof.Machine.execSpdmUnsupported s
  | .mainPowerLoss => Sys2Proof.Machine.execMainPowerLoss s
  | .topologyEntryArrive => Sys2Proof.Machine.execTopologyEntryArrive s

end Sys2Proof.Machine
end

