-- ==== Sys2Proof/Machine/Step.lean ====
section
/-!
DEFINITION. One step: the turn that is next acts. A core fetches, decodes and runs one instruction; a step of the hardware, the host or the SMU
happens whole.
-/
namespace Sys2Proof.Machine

/-- A core's turn: the instruction of its running context is evaluated, and one that has to be evaluated again stays issued (R77). -/
def stepCore (g : Nat) (s : State) : Host.Outcome State Fault Refusal :=
  if !coreExists g then .fault (.noSuchCore g)
  else
    let t := { s with cur := g }
    let k := (getCore t g).slot
    if issuing t then
      match exec (fetched t g k) t with
      | .next u => .next (keepIssued t u g k (fetched t g k))
      | r => r
    else .next t

/-- One step. -/
def step (s : State) : Host.Outcome State Fault Refusal :=
  let (turn, s1) := nextTurn s
  let s2 := takePlace (tick s1 turn.dt) turn.act
  match turn.act with
  | .core g => stepCore g s2
  | .event i a b v => exec i { s2 with argA := a, argB := b, argV := v }

/-- The state with an instruction of the opcode table placed where the next step fetches it. -/
def State.withFetchWord (s : State) (nbits w : Nat) : State :=
  let ws := tableWords nbits w
  let page := if (ws.headD 0).bits 9 7 == 0x7E then ((ws.headD 0).bits 0 4).toNat else 0
  let op := ((ws.getLastD 0).bits 11 5).toNat
  let i := decodeTableWord nbits w
  placeProgram s (tableBytes nbits w) (placeCore page op) (placeKind i) (i.any privileged)

end Sys2Proof.Machine
end

