-- ==== Sys2Proof/Safety.lean ====
section
/-!
DEFINITION. What a safe run and a well-formed state are, and the terms in which claims speak of one instruction: that nothing before its own
effect stops it, and what of the machine it leaves as it was.
-/
namespace Sys2Proof.Machine

/-- Keys of a table rise strictly. -/
def risingKeys {α : Type} : Tbl α → Bool
  | [] => true
  | [_] => true
  | a :: b :: rest => decide (a.1 < b.1) && risingKeys (b :: rest)

/-- Memory is in its canonical form: addresses strictly rise and no entry equals what an unlisted address reads as. -/
def Memory.wf (mem : List Host.Cell) : Bool := risingKeys mem && mem.all fun c => c.2 != 0

/-- Every store of bytes that the state holds is in its canonical form: the machine's memory and the host's. -/
def State.wfMem (s : State) : Bool := Memory.wf s.mem && Memory.wf s.host

/-- A run of k steps stops at no fault and no refusal. -/
def State.safeFor (s : State) : Nat → Bool
  | 0 => true
  | k + 1 =>
    match step s with
    | .next t => t.safeFor k
    | _ => false

/-! ### One instruction of the core whose turn it is -/

/-- The slot that runs on the current core. -/
def slotOf (s : State) : Nat := (getCore s s.cur).slot

/-- The running context. -/
def me (s : State) : Ctx := getCtx s s.cur (slotOf s)

/-- Register r of the running context, as it stands (R29). -/
def xreg (s : State) (r : Reg) : Word := tget 0 (me s).x r.toNat

/-- The core issues, and the checks of R27 after decoding find nothing: the form is decoded, permitted, within the context's registers and
level, and no source register and no finished vector work has an error (R411). -/
def clear (s : State) (i : Instr) : Bool :=
  issuing s && (pendingVector s s.cur (slotOf s)).isNone && (issueCheck s s.cur (slotOf s) i).isNone
    && (badSource s s.cur (slotOf s) i).isNone

/-- Nothing stops the instruction before its own effect: it is clear, no queued vector instruction of the context holds it up (R163, R164),
and x24–x27 are plain registers (R30). -/
def ready (s : State) (i : Instr) : Bool :=
  clear s i && !scoreboard s s.cur (slotOf s) i && !portMode s s.cur (slotOf s)

/-- No write of the context that a release at the scope would wait for is held or under way (R143, R144, R153). -/
def quiet (s : State) (scope : Nat) : Bool := !heldIn s s.cur scope && !writesOut s s.cur (slotOf s) scope

/-- Outside the slots listed nothing has changed: other cores, other slots, and the core's own registers. -/
structure OnlySlots (s t : State) (js : List Nat) : Prop where
  others : ∀ h, h ≠ s.cur → getCore t h = getCore s h
  core : getCore t s.cur = { getCore s s.cur with ctx := (getCore t s.cur).ctx }
  slots : ∀ j, j ∉ js → getCtx t s.cur j = getCtx s s.cur j

/-- Outside the running slot nothing has changed. -/
abbrev OnlySlot (s t : State) : Prop := OnlySlots s t [slotOf s]

/-- The running context has retired one instruction: it stands at pc, INSTRET is one more, the registers listed hold the values listed, and
every other register and every other part of the context is as it was (R46, R118). -/
structure Retired (s t : State) (pc : Code) (ws : List (Reg × Word)) : Prop where
  ctx : getCtx t s.cur (slotOf s) =
    { me s with pc := pc, instret := (me s).instret + 1, begun := false, x := (getCtx t s.cur (slotOf s)).x }
  regs : ∀ r : Reg, tget 0 (getCtx t s.cur (slotOf s)).x r.toNat = (ws.lookup r).getD (xreg s r)

/-- Nothing of the machine outside the cores has changed, and no byte of memory; a register that was written has its parity again. -/
structure MemSame (s t : State) : Prop where
  rest : t = { s with cores := t.cores, ue := t.ue }
  bytes : ∀ key a, readByte t key a = readByte s key a
  parity : ∀ e ∈ t.ue, e ∈ s.ue

/-- The instruction retired at pc with the registers listed, and did nothing else. -/
structure RegisterOnly (s t : State) (pc : Code) (ws : List (Reg × Word)) : Prop where
  only : OnlySlot s t
  retired : Retired s t pc ws
  same : MemSame s t

/-- Every byte outside addresses lo to hi − 1 reads as before; under a key, every byte outside the 16-byte blocks of those addresses, since XTS mixes the
bytes of a block (R408). -/
structure BytesKept (s t : State) (lo hi : Nat) : Prop where
  plain : ∀ a, a < lo ∨ hi ≤ a → readByte t 0 a = readByte s 0 a
  keyed : ∀ key a, a / 16 < lo / 16 ∨ (hi + 15) / 16 ≤ a / 16 → readByte t key a = readByte s key a

/-- The bytes stored at ga without a key, and no others: every byte outside them reads as before, and only a doubleword wholly written loses its poison
and an error not yet found (R146, R411). -/
structure StoredBytes (s t : State) (ga : Nat) (bytes : List Byte) : Prop where
  inside : ∀ i b, bytes[i]? = some b → readByte t 0 (ga + i) = b
  outside : BytesKept s t ga (ga + bytes.length)
  poison : ∀ dw, dw ∈ t.poison ↔ dw ∈ s.poison ∧ ¬ (ga ≤ 8 * dw ∧ 8 * dw + 8 ≤ ga + bytes.length)
  latent : ∀ dw, dw ∈ t.latent ↔ dw ∈ s.latent ∧ ¬ (ga ≤ 8 * dw ∧ 8 * dw + 8 ≤ ga + bytes.length)
  soft : ∀ dw, dw ∈ t.soft ↔ dw ∈ s.soft ∧ ¬ (ga ≤ 8 * dw ∧ 8 * dw + 8 ≤ ga + bytes.length)

/-- The instruction retired at pc with the registers listed and stored bytes at ga; `fe` says what the full bits are, `wrote` that the task of the
context counts as having stored (R237). Nothing else of the machine has changed. -/
structure Stores (s t : State) (pc : Code) (ws : List (Reg × Word)) (wrote : Bool) (ga : Nat) (bytes : List Byte) (fe : Nat → Prop) : Prop where
  only : OnlySlot s t
  ctx : getCtx t s.cur (slotOf s) =
    { me s with
      pc := pc, instret := (me s).instret + 1, begun := false, dirty := (me s).dirty || (wrote && (me s).task.isSome)
      x := (getCtx t s.cur (slotOf s)).x }
  regs : ∀ r : Reg, tget 0 (getCtx t s.cur (slotOf s)).x r.toNat = (ws.lookup r).getD (xreg s r)
  stored : StoredBytes s t ga bytes
  full : ∀ dw, dw ∈ t.full ↔ fe dw
  rest : t = { s with
    cores := t.cores, ue := t.ue, mem := t.mem, memKey := t.memKey, full := t.full, poison := t.poison, latent := t.latent, soft := t.soft }
  parity : ∀ e ∈ t.ue, e ∈ s.ue

/-- A trap of the running context enters its handler at once: user level, no task, no vector instruction of the context queued (R165), and no
matrix fault that would be taken in its place (R197). -/
def canTrap (s : State) : Bool :=
  fget F.lvl (me s).priv == 0 && (me s).task.isNone && !ownsQueue s s.cur (slotOf s) && (slotOf s != 0 || (getCore s s.cur).mfault.isNone)

/-- The running context has taken a trap (R28, R133): the cause, the value and the pc of the instruction are saved, the level is firmware with
the old level in PLVL, and the context stands at the entry of the cause. Nothing of the instruction has been performed. -/
structure Entered (s t : State) (code : Nat) (val : Word) : Prop where
  only : OnlySlot s t
  ctx : getCtx t s.cur (slotOf s) =
    { me s with
      trapPc := (me s).pc.zeroExtend 64, trapCause := BitVec.ofNat 64 code, trapVal := val
      priv := fput F.lvl (fput F.plvl (me s).priv (fget F.lvl (me s).priv)) 1
      pc := BitVec.ofNat 16 (64 * fget F.tvBase (getCore s s.cur).trapvec + 32 * code)
      begun := false, begunSaved := false }

/-- The trap is the whole effect: outside the cores nothing has changed, and no byte of memory. -/
structure Trapped (s t : State) (code : Nat) (val : Word) : Prop where
  entered : Entered s t code val
  rest : t = { s with cores := t.cores }

/-- Next (R118): the pc after the instruction. -/
def nextOf (s : State) (i : Instr) : Code := (me s).pc + BitVec.ofNat 16 (2 * i.len)

end Sys2Proof.Machine
end

