-- ==== Sys2Proof/Certificates/Slice0/Obligations.lean ====
section
/-!
DEFINITION. The statements for the provers.
-/
open Sys2Proof Sys2Proof.Machine

/-! ### Integer, bit and branch instructions (R114, R119–R124) -/

/-- Destination and value of the arithmetic, logical, comparing and selecting forms, from the registers as they stood (R119, R120). -/
def Rules.arith (x : Reg → Word) : Instr → Option (Reg × Word)
  | .add _ d a b => some (d, BitVec.ofNat 64 ((x a).toNat + (x b).toNat))
  | .sub _ d a b => some (d, BitVec.ofInt 64 ((x a).toNat - (x b).toNat))
  | .mul _ d a b => some (d, BitVec.ofNat 64 ((x a).toNat * (x b).toNat))
  | .mulh _ d a b => some (d, BitVec.ofInt 64 ((x a).toInt * (x b).toInt / 2 ^ 64))
  | .mulhu _ d a b => some (d, BitVec.ofNat 64 ((x a).toNat * (x b).toNat / 2 ^ 64))
  | .addi _ d a imm => some (d, BitVec.ofInt 64 ((x a).toNat + imm))
  | .li _ d imm => some (d, BitVec.ofInt 64 imm)
  | .mov _ d a => some (d, x a)
  | .and _ d a b => some (d, x a &&& x b)
  | .or _ d a b => some (d, x a ||| x b)
  | .xor _ d a b => some (d, x a ^^^ x b)
  | .slt _ d a b => some (d, if (x a).toInt < (x b).toInt then 1 else 0)
  | .sltu _ d a b => some (d, if (x a).toNat < (x b).toNat then 1 else 0)
  | .seq _ d a b => some (d, if x a = x b then 1 else 0)
  | .min _ d a b => some (d, if (x a).toInt ≤ (x b).toInt then x a else x b)
  | .max _ d a b => some (d, if (x b).toInt ≤ (x a).toInt then x a else x b)
  | .minu _ d a b => some (d, if (x a).toNat ≤ (x b).toNat then x a else x b)
  | .maxu _ d a b => some (d, if (x b).toNat ≤ (x a).toNat then x a else x b)
  | .sel _ d a b => some (d, if x d ≠ 0 then x a else x b)
  | _ => none

/-- Destination and value of the shifts, the rotation and the bit fields: amounts are bits [5:0], pos is bits [5:0] and width − 1 bits
[11:6] of the immediate (R114, R119, R121). -/
def Rules.shift (x : Reg → Word) : Instr → Option (Reg × Word)
  | .sll _ d a b => some (d, BitVec.ofNat 64 ((x a).toNat * 2 ^ ((x b).toNat % 64)))
  | .srl _ d a b => some (d, BitVec.ofNat 64 ((x a).toNat / 2 ^ ((x b).toNat % 64)))
  | .sra _ d a b => some (d, BitVec.ofInt 64 ((x a).toInt / 2 ^ ((x b).toNat % 64)))
  | .ror _ d a b =>
    some (d, BitVec.ofNat 64 ((x a).toNat / 2 ^ ((x b).toNat % 64) + (x a).toNat % 2 ^ ((x b).toNat % 64) * 2 ^ (64 - (x b).toNat % 64)))
  | .bfx _ d a imm => some (d, BitVec.ofNat 64 ((x a).toNat / 2 ^ (imm % 64) % 2 ^ (imm / 64 + 1)))
  | .bfi _ d a imm =>
    let pos := imm % 64
    let width := imm / 64 + 1
    some (d, BitVec.ofNat 64
      ((x d).toNat / 2 ^ (pos + width) * 2 ^ (pos + width) + (x a).toNat % 2 ^ width * 2 ^ pos + (x d).toNat % 2 ^ pos))
  | _ => none

/-- Destination and value of the divisions (R114). -/
def Rules.divide (x : Reg → Word) : Instr → Option (Reg × Word)
  | .div _ d a b =>
    some (d, if x b = 0 then 0xFFFFFFFFFFFFFFFF
      else if x a = 0x8000000000000000 ∧ x b = 0xFFFFFFFFFFFFFFFF then 0x8000000000000000
      else BitVec.ofInt 64 ((x a).toInt.tdiv (x b).toInt))
  | .rem _ d a b =>
    some (d, if x b = 0 then x a
      else if x a = 0x8000000000000000 ∧ x b = 0xFFFFFFFFFFFFFFFF then 0
      else BitVec.ofInt 64 ((x a).toInt.tmod (x b).toInt))
  | .divu _ d a b => some (d, if x b = 0 then 0xFFFFFFFFFFFFFFFF else BitVec.ofNat 64 ((x a).toNat / (x b).toNat))
  | .remu _ d a b => some (d, if x b = 0 then x a else BitVec.ofNat 64 ((x a).toNat % (x b).toNat))
  | _ => none

/-- R114, R119–R121: each arithmetic, logical, comparing, selecting, shifting, rotating or bit-field form completes, writes its result to xD,
continues at Next, and leaves every other register and all else as it was. R114: so does a division, for every dividend and divisor: truncated towards
zero, the remainder with the dividend's sign, and the values given for divisor 0 and for −2^63 by −1. R119: so do the bit counts: `clz` and `ctz` count the
zero bits above the highest and below the lowest 1 bit, 64 for zero; `popc` counts the 1 bits. -/
def Obligations.ArithmeticWritesItsResult : Prop :=
  (∀ (s : State) (i : Instr) (d : Reg) (v : Word), ready s i = true →
    Rules.arith (xreg s) i = some (d, v) ∨ i.wf = true ∧ Rules.shift (xreg s) i = some (d, v) →
    ∃ t, exec i s = .next t ∧ RegisterOnly s t (nextOf s i) [(d, v)]) ∧
  (∀ (s : State) (i : Instr) (d : Reg) (v : Word), ready s i = true → Rules.divide (xreg s) i = some (d, v) →
     ∃ t, exec i s = .next t ∧ RegisterOnly s t (nextOf s i) [(d, v)]) ∧
  (∀ (s : State) (p : Pfx) (d a : Reg),
     (ready s (.clz p d a) = true → ∃ t v, exec (.clz p d a) s = .next t ∧ RegisterOnly s t (nextOf s (.clz p d a)) [(d, v)] ∧
       v.toNat ≤ 64 ∧ (xreg s a).toNat < 2 ^ (64 - v.toNat) ∧ (v.toNat < 64 → 2 ^ (63 - v.toNat) ≤ (xreg s a).toNat)) ∧
     (ready s (.ctz p d a) = true → ∃ t v, exec (.ctz p d a) s = .next t ∧ RegisterOnly s t (nextOf s (.ctz p d a)) [(d, v)] ∧
       v.toNat ≤ 64 ∧ (xreg s a).toNat % 2 ^ v.toNat = 0 ∧ (v.toNat < 64 → (xreg s a).toNat % 2 ^ (v.toNat + 1) ≠ 0)) ∧
     (ready s (.popc p d a) = true → ∃ t, exec (.popc p d a) s = .next t ∧
       RegisterOnly s t (nextOf s (.popc p d a)) [(d, BitVec.ofNat 64 ((List.range 64).filter fun n => (xreg s a).toNat.testBit n).length)]))

/-- Where a branch or jump continues, and the link that it writes: P + 2 × displacement modulo 65,536 where the condition holds, else Next;
a register target is xA[15:1] × 2 (R68, R92, R123, R124). -/
def Rules.control (x : Reg → Word) (k pc next : Nat) : Instr → Option (Int × List (Reg × Word))
  | .bz _ d imm => some (if x d = 0 then pc + 2 * imm else next, [])
  | .bnz _ d imm => some (if x d ≠ 0 then pc + 2 * imm else next, [])
  | .blt _ d a imm => some (if (x d).toInt < (x a).toInt then pc + 2 * imm else next, [])
  | .bge _ d a imm => some (if (x d).toInt ≥ (x a).toInt then pc + 2 * imm else next, [])
  | .bltu _ d a imm => some (if (x d).toNat < (x a).toNat then pc + 2 * imm else next, [])
  | .bgeu _ d a imm => some (if (x d).toNat ≥ (x a).toNat then pc + 2 * imm else next, [])
  | .j _ imm => some (pc + 2 * imm, [])
  | .jal _ imm => some (pc + 2 * imm, [(if k = 0 then 30 else 15, BitVec.ofNat 64 next)])
  | .jr _ a => some ((x a).toNat % 65536 / 2 * 2, [])
  | .jalr _ d a => some ((x a).toNat % 65536 / 2 * 2, [(d, BitVec.ofNat 64 next)])
  | .nop _ => some (next, [])
  | _ => none

/-- R68, R92, R123, R124: every branch, jump and `nop` completes at its target or at Next, and writes nothing but its link. -/
def Obligations.ControlTransfersContinueAtTheirTarget : Prop :=
  ∀ (s : State) (i : Instr) (tgt : Int) (ws : List (Reg × Word)), ready s i = true →
    Rules.control (xreg s) (slotOf s) (me s).pc.toNat (nextOf s i).toNat i = some (tgt, ws) →
    ∃ t, exec i s = .next t ∧ RegisterOnly s t (BitVec.ofInt 16 tgt) ws

/-! ### Traps, contexts, CSRs, events, core control (R26–R28, R35–R46, R125–R139) -/

/-- R27, R45, R93, R101: cause and value of a word sequence that is no legal instruction, by its fate. -/
def Rules.fate (s : State) : Fate → Nat × Word
  | .fetch frame off => (0x08, BitVec.ofNat 64 (frame * 65536 + off))
  | .ecc off => (0x09, locator 3 s.cur off)
  | .chain pos => (0x02, BitVec.ofNat 64 pos)
  | .bad page op first =>
    let drain := (me s).kind == .drain
    if decodesOp (roleOf s.cur) drain page op || ((opFmt page op).isNone && decodesPage (roleOf s.cur) drain page)
    then (0x01, first.zeroExtend 64) else (0x03, BitVec.ofNat 64 page)

/-- R133, R27, R28, R410: `trap` takes SWTRAP with its immediate and `brk` BREAK with 0; a word sequence that is no legal instruction takes the
cause of its fate. The entry saves pc, cause and value, raises the level and goes to 64 × BASE + 32 × cause. At firmware level a trap halts the core
instead: it issues nothing more, and the trap registers stay as the first trap wrote them. -/
def Obligations.TrapsEnterTheirHandler : Prop :=
  (∀ (s : State), canTrap s = true →
    (∀ p imm, ready s (.trap p imm) = true → ∃ t, exec (.trap p imm) s = .next t ∧ Trapped s t 0x20 (BitVec.ofNat 64 imm)) ∧
    (∀ p, ready s (.brk p) = true → ∃ t, exec (.brk p) s = .next t ∧ Trapped s t 0x21 0) ∧
    (∀ why, issuing s = true → ∃ t, exec (.undefinedEncoding why) s = .next t ∧
      Entered s t (Rules.fate s why).1 (Rules.fate s why).2 ∧ ((∀ off, why ≠ .ecc off) → t = { s with cores := t.cores }))) ∧
  (∀ (s : State) (i : Instr) (p : Pfx) (imm : Nat), ready s i = true → i = .trap p imm ∨ i = .brk p → fget F.lvl (me s).priv = 1 →
    ownsQueue s s.cur (slotOf s) = false →
    ∃ t, exec i s = .next t ∧ (getCore t s.cur).run = false ∧
      (getCtx t s.cur (slotOf s)).trapPc = (me s).trapPc ∧ (getCtx t s.cur (slotOf s)).trapCause = (me s).trapCause ∧
      (getCtx t s.cur (slotOf s)).trapVal = (me s).trapVal)

/-- R134: `eret` at firmware level continues at TRAPPC.PC, the level is PLVL and PLVL is 0; at user level it raises PRIV with value 0. That an instruction
which had begun when it was pre-empted goes on as begun after it, and that what was saved of that is then cleared, is the model's choice (notes/assumptions
27); so is that TRAPPC.PC is taken with its low bit clear (140). -/
def Obligations.EretReturnsFromATrap : Prop :=
  ∀ (s : State) (p : Pfx),
    (ready s (.eret p) = true → ∃ t, exec (.eret p) s = .next t ∧ OnlySlot s t ∧ MemSame s t ∧
      getCtx t s.cur (slotOf s) =
        { me s with
          pc := (me s).trapPc.setWidth 16, priv := fput F.plvl (fput F.lvl (me s).priv (fget F.plvl (me s).priv)) 0
          instret := (me s).instret + 1, begunSaved := false
          begun := fget F.tcPre (me s).trapCause == 1 && (me s).begunSaved }) ∧
    (issuing s = true → pendingVector s s.cur (slotOf s) = none → canTrap s = true →
      ∃ t, exec (.eret p) s = .next t ∧ Trapped s t 0x04 0)

/-- R27, R26, R29, R93: the checks after decoding, in their order, for every form: a form that the context does not decode raises EXT_ABSENT
with its page, one that it may not use ILL with its first word, a register that it lacks HELPER_REGS with the register, a firmware form at user
level PRIV with 0, and a firmware CSR there PRIV with its number. That of several registers the first in the order d, a, b is given is the model's reading
(notes/assumptions 167). -/
def Obligations.ChecksAfterDecodingComeInOrder : Prop :=
  ∀ (s : State) (i : Instr) (h : Shape), i.shape = some h → issuing s = true → pendingVector s s.cur (slotOf s) = none → canTrap s = true →
    (decodesOp (roleOf s.cur) ((me s).kind == .drain) h.page h.op = false →
      ∃ t, exec i s = .next t ∧ Trapped s t 0x03 (BitVec.ofNat 64 h.page)) ∧
    (decodesOp (roleOf s.cur) ((me s).kind == .drain) h.page h.op = true → permitted (me s).kind i = false →
      ∃ t, exec i s = .next t ∧ Trapped s t 0x01 (firstWord i)) ∧
    (decodesOp (roleOf s.cur) ((me s).kind == .drain) h.page h.op = true → permitted (me s).kind i = true →
      ∀ r, slotOf s ≠ 0 → highReg i = some r → ∃ t, exec i s = .next t ∧ Trapped s t 0x10 (r.zeroExtend 64)) ∧
    (decodesOp (roleOf s.cur) ((me s).kind == .drain) h.page h.op = true → permitted (me s).kind i = true →
      slotOf s = 0 ∨ highReg i = none → privileged i = true → ∃ t, exec i s = .next t ∧ Trapped s t 0x04 0) ∧
    (∀ p d n, i = Instr.csrr p d n ∨ i = .csrw p d n ∨ i = .csrs p d n ∨ i = .csrc p d n → 0x020 ≤ n → n ≤ 0x023 → permitted (me s).kind i = true →
      slotOf s = 0 ∨ highReg i = none → ∃ t, exec i s = .next t ∧ Trapped s t 0x04 (BitVec.ofNat 64 n))

/-- A CSR that the running context's level may read, or write: assigned, not a firmware CSR at user level, and for a write writable there; not
PORTMAP while the ports are on (R35, R42). -/
def Rules.csrAllowed (s : State) (n : Nat) (write : Bool) : Bool :=
  let firmware := fget F.lvl (me s).priv == 1
  csrAssigned n && (firmware || !csrFirmware n) && (!write || (csrWritable firmware n && !(n == 0x014 && fget F.en (getCore s s.cur).porten == 1)))

/-- What a CSR reads once a word has been written to it, from what it read before (R35, R38–R45, R56): `fixed`, the context cannot change its STRM
(R40). -/
def Rules.csrTaken (role : Nat) (fixed : Bool) (n : Nat) (old v : Word) : Word :=
  let part (lo len : Nat) : Nat := v.toNat / 2 ^ lo % 2 ^ len * 2 ^ lo
  let code (lo : Nat) (legal : List Nat) : Nat := if v.toNat / 2 ^ lo % 4 ∈ legal then part lo 2 else 0
  match n with
  | 0x006 => BitVec.ofNat 64 (old.toNat / 4 * 4 + part 0 2)
  | 0x010 => BitVec.ofNat 64 (part 8 5 + part 3 1 + if v.toNat % 8 < 6 then part 0 3 else 0)
  | 0x011 => if fixed then old else BitVec.ofNat 64 (part 48 16 + part 32 16 + part 16 4 + part 0 12)
  | 0x012 => BitVec.ofNat 64 (part 0 4)
  | 0x013 | 0x015 => BitVec.ofNat 64 (part 0 1)
  | 0x014 => BitVec.ofNat 64 (part 4 12 + if role < 3 then part 2 2 + code 0 [1, 2] else code 2 [3] + code 0 [1])
  | 0x016 | 0x023 => v
  | 0x020 => BitVec.ofNat 64 (part 6 10)
  | 0x021 => BitVec.ofNat 64 (part 63 1 + part 0 8)
  | 0x022 => BitVec.ofNat 64 (part 1 15)
  | _ => BitVec.ofNat 64 ((if part 32 2 = 3 * 2 ^ 32 ∧ 64 ≤ part 0 8 then 0 else part 63 1) + part 32 2 + part 0 8)

/-- What the read-only CSRs hold: CID slot and index, CLID, DIEID, MODID, ROLE (0 X, 1 C, 2 M, 3 K), EXTS by the role, CYCLE and INSTRET (R5, R6, R36,
R37, R46). -/
def Rules.csrFixed (s : State) (n : Nat) : Option Word :=
  let role := if s.cur % 64 < 48 then s.cur % 64 % 3 else 3
  match n with
  | 0x000 => some (BitVec.ofNat 64 (slotOf s * 256 + s.cur % 64))
  | 0x001 => some (BitVec.ofNat 64 (s.cur / 64 % 128))
  | 0x002 => some (BitVec.ofNat 64 (s.cur / 8192 % 16))
  | 0x003 => some (BitVec.ofNat 64 (s.cur / 131072))
  | 0x004 => some (BitVec.ofNat 64 role)
  | 0x005 => some ([0x03, 0x0D, 0x31, 0xC5].getD role 0)
  | 0x030 => some (getCore s s.cur).cycle
  | 0x031 => some (me s).instret
  | _ => none

/-- The numbers that R35 assigns to a CSR. -/
def Rules.csrNumbers : List Nat :=
  [0x000, 0x001, 0x002, 0x003, 0x004, 0x005, 0x006, 0x010, 0x011, 0x012, 0x013, 0x014, 0x015, 0x016, 0x020, 0x021, 0x022, 0x023, 0x030, 0x031]
    ++ (List.range 48).map (0x100 + ·)

/-- R132, R35–R46: `csrr` of every CSR that the level may read completes with its value, FMODE once the vector queue is empty. `csrw`, `csrs` and
`csrc` of every CSR that the level may write complete at Next: the CSR then holds the word written, ORed in or cleared, in the fields of its
layout; no register, no other CSR but INSTRET, and nothing else changes. CID, CLID, DIEID, MODID, ROLE, EXTS, CYCLE and INSTRET read as the core's place,
role and counts give them, and a write of one of them, or any access to an unassigned number, raises ILL. That TRAPPC takes an even PC and that a helper keeps its STRM are readings
of the model (notes/assumptions 137, 140). -/
def Obligations.CsrAccessesComplete : Prop :=
  ∀ (s : State) (p : Pfx) (d : Reg) (n : Nat),
    (ready s (.csrr p d n) = true → Rules.csrAllowed s n false = true → n ≠ 0x010 ∨ (getCore s s.cur).vq = [] →
      ∃ t, exec (.csrr p d n) s = .next t ∧ RegisterOnly s t (nextOf s (.csrr p d n)) [(d, csrValue s s.cur (slotOf s) n)]) ∧
    (∀ v, ready s (.csrr p d n) = true → Rules.csrFixed s n = some v →
      ∃ t, exec (.csrr p d n) s = .next t ∧ RegisterOnly s t (nextOf s (.csrr p d n)) [(d, v)]) ∧
    (∀ i, (i = Instr.csrr p d n ∧ n ∉ Rules.csrNumbers ∨
        (i = .csrw p d n ∨ i = .csrs p d n ∨ i = .csrc p d n) ∧ (n ∉ Rules.csrNumbers ∨ Rules.csrFixed s n ≠ none)) →
      ready s i = true → canTrap s = true → ∃ t, exec i s = .next t ∧ Trapped s t 0x01 (firstWord i)) ∧
    ∀ i v, i = Instr.csrw p d n ∧ v = xreg s d ∨ i = Instr.csrs p d n ∧ v = csrValue s s.cur (slotOf s) n ||| xreg s d ∨
        i = Instr.csrc p d n ∧ v = csrValue s s.cur (slotOf s) n &&& ~~~xreg s d →
      ready s i = true → Rules.csrAllowed s n true = true →
      ∃ t x c, exec i s = .next t ∧ x = getCtx t s.cur (slotOf s) ∧ c = getCore t s.cur ∧ t = { s with cores := t.cores } ∧
        (∀ h, h ≠ s.cur → getCore t h = getCore s h) ∧ (∀ j, j ≠ slotOf s → getCtx t s.cur j = getCtx s s.cur j) ∧
        c = { getCore s s.cur with
          ctx := c.ctx, fmode := c.fmode, vqw := c.vqw, porten := c.porten, portmap := c.portmap, migen := c.migen, dommem := c.dommem
          trapvec := c.trapvec, barmap := c.barmap } ∧
        x = { me s with
          pc := nextOf s i, instret := (me s).instret + 1, begun := false, priv := x.priv, strm := x.strm, trapCause := x.trapCause
          trapPc := x.trapPc, trapVal := x.trapVal } ∧
        csrValue t s.cur (slotOf s) n =
          Rules.csrTaken (roleOf s.cur) ((me s).kind != .base && (me s).kind != .drain) n (csrValue s s.cur (slotOf s) n) v ∧
        (∀ m, csrAssigned m = true → m ≠ n → m ≠ 0x031 → csrValue t s.cur (slotOf s) m = csrValue s s.cur (slotOf s) m)

/-- The running context has left the core and stands as x; the core has passed to the first READY slot after it in the order 0, 1, …, 10, 0, or
idles; nothing else has changed (R126). A core that is told to stop passes only to a slot that has a write to finish, which is the model's reading
(notes/assumptions 144). -/
structure Rules.PassedOn (s t : State) (x : Ctx) : Prop where
  machine : t = { s with cores := t.cores }
  others : ∀ h, h ≠ s.cur → getCore t h = getCore s h
  core : getCore t s.cur = { getCore s s.cur with ctx := (getCore t s.cur).ctx, slot := (getCore t s.cur).slot }
  own : getCtx t s.cur (slotOf s) = x
  next : ∀ k, ((List.range 10).map fun n => (slotOf s + 1 + n) % 11).find? (fun j => (getCtx s s.cur j).mode == .ready && mayRun s s.cur j) = some k →
    (getCore t s.cur).slot = k ∧ getCtx t s.cur k = { getCtx s s.cur k with mode := .running }
  idle : (∀ j, j < 11 → j ≠ slotOf s → (getCtx s s.cur j).mode = .ready → mayRun s s.cur j = false) → (getCore t s.cur).slot = slotOf s
  rest : ∀ j, j ≠ slotOf s → j ≠ (getCore t s.cur).slot → getCtx t s.cur j = getCtx s s.cur j

/-- R126–R130: at the end of a clock no core that runs is idle while a READY context may run on it, and one that was idle runs the first READY slot after
its last. `hstart` starts a helper in the lowest FREE slot of 1 to H at its target, with xA in x0, and gives the slot, or 0 where none is
free. `hjoin` collects an ENDED helper's result and frees its slot, gives 0 for a slot that has none, and else blocks and gives up the core. `hend`
ends a helper whose earlier writes have been performed, with xA as its result: the core passes on and a base context that joins it becomes READY;
a migrant's result sets out to its origin and its slot is FREE. `yield` passes the core to the next READY slot, or goes on. That the core passes on
before the joining context is READY, and that a new helper's trap registers and TRET are 0, are the model's readings (notes/assumptions 141, 168). -/
def Obligations.ContextsStartEndJoinAndYield : Prop :=
  (∀ (s : State) (g k : Nat), (getCore (clockEnd s) g).run = true → busy (getCore (clockEnd s) g) = false → k < 11 →
    (getCtx (clockEnd s) g k).mode = .ready → mayRun (clockEnd s) g k = false) ∧
  (∀ (s : State) (g k : Nat), (getCore s g).run = true → busy (getCore s g) = false →
    ((List.range 11).map fun n => ((getCore s g).slot + 1 + n) % 11).find? (fun j => (getCtx s g j).mode == .ready && mayRun s g j) = some k →
    getCore (settle s g) g = { getCore s g with ctx := (getCore (settle s g) g).ctx, slot := k } ∧
      (∀ j, getCtx (settle s g) g j = if j = k then { getCtx s g k with mode := .running } else getCtx s g j) ∧
      ∀ h, h ≠ g → getCore (settle s g) h = getCore s h) ∧
  ∀ (s : State) (p : Pfx) (d a : Reg) (imm : Int), slotOf s < 11 →
    (ready s (.hstart p d a imm) = true → ∀ h, 1 ≤ h → h ≤ (getCore s s.cur).helpers → (getCtx s s.cur h).mode = .free →
      (∀ j, 1 ≤ j → j < h → (getCtx s s.cur j).mode ≠ .free) →
      ∃ t, exec (.hstart p d a imm) s = .next t ∧ Retired s t (nextOf s (.hstart p d a imm)) [(d, BitVec.ofNat 64 h)] ∧ MemSame s t ∧
        OnlySlots s t [slotOf s, h] ∧ getCtx t s.cur h =
          { mode := .ready, kind := .helper, pc := (me s).pc + BitVec.ofInt 16 (2 * imm), x := tset 0 [] 0 (xreg s a)
            priv := BitVec.ofNat 64 (fget F.ten (me s).priv * 2 ^ 16), strm := (me s).strm }) ∧
    (ready s (.hstart p d a imm) = true → (∀ j, 1 ≤ j → j ≤ (getCore s s.cur).helpers → (getCtx s s.cur j).mode ≠ .free) →
      ∃ t, exec (.hstart p d a imm) s = .next t ∧ RegisterOnly s t (nextOf s (.hstart p d a imm)) [(d, 0)]) ∧
    (ready s (.hjoin p d a) = true → let h := (xreg s a).toNat
      (h < 1 ∨ 10 < h ∨ (getCtx s s.cur h).mode = .free ∨ (getCtx s s.cur h).kind = .drain →
        ∃ t, exec (.hjoin p d a) s = .next t ∧ RegisterOnly s t (nextOf s (.hjoin p d a)) [(d, 0)]) ∧
      (1 ≤ h → h ≤ 10 → (getCtx s s.cur h).mode = .ended → (getCtx s s.cur h).kind ≠ .drain →
        ∃ t, exec (.hjoin p d a) s = .next t ∧ Retired s t (nextOf s (.hjoin p d a)) [(d, (getCtx s s.cur h).result)] ∧ MemSame s t ∧
          OnlySlots s t [slotOf s, h] ∧ getCtx t s.cur h = { getCtx s s.cur h with mode := .free }) ∧
      (1 ≤ h → h ≤ 10 → (getCtx s s.cur h).mode ≠ .free → (getCtx s s.cur h).mode ≠ .ended → (getCtx s s.cur h).kind ≠ .drain →
        ∃ t, exec (.hjoin p d a) s = .next t ∧ Rules.PassedOn s t { me s with mode := .blockedJoin h })) ∧
    (ready s (.hend p a) = true → (me s).kind = .helper → quiet s 4 = true →
      (∀ j, j < 11 → (getCtx s s.cur j).mode ≠ .blockedJoin (slotOf s)) →
      ∃ t, exec (.hend p a) s = .next t ∧ Rules.PassedOn s t
        { me s with mode := .ended, result := xreg s a, pc := nextOf s (.hend p a), instret := (me s).instret + 1, begun := false }) ∧
    (ready s (.hend p a) = true → (me s).kind = .helper → quiet s 4 = true →
      ∃ t, exec (.hend p a) s = .next t ∧ t = { s with cores := t.cores } ∧ (∀ h, h ≠ s.cur → getCore t h = getCore s h) ∧
        getCtx t s.cur (slotOf s) =
          { me s with mode := .ended, result := xreg s a, pc := nextOf s (.hend p a), instret := (me s).instret + 1, begun := false } ∧
        (∀ j, j < 11 → (getCtx s s.cur j).mode = .blockedJoin (slotOf s) →
          getCtx t s.cur j = { getCtx s s.cur j with mode := (getCtx t s.cur j).mode } ∧
          ((getCtx t s.cur j).mode = .ready ∨ (getCtx t s.cur j).mode = .running))) ∧
    (∀ o k image q, ready s (.hend p a) = true → (me s).kind = .migrant o k image q → quiet s 4 = true →
      ∃ t m, exec (.hend p a) s = .next t ∧ t.net = s.net ++ [m] ∧ t.mem = s.mem ∧ m.body = .result o k q (xreg s a) ∧ m.dst = modOf o ∧
        (getCtx t s.cur (slotOf s)).mode = .free) ∧
    (ready s (.yield p) = true → let after := { me s with pc := nextOf s (.yield p), instret := (me s).instret + 1, begun := false }
      ((∀ j, j < 11 → (getCtx s s.cur j).mode ≠ .ready) → (getCore s s.cur).preempting = false → ∃ t, exec (.yield p) s = .next t ∧ RegisterOnly s t (nextOf s (.yield p)) []) ∧
      ((∃ j, j < 11 ∧ (getCtx s s.cur j).mode = .ready) → (getCore s s.cur).preempting = false →
        ∃ t, exec (.yield p) s = .next t ∧ Rules.PassedOn s t { after with mode := .ready }))

/-- R135: `wfe` with EV set clears it and continues, else its context blocks and gives up the core; `sev` names core n of the cluster, or with 63 all
52: at the end of the clock their EV is set, where nothing waits for it. R136–R139: `cstart` and `cstop` of another core, once the context's earlier
writes have been performed (R430), send their message and the context waits; `cstop` of the issuing core stops it; `finv` clears V of its code frame
alone; `rng` gives the generator's state and steps it, or sets it to xA. -/
def Obligations.EventsAndCoreControlComplete : Prop :=
  (∀ (s : State) (p : Pfx) (a : Reg), slotOf s < 11 →
     (ready s (.wfe p) = true → (getCore s s.cur).ev = true →
       ∃ t, exec (.wfe p) s = .next t ∧ Retired s t (nextOf s (.wfe p)) [] ∧ MemSame s t ∧ (getCore t s.cur).ev = false) ∧
     (ready s (.wfe p) = true → (getCore s s.cur).ev = false →
       ∃ t, exec (.wfe p) s = .next t ∧ Rules.PassedOn s t { me s with mode := .blockedEvent }) ∧
     (ready s (.sev p a) = true →
       let named (g : Nat) : Prop := clusterOf g = clusterOf s.cur ∧ g % 64 < 52 ∧ ((xreg s a).toNat % 64 = g % 64 ∨ (xreg s a).toNat % 64 = 63)
       ∃ t, exec (.sev p a) s = .next t ∧ Retired s t (nextOf s (.sev p a)) [] ∧ MemSame s t ∧
         (∀ g, named g → (getCore t g).evNext = true ∧
           ((∀ x ∈ (getCore t g).ctx, x.2.mode ≠ .blockedEvent) → (getCore (coreClockEnd t g) g).ev = true)) ∧
         ∀ g, ¬ named g → (getCore t g).evNext = (getCore s g).evNext)) ∧
  (∀ (s : State) (p : Pfx) (d a b : Reg),
     (ready s (.cstart p d a b) = true → quiet s 4 = true →
       ∃ t m, exec (.cstart p d a b) s = .next t ∧ t.net = s.net ++ [m] ∧ t.mem = s.mem ∧ m.route = .ordered ∧ m.cls = 1 ∧
         (∃ dest, m.body = .start (xreg s a).toNat (xreg s b) dest ∧ dest.reg = some d) ∧
         (getCtx t s.cur (slotOf s)).mode = .waiting (.reply m.id)) ∧
     (ready s (.cstop p d a) = true → (xreg s a).toNat ≠ s.cur % 131072 → quiet s 4 = true →
       ∃ t m, exec (.cstop p d a) s = .next t ∧ t.net = s.net ++ [m] ∧ t.mem = s.mem ∧ m.route = .ordered ∧ m.cls = 1 ∧
         (∃ dest, m.body = .stop (xreg s a).toNat dest false ∧ dest.reg = some d) ∧
         (getCtx t s.cur (slotOf s)).mode = .waiting (.reply m.id)) ∧
     (ready s (.cstop p d a) = true → (xreg s a).toNat = s.cur % 131072 → ∃ t, exec (.cstop p d a) s = .next t ∧ (getCore t s.cur).run = false) ∧
     (ready s (.finv p a) = true → ∃ t, exec (.finv p a) s = .next t ∧ Retired s t (nextOf s (.finv p a)) [] ∧ MemSame s t ∧
       ∀ f, f < 64 → (getCore t s.cur).frameV.getLsbD f =
         (if f = (xreg s a).toNat ∧ f < frameCount s.cur then false else (getCore s s.cur).frameV.getLsbD f)) ∧
     (ready s (.rng p d a) = true → ∃ t, exec (.rng p d a) s = .next t ∧
       Retired s t (nextOf s (.rng p d a)) [(d, (getCore s s.cur).rng)] ∧ MemSame s t ∧
       (xreg s a ≠ 0 → (getCore t s.cur).rng = xreg s a) ∧
       (xreg s a = 0 → ∃ u w, u = (getCore s s.cur).rng ^^^ ((getCore s s.cur).rng <<< 13) ∧ w = u ^^^ (u >>> 7) ∧
         (getCore t s.cur).rng = w ^^^ (w <<< 17))))

/-! ### Memory instructions (R122, R140–R161) -/

/-- Address and length of the access of a memory form, from the registers as they stood (R67, R122, R147, R149–R152). -/
def Rules.access (x : Reg → Word) : Instr → Option (Word × Nat)
  | .ld _ z _ a imm => some (BitVec.ofInt 64 ((x a).toNat + imm * ldSize z), ldSize z)
  | .st _ z _ a imm => some (BitVec.ofInt 64 ((x a).toNat + imm * stSize z), stSize z)
  | .ldp _ _ a imm | .stp _ _ a imm => some (BitVec.ofInt 64 ((x a).toNat + imm * 8), 16)
  | .ldSync _ _ a imm | .stFill _ _ a imm | .take _ _ a imm | .put _ _ a imm | .tryt _ _ a imm =>
    some (BitVec.ofInt 64 ((x a).toNat + imm * 8), 8)
  | .amoAdd _ _ a _ | .amoMin _ _ a _ | .amoMax _ _ a _ | .amoMinu _ _ a _ | .amoMaxu _ _ a _ | .amoAnd _ _ a _ | .amoOr _ _ a _
  | .amoXor _ _ a _ | .amoSwap _ _ a _ | .amoCas _ _ a _ | .bump _ _ a _ | .redAdd _ a _ | .redMin _ a _ | .redMax _ a _
  | .redFadd _ a _ => some (x a, 8)
  | _ => none

/-- The access lies in the core's own TCM or its cluster's scratchpad (R50), at this global address (R48); the drain window is closed to every
context but the drain's while a drain runs (R200). -/
def Rules.localAt (s : State) (va : Word) (n ga : Nat) : Prop :=
  (va.toNat + n ≤ 0x20000 ∧ ga = gaTcm s.cur va.toNat ∧
      ((getCore s s.cur).drain = none ∨ (me s).kind = .drain ∨ va.toNat + n ≤ 0x1F000)) ∨
    (0x100000 ≤ va.toNat ∧ va.toNat + n ≤ 0x300000 ∧ ga = gaSpad (clusterOf s.cur) (va.toNat - 0x100000))

/-- The home of the bytes is on the part, and no save area covers them (R275). -/
def Rules.onPart (s : State) (ga n : Nat) : Prop :=
  savedFor s s.cur (clusterOf s.cur) = none ∧ ∀ a, ga ≤ a → a < ga + n → areaOf s a = none

/-- An aligned local access at ga that nothing holds back: no reduction with an acquire side is under way (R143), and no store of its line, or that
a write to its home must follow, is held or awaited (R144, R239). -/
structure Rules.Local (s : State) (i : Instr) (va : Word) (n ga : Nat) : Prop where
  ready : ready s i = true
  access : Rules.access (xreg s) i = some (va, n)
  aligned : va.toNat % n = 0
  home : Rules.localAt s va n ga
  onPart : Rules.onPart s ga n
  free : acquiring s s.cur (slotOf s) = false
  line : ((getCore s s.cur).comb.any fun e => entryHits e (lineOf ga) 64 || entryPrecedes e ga n) = false ∧
    ((me s).begun = true → unacked s s.cur (lineOf ga) 64 = false)

/-- No doubleword of the bytes is poisoned or holds an error not yet found, correctable or not (R146, R411). -/
def Rules.sound (s : State) (ga n : Nat) : Prop := ∀ dw, ga / 8 ≤ dw → 8 * dw < ga + n → dw ∉ s.poison ∧ dw ∉ s.latent ∧ dw ∉ s.soft

/-- The number that n bytes at ga hold, lowest byte first (R21). -/
def Rules.number (s : State) (ga n : Nat) : Nat := ((List.range n).map fun i => (readByte s 0 (ga + i)).toNat * 256 ^ i).sum

/-- The low n bytes of a word, lowest first (R21). -/
def Rules.bytesOf (w : Word) (n : Nat) : List Byte := (List.range n).map fun i => BitVec.ofNat 8 (w.toNat / 256 ^ i)

/-- A number of w bits taken as signed. -/
def Rules.signed (v w : Nat) : Word := BitVec.ofInt 64 (if v < 2 ^ (w - 1) then v else v - 2 ^ w)

/-- The registers that a load writes with the number it reads (R122, R147). -/
def Rules.loads (v : Nat) : Instr → Option (List (Reg × Word))
  | .ld _ .d d _ _ | .ld _ .wz d _ _ | .ld _ .hz d _ _ | .ld _ .bz d _ _ => some [(d, BitVec.ofNat 64 v)]
  | .ld _ .w d _ _ => some [(d, Rules.signed v 32)]
  | .ld _ .h d _ _ => some [(d, Rules.signed v 16)]
  | .ld _ .b d _ _ => some [(d, Rules.signed v 8)]
  | .ldp _ d _ _ => some [(d, BitVec.ofNat 64 v), (d + 1, BitVec.ofNat 64 (v / 2 ^ 64))]
  | _ => none


/-- The bytes that a store writes (R122, R147). -/
def Rules.stores (x : Reg → Word) : Instr → Option (List Byte)
  | .st _ z d _ _ => some (Rules.bytesOf (x d) (stSize z))
  | .stp _ d _ _ => some (Rules.bytesOf (x d) 8 ++ Rules.bytesOf (x (d + 1)) 8)
  | _ => none

/-- The prefixes of a memory form. -/
def Rules.pfx : Instr → Pfx
  | .ld p _ _ _ _ | .st p _ _ _ _ | .ldp p _ _ _ | .stp p _ _ _ | .ldSync p _ _ _ | .stFill p _ _ _ | .take p _ _ _ | .put p _ _ _
  | .tryt p _ _ _ | .amoAdd p _ _ _ | .amoMin p _ _ _ | .amoMax p _ _ _ | .amoMinu p _ _ _ | .amoMaxu p _ _ _ | .amoAnd p _ _ _
  | .amoOr p _ _ _ | .amoXor p _ _ _ | .amoSwap p _ _ _ | .amoCas p _ _ _ | .bump p _ _ _ | .redAdd p _ _ | .redMin p _ _
  | .redMax p _ _ | .redFadd p _ _ | .fence p _ | .fenceRt p _ | .fenceEng p _ => p
  | _ => ⟨false, false, none, 0⟩

/-- A write to these bytes goes ahead: no queued matrix command locks them (R191), its release side, if any, waits for nothing (R143, R144), and it
is not held for an exchange (R145). -/
def Rules.mayWrite (s : State) (i : Instr) (ga n : Nat) : Prop :=
  locked s s.cur ga n = false ∧ (Pfx.rel (Rules.pfx i) = true → quiet s 4 = true ∧ bufferAcked s s.cur = true) ∧
    (Pfx.route (Rules.pfx i) 0 ≠ .deferred ∨ inAnyGroup s s.cur = false)

/-- R122, R141, R147: a local load completes with the bytes of its home, sign- or zero-extended, and does nothing else. R122, R141, R147: a local
store completes with its bytes at the global address of its effective address; every other byte, every register and all else stay as they were. -/
def Obligations.LocalAccessesMoveTheirBytes : Prop :=
  (∀ (s : State) (i : Instr) (va : Word) (n ga : Nat) (ws : List (Reg × Word)), Rules.Local s i va n ga → Rules.sound s ga n →
     Rules.loads (Rules.number s ga n) i = some ws →
     ∃ t, exec i s = .next t ∧ RegisterOnly s t (nextOf s i) ws) ∧
  (∀ (s : State) (i : Instr) (va : Word) (n ga : Nat) (bytes : List Byte), Rules.Local s i va n ga → Rules.mayWrite s i ga n →
     Rules.stores (xreg s) i = some bytes →
     ∃ t, exec i s = .next t ∧ Stores s t (nextOf s i) [] true ga bytes fun dw => dw ∈ s.full)

/-- No request is listed for the doubleword (R149). -/
def Rules.unlisted (s : State) (ga : Nat) : Prop :=
  ∀ m ∈ s.net, m.listed = true → ∀ op a va dest, m.body = .access (.fe op) a va dest → a ≠ ga


/-- R149: at a local word for which nothing is listed: with F = 1 `ld.sync` reads, and `take` and `tryt` read and clear F; with F = 0 `tryt` gives
TRYFAIL, and `put` writes and sets F; `st.fill` writes and sets F whatever F was. Nothing else changes. R149: `ld.sync` and `take` of an empty local
word, and `put` of a full one, do not complete: the request is listed last at its unit and its context is WAITING for the reply. That `st.fill` marks its
task as having stored, and that `put`, `take`, `tryt` and `ld.sync` leave it unmarked, is the model's reading (notes/assumptions 16). -/
def Obligations.FullEmptyAccessesCompleteOrAreListed : Prop :=
  (∀ (s : State) (p : Pfx) (d a : Reg) (imm : Int) (va : Word) (ga : Nat), Rules.unlisted s ga → (Pfx.rel p = true → quiet s 4 = true) →
     (Rules.Local s (.ldSync p d a imm) va 8 ga → Rules.sound s ga 8 → ga / 8 ∈ s.full →
       ∃ t, exec (.ldSync p d a imm) s = .next t ∧
         RegisterOnly s t (nextOf s (.ldSync p d a imm)) [(d, BitVec.ofNat 64 (Rules.number s ga 8))]) ∧
     (∀ i, i = Instr.take p d a imm ∨ i = Instr.tryt p d a imm → Rules.Local s i va 8 ga → Rules.sound s ga 8 → ga / 8 ∈ s.full →
       ∃ t, exec i s = .next t ∧
         Stores s t (nextOf s i) [(d, BitVec.ofNat 64 (Rules.number s ga 8))] false ga [] fun dw => dw ∈ s.full ∧ dw ≠ ga / 8) ∧
     (Rules.Local s (.tryt p d a imm) va 8 ga → Rules.sound s ga 8 → ga / 8 ∉ s.full →
       ∃ t, exec (.tryt p d a imm) s = .next t ∧ RegisterOnly s t (nextOf s (.tryt p d a imm)) [(d, 0x8000000000000000)]) ∧
     (Rules.Local s (.put p d a imm) va 8 ga → locked s s.cur ga 8 = false → ga / 8 ∉ s.full →
       ∃ t, exec (.put p d a imm) s = .next t ∧
         Stores s t (nextOf s (.put p d a imm)) [] false ga (Rules.bytesOf (xreg s d) 8) fun dw => dw ∈ s.full ∨ dw = ga / 8) ∧
     (Rules.Local s (.stFill p d a imm) va 8 ga → Rules.mayWrite s (.stFill p d a imm) ga 8 →
       ∃ t, exec (.stFill p d a imm) s = .next t ∧
         Stores s t (nextOf s (.stFill p d a imm)) [] true ga (Rules.bytesOf (xreg s d) 8) fun dw => dw ∈ s.full ∨ dw = ga / 8)) ∧
  (∀ (s : State) (i : Instr) (va : Word) (ga : Nat), Rules.Local s i va 8 ga → (Pfx.rel (Rules.pfx i) = true → quiet s 4 = true) →
     (∃ p d a imm, (i = .ldSync p d a imm ∨ i = .take p d a imm) ∧ ga / 8 ∉ s.full ∨
       i = .put p d a imm ∧ ga / 8 ∈ s.full ∧ locked s s.cur ga 8 = false) →
     (listedAt s (feUnit ga) false).length < 32 → (∀ m ∈ s.net, m.id ≠ s.nextId) →
     ∃ t m, exec i s = .next t ∧ t.net = s.net ++ [m] ∧ m.listed = true ∧ m.src = s.cur ∧ m.slots = [slotOf s] ∧
       (∃ op dest, m.body = .access (.fe op) ga va dest ∧ dest.next = nextOf s i) ∧
       (getCtx t s.cur (slotOf s)) = { me s with mode := .waiting (.reply m.id) } ∧ t.mem = s.mem ∧ t.full = s.full)

/-- The word that an atomic or reduction leaves, from the old word and the registers (R150–R152). -/
def Rules.modified (x : Reg → Word) (old : Word) : Instr → Option Word
  | .amoAdd _ _ _ b | .redAdd _ _ b => some (old + x b)
  | .amoMin _ _ _ b | .redMin _ _ b => some (if (x b).toInt < old.toInt then x b else old)
  | .amoMax _ _ _ b | .redMax _ _ b => some (if old.toInt < (x b).toInt then x b else old)
  | .amoMinu _ _ _ b => some (if (x b).toNat < old.toNat then x b else old)
  | .amoMaxu _ _ _ b => some (if old.toNat < (x b).toNat then x b else old)
  | .amoAnd _ _ _ b => some (old &&& x b)
  | .amoOr _ _ _ b => some (old ||| x b)
  | .amoXor _ _ _ b => some (old ^^^ x b)
  | .amoSwap _ _ _ b => some (x b)
  | .amoCas _ d _ b => some (if old = x d then x b else old)
  | .bump _ _ _ b =>
    let count := old.toNat % 2 ^ 24
    let limit := old.toNat / 2 ^ 24 % 2 ^ 24
    let inc := (x b).toNat % 2 ^ 24
    let lost := old.toNat / 2 ^ 48
    some (if count + inc ≤ limit then old + BitVec.ofNat 64 inc else if lost < 65535 then old + BitVec.ofNat 64 (2 ^ 48) else old)
  | .redFadd _ _ b =>
    let lane (w : Word) (i : Nat) : Lane := BitVec.ofNat 32 (w.toNat / 2 ^ (32 * i))
    some (BitVec.ofNat 64 ((addLane (lane old 0) (lane (x b) 0)).toNat + (addLane (lane old 1) (lane (x b) 1)).toNat * 2 ^ 32))
  | _ => none

/-- The register that an atomic writes: the old word, or for `bump` the count before it or all ones (R150, R151). -/
def Rules.answered (x : Reg → Word) (old : Word) : Instr → List (Reg × Word)
  | .amoAdd _ d _ _ | .amoMin _ d _ _ | .amoMax _ d _ _ | .amoMinu _ d _ _ | .amoMaxu _ d _ _ | .amoAnd _ d _ _ | .amoOr _ d _ _
  | .amoXor _ d _ _ | .amoSwap _ d _ _ | .amoCas _ d _ _ => [(d, old)]
  | .bump _ d _ b =>
    let count := old.toNat % 2 ^ 24
    [(d, if count + (x b).toNat % 2 ^ 24 ≤ old.toNat / 2 ^ 24 % 2 ^ 24 then BitVec.ofNat 64 count else 0xFFFFFFFFFFFFFFFF)]
  | _ => []

/-- R150–R152: an atomic or reduction of a local doubleword completes: the doubleword holds the modified word, an atomic's xD the old one (for
`bump` the count, or all ones where the counter is full), and nothing else changes. That a `bump` of 0 is refused where COUNT exceeds LIMIT, and that each
of these forms marks its task as having stored, are the model's readings (notes/assumptions 139, 16). -/
def Obligations.AtomicsModifyTheirDoubleword : Prop :=
  ∀ (s : State) (i : Instr) (va new : Word) (ga : Nat), Rules.Local s i va 8 ga → Rules.sound s ga 8 → Rules.mayWrite s i ga 8 →
    Rules.modified (xreg s) (BitVec.ofNat 64 (Rules.number s ga 8)) i = some new →
    ∃ t, exec i s = .next t ∧ Stores s t (nextOf s i) (Rules.answered (xreg s) (BitVec.ofNat 64 (Rules.number s ga 8)) i) true ga
      (Rules.bytesOf new 8) fun dw => dw ∈ s.full

/-- The rights that a memory form needs: RD, WR, ATM, FE (R428). -/
def Rules.rights : Instr → Bool × Bool × Bool × Bool
  | .ld _ _ _ _ _ | .ldp _ _ _ _ => (true, false, false, false)
  | .st _ _ _ _ _ | .stp _ _ _ _ => (false, true, false, false)
  | .ldSync _ _ _ _ => (true, false, false, true)
  | .take _ _ _ _ | .tryt _ _ _ _ => (true, true, false, true)
  | .put _ _ _ _ | .stFill _ _ _ _ => (false, true, false, true)
  | .redAdd _ _ _ | .redMin _ _ _ | .redMax _ _ _ | .redFadd _ _ _ => (false, true, true, false)
  | _ => (true, true, true, false)

/-- A page entry lacks a right that the form needs (R428). -/
def Rules.lacks (e : TlbEntry) (i : Instr) : Prop :=
  let r := Rules.rights i
  (r.1 = true ∧ fget F.lfRd e.leaf = 0) ∨ (r.2.1 = true ∧ fget F.lfWr e.leaf = 0) ∨ (r.2.2.1 = true ∧ fget F.lfAtm e.leaf = 0) ∨
    (r.2.2.2 = true ∧ fget F.lfFe e.leaf = 0)

/-- A page of the state window: its index, the stream in STRM, at its die and in its block, and the block (R55, R56). -/
structure Rules.Window (s : State) (va : Word) (p d i : Nat) (blk : BitVec 2048) : Prop where
  range : 0x7E0000000000 ≤ va.toNat ∧ va.toNat < 0x7E0040000000
  page : p = (va.toNat - 0x7E0000000000) / 2 ^ 18
  stream : d = sidDie (me s).strm ∧ i = sidIdx (me s).strm ∧ blk = getScb s d i
  sound : s.ue = [] ∧ s.poison = [] ∧ s.latent = [] ∧ s.soft = []

/-- A stream is bound, and its pages may be accessed: not from a migrated helper, and not a stream that is FREE, MOVED or PRUNED (R55). -/
structure Rules.Usable (s : State) (blk : BitVec 2048) : Prop where
  bound : fget F.sidGen (me s).strm ≠ 0 ∧ fget F.scSid blk = (me s).strm.toNat
  stays : ∀ o k im q, (me s).kind ≠ .migrant o k im q
  state : fget F.scState blk ∉ [0, 5, 6]

/-- R27, R49, R50, R54, R55, R122, R146, R227, R428: a misaligned access raises ALIGN with its address before translation; an aligned one above the virtual
map or in a hole of it XLAT; one through a translation that belongs to another tenant, lacks a right that the form needs, is for firmware alone or names a
register window raises PROT at user level. In the state window, an access without a bound stream, from a migrated helper or through a stream that is FREE, MOVED
or PRUNED raises STREAM_STATE with the SID; then a page beyond NPG, or at NPG for a form other than a store, XLAT; then a full/empty form PROT. An answered
local access of a poisoned doubleword raises POISON with the address of the first byte of the access in a poisoned doubleword, which is the model's reading of
its TRAPVAL (notes/assumptions 15). That a window which user level reaches gives PROT and not PRIV is its reading too (142). -/
def Obligations.FailingAccessesTrap : Prop :=
  ∀ (s : State) (i : Instr) (va : Word) (n : Nat), ready s i = true → canTrap s = true → Rules.access (xreg s) i = some (va, n) →
    acquiring s s.cur (slotOf s) = false →
    (va.toNat % n ≠ 0 → ∃ t, exec i s = .next t ∧ Trapped s t 0x05 va) ∧
    (va.toNat % n = 0 → 2 ^ 48 ≤ va.toNat ∨ 0x20000 ≤ va.toNat ∧ va.toNat < 0x100000 ∨ 0x300000 ≤ va.toNat ∧ va.toNat < 0x400000 ∨
        0x7E0040000000 ≤ va.toNat ∧ va.toNat < 0x7F0000000000 →
      ∃ t, exec i s = .next t ∧ Trapped s t 0x06 va) ∧
    (∀ e : TlbEntry, va.toNat % n = 0 → 0x400000 ≤ va.toNat → va.toNat < 0x7E0000000000 ∨ 0x7F0000000000 ≤ va.toNat ∧ va.toNat < 2 ^ 48 →
      tlbFind (getCluster s (clusterOf s.cur)) (fget F.ten (me s).priv) va.toNat = some e → e.bad = false →
      fget F.lfOwner e.leaf ≠ fget F.ten (me s).priv ∨ Rules.lacks e i ∨ fget F.lfUsr e.leaf = 0 ∨
        isWindow ((leafHome va.toNat e).1 * 2 ^ 48 + (leafHome va.toNat e).2) = true →
      ∃ t, exec i s = .next t ∧ Trapped s t 0x07 va) ∧
    (∀ p d k blk, va.toNat % n = 0 → Rules.Window s va p d k blk →
      (fget F.sidGen (me s).strm = 0 ∨ (∃ o j im q, (me s).kind = .migrant o j im q) ∨ fget F.scState blk ∈ [0, 5, 6] ∨
        fget F.scSid blk ≠ (me s).strm.toNat → ∃ t, exec i s = .next t ∧ Trapped s t 0x11 (me s).strm) ∧
      (Rules.Usable s blk →
        fget F.scNpg blk < p ∨ p = fget F.scNpg blk ∧ Rules.stores (xreg s) i = none → ∃ t, exec i s = .next t ∧ Trapped s t 0x06 va) ∧
      (Rules.Usable s blk → p < fget F.scNpg blk → (Rules.rights i).2.2.2 = true → ∃ t, exec i s = .next t ∧ Trapped s t 0x07 va)) ∧
    (∀ ga, Rules.Local s i va n ga → Rules.mayWrite s i ga n → (Rules.loads 0 i ≠ none ∨ Rules.answered (xreg s) 0 i ≠ []) →
      (∀ dw, ga / 8 ≤ dw → 8 * dw < ga + n → dw ∉ s.latent ∧ dw ∉ s.soft) →
      ∀ dw, dw ∈ s.poison → ga / 8 ≤ dw → 8 * dw < ga + n → (∀ lower, ga / 8 ≤ lower → lower < dw → lower ∉ s.poison) →
      ∃ t, exec i s = .next t ∧ Trapped s t 0x0A (va + BitVec.ofNat 64 (8 * dw - ga)))

/-- What a deferred form is to do at its home (R122, R145, R149, R152). -/
def Rules.deferredOp (x : Reg → Word) (ga : Nat) : Instr → Option MemOp
  | .redAdd _ _ b => some (.red .add (x b))
  | .redMin _ _ b => some (.red .min (x b))
  | .redMax _ _ b => some (.red .max (x b))
  | .redFadd _ _ b => some (.red .fadd (x b))
  | .stFill _ d _ _ => some (.fe (.fill (x d)))
  | i => (Rules.stores x i).map fun l => .store (cellsAt ga l)

/-- R141, R142, R144: a load whose home is off the core, of whose doublewords no byte is held or awaited, on a page in the cluster's buffer, leaves as a message
with its address, size and registers, and its context waits for the reply. R161: with MIGEN.EN = 1, and where the context may migrate, its helper leaves for the
home instead, to resume at the load, which the packet carries in case it is refused. A store there enters the combining buffer and retires. R145: a deferred
store, `st.fill` or reduction of a member of a group takes an entry of the exchange buffer, whatever its home, and nothing of it is performed; that it marks its
task as having stored is the model's reading (notes/assumptions 16); in a full buffer it raises PROT with its address. R55, R227: a load or store of a private page of the bound stream that is in SRAM does the same at the page's frame. -/
def Obligations.RemoteAccessesAreSentOrHeld : Prop :=
  (∀ (s : State) (i : Instr) (va : Word) (n ga key rt : Nat), ready s i = true → Rules.access (xreg s) i = some (va, n) → va.toNat % n = 0 →
    acquiring s s.cur (slotOf s) = false →
    0x400000 ≤ va.toNat → va.toNat < 0x7E0000000000 →
    (∀ ws, Rules.loads 0 i = some ws → translate s (whoOf s s.cur (slotOf s)) needLoad va n = .at s ga key rt → isLocal s.cur ga = false →
      (∀ e ∈ (getCore s s.cur).comb, entryMeets e ga n = false) → (me s).begun = false →
      fget F.en (getCore s s.cur).migen = 0 ∨ migAllowed s s.cur (slotOf s) (me s).pc ga = false →
      ∃ t m, exec i s = .next t ∧ t.net = s.net ++ [m] ∧ t.mem = s.mem ∧ m.src = s.cur ∧ m.key = key ∧ m.dst = ga / 2 ^ 48 ∧
        (∃ dest, m.body = .access (.load n) ga va dest ∧ dest.reg = (ws.head?).map Prod.fst ∧ dest.next = nextOf s i) ∧
        getCtx t s.cur (slotOf s) = { me s with mode := .waiting (.reply m.id) }) ∧
    (∀ bytes, Rules.stores (xreg s) i = some bytes → translate s (whoOf s s.cur (slotOf s)) needStore va n = .at s ga key rt →
      isLocal s.cur ga = false → grantHere s s.cur (slotOf s) ga = false → locked s s.cur ga n = false →
      Pfx.rel (Rules.pfx i) = false → Pfx.route (Rules.pfx i) rt ≠ .deferred → (getCore s s.cur).comb = [] →
      ∃ t e, exec i s = .next t ∧ (getCtx t s.cur (slotOf s)).pc = nextOf s i ∧ t.net = s.net ∧ t.mem = s.mem ∧
        (getCore t s.cur).comb = [e] ∧ e.line = ga / 64 * 64 ∧ e.key = key ∧ e.slots = [slotOf s] ∧
        e.adaptive = (Pfx.route (Rules.pfx i) rt == .adaptive) ∧
        (∀ j b, bytes[j]? = some b → tget 0 e.bytes (ga + j) = b) ∧ e.bytes.length = n) ∧
    (∀ ws, Rules.loads 0 i = some ws → translate s (whoOf s s.cur (slotOf s)) needLoad va n = .at s ga key rt → isLocal s.cur ga = false →
      (getCore s s.cur).comb = [] → (me s).begun = false → (∀ m ∈ s.net, m.src ≠ s.cur) → fget F.en (getCore s s.cur).migen = 1 →
      migAllowed s s.cur (slotOf s) (me s).pc ga = true →
      ∃ t m tgt o k image q dest, exec i s = .next t ∧ t.net = s.net ++ [m] ∧ t.mem = s.mem ∧ migTarget ga = some tgt ∧ m.home = 16 * tgt + 6 ∧ m.key = key ∧
        m.body = .migrate (me s).pc ((me s).x.filter fun e => decide (e.1 < 16)) (me s).instret (fget F.ten (me s).priv) image o k q (some (ga, n, va, dest)) va
          (nextOf s i) ∧ dest.reg = (ws.head?).map Prod.fst ∧ (getCtx t s.cur (slotOf s)).mode = .waiting .away)) ∧
  (∀ (s : State) (i : Instr) (va : Word) (n ga key rt : Nat) (op : MemOp) (need : Need), ready s i = true → Rules.access (xreg s) i = some (va, n) →
    va.toNat % n = 0 → acquiring s s.cur (slotOf s) = false → va.toNat < 0x7E0000000000 → Rules.deferredOp (xreg s) ga i = some op →
    need.wr = (Rules.rights i).2.1 → need.rd = (Rules.rights i).1 → need.atm = (Rules.rights i).2.2.1 → need.fe = (Rules.rights i).2.2.2 →
    need.append = (Rules.stores (xreg s) i).isSome → translate s (whoOf s s.cur (slotOf s)) need va n = .at s ga key rt →
    Pfx.route (Rules.pfx i) rt = .deferred → inAnyGroup s s.cur = true → locked s s.cur ga n = false → (getCore s s.cur).comb = [] →
    (me s).begun = false →
    ((getCore s s.cur).xbuf.length < 512 → ∃ t, exec i s = .next t ∧ t = { s with cores := t.cores } ∧ (∀ h, h ≠ s.cur → getCore t h = getCore s h) ∧
        getCore t s.cur = { getCore s s.cur with ctx := (getCore t s.cur).ctx, xbuf := (getCore s s.cur).xbuf ++
          [{ slot := slotOf s, ga := ga, key := key, va := va, op := op, hold := (getCore s s.cur).phase }] } ∧
        (∀ j, j ≠ slotOf s → getCtx t s.cur j = getCtx s s.cur j) ∧
        getCtx t s.cur (slotOf s) = { me s with
          pc := nextOf s i, instret := (me s).instret + 1, begun := false, dirty := (me s).dirty || (me s).task.isSome }) ∧
    (512 ≤ (getCore s s.cur).xbuf.length → canTrap s = true → ∃ t, exec i s = .next t ∧ Trapped s t 0x07 va)) ∧
  (∀ (s : State) (i : Instr) (va : Word) (n p d k f ga : Nat) (blk : BitVec 2048) (w : PagePath), ready s i = true →
    Rules.access (xreg s) i = some (va, n) → va.toNat % n = 0 → acquiring s s.cur (slotOf s) = false → Rules.Window s va p d k blk → Rules.Usable s blk →
    p < fget F.scNpg blk → w = pathOf s d k p → w.frame = some f → frameBusy s w.die f = false → frGet s w.die f F.frLoc = 0 →
    ga = frameGa s w.die f ((va.toNat - 0x7E0000000000) % 2 ^ 18) → (∃ o, region ga = .frame w.die o) → (getCore s s.cur).comb = [] →
    (∀ ws, Rules.loads 0 i = some ws → (me s).begun = false → fget F.en (getCore s s.cur).migen = 0 →
      ∃ t m, exec i s = .next t ∧ t.net = s.net ++ [m] ∧ t.mem = s.mem ∧ m.src = s.cur ∧ m.key = 0 ∧ m.dst = ga / 2 ^ 48 ∧
        (∃ dest, m.body = .access (.load n) ga va dest ∧ dest.reg = (ws.head?).map Prod.fst ∧ dest.strm = (me s).strm) ∧
        getCtx t s.cur (slotOf s) = { me s with mode := .waiting (.reply m.id) }) ∧
    (∀ bytes, Rules.stores (xreg s) i = some bytes → sharedFrame s w = false → granted s w.die s.cur (slotOf s) = false → locked s s.cur ga n = false →
      Pfx.rel (Rules.pfx i) = false → Pfx.route (Rules.pfx i) 0 ≠ .deferred →
      ∃ t e, exec i s = .next t ∧ (getCtx t s.cur (slotOf s)).pc = nextOf s i ∧ t.net = s.net ∧ t.mem = s.mem ∧
        (getCore t s.cur).comb = [e] ∧ e.line = ga / 64 * 64 ∧ e.key = 0 ∧ e.strm = (me s).strm ∧
        (∀ j b, bytes[j]? = some b → tget 0 e.bytes (ga + j) = b) ∧ e.bytes.length = n))

/-- R153, R154: a fence with no held store and no unacknowledged write in its unit completes and does nothing; one that orders held stores lets them
leave first and is evaluated again. -/
def Obligations.FencesCompleteWhenTheirWritesArePerformed : Prop :=
  ∀ (s : State) (p : Pfx) (imm : Nat) (i : Instr), i ∈ [Instr.fence p imm, .fenceRt p imm, .fenceEng p imm] → ready s i = true →
    (quiet s imm = true → ∃ t, exec i s = .next t ∧ RegisterOnly s t (nextOf s i) []) ∧
    (i = .fence p imm ∧ (Pfx.acq p = false ∨ Pfx.rel p = true) ∨ i = .fenceEng p imm → heldIn s s.cur imm = true →
      exec i s = .next (flushScope s s.cur imm))

/-- R155, R44, R63: arrivals, waits and reads of an instance of cluster, die or module level that the map names, that has no error, and for which no
arrival waits to be presented again. `bar.arv` counts an arrival of the current phase and retires; `bar.sync` counts it and waits; with EXPECT
arrivals counted the phase completes at the end of the clock. `bar.wait`, and a `bar.sync` whose arrival is counted, retire once the phase of the
latest arrival is over, and stall before. `bar.phase` reads ARRN and GEN. That an EXPECT of 0 completes with one arrival is the model's reading
(notes/assumptions 130). -/
def Obligations.BarriersCountArrivals : Prop :=
  ∀ (s : State) (p : Pfx) (d : Reg) (n level ga : Nat), barrierOf s s.cur n = some (level, ga) → level < 3 → s.ue = [] → ga < 2 ^ 64 →
    let b := getBar s ga
    let arrn := arrnOf s s.cur n
    let gen := fget F.biGen b
    let count := fget (cntFld gen) b
    (ready s (.barPhase p d n) = true → ∃ t, exec (.barPhase p d n) s = .next t ∧
      RegisterOnly s t (nextOf s (.barPhase p d n)) [(d, BitVec.ofNat 64 (arrn * 65536 + gen))]) ∧
    (∀ i, i = Instr.barWait p n ∨ i = Instr.barSync p n ∧ (me s).begun = true → ready s i = true →
      ((gen + 65536 - arrn) % 65536 < 32768 → ∃ t, exec i s = .next t ∧ RegisterOnly s t (nextOf s i) []) ∧
      (32768 ≤ (gen + 65536 - arrn) % 65536 → ∃ t, exec i s = .next t ∧ OnlySlot s t ∧ getCtx t s.cur (slotOf s) = me s ∧ t = { s with cores := t.cores })) ∧
    (∀ i, (i = Instr.barArv p n ∧ (Pfx.rel p = true → quiet s (level + 1) = true) ∨
        i = Instr.barSync p n ∧ ((Pfx.rel p || Pfx.noOrder p) = true → quiet s (level + 1) = true)) →
      ready s i = true → (me s).begun = false → (∀ x ∈ s.surplus, x.inst ≠ ga ∧ ¬ (x.core = s.cur ∧ x.slot = slotOf s)) → arrn = gen →
      count + 1 ≤ fget F.biExpect b ∨ fget F.biExpect b = 0 ∧ count = 0 →
      ∃ t, exec i s = .next t ∧ t.mem = s.mem ∧ t.net = s.net ∧ (∀ h, h ≠ s.cur → getCore t h = getCore s h) ∧
        fget (cntFld gen) (getBar t ga) = count + 1 ∧ fget F.biGen (getBar t ga) = gen ∧
        fget F.biGen (getBar (completeBarriers t) ga) = (if fget F.biExpect b ≤ count + 1 then (gen + 1) % 65536 else gen) ∧
        fget (cntFld gen) (getBar (completeBarriers t) ga) = (if fget F.biExpect b ≤ count + 1 then 0 else count + 1) ∧
        (∀ key, key ≠ ga → getBar t key = getBar s key) ∧ arrnOf t s.cur n = (arrn + 1) % 65536 ∧
        getCtx t s.cur (slotOf s) =
          if i = .barArv p n then { me s with pc := nextOf s i, instret := (me s).instret + 1, begun := false } else { me s with begun := true })

/-- R145, R156, R157, R245: `sph.x` at a level of whose group the core is a member, once its release has nothing to wait for, retires in EXCHANGE and its arrival
is recorded: below fabric level it is counted, and with the last one the exchange begins: every entry of the members' exchange
buffers leaves in the order in which it was made, in class 0 on the ordered route, but those made after the core's own arrival; at fabric level it sets out to the group's home in class 0
(R43). `sph.c` retires in COMPUTE once every entry of the exchange has been performed and acknowledged, and stalls before. Elsewhere both raise ILL.
That an arrival below fabric level counts at once, and which entries stay held, are the model's readings (notes/assumptions 29, 128). -/
def Obligations.SuperstepPhasesComplete : Prop :=
  ∀ (s : State) (p : Pfx) (level : Nat), level < 4 →
    (∀ key, ready s (.sphX p level) = true → quiet s (level + 1) = true → groupKey s s.cur level = some key → inExchange s s.cur level = false →
      ∃ t, exec (.sphX p level) s = .next t ∧ (getCore t s.cur).phase = (getCore s s.cur).phase ||| BitVec.ofNat 4 (2 ^ level) ∧
        getCtx t s.cur (slotOf s) = { me s with pc := nextOf s (.sphX p level), instret := (me s).instret + 1, begun := false } ∧ t.mem = s.mem ∧
        (level < 3 → (getGroup s key).count = 0 ∨ (getGroup s key).arrived.length + (getGroup s key).gone.length + 1 < (getGroup s key).count →
          getGroup t key = { getGroup s key with arrived := (getGroup s key).arrived ++ [s.cur] } ∧ t.net = s.net) ∧
        (level < 3 → 0 < (getGroup s key).count → (getGroup s key).count ≤ (getGroup s key).arrived.length + (getGroup s key).gone.length + 1 →
          (getCore s s.cur).saved = false → (∀ g ∈ (getGroup s key).arrived, awayFrom s key g = false) →
          getGroup t key = { getGroup s key with arrived := [], epoch := (getGroup s key).epoch + 1 } ∧
          (∀ members, members = (getGroup s key).arrived ++ [s.cur] → members.Nodup →
            (∀ g ∈ members, (getCore t g).xbuf = ((getCore s g).xbuf.filter fun e => e.hold.getLsbD level).map (releaseHeld level)) ∧
            ∃ ms, t.net = s.net ++ ms ∧
              (∀ m ∈ ms, m.src ∈ members ∧ m.cls = 0 ∧ m.route = .ordered ∧ m.exch = some (key, (getGroup s key).epoch)) ∧
              ∀ g ∈ members, ((ms.filter fun m => m.src == g).map fun m => (m.slots, m.key, m.home, m.dst, m.body)) =
                ((getCore s g).xbuf.filter fun e => !e.hold.getLsbD level).map fun e =>
                  ([e.slot], e.key, homeKey e.ga, e.ga / 2 ^ 48, Body.access e.op e.ga e.va { strm := e.strm }))) ∧
        (level = 3 → ∃ m, t.net = s.net ++ [m] ∧ m.body = .exchange key ∧ m.cls = 0 ∧ m.dst = groupHome key ∧ m.src = s.cur)) ∧
    (∀ key, ready s (.sphC p level) = true → groupKey s s.cur level = some key → inExchange s s.cur level = true →
      (exchangeOver s s.cur level key = true →
        ∃ t, exec (.sphC p level) s = .next t ∧ Retired s t (nextOf s (.sphC p level)) [] ∧ MemSame s t ∧
          (∀ h, h ≠ s.cur → getCore t h = getCore s h) ∧
          getCore t s.cur = { getCore s s.cur with
            ctx := (getCore t s.cur).ctx, xbuf := (getCore s s.cur).xbuf.map (releaseHeld level)
            phase := (getCore s s.cur).phase &&& ~~~BitVec.ofNat 4 (2 ^ level) }) ∧
      (exchangeOver s s.cur level key = false → exec (.sphC p level) s = .next s)) ∧
    (∀ i, i = Instr.sphX p level ∧ (groupKey s s.cur level = none ∨ inExchange s s.cur level = true) ∨
        i = Instr.sphC p level ∧ (groupKey s s.cur level = none ∨ inExchange s s.cur level = false) →
      ready s i = true → canTrap s = true → ∃ t, exec i s = .next t ∧ Trapped s t 0x01 (firstWord i))

/-- R158–R160: `mig` towards a home of the core's own module completes and does nothing; towards another module, from a context that may migrate
and once every write of the core is performed, the helper leaves as a packet that resumes after the `mig` and counts it; from one that may not, it
raises MIG_DENY. -/
def Obligations.ExplicitMigrationCompletes : Prop :=
  ∀ (s : State) (p : Pfx) (a : Reg) (imm : Int) (va : Word) (ga key rt : Nat), ready s (.mig p a imm) = true →
    va = BitVec.ofInt 64 ((xreg s a).toNat + imm * 8) → translate s (whoOf s s.cur (slotOf s)) needLoad va 8 = .at s ga key rt →
    (ga / 2 ^ 48 = modOf s.cur → ∃ t, exec (.mig p a imm) s = .next t ∧ RegisterOnly s t (nextOf s (.mig p a imm)) []) ∧
    (ga / 2 ^ 48 ≠ modOf s.cur → canTrap s = true → migAllowed s s.cur (slotOf s) (nextOf s (.mig p a imm)) ga = false →
      ∃ t, exec (.mig p a imm) s = .next t ∧ Trapped s t 0x13 va) ∧
    (ga / 2 ^ 48 ≠ modOf s.cur → migAllowed s s.cur (slotOf s) (nextOf s (.mig p a imm)) ga = true → (getCore s s.cur).comb = [] →
      (∀ m ∈ s.net, m.src ≠ s.cur) →
      ∃ t m tgt image, exec (.mig p a imm) s = .next t ∧ t.net = s.net ++ [m] ∧ t.mem = s.mem ∧ migTarget ga = some tgt ∧ m.home = 16 * tgt + 6 ∧
        (∃ o k q, m.body = .migrate (nextOf s (.mig p a imm)) ((me s).x.filter fun e => decide (e.1 < 16)) ((me s).instret + 1)
          (fget F.ten (me s).priv) image o k q none va (nextOf s (.mig p a imm))) ∧
        (getCtx t s.cur (slotOf s)).mode = .waiting .away)

/-! ### Number formats and rounding (R102–R115) -/

/-- The magnitude that a code of a format stands for, its sign bit apart (R103). -/
def Rules.magnitude (f : FFmt) (c : Nat) : ℚ :=
  let e := c / 2 ^ f.man
  let m := c % 2 ^ f.man
  if e = 0 then m * (2 : ℚ) ^ (1 - f.bias - f.man : ℤ) else (2 ^ f.man + m) * (2 : ℚ) ^ (e - f.bias - f.man : ℤ)

/-- The rounded magnitude m of an exact magnitude a at a spacing q, where G is the lane's generator state under SR (R108, R111). -/
def Rules.Rounded (q : ℚ) (mode : RMode) (neg : Bool) (g : Nat) (a m : ℚ) : Prop :=
  let n := ⌊a / q⌋
  let r := a / q - n
  let up : Prop := match mode with
    | .rtz => False
    | .rup => 0 < r ∧ neg = false
    | .rdn => 0 < r ∧ neg = true
    | .rne => 1 / 2 < r ∨ r = 1 / 2 ∧ n % 2 = 1
    | .rna => 1 / 2 ≤ r
    | .sr => 2 ^ 32 ≤ ⌊r * 2 ^ 32⌋ + g
  (up → m = (n + 1) * q) ∧ (¬ up → m = n * q)

/-- The code of an overflow (R109). -/
def Rules.overflowed (f : FFmt) (mode : RMode) (sat neg : Bool) : Nat :=
  let sign := if neg then 2 ^ (f.bits - 1) else 0
  if sat = true ∨ mode = .rtz ∨ mode = .rup ∧ neg = true ∨ mode = .rdn ∧ neg = false then sign + f.maxCode
  else if f = e4m3 then 0x7F else if f = e2m1 then sign + 7 else sign + f.infCode.getD 0

/-- The code and flags that RoundFP delivers for an exact value of magnitude a (R107–R109, R115). -/
def Rules.Delivers (f : FFmt) (mode : RMode) (sat ftz : Bool) (g : Nat) (neg : Bool) (a : ℚ) (code : Nat) (flags : Flags) : Prop :=
  let sign := if neg then 2 ^ (f.bits - 1) else 0
  let normal := Rules.magnitude f (2 ^ f.man)
  (a = 0 → code = sign ∧ flags = {}) ∧
  (0 < a → ∃ m, Rules.Rounded (2 ^ (max (Int.log 2 a) (1 - f.bias) - f.man)) mode neg g a m ∧
    if Rules.magnitude f f.maxCode < m then code = Rules.overflowed f mode sat neg ∧ flags = { of := true, nx := true }
    else if ftz = true ∧ f.ftz = true ∧ 0 < m ∧ m < normal then code = sign ∧ flags = { uf := true, nx := true }
    else (∃ c, c ≤ f.maxCode ∧ code = sign + c ∧ Rules.magnitude f c = m) ∧ flags = { nx := decide (m ≠ a), uf := decide (m ≠ a ∧ a < normal) })

/-- The number that a value stands for. -/
def Rules.worth : Val → ℚ
  | .num neg m e => (if neg then -1 else 1) * m * (2 : ℚ) ^ e
  | _ => 0

/-- A finite value of this worth, whose sign where it is zero is given. -/
def Rules.finite (x : Val) (w : ℚ) (zero : Bool) : Prop :=
  ∃ neg m e, x = .num neg m e ∧ Rules.worth x = w ∧ neg = if w = 0 then zero else decide (w < 0)

/-- R102, R103, R106–R111, R114, R115: the value of every code of the six formats, subnormals under FTZ and signalling NaNs among them; RoundFP of every
exact value, NaN and infinity under every mode, with SAT, FTZ and the flags; exact sums, products and fused sums, with the sign of a zero, the invalid
operations, infinity times zero and infinity minus infinity of a fused sum among them, and the signalling operands that raise NV; negation, which makes a
fused sum a fused difference; and the rounding to an integer. -/
def Obligations.NumbersRoundByTheRule : Prop :=
  (∀ f ∈ [fp32, fp16, bf16, e5m2, e4m3, e2m1], ∀ (ftz neg : Bool) (c x : Nat), c < 2 ^ (f.bits - 1) → x = (if neg then 2 ^ (f.bits - 1) else 0) + c →
    (c ≤ f.maxCode → Rules.finite (valueOf f ftz x) ((if neg then -1 else 1) * if ftz = true ∧ f.ftz = true ∧ c < 2 ^ f.man then 0 else Rules.magnitude f c)
      neg) ∧
    (f.infCode = some c → valueOf f ftz x = .inf neg) ∧
    (f.maxCode < c → f.infCode ≠ some c → valueOf f ftz x = .nan (f.infCode.isSome && decide (c / 2 ^ (f.man - 1) % 2 = 0)))) ∧
  (∀ f ∈ [fp32, fp16, bf16, e5m2, e4m3, e2m1], ∀ (mode : RMode) (sat ftz neg : Bool) (g : Nat), g < 2 ^ 32 →
    let sign := if neg then 2 ^ (f.bits - 1) else 0
    (∀ (m : Nat) (e : Int), Rules.Delivers f mode sat ftz g neg (m * (2 : ℚ) ^ e) (roundFP (.num neg m e) f mode sat ftz g).1 (roundFP (.num neg m e) f mode sat ftz g).2) ∧
    (∀ b, roundFP (.nan b) f mode sat ftz g = (f.nanCode, { nv := b || decide (f = e2m1) })) ∧
    roundFP (.inf neg) f mode sat ftz g =
      if sat = true ∨ f = e2m1 then (sign + f.maxCode, { nv := true }) else if f = e4m3 then (0x7F, { nv := true }) else (sign + f.infCode.getD 0, {})) ∧
  (∀ (mode : RMode) (nx ny nz : Bool) (mx my mz : Nat) (ex ey ez : Int),
    let x := Val.num nx mx ex
    let y := Val.num ny my ey
    let z := Val.num nz mz ez
    (addVal mode x y).2 = false ∧ Rules.finite (addVal mode x y).1 (Rules.worth x + Rules.worth y) (if nx = ny then nx else mode == .rdn) ∧
    (mulVal x y).2 = false ∧ Rules.finite (mulVal x y).1 (Rules.worth x * Rules.worth y) (nx != ny) ∧
    (fmaVal mode x y z).2 = false ∧
      Rules.finite (fmaVal mode x y z).1 (Rules.worth x * Rules.worth y + Rules.worth z) (if (nx != ny) = nz then nz else mode == .rdn) ∧
    addVal mode (.inf nx) y = (.inf nx, false) ∧ addVal mode x (.inf ny) = (.inf ny, false) ∧
    addVal mode (.inf nx) (.inf ny) = (if nx = ny then .inf nx else .nan false, nx != ny) ∧
    mulVal (.inf nx) y = (if my = 0 then .nan false else .inf (nx != ny), my == 0) ∧ mulVal x (.inf ny) = (if mx = 0 then .nan false else .inf (nx != ny), mx == 0) ∧
    mulVal (.inf nx) (.inf ny) = (.inf (nx != ny), false)) ∧
  (∀ (mode : RMode) (b : Bool) (v : Val), addVal mode (.nan b) v = (.nan false, b || v.signalling) ∧ addVal mode v (.nan b) = (.nan false, b || v.signalling) ∧
    mulVal (.nan b) v = (.nan false, b || v.signalling) ∧ mulVal v (.nan b) = (.nan false, b || v.signalling)) ∧
  (∀ (mode : RMode) (x y z : Val),
    ((∃ b, x = .nan b) ∨ (∃ b, y = .nan b) → fmaVal mode x y z = (.nan false, x.signalling || y.signalling || z.signalling)) ∧
    (∀ n k e, x = .inf n ∧ y = .num k 0 e ∨ x = .num k 0 e ∧ y = .inf n → fmaVal mode x y z = (.nan false, true)) ∧
    (∀ n k m e, x = .inf n ∧ (y = .inf k ∨ y = .num k (m + 1) e) ∨ x = .num n (m + 1) e ∧ y = .inf k →
      fmaVal mode x y z = match z with
        | .nan b => (.nan false, b)
        | .inf j => if (n != k) = j then (.inf j, false) else (.nan false, true)
        | .num _ _ _ => (.inf (n != k), false)) ∧
    (∀ n k m m' e e', x = .num n m e → y = .num k m' e' → (∀ b, z = .nan b → fmaVal mode x y z = (.nan false, b)) ∧
      ∀ j, z = .inf j → fmaVal mode x y z = (.inf j, false)) ∧
    (∀ b, negVal (.nan b) = .nan b) ∧ (∀ n, negVal (.inf n) = .inf !n) ∧ ∀ n m e, negVal (.num n m e) = .num (!n) m e) ∧
  ∀ (n : Nat) (mode : RMode) (sat neg : Bool) (g : Nat), 2 ≤ n → g < 2 ^ 32 →
    let least : BitVec n := BitVec.ofInt n (-2 ^ (n - 1))
    let bound : BitVec n := if sat = false ∨ neg = true then least else BitVec.ofInt n (2 ^ (n - 1) - 1)
    (∀ (m : Nat) (e : Int), ∃ k : ℤ, Rules.Rounded 1 mode neg g (m * (2 : ℚ) ^ e) k ∧
      let r := if neg then -k else k
      roundInt (.num neg m e) n true mode sat g =
        if r < -2 ^ (n - 1) ∨ 2 ^ (n - 1) - 1 < r then (bound, { of := true, nx := true })
        else (BitVec.ofInt n r, { nx := decide ((k : ℚ) ≠ m * (2 : ℚ) ^ e) })) ∧
    (∀ b, roundInt (.nan b) n true mode sat g = (if sat then 0 else least, { nv := true })) ∧
    roundInt (.inf neg) n true mode sat g = (bound, { of := true, nx := true, nv := true })

/-! ### Vector and conversion instructions (R162–R186) -/

/-- The queued forms of pages 3 and 4 but the memory forms and `vrep`, with the scalar operand that each reads at entry, 0 for none (R162). -/
def Rules.queued (x : Reg → Word) : Instr → Option Word
  | .vbcast _ _ _ a | .vseed _ a | .vmskFromx _ _ a => some (x a)
  | .vtopk _ _ _ _ _ b => some (x b)
  | .vmov _ _ _ _ | .vabs _ _ _ _ _ | .vneg _ _ _ _ _ | .vadd _ _ _ _ _ _ | .vsub _ _ _ _ _ _ | .vmul _ _ _ _ _ _
  | .vfma _ _ _ _ _ | .vfms _ _ _ _ _ | .vfnma _ _ _ _ _ | .vmin _ _ _ _ _ _ | .vmax _ _ _ _ _ _ | .vand _ _ _ _ _
  | .vor _ _ _ _ _ | .vxor _ _ _ _ _ | .vshl _ _ _ _ _ | .vshr _ _ _ _ _ _ | .vcmp _ _ _ _ _ _ | .vsel _ _ _ _ _
  | .vredsum _ _ _ _ _ | .vredmax _ _ _ _ _ | .vredmin _ _ _ _ _ | .vargmax _ _ _ _ _ | .vscan _ _ _ _ _ | .vperm _ _ _ _ _
  | .vmskAnd _ _ _ _ | .vmskOr _ _ _ _ | .vmskXor _ _ _ _ | .vmskNot _ _ _ | .vmskTox _ _ _ | .vrand _ _ _
  | .cvt2 _ _ _ _ _ | .cvt8 _ _ _ _ | .cvt4 _ _ _ _ | .cvtu _ _ _ _ _ | .cvtiI32 _ _ _ | .cvtiF32 _ _ _ | .qscale _ _ _ _
  | .qz _ _ _ _ _ | .vexp2 _ _ _ | .vlog2 _ _ _ | .vrcp _ _ _ | .vrsqrt _ _ _ | .vtanh _ _ _ | .vsig _ _ _ => some 0
  | _ => none

/-- The vector memory forms, with their base (R162, R164). -/
def Rules.queuedMem (x : Reg → Word) : Instr → Option Word
  | .vld _ _ a _ | .vst _ _ a _ | .vldx _ _ _ a _ | .vstx _ _ _ a _ => some (x a)
  | _ => none

/-- What enters the queue: the form, its context, its scalar operand, RM and FTZ of FMODE, and which of its registers are feeds then (R39,
R162, R166). -/
def Rules.entry (s : State) (i : Instr) (xa : Word) : VqEntry :=
  { ins := i, slot := slotOf s, xa := xa, rm := BitVec.ofNat 3 ((getCore s s.cur).fmode.toNat % 8)
    ftz := (getCore s s.cur).fmode.toNat / 8 % 2 == 1, run := 1, reps := 1
    feeds := (vSources i ++ vDests i).dedup.filterMap fun r =>
      (tget none (getCore s s.cur).feeds r.toNat).map fun d => (r.toNat, d.xcore, d.chan) }

/-- R162, R164, R166: a queued form that finds room and misuses no feed enters the queue with its scalar operand, RM and FTZ, and its context goes
on at Next; a memory form enters it and its context stays. Misuse of a feed raises ILL. Nothing else changes. -/
def Obligations.VectorFormsEnterTheQueue : Prop :=
  ∀ (s : State) (i : Instr) (xa : Word), ready s i = true →
    (Rules.queued (xreg s) i = some xa → feedMisuse (getCore s s.cur) i = false → (getCore s s.cur).vq.length < 16 →
      ∃ t, exec i s = .next t ∧ Retired s t (nextOf s i) [] ∧ MemSame s t ∧ (∀ h, h ≠ s.cur → getCore t h = getCore s h) ∧
        (∀ j, j ≠ slotOf s → getCtx t s.cur j = getCtx s s.cur j) ∧
        getCore t s.cur = { getCore s s.cur with ctx := (getCore t s.cur).ctx, vq := (getCore s s.cur).vq ++ [Rules.entry s i xa] }) ∧
    (Rules.queuedMem (xreg s) i = some xa → feedMisuse (getCore s s.cur) i = false → (getCore s s.cur).vq.length < 16 →
      ∃ t, exec i s = .next t ∧ MemSame s t ∧ (∀ h, h ≠ s.cur → getCore t h = getCore s h) ∧
        getCore t s.cur = { getCore s s.cur with vq := (getCore s s.cur).vq ++ [Rules.entry s i xa] }) ∧
    (Rules.queued (xreg s) i = some xa ∨ Rules.queuedMem (xreg s) i = some xa → feedMisuse (getCore s s.cur) i = true → canTrap s = true →
      ∃ t, exec i s = .next t ∧ Trapped s t 0x01 (firstWord i))

/-- R46, R178: `vrep` and the n instructions that follow it enter the queue as one unit, that the count repeats, when the queue has room for all of
them; the context goes on behind the run. That INSTRET counts the `vrep` once and each member once, at capture, is the model's reading
(notes/assumptions 12). -/
def Obligations.RepeatRunsEnterAsOneUnit : Prop :=
  ∀ (s : State) (p : Pfx) (n : Reg) (imm : Nat) (l : List Instr) (pc : Nat), ready s (.vrep p n imm) = true →
    runOf s s.cur (slotOf s) (nextOf s (.vrep p n imm)).toNat (n.toNat + 1) = .ok (l, pc) →
    (getCore s s.cur).vq.length + n.toNat + 1 ≤ 16 → (∀ i ∈ l, scoreboard s s.cur (slotOf s) i = false) → runClash l = false →
    (getCore s s.cur).capture = [] → (getCore s s.cur).runLeft = none →
    ∃ t, exec (.vrep p n imm) s = .next t ∧ MemSame s t ∧ (∀ h, h ≠ s.cur → getCore t h = getCore s h) ∧
      getCore t s.cur = { getCore s s.cur with ctx := (getCore t s.cur).ctx, vq := (getCore t s.cur).vq } ∧
      (∀ j, j ≠ slotOf s → getCtx t s.cur j = getCtx s s.cur j) ∧
      getCtx t s.cur (slotOf s) = { me s with
        pc := BitVec.ofNat 16 pc, instret := (me s).instret + BitVec.ofNat 64 (n.toNat + 2), begun := false } ∧
      ((getCore t s.cur).vq.map fun e => (e.ins, e.slot)) =
        ((getCore s s.cur).vq.map fun e => (e.ins, e.slot)) ++ (l.map fun i => (i, slotOf s)) ∧
      ∃ e, (getCore t s.cur).vq[(getCore s s.cur).vq.length]? = some e ∧ e.run = n.toNat + 1 ∧ e.reps = imm

/-- A register as its lanes: those that the result writes, and else as before (R32). -/
def Rules.merged (old : VReg) (res : Option VRes) (new : VReg) : Prop :=
  ∀ j, j < 64 → laneOf new j = match res with
    | some r => if r.lanes j then laneOf r.val j else laneOf old j
    | none => laneOf old j

/-- The queues of a vector unit whose heads the arbiter looks at: of the ready heads of queues that hold no group those of nonzero weight, or
all where none has one (R256). -/
def Rules.eligible (s : State) (q u : Nat) : List Nat :=
  let ready := (unitCores q u).filter (wantsGroup s)
  if ready.any fun g => weightOf s g != 0 then ready.filter fun g => weightOf s g != 0 else ready

/-- What retiring an instruction leaves of vector register r and of its feed: an inbound feed that it names gives its first strip, which the
register holds, and ends with its last; an outbound feed takes the result's lanes as a strip; any other register takes the lanes written; and the
role is that of the instruction's entry, whose binding may have ended (R32, R33, R166, R223). That what such an instruction still writes is
discarded is the model's reading (notes/assumptions 147). -/
def Rules.afterRetire (c t : Core) (e : VqEntry) (o : VOut) (r : Reg) : Prop :=
  let res := o.v.find? fun w => w.reg == r
  let kept := tget 0 t.v r.toNat = tget 0 c.v r.toNat
  let feedKept := tget none t.feeds r.toNat = tget none c.feeds r.toNat
  match liveFeed c e r with
  | none => feedKept ∧ if (e.feeds.lookup r.toNat).isSome then kept else Rules.merged (tget 0 c.v r.toNat) res (tget 0 t.v r.toNat)
  | some x =>
    match x.inbound, x.strips with
    | true, strip :: rest =>
      if r ∈ vSources e.ins then
        tget 0 t.v r.toNat = strip ∧ tget none t.feeds r.toNat = if rest = [] ∧ x.last = true then none else some { x with strips := rest }
      else kept ∧ feedKept
    | true, [] => kept ∧ feedKept
    | false, _ => kept ∧
      match res with
      | none => feedKept
      | some w => ∃ strip, tget none t.feeds r.toNat = some { x with strips := x.strips ++ [strip] } ∧
          ∀ j, j < 64 → laneOf strip j = if w.lanes j then laneOf w.val j else 0

/-- A queue's instruction holds a lane group: it was bound less than 4 clocks ago (R256). -/
def Rules.holdsGroup (s : State) (h n : Nat) : Prop := (getCore s h).lane = some n ∧ s.now < (getCore s h).laneAt + 4

/-- R162, R255, R256: in every clock the arbiter of a vector unit binds each free lane group, in ascending order, for 4 clocks to a queue of the unit whose
next instruction without a group is ready and that holds none, until none is left that wants one; of the eligible queues, with their weights added, the one
of the largest credit gets the group and gives up all the weights added. An instruction behind one that has its group is ready once it reads nothing that
the other writes. A head that was given a group retires: it writes the vector registers, masks, registers, generators
and flags of its result, moves its feeds, and the queue moves on to the next member of its run, the run's next repetition, or the next unit; nothing
else changes. -/
def Obligations.VectorHeadsAreBoundAndRetire : Prop :=
  ∀ (s : State),
    (s.argB < 4 → let unit := unitCores s.argA s.argB
      ∃ t, exec .vectorLaneGrant s = .next t ∧ t = { s with cores := t.cores } ∧ (∀ h, h ∉ unit → getCore t h = getCore s h) ∧
        (∀ h ∈ unit, getCore t h =
            { getCore s h with
              lane := (getCore t h).lane, laneAt := (getCore t h).laneAt, credit := (getCore t h).credit, flight := (getCore t h).flight } ∧
          ((getCore t h).lane = (getCore s h).lane ∧ (getCore t h).laneAt = (getCore s h).laneAt ∧ (getCore t h).flight = (getCore s h).flight ∨
            wantsGroup s h = true ∧ (getCore t h).flight = (getCore s h).flight + 1 ∧ ∃ n, n < 4 ∧ (getCore t h).lane = some n ∧ (getCore t h).laneAt = s.now ∧
              ∀ j ∈ unit, ¬ Rules.holdsGroup s j n ∧ (j ≠ h → ¬ Rules.holdsGroup t j n))) ∧
        (∀ n, n < 4 → (∃ h ∈ unit, Rules.holdsGroup t h n) ∨ ∀ h ∈ unit, wantsGroup t h = false) ∧
        (∀ n g, n < 4 → (∀ h ∈ unit, ¬ Rules.holdsGroup s h n) → (∀ m, m < 4 → m ≠ n → ∃ h ∈ unit, Rules.holdsGroup s h m) →
          let e := Rules.eligible s s.argA s.argB
          let raised (h : Nat) : Int := (getCore s h).credit + weightOf s h
          g ∈ e → (∀ h ∈ e, h ≠ g → raised h < raised g ∨ raised h = raised g ∧ g < h) →
          (getCore t g).lane = some n ∧ (getCore t g).laneAt = s.now ∧ (getCore t g).credit = raised g - ((e.map (weightOf s)).sum : Nat) ∧
          (∀ h ∈ e, h ≠ g → (getCore t h).lane = (getCore s h).lane ∧ (getCore t h).credit = raised h) ∧ ∀ h ∈ unit, h ∉ e → getCore t h = getCore s h)) ∧
    (∀ h head, (getCore s h).vq.head? = some head → (getCore s h).vpos = 0 → (getCore s h).flight = 0 → isVmem head.ins = false →
      feedsReady (getCore s h) head = true → (wantsGroup s h = true ↔ ¬ ∃ n, Rules.holdsGroup s h n)) ∧
    (∀ h head next rest, (getCore s h).vq = head :: next :: rest → (getCore s h).vpos = 0 → (getCore s h).flight = 1 → head.run = 1 → head.reps ≤ 1 →
      isVmem next.ins = false → next.feeds = [] →
      (wantsGroup s h = true ↔ (¬ ∃ n, Rules.holdsGroup s h n) ∧ ∀ r ∈ vReadNums next, r ∉ vWriteNums head.ins)) ∧
    (∀ e head rest o, (getCore s s.argA).vq = head :: rest → (getCore s s.argA).vq[(getCore s s.argA).vpos]? = some e → isVmem e.ins = false →
      (getCore s s.argA).flight ≠ 0 → feedsReady (getCore s s.argA) e = true → s.ue = [] → portMode s s.argA e.slot = false →
      o = vectorEffect e.ins (vinOf (getCore s s.argA) e) →
      let c := getCore s s.argA
      ∃ t d, exec .vectorRetire s = .next t ∧ d = getCore t s.argA ∧ t = { s with cores := t.cores } ∧
        (∀ h, h ≠ s.argA → getCore t h = getCore s h) ∧
        d = { c with
          ctx := d.ctx, v := d.v, m := d.m, feeds := d.feeds, gen := d.gen, fmode := d.fmode, vq := d.vq, vpos := d.vpos
          flight := c.flight - 1, credit := d.credit } ∧
        (if c.vpos + 1 < head.run then d.vq = c.vq ∧ d.vpos = c.vpos + 1 ∧ d.credit = c.credit
          else d.vpos = 0 ∧
            if 1 < head.reps then d.vq = { head with reps := head.reps - 1 } :: rest ∧ d.credit = c.credit
            else d.vq = c.vq.drop head.run ∧ d.credit = if d.vq = [] then 0 else c.credit) ∧
        (∀ r : Reg, Rules.afterRetire c d e o r) ∧
        (∀ r : Reg, tget 0 d.m r.toNat = (o.m.lookup r).getD (tget 0 c.m r.toNat)) ∧
        (∀ j, j < 64 → tget 0 d.gen j = match o.seed with
          | some x => seedLane x j
          | none => genStep^[o.draws.count j] (tget 0 c.gen j)) ∧
        (∀ r : Reg, tget 0 (getCtx t s.argA e.slot).x r.toNat = (o.x.lookup r).getD (tget 0 (getCtx s s.argA e.slot).x r.toNat)) ∧
        getCtx t s.argA e.slot = { getCtx s s.argA e.slot with x := (getCtx t s.argA e.slot).x } ∧
        (∀ k, k ≠ e.slot → getCtx t s.argA k = getCtx s s.argA k) ∧
        d.fmode = (if nfOf e.ins then c.fmode else c.fmode ||| BitVec.ofNat 64 (o.flags.bits * 256)))

/-- An FP32 lane is a NaN (R102). -/
def Rules.isNan (x : Lane) : Bool := decide (0x7F800000 < x.toNat % 2 ^ 31)

/-- An FP32 source as it is read under FTZ (R107). -/
def Rules.asRead (ftz : Bool) (x : Lane) : Lane := if ftz = true ∧ x.toNat / 2 ^ 23 % 256 = 0 then BitVec.ofNat 32 (x.toNat / 2 ^ 31 * 2 ^ 31) else x

/-- Order of FP32 lanes that are no NaN, −0 below +0; and with −0 equal to +0. -/
def Rules.order (x : Lane) : Int := if x.toNat < 2 ^ 31 then x.toNat else -(x.toNat - 2 ^ 31 : Int) - 1
def Rules.numeric (x : Lane) : Int := if x.toNat < 2 ^ 31 then x.toNat else -(x.toNat - 2 ^ 31 : Int)

/-- The canonical NaN of FP32 (R102). -/
def Rules.qnan : Lane := 0x7FC00000

/-- The larger or smaller of two FP32 lanes: a NaN for a NaN operand, and −0 below +0 (R116, R170). -/
def Rules.pick (ftz larger : Bool) (a b : Lane) : Lane :=
  let x := Rules.asRead ftz a
  let y := Rules.asRead ftz b
  if Rules.isNan a = true ∨ Rules.isNan b = true then Rules.qnan
  else if larger = true then if Rules.order x < Rules.order y then y else x
  else if Rules.order y < Rules.order x then y else x

/-- Lane j of the result of an integer, logical or moving form, with its mask, from the lanes as they stood (R114, R170, R172, R176). -/
def Rules.intLane (q : VIn) (j : Nat) : Instr → Option (Reg × BitVec 2 × Lane)
  | .vmov _ mk d a => some (d, mk, q.lane a j)
  | .vbcast _ mk d _ => some (d, mk, BitVec.ofNat 32 q.xa.toNat)
  | .vabs _ mk .int32 d a => some (d, mk, BitVec.ofNat 32 (q.lane a j).toInt.natAbs)
  | .vneg _ mk .int32 d a | .vneg _ mk .uint32 d a => some (d, mk, BitVec.ofInt 32 (-(q.lane a j).toInt))
  | .vabs _ mk .uint32 d a => some (d, mk, q.lane a j)
  | .vadd _ mk .int32 d a b | .vadd _ mk .uint32 d a b => some (d, mk, BitVec.ofNat 32 ((q.lane a j).toNat + (q.lane b j).toNat))
  | .vsub _ mk .int32 d a b | .vsub _ mk .uint32 d a b => some (d, mk, BitVec.ofInt 32 ((q.lane a j).toNat - (q.lane b j).toNat))
  | .vmul _ mk .int32 d a b | .vmul _ mk .uint32 d a b => some (d, mk, BitVec.ofNat 32 ((q.lane a j).toNat * (q.lane b j).toNat))
  | .vmin _ mk .int32 d a b => some (d, mk, BitVec.ofInt 32 (min (q.lane a j).toInt (q.lane b j).toInt))
  | .vmax _ mk .int32 d a b => some (d, mk, BitVec.ofInt 32 (max (q.lane a j).toInt (q.lane b j).toInt))
  | .vmin _ mk .uint32 d a b => some (d, mk, BitVec.ofNat 32 (min (q.lane a j).toNat (q.lane b j).toNat))
  | .vmax _ mk .uint32 d a b => some (d, mk, BitVec.ofNat 32 (max (q.lane a j).toNat (q.lane b j).toNat))
  | .vand _ mk d a b => some (d, mk, q.lane a j &&& q.lane b j)
  | .vor _ mk d a b => some (d, mk, q.lane a j ||| q.lane b j)
  | .vxor _ mk d a b => some (d, mk, q.lane a j ^^^ q.lane b j)
  | .vshl _ mk d a b => some (d, mk, BitVec.ofNat 32 ((q.lane a j).toNat * 2 ^ ((q.lane b j).toNat % 32)))
  | .vshr _ mk .logical d a b => some (d, mk, BitVec.ofNat 32 ((q.lane a j).toNat / 2 ^ ((q.lane b j).toNat % 32)))
  | .vshr _ mk .arith d a b => some (d, mk, BitVec.ofInt 32 ((q.lane a j).toInt / 2 ^ ((q.lane b j).toNat % 32)))
  | .vsel _ mk d a b => some (d, 0, if (q.m mk.toNat).getLsbD j then q.lane a j else q.lane b j)
  | .vperm _ mk d a b => some (d, mk, q.lane a ((q.lane b j).toNat % 64))
  | .cvtu _ .int8 d a part => some (d, 0, BitVec.ofInt 32 (BitVec.ofNat 8 ((q.v a).toNat / 2 ^ (8 * (64 * part.toNat + j)))).toInt)
  | .cvtu _ .int4 d a part => some (d, 0, BitVec.ofInt 32 (BitVec.ofNat 4 ((q.v a).toNat / 2 ^ (4 * (64 * part.toNat + j)))).toInt)
  | _ => none

/-- A signalling NaN (R102, R106). -/
def Rules.signals (x : Lane) : Bool := Rules.isNan x && decide (x.toNat / 2 ^ 22 % 2 = 0)

/-- The same of a floating-point form: the exact value of its sources rounded once by RoundFP under its mode, with FTZ and the lane's generator
as captured (R106–R113, R170, R183), and the flags of the lane's own operation (R115); what RoundFP, the exact sums and the exact products are,
`Obligations.NumbersRoundByTheRule` states. -/
def Rules.floatLane (q : VIn) (j : Nat) : Instr → Option (Reg × BitVec 2 × Lane × Flags)
  | .vabs _ mk .fp32 d a =>
    some (d, mk, if Rules.isNan (q.lane a j) then Rules.qnan else BitVec.ofNat 32 ((Rules.asRead q.ftz (q.lane a j)).toNat % 2 ^ 31),
      { nv := Rules.signals (q.lane a j) })
  | .vneg _ mk .fp32 d a =>
    some (d, mk, if Rules.isNan (q.lane a j) then Rules.qnan else BitVec.ofNat 32 ((Rules.asRead q.ftz (q.lane a j)).toNat + 2 ^ 31),
      { nv := Rules.signals (q.lane a j) })
  | .vmin _ mk .fp32 d a b =>
    some (d, mk, Rules.pick q.ftz false (q.lane a j) (q.lane b j), { nv := Rules.signals (q.lane a j) || Rules.signals (q.lane b j) })
  | .vmax _ mk .fp32 d a b =>
    some (d, mk, Rules.pick q.ftz true (q.lane a j) (q.lane b j), { nv := Rules.signals (q.lane a j) || Rules.signals (q.lane b j) })
  | .cvtiI32 p d a => some (d, 0, roundInt (val32 q.ftz (q.lane a j)) 32 true (q.mode p) (Pfx.sat p) (q.gen j).toNat)
  | .vadd p mk .fp32 d a b =>
    some (d, mk, round32 (addVal (q.mode p) (val32 q.ftz (q.lane a j)) (val32 q.ftz (q.lane b j))) (q.mode p) false q.ftz (q.gen j).toNat)
  | .vsub p mk .fp32 d a b =>
    some (d, mk, round32 (addVal (q.mode p) (val32 q.ftz (q.lane a j)) (negVal (val32 q.ftz (q.lane b j)))) (q.mode p) false q.ftz (q.gen j).toNat)
  | .vmul p mk .fp32 d a b =>
    some (d, mk, round32 (mulVal (val32 q.ftz (q.lane a j)) (val32 q.ftz (q.lane b j))) (q.mode p) false q.ftz (q.gen j).toNat)
  | .vfma p mk d a b =>
    some (d, mk, round32 (fmaVal (q.mode p) (val32 q.ftz (q.lane a j)) (val32 q.ftz (q.lane b j)) (val32 q.ftz (q.lane d j))) (q.mode p) false q.ftz
      (q.gen j).toNat)
  | .vfms p mk d a b =>
    some (d, mk, round32 (fmaVal (q.mode p) (val32 q.ftz (q.lane a j)) (val32 q.ftz (q.lane b j)) (negVal (val32 q.ftz (q.lane d j)))) (q.mode p) false
      q.ftz (q.gen j).toNat)
  | .vfnma p mk d a b =>
    some (d, mk, round32 (fmaVal (q.mode p) (negVal (val32 q.ftz (q.lane a j))) (val32 q.ftz (q.lane b j)) (val32 q.ftz (q.lane d j))) (q.mode p) false
      q.ftz (q.gen j).toNat)
  | .cvtiF32 p d a =>
    let r := roundFP (intVal (q.lane a j).toInt) fp32 (q.mode p) (Pfx.sat p) q.ftz (q.gen j).toNat
    some (d, 0, BitVec.ofNat 32 r.1, r.2)
  | .vexp2 _ d a => some (d, 0, specialFn 0 q.ftz (q.lane a j))
  | .vlog2 _ d a => some (d, 0, specialFn 1 q.ftz (q.lane a j))
  | .vrcp _ d a => some (d, 0, specialFn 2 q.ftz (q.lane a j))
  | .vrsqrt _ d a => some (d, 0, specialFn 3 q.ftz (q.lane a j))
  | .vtanh _ d a => some (d, 0, specialFn 4 q.ftz (q.lane a j))
  | .vsig _ d a => some (d, 0, specialFn 5 q.ftz (q.lane a j))
  | _ => none

/-- The special functions at the inputs of R186's table, selectors 0 to 5 for vexp2, vlog2, vrcp, vrsqrt, vtanh, vsig: a NaN, +∞, −∞, +0, −0. -/
def Rules.specialAt (x : Lane) : List Lane :=
  if Rules.isNan x then List.replicate 6 Rules.qnan
  else if x = 0x7F800000 then [0x7F800000, 0x7F800000, 0, 0, 0x3F800000, 0x3F800000]
  else if x = 0xFF800000 then [0, Rules.qnan, 0x80000000, Rules.qnan, 0xBF800000, 0]
  else if x = 0 then [0x3F800000, 0xFF800000, 0x7F800000, 0x7F800000, 0, 0x3F000000]
  else if x = 0x80000000 then [0x3F800000, 0xFF800000, 0xFF800000, 0xFF800000, 0x80000000, 0x3F000000]
  else []

/-- R114, R115, R170, R172, R176, R182, R183, R186: the lanes that a lane-wise form writes at retirement, their values, and its sticky flags: those that the
operation of some active lane raises, and none for an integer form. A masked-off lane is not written. `cvtu` widens exactly, and raises NV alone, for a
signalling NaN. The special functions give R186's values at its special inputs, 2^n and n for the powers of two, the nearest value of 1/x and
of 1/√x, and a NaN or −∞ where they have none; that the others are correctly rounded rests on the enclosures of notes/assumptions 161. -/
def Obligations.LaneFormsComputeTheirLanes : Prop :=
  (∀ (q : VIn) (i : Instr) (j : Nat) (d : Reg) (mk : BitVec 2) (v : Lane), j < 64 →
    Rules.intLane q j i = some (d, mk, v) ∨ (∃ f, Rules.floatLane q j i = some (d, mk, v, f)) →
    ∃ r, (vectorEffect i q).v = [r] ∧ (vectorEffect i q).m = [] ∧ (vectorEffect i q).x = [] ∧ r.reg = d ∧
      r.lanes j = (mk == 0 || (q.m mk.toNat).getLsbD j) ∧ laneOf r.val j = v) ∧
  (∀ (q : VIn) (i : Instr) (mk : BitVec 2) (f : Nat → Flags) (flag : Flags → Bool), flag ∈ [Flags.nv, Flags.dz, Flags.of, Flags.uf, Flags.nx] →
    (∀ j, j < 64 → ∃ d v, Rules.floatLane q j i = some (d, mk, v, f j)) →
    (flag (vectorEffect i q).flags = true ↔ ∃ j, j < 64 ∧ (mk == 0 || (q.m mk.toNat).getLsbD j) = true ∧ flag (f j) = true)) ∧
  (∀ (q : VIn) (i : Instr), Rules.intLane q 0 i ≠ none → (vectorEffect i q).flags = {}) ∧
  (∀ (q : VIn) (p : Pfx) (f : Elem) (d a part : Reg), f ∈ [Elem.fp16, .bf16, .e4m3, .e5m2, .e2m1] → (vectorEffect (.cvtu p f d a part) q).flags =
    { nv := (List.range 64).any fun j =>
        valueOf (fmtOf f) q.ftz ((q.v a).toNat / 2 ^ ((fmtOf f).bits * (64 * part.toNat + j)) % 2 ^ (fmtOf f).bits) == .nan true }) ∧
  (∀ (q : VIn) (p : Pfx) (f : Elem) (d a part : Reg) (j x : Nat), f ∈ [Elem.fp16, .bf16, .e4m3, .e5m2, .e2m1] → j < 64 →
    x = (q.v a).toNat / 2 ^ ((fmtOf f).bits * (64 * part.toNat + j)) % 2 ^ (fmtOf f).bits →
    ∃ r, (vectorEffect (.cvtu p f d a part) q).v = [r] ∧ r.reg = d ∧ r.lanes j = true ∧
      (∀ b, valueOf (fmtOf f) q.ftz x = .nan b → laneOf r.val j = Rules.qnan) ∧
      (∀ neg, valueOf (fmtOf f) q.ftz x = .inf neg → laneOf r.val j = if neg then 0xFF800000 else 0x7F800000) ∧
      (∀ neg m e, valueOf (fmtOf f) q.ftz x = .num neg m e → (laneOf r.val j).toNat = (if neg then 2 ^ 31 else 0) + (laneOf r.val j).toNat % 2 ^ 31 ∧
        (laneOf r.val j).toNat % 2 ^ 31 < 0x7F800000 ∧ Rules.magnitude fp32 ((laneOf r.val j).toNat % 2 ^ 31) = m * (2 : ℚ) ^ e)) ∧
  ∀ (ftz neg : Bool) (x : Lane) (c : Nat), c = x.toNat % 2 ^ 31 →
    (∀ sel v, (Rules.specialAt (Rules.asRead ftz x))[sel]? = some v → (specialFn sel ftz x).1 = v) ∧
    (∀ sel, (Rules.isNan x = true → (specialFn sel ftz x).2 = { nv := Rules.signals x }) ∧
      (Rules.asRead ftz x = 0 ∨ Rules.asRead ftz x = 0x80000000 → sel = 1 ∨ sel = 2 ∨ sel = 3 → (specialFn sel ftz x).2 = { dz := true }) ∧
      (x = 0xFF800000 → sel = 1 ∨ sel = 3 → (specialFn sel ftz x).2 = { nv := true })) ∧
    (2 ^ 23 ≤ c → c < 0x7F800000 → x.toNat = (if neg then 2 ^ 31 else 0) + c →
      (∀ n : ℤ, (if neg then -1 else 1) * Rules.magnitude fp32 c = n →
        (-126 ≤ n → n ≤ 127 → Rules.magnitude fp32 (specialFn 0 ftz x).1.toNat = 2 ^ n) ∧
        (-149 ≤ n → n < -126 → ftz = false → Rules.magnitude fp32 (specialFn 0 ftz x).1.toNat = 2 ^ n) ∧
        (128 ≤ n → (specialFn 0 ftz x).1 = 0x7F800000)) ∧
      (∀ n : ℤ, neg = false → Rules.magnitude fp32 c = 2 ^ n → n ≠ 0 → (specialFn 1 ftz x).1.toNat / 2 ^ 31 = (if n < 0 then 1 else 0) ∧
        Rules.magnitude fp32 ((specialFn 1 ftz x).1.toNat % 2 ^ 31) = |n|) ∧
      (neg = true → specialFn 1 ftz x = (Rules.qnan, { nv := true }) ∧ specialFn 3 ftz x = (Rules.qnan, { nv := true })) ∧
      Rules.Delivers fp32 .rne false ftz 0 neg (1 / Rules.magnitude fp32 c) (specialFn 2 ftz x).1.toNat (specialFn 2 ftz x).2 ∧
      (neg = false → ∃ k, k = (specialFn 3 ftz x).1.toNat ∧ 2 ^ 23 < k ∧ k < 0x7F7FFFFF ∧
        ((Rules.magnitude fp32 (k - 1) + Rules.magnitude fp32 k) / 2) ^ 2 * Rules.magnitude fp32 c ≤ 1 ∧
        1 ≤ ((Rules.magnitude fp32 k + Rules.magnitude fp32 (k + 1)) / 2) ^ 2 * Rules.magnitude fp32 c))

/-- Whether lane i is active (R91). -/
def Rules.active (q : VIn) (mk : BitVec 2) (i : Nat) : Bool := mk == 0 || (q.m mk.toNat).getLsbD i

/-- Node i of a level of the fixed pairwise tree (R116). -/
def Rules.tree {α : Type} (op : α → α → α) (leaf : Nat → α) : Nat → Nat → α
  | 0, i => leaf i
  | n + 1, i => op (Rules.tree op leaf n (2 * i)) (Rules.tree op leaf n (2 * i + 1))

/-- The running value at a lane (R116, R174). -/
def Rules.scan (op : Lane → Lane → Lane) (start : Lane) (x : Nat → Lane) : Nat → Lane
  | 0 => op start (x 0)
  | j + 1 => op (Rules.scan op start x j) (x (j + 1))

/-- FP32 addition under a mode, SR taken as RNE (R113, R116). -/
def Rules.fadd (mode : RMode) (ftz : Bool) (a b : Lane) : Lane :=
  let m := if mode = .sr then .rne else mode
  BitVec.ofNat 32 (roundFP (addVal m (val32 ftz a) (val32 ftz b)).1 fp32 m false ftz 0).1

/-- The flags of that addition (R115). -/
def Rules.faddFlags (mode : RMode) (ftz : Bool) (a b : Lane) : Flags :=
  let m := if mode = .sr then .rne else mode
  let v := addVal m (val32 ftz a) (val32 ftz b)
  let r := (roundFP v.1 fp32 m false ftz 0).2
  { r with nv := v.2 || r.nv }

/-- The flags of the elements of a packing conversion: of `cvt8` and `cvt4` at lane j, and of `cvt2` at element j (R115, R180, R181). -/
def Rules.convFlags (q : VIn) (p : Pfx) (f : Elem) (w : Nat) (x : Lane) (g : Lane) : Flags :=
  if f = .int8 ∨ f = .int4 then (roundInt (val32 q.ftz x) w true (q.mode p) (Pfx.sat p) g.toNat).2
  else (roundFP (val32 q.ftz x) (fmtOf f) (q.mode p) (Pfx.sat p) q.ftz g.toNat).2

/-- What `qz` rounds of a lane under its scale byte: 255 makes it a NaN, which signals where the lane did (R185). -/
def Rules.rescaled (q : VIn) (x scale : Lane) : Val :=
  if scale.toNat % 256 = 255 then .nan (Rules.signals x)
  else match val32 q.ftz x with
    | .num n m e => .num n m (e + 127 - scale.toNat % 256)
    | v => v

/-- What a reduction combines, by form and type: identity and operation (R116). -/
def Rules.combine (q : VIn) (p : Pfx) : Instr → Option (Lane × (Lane → Lane → Lane))
  | .vredsum _ _ .fp32 _ _ | .vscan _ _ .fp32 _ _ => some (0x80000000, Rules.fadd (q.mode p) q.ftz)
  | .vredmax _ _ .fp32 _ _ => some (0xFF800000, Rules.pick q.ftz true)
  | .vredmin _ _ .fp32 _ _ => some (0x7F800000, Rules.pick q.ftz false)
  | .vredsum _ _ .uint32 _ _ | .vscan _ _ .uint32 _ _ => some (0, fun a b => BitVec.ofNat 32 (a.toNat + b.toNat))
  | .vredmax _ _ .uint32 _ _ => some (0, fun a b => if a.toNat < b.toNat then b else a)
  | .vredmin _ _ .uint32 _ _ => some (0xFFFFFFFF, fun a b => if b.toNat < a.toNat then b else a)
  | _ => none

/-- Rank of a lane for `vargmax` and `vtopk`, a NaN above every number (R116, R175). -/
def Rules.rank (t : Elem) (ftz : Bool) (x : Lane) : Int :=
  match t with
  | .fp32 => if Rules.isNan x then 2 ^ 32 else Rules.order (Rules.asRead ftz x)
  | .int32 => x.toInt
  | _ => x.toNat

/-- A lane's value as `vargmax` and `vtopk` deliver it (R173, R175). -/
def Rules.ranked (t : Elem) (ftz : Bool) (x : Lane) : Lane := if t = .fp32 then if Rules.isNan x then Rules.qnan else Rules.asRead ftz x else x

/-- The identity of `vargmax` (R116). -/
def Rules.least : Elem → Lane
  | .fp32 => 0xFF800000
  | .int32 => 0x80000000
  | _ => 0

/-- The active lanes of a source, as signed numbers (R91). -/
def Rules.activeInts (q : VIn) (mk : BitVec 2) (a : Reg) : List Int :=
  ((List.range 64).filter fun j => mk == 0 || (q.m mk.toNat).getLsbD j).map fun j => (q.lane a j).toInt

/-- R112, R116, R171–R175, R177, R180, R181: masks, reductions, the running sum, the ranking, the seeds and the draws, and the packing of
conversions: comparisons set the mask bits that hold, −0 equal to +0 and false for a NaN but for `ne`, and raise NV for a NaN under lt and le and for a
signalling one else; `vmsk` forms are bitwise; integer `vredsum` gives the
active lanes' sum modulo 2^32, sign-extended; `vredmax` and `vredmin` their greatest and least; FP32 and UINT32 reductions the root of R116's tree;
`vscan` the running sums; `vargmax` the tree's winner and its number; `vtopk` the active lanes by rank and their numbers; `cvt2`, `cvt8`, `cvt4` and `qz` place
each converted element where R180 and R181 say; `qscale` gives each block's scale (R184, R185). R115: the flags are those of the operations of the lanes: of
every addition of an FP32 sum's tree or running sum, of every converted element, and NV for a signalling lane that a ranking reads; integer forms raise none.
That `vargmax` puts −0 below +0 is the model's reading
(notes/assumptions 43). -/
def Obligations.CrossLaneFormsComputeTheirResults : Prop :=
  ∀ (q : VIn) (p : Pfx) (mk : BitVec 2) (d a b : Reg),
    (∀ k j, j < 64 → ∃ w, (vectorEffect (.vcmp p k .uint32 d a b) q).m = [(d, w)] ∧ (w.getLsbD j = true ↔ match k with
      | .eq => q.lane a j = q.lane b j
      | .lt => (q.lane a j).toNat < (q.lane b j).toNat
      | .le => (q.lane a j).toNat ≤ (q.lane b j).toNat
      | .ne => q.lane a j ≠ q.lane b j)) ∧
    (∀ k j, j < 64 → let x := Rules.numeric (Rules.asRead q.ftz (q.lane a j))
      let y := Rules.numeric (Rules.asRead q.ftz (q.lane b j))
      let nan := Rules.isNan (q.lane a j) = true ∨ Rules.isNan (q.lane b j) = true
      ∃ w, (vectorEffect (.vcmp p k .fp32 d a b) q).m = [(d, w)] ∧ (w.getLsbD j = true ↔ match k with
        | .eq => ¬ nan ∧ x = y
        | .lt => ¬ nan ∧ x < y
        | .le => ¬ nan ∧ x ≤ y
        | .ne => nan ∨ x ≠ y)) ∧
    (∀ k j, j < 64 → ∃ w, (vectorEffect (.vcmp p k .int32 d a b) q).m = [(d, w)] ∧ (w.getLsbD j = true ↔ match k with
      | .eq => q.lane a j = q.lane b j
      | .lt => (q.lane a j).toInt < (q.lane b j).toInt
      | .le => (q.lane a j).toInt ≤ (q.lane b j).toInt
      | .ne => q.lane a j ≠ q.lane b j)) ∧
    (∀ k, (vectorEffect (.vcmp p k .fp32 d a b) q).flags = { nv := (List.range 64).any fun j => match k with
        | .lt | .le => Rules.isNan (q.lane a j) || Rules.isNan (q.lane b j)
        | _ => Rules.signals (q.lane a j) || Rules.signals (q.lane b j) }) ∧
    (∀ k t, t = Elem.int32 ∨ t = .uint32 → (vectorEffect (.vcmp p k t d a b) q).flags = {}) ∧
    (vectorEffect (.vmskAnd p d a b) q).m = [(d, q.m a.toNat &&& q.m b.toNat)] ∧
    (vectorEffect (.vmskOr p d a b) q).m = [(d, q.m a.toNat ||| q.m b.toNat)] ∧
    (vectorEffect (.vmskXor p d a b) q).m = [(d, q.m a.toNat ^^^ q.m b.toNat)] ∧
    (vectorEffect (.vmskNot p d a) q).m = [(d, ~~~q.m a.toNat)] ∧ (vectorEffect (.vmskFromx p d a) q).m = [(d, q.xa)] ∧
    (vectorEffect (.vmskTox p d a) q).x = [(d, q.m a.toNat)] ∧
    (vectorEffect (.vredsum p mk .int32 d a) q).x = [(d, (BitVec.ofInt 32 (Rules.activeInts q mk a).sum).signExtend 64)] ∧
    (vectorEffect (.vredmax p mk .int32 d a) q).x = [(d, BitVec.ofInt 64 ((Rules.activeInts q mk a).foldl max (-2 ^ 31)))] ∧
    (vectorEffect (.vredmin p mk .int32 d a) q).x = [(d, BitVec.ofInt 64 ((Rules.activeInts q mk a).foldl min (2 ^ 31 - 1)))] ∧
    (∀ j, j < 64 → ∃ r, (vectorEffect (.vscan p mk .int32 d a) q).v = [r] ∧ r.reg = d ∧ r.lanes j = true ∧
      laneOf r.val j = BitVec.ofInt 32 ((((List.range (j + 1)).filter fun i => mk == 0 || (q.m mk.toNat).getLsbD i).map fun i =>
        (q.lane a i).toInt).sum)) ∧
    (∀ i t x, i = Instr.vredsum p mk t d a ∨ i = .vredmax p mk t d a ∨ i = .vredmin p mk t d a → Rules.combine q p i = some x →
      (vectorEffect i q).x = [(d, BitVec.ofNat 64 (Rules.tree x.2 (fun n => if Rules.active q mk n then q.lane a n else x.1) 6 0).toNat)]) ∧
    (∀ t x, Rules.combine q p (.vscan p mk t d a) = some x → ∃ r, (vectorEffect (.vscan p mk t d a) q).v = [r] ∧ r.reg = d ∧ ∀ j, j < 64 →
      r.lanes j = true ∧ laneOf r.val j = Rules.scan x.2 x.1 (fun n => if Rules.active q mk n then q.lane a n else x.1) j) ∧
    (∀ t, t ∈ [Elem.fp32, .int32, .uint32] →
      let best (x y : Lane × Nat) : Lane × Nat := if Rules.rank t q.ftz x.1 < Rules.rank t q.ftz y.1 then y else x
      let w := Rules.tree best (fun n => if Rules.active q mk n then (q.lane a n, n) else (Rules.least t, 64)) 6 0
      (vectorEffect (.vargmax p mk t d a) q).x = [(d, BitVec.ofNat 64 (w.2 * 2 ^ 32 + (Rules.ranked t q.ftz w.1).toNat))]) ∧
    (∀ t, t = Elem.fp32 ∨ t = .int32 → ∃ r1 r2, (vectorEffect (.vtopk p mk t d a b) q).v = [r1, r2] ∧ r1.reg = d ∧ r2.reg = d + 1 ∧
      (∀ j, r1.lanes j = true ∧ r2.lanes j = true) ∧
      let on := (List.range 64).filter (Rules.active q mk)
      let key (n : Nat) : Int := Rules.rank t q.ftz (q.lane a n)
      (∀ i j, i ∈ on → j = (on.filter fun l => decide (key i < key l ∨ key i = key l ∧ l < i)).length → j < q.xa.toNat →
        laneOf r1.val j = Rules.ranked t q.ftz (q.lane a i) ∧ laneOf r2.val j = BitVec.ofNat 32 i) ∧
      ∀ j, j < 64 → q.xa.toNat ≤ j ∨ on.length ≤ j → laneOf r1.val j = Rules.least t ∧ laneOf r2.val j = 64) ∧
    (vectorEffect (.vseed p a) q).seed = some (BitVec.ofNat 32 q.xa.toNat) ∧
    (∀ j, j < 64 → ∃ r, (vectorEffect (.vrand p mk d) q).v = [r] ∧ r.reg = d ∧ laneOf r.val j = q.gen j ∧
      (j ∈ (vectorEffect (.vrand p mk d) q).draws ↔ mk = 0 ∨ (q.m mk.toNat).getLsbD j = true)) ∧
    (∀ f j, (f = .fp16 ∨ f = .bf16) → j < 128 → ∃ r, (vectorEffect (.cvt2 p f d a b) q).v = [r] ∧ r.reg = d ∧
      r.val.toNat / 2 ^ (16 * j) % 2 ^ 16 =
        (roundFP (val32 q.ftz (if j < 64 then q.lane a j else q.lane b (j - 64))) (fmtOf f) (q.mode p) (Pfx.sat p) q.ftz
          (if j < 64 then q.gen j else genStep (q.gen (j - 64))).toNat).1) ∧
    (∀ f w i j, i = Instr.cvt8 p f d a ∧ (f = .e4m3 ∨ f = .e5m2 ∨ f = .int8) ∧ w = 16 ∨ i = Instr.cvt4 p f d a ∧ (f = .e2m1 ∨ f = .int4) ∧ w = 8 →
      j < 64 → ∃ r, (vectorEffect i q).v = [r] ∧ r.reg = d ∧ (j < 64 - w → laneOf r.val j = laneOf (q.v d) (j + w)) ∧
        r.val.toNat / 2 ^ (32 * (64 - w) + w / 2 * j) % 2 ^ (w / 2) =
          if f = .int8 ∨ f = .int4 then (roundInt (val32 q.ftz (q.lane a j)) (w / 2) true (q.mode p) (Pfx.sat p) (q.gen j).toNat).1.toNat
          else (roundFP (val32 q.ftz (q.lane a j)) (fmtOf f) (q.mode p) (Pfx.sat p) q.ftz (q.gen j).toNat).1) ∧
    (∀ f w j, (f = .e4m3 ∨ f = .e5m2) ∧ w = 16 ∨ f = .e2m1 ∧ w = 8 → j < 64 →
      ∃ r code, (vectorEffect (.qz p f d a b) q).v = [r] ∧ r.reg = d ∧ (j < 64 - w → laneOf r.val j = laneOf (q.v d) (j + w)) ∧
        code = r.val.toNat / 2 ^ (32 * (64 - w) + w / 2 * j) % 2 ^ (w / 2) ∧
        ((q.lane b j).toNat % 256 = 255 ∨ (∃ n, val32 q.ftz (q.lane a j) = .nan n) → code = (fmtOf f).nanCode) ∧
        ((q.lane b j).toNat % 256 ≠ 255 → (∀ n, val32 q.ftz (q.lane a j) = .inf n → code = (roundFP (.inf n) (fmtOf f) (q.mode p) (Pfx.sat p) q.ftz 0).1) ∧
          ∀ n m e, val32 q.ftz (q.lane a j) = .num n m e →
            code = (roundFP (.num n m (e + 127 - (q.lane b j).toNat % 256)) (fmtOf f) (q.mode p) (Pfx.sat p) q.ftz (q.gen j).toNat).1)) ∧
    (∀ f j emax block, f = .e4m3 ∧ emax = 8 ∨ f = .e5m2 ∧ emax = 15 ∨ f = .e2m1 ∧ emax = (2 : Int) → j < 64 →
      block = (List.range 32).map (fun n => (Rules.asRead q.ftz (q.lane a (j / 32 * 32 + n))).toNat % 2 ^ 31) →
      ∃ r, (vectorEffect (.qscale p f d a) q).v = [r] ∧ r.reg = d ∧ r.lanes j = true ∧
        ((∃ x ∈ block, 0x7F800000 ≤ x) → laneOf r.val j = 255) ∧ ((∀ x ∈ block, x = 0) → laneOf r.val j = 127) ∧
        ∀ x, x ∈ block → 0 < x → x < 0x7F800000 → (∀ y ∈ block, y ≤ x) →
          laneOf r.val j = BitVec.ofInt 32 (min (max (Int.log 2 (Rules.magnitude fp32 x) - emax + 127) 0) 254)) ∧
    -- flags
    (∀ flag, flag ∈ [Flags.nv, Flags.dz, Flags.of, Flags.uf, Flags.nx] →
      let x (n : Nat) : Lane := if Rules.active q mk n then q.lane a n else 0x80000000
      let add := Rules.fadd (q.mode p) q.ftz
      (flag (vectorEffect (.vredsum p mk .fp32 d a) q).flags = true ↔ ∃ n i, n < 6 ∧ i < 2 ^ (5 - n) ∧
        flag (Rules.faddFlags (q.mode p) q.ftz (Rules.tree add x n (2 * i)) (Rules.tree add x n (2 * i + 1))) = true) ∧
      (flag (vectorEffect (.vscan p mk .fp32 d a) q).flags = true ↔ flag (Rules.faddFlags (q.mode p) q.ftz 0x80000000 (x 0)) = true ∨
        ∃ n, n < 63 ∧ flag (Rules.faddFlags (q.mode p) q.ftz (Rules.scan add 0x80000000 x n) (x (n + 1))) = true) ∧
      (∀ f, f = .fp16 ∨ f = .bf16 → (flag (vectorEffect (.cvt2 p f d a b) q).flags = true ↔ ∃ n, n < 64 ∧
        (flag (Rules.convFlags q p f 16 (q.lane a n) (q.gen n)) = true ∨ flag (Rules.convFlags q p f 16 (q.lane b n) (genStep (q.gen n))) = true))) ∧
      (∀ f i w, i = Instr.cvt8 p f d a ∧ f ∈ [Elem.e4m3, .e5m2, .int8] ∧ w = 8 ∨ i = Instr.cvt4 p f d a ∧ f ∈ [Elem.e2m1, .int4] ∧ w = 4 →
        (flag (vectorEffect i q).flags = true ↔ ∃ n, n < 64 ∧ flag (Rules.convFlags q p f w (q.lane a n) (q.gen n)) = true)) ∧
      (∀ f, f ∈ [Elem.e4m3, .e5m2, .e2m1] → (flag (vectorEffect (.qz p f d a b) q).flags = true ↔ ∃ n, n < 64 ∧
        flag (roundFP (Rules.rescaled q (q.lane a n) (q.lane b n)) (fmtOf f) (q.mode p) (Pfx.sat p) q.ftz (q.gen n).toNat).2 = true))) ∧
    (∀ i, i = Instr.vredmax p mk .fp32 d a ∨ i = .vredmin p mk .fp32 d a ∨ i = .vargmax p mk .fp32 d a ∨ i = .vtopk p mk .fp32 d a b →
      (vectorEffect i q).flags = { nv := (List.range 64).any fun n => Rules.active q mk n && Rules.signals (q.lane a n) }) ∧
    (∀ f, (vectorEffect (.qscale p f d a) q).flags = { nv := (List.range 64).any fun n => Rules.signals (q.lane a n) }) ∧
    ∀ i t, t ≠ Elem.fp32 → i ∈ [Instr.vredsum p mk t d a, .vredmax p mk t d a, .vredmin p mk t d a, .vargmax p mk t d a, .vscan p mk t d a,
      .vtopk p mk t d a b, .vrand p mk d, .vseed p a, .vmskAnd p d a b, .vmskTox p d a] → (vectorEffect i q).flags = {}

/-- A step of the hardware that is made n times (R164: an access of several pieces takes one for each). -/
def Rules.again (i : Instr) : Nat → State → Option State
  | 0, s => some s
  | n + 1, s => match exec i s with
    | .next t => Rules.again i n t
    | _ => none

/-- The memory form e at the head of core argA's queue, with nothing in its way: no feed, error, held store, write under way, command, drain or launch that is
away. -/
structure Rules.VectorAccess (s : State) (e : VqEntry) (rest : List VqEntry) : Prop where
  head : (getCore s s.argA).vq = e :: rest ∧ e.run = 1 ∧ e.reps = 1 ∧ (getCore s s.argA).vpos = 0 ∧ (getCore s s.argA).vjob = none
  runs : (getCtx s s.argA e.slot).mode = .running ∧ portMode s s.argA e.slot = false
  feeds : e.feeds = [] ∧ ∀ r, feedOf (getCore s s.argA) r = none
  quiet : (getCore s s.argA).comb = [] ∧ (∀ m ∈ s.net, m.src ≠ s.argA) ∧ (getCore s s.argA).drain = none ∧ (getCore s s.argA).cmds = []
  sound : s.ue = [] ∧ s.saves = []

/-- Address of a lane of a gather or scatter: xA + 4 × sext(vB[i], 32) (R169). -/
def Rules.laneAddr (s : State) (e : VqEntry) (b : Reg) (j : Nat) : Word :=
  BitVec.ofInt 64 (e.xa.toNat + 4 * (laneOf (tget 0 (getCore s s.argA).v b.toNat) j).toInt)

/-- The active lanes of a form at core argA, in ascending order (R91). -/
def Rules.activeLanes (s : State) (mk : BitVec 2) : List Nat := (List.range 64).filter fun j => mk == 0 || (tget 0 (getCore s s.argA).m mk.toNat).getLsbD j

/-- R168: a whole-register access at a queue head, in the core's own TCM and with nothing in its way: `vld` puts the 256 bytes in its register and
`vst` stores them, the context goes on at Next, and the queue moves on. Every other byte stays as it was. R169: a gather there gives every active lane the word
at its address and keeps the masked-off lanes, and a scatter stores every active lane at its address, of several at one address the highest; the first lane
whose address is no multiple of 4 raises ALIGN with it, and nothing is performed. That the model performs one lane a step is its own choice
(notes/assumptions 46): as many steps as there are active lanes. -/
def Obligations.VectorMemoryFormsMoveTheirRegister : Prop :=
  (∀ (s : State) (e : VqEntry) (rest : List VqEntry) (p : Pfx) (mk : BitVec 2) (d a b : Reg) (lanes : List Nat) (ga : Nat → Nat), Rules.VectorAccess s e rest →
    lanes = Rules.activeLanes s mk →
    ((∀ j ∈ lanes, (Rules.laneAddr s e b j).toNat % 4 = 0 ∧ (Rules.laneAddr s e b j).toNat + 4 ≤ 0x20000 ∧
        ga j = gaTcm s.argA (Rules.laneAddr s e b j).toNat ∧ Rules.sound s (ga j) 4) →
      (e.ins = .vldx p mk d a b → ∃ t, Rules.again .vectorMemoryAccess (max 1 lanes.length) s = some t ∧ t = { s with cores := t.cores } ∧
        (getCore t s.argA).vq = rest ∧ (∀ h, h ≠ s.argA → getCore t h = getCore s h) ∧
        (∀ j, j < 64 → laneOf (tget 0 (getCore t s.argA).v d.toNat) j =
          if j ∈ lanes then BitVec.ofNat 32 (Rules.number s (ga j) 4) else laneOf (tget 0 (getCore s s.argA).v d.toNat) j) ∧
        (∀ r : Reg, r ≠ d → tget 0 (getCore t s.argA).v r.toNat = tget 0 (getCore s s.argA).v r.toNat) ∧
        getCtx t s.argA e.slot = { getCtx s s.argA e.slot with
          pc := (getCtx s s.argA e.slot).pc + BitVec.ofNat 16 (2 * e.ins.len), instret := (getCtx s s.argA e.slot).instret + 1, begun := false }) ∧
      (e.ins = .vstx p mk d a b → ∃ t, Rules.again .vectorMemoryAccess (max 1 lanes.length) s = some t ∧ (getCore t s.argA).vq = rest ∧
        (getCore t s.argA).v = (getCore s s.argA).v ∧ t.full = s.full ∧ t.net = s.net ∧
        (∀ x, readByte t 0 x = ((lanes.reverse.find? fun j => decide (ga j ≤ x ∧ x < ga j + 4)).map fun j =>
          BitVec.ofNat 8 ((laneOf (tget 0 (getCore s s.argA).v d.toNat) j).toNat / 256 ^ (x - ga j))).getD (readByte s 0 x)) ∧
        (∀ key x, (∀ j ∈ lanes, ga j / 16 ≠ x / 16) → readByte t key x = readByte s key x) ∧
        (∀ dw, (dw ∈ t.poison ↔ dw ∈ s.poison) ∧ (dw ∈ t.latent ↔ dw ∈ s.latent) ∧ (dw ∈ t.soft ↔ dw ∈ s.soft)) ∧
        (getCtx t s.argA e.slot).pc = (getCtx s s.argA e.slot).pc + BitVec.ofNat 16 (2 * e.ins.len) ∧
        (getCtx t s.argA e.slot).instret = (getCtx s s.argA e.slot).instret + 1)) ∧
    (∀ j, e.ins = .vldx p mk d a b ∨ e.ins = .vstx p mk d a b → j ∈ lanes → (Rules.laneAddr s e b j).toNat % 4 ≠ 0 →
      (∀ i ∈ lanes, i < j → (Rules.laneAddr s e b i).toNat % 4 = 0 ∧ (Rules.laneAddr s e b i).toNat + 4 ≤ 0x20000) →
      (∀ x ∈ rest, x.slot ≠ e.slot) → (e.slot = 0 → (getCore s s.argA).mfault = none) → fget F.lvl (getCtx s s.argA e.slot).priv = 0 →
      (getCtx s s.argA e.slot).task = none →
      ∃ t, exec .vectorMemoryAccess s = .next t ∧ t = { s with cores := t.cores } ∧ (getCore t s.argA).vq = rest ∧
        (getCore t s.argA).v = (getCore s s.argA).v ∧ (getCtx t s.argA e.slot).trapCause = 0x05 ∧
        (getCtx t s.argA e.slot).trapVal = Rules.laneAddr s e b j ∧ (getCtx t s.argA e.slot).instret = (getCtx s s.argA e.slot).instret)) ∧
  ∀ (s : State) (e : VqEntry) (rest : List VqEntry) (p : Pfx) (d a : Reg) (imm : Int) (va : Word) (ga : Nat),
    (getCore s s.argA).vq = e :: rest → e.run = 1 → e.reps = 1 → (getCore s s.argA).vpos = 0 → (getCore s s.argA).vjob = none →
    (getCtx s s.argA e.slot).mode = .running → portMode s s.argA e.slot = false → (∀ r, feedOf (getCore s s.argA) r = none) → s.ue = [] →
    (getCore s s.argA).comb = [] → (∀ m ∈ s.net, m.src ≠ s.argA) → (getCore s s.argA).drain = none → (getCore s s.argA).cmds = [] →
    savedFor s s.argA (clusterOf s.argA) = none → (∀ b, ga ≤ b → b < ga + 256 → areaOf s b = none) → Rules.sound s ga 256 →
    va = BitVec.ofInt 64 (e.xa.toNat + imm * 8) → va.toNat % 8 = 0 → va.toNat + 256 ≤ 0x20000 → ga = gaTcm s.argA va.toNat → e.feeds = [] →
    (e.ins = .vld p d a imm → ∃ t, exec .vectorMemoryAccess s = .next t ∧ t = { s with cores := t.cores } ∧ (getCore t s.argA).vq = rest ∧
      (∀ h, h ≠ s.argA → getCore t h = getCore s h) ∧ tget 0 (getCore t s.argA).v d.toNat = BitVec.ofNat 2048 (Rules.number s ga 256) ∧
      (∀ r : Reg, r ≠ d → tget 0 (getCore t s.argA).v r.toNat = tget 0 (getCore s s.argA).v r.toNat) ∧
      getCtx t s.argA e.slot = { getCtx s s.argA e.slot with
        pc := (getCtx s s.argA e.slot).pc + BitVec.ofNat 16 (2 * e.ins.len), instret := (getCtx s s.argA e.slot).instret + 1, begun := false }) ∧
    (e.ins = .vst p d a imm → ∃ t, exec .vectorMemoryAccess s = .next t ∧ (getCore t s.argA).vq = rest ∧ (getCore t s.argA).v = (getCore s s.argA).v ∧
      StoredBytes s t ga ((List.range 256).map fun j => BitVec.ofNat 8 ((tget 0 (getCore s s.argA).v d.toNat).toNat / 256 ^ j)) ∧
      t.full = s.full ∧ t.net = s.net ∧ (getCtx t s.argA e.slot).pc = (getCtx s s.argA e.slot).pc + BitVec.ofNat 16 (2 * e.ins.len))

/-! ### Matrix instructions (R187–R211, R339–R343) -/

/-- Form, format, base and position registers of a command that carries a descriptor (R187, R189). -/
def Rules.command (x : Reg → Word) : Instr → Option (MForm × Elem × Word × Word)
  | .mring _ f a => some (.mring, f, x a, 0)
  | .mop _ f a => some (.mop, f, x a, 0)
  | .attn _ f a b => some (.attn, f, x a, x b)
  | _ => none

/-- The core after a command has entered its queue (R188, R193). -/
def Rules.entered (c : Core) (m : MCmd) : Core :=
  { c with cmds := c.cmds ++ [{ m with ring := c.rings }], rings := if m.form = .mring ∨ m.form = .attn then c.rings + 1 else c.rings }

/-- Bits of an element of a matrix format (R190). -/
def Rules.width : Elem → Nat
  | .fp16 | .bf16 => 16
  | .e4m3 | .e5m2 | .int8 => 8
  | .e2m1 | .int4 => 4
  | _ => 32

/-- Bits [hi:lo] of a descriptor (R189). -/
def Rules.bits (d : BitVec 256) (hi lo : Nat) : Nat := d.toNat / 2 ^ lo % 2 ^ (hi + 1 - lo)

/-- The fields that a descriptor must leave zero: the reserved ones, and those that its form does not use (R189). -/
def Rules.mustBeZero (form : MForm) (d : BitVec 256) : List (Nat × Nat) :=
  [(255, 255), (247, 209), (191, 177), (159, 145), (127, 113), (95, 81), (47, 43), (31, 26), (7, 6), (0, 0)] ++
    (if form = .attn then [] else [(208, 192), (15, 15), (14, 8)]) ++
    (if form = .attn ∧ Rules.bits d 5 4 = 1 then [] else [(254, 248)]) ++
    (if form ≠ .attn ∧ Rules.bits d 2 2 = 1 then [] else [(176, 160), (144, 128)])

/-- A field of a descriptor lies outside the limits of its form, those against geometry apart (R194, R195, R196). -/
def Rules.outside (form : MForm) (d : BitVec 256) : Prop :=
  let (m, n, k, ts, bsrc) := (Rules.bits d 25 16, Rules.bits d 42 32, Rules.bits d 63 48, Rules.bits d 14 8, Rules.bits d 5 4)
  m = 0 ∨ k = 0 ∨ 16384 < k ∨
    (form = .mring ∧ (n ∉ [256, 512, 768, 1024] ∨ bsrc ≠ 0)) ∨
    (form = .mop ∧ (512 < m ∨ 8192 < m * n ∨ n % 16 ≠ 0 ∨ n = 0 ∨ 1024 < n ∨ bsrc ≠ 0)) ∨
    (form = .attn ∧ (n % 16 ≠ 0 ∨ n = 0 ∨ 1024 < n ∨ ts = 0 ∨ 64 < ts ∨ Rules.bits d 1 1 ≠ 0 ∨ Rules.bits d 2 2 ≠ 0 ∨ 1 < bsrc))

/-- What raises ILL when a command of cluster q enters (R190): a field that must be zero is not, or lies outside its limits; scales of a format that has
none; or a receive slot whose arrival entry is not valid or does not bind the cluster (R209). -/
def Rules.illegal (s : State) (q : Nat) (form : MForm) (f : Elem) (d : BitVec 256) : Prop :=
  (∃ r ∈ Rules.mustBeZero form d, Rules.bits d r.1 r.2 ≠ 0) ∨ Rules.outside form d ∨
    (Rules.bits d 2 2 = 1 ∧ f ∉ [Elem.e4m3, .e5m2, .e2m1]) ∨
    (form = .attn ∧ Rules.bits d 5 4 = 1 ∧ ∀ e, e = tget 0 (getDie s (q / 128)).arrival (Rules.bits d 254 248) →
      Rules.bits e 63 63 = 0 ∨ q % 128 < Rules.bits e 55 49 ∨ Rules.bits e 55 49 + Rules.bits e 48 41 ≤ q % 128)

/-- The operands of a command (R190): base, bytes, and whether they lie in the receive slot's frame. A row of n elements of b bits takes 64 × ceil(n × b / 512)
bytes; of A, at most 8 rows are checked for a ring command; of a receive slot, the slabs of all 16 triads. -/
def Rules.operands (form : MForm) (f : Elem) (d : BitVec 256) : List (Nat × Nat × Bool) :=
  let row (n b : Nat) : Nat := 64 * ((n * b + 511) / 512)
  let (m, n, k, ts, b) := (Rules.bits d 25 16, Rules.bits d 42 32, Rules.bits d 63 48, Rules.bits d 14 8, Rules.width f)
  let rows := if form = .mop ∨ m ≤ 8 then m else 8
  let w := if form = .mring then n / 16 else n
  let slot := Rules.bits d 5 4 == 1
  let slabs := if slot then 16 * ts else ts
  (Rules.bits d 80 64, rows * row k b, false) ::
    if form = .attn then [(Rules.bits d 112 96, slabs * row k b, slot), (Rules.bits d 208 192, slabs * row n b, slot)]
    else (Rules.bits d 112 96, k * row w b, false) ::
      if Rules.bits d 2 2 = 1 then
        [(Rules.bits d 144 128, rows * row ((k + 31) / 32) 8, false), (Rules.bits d 176 160, (k + 31) / 32 * row w 8, false)]
      else []

/-- Where an operand must end: the TCM below the drain window, or the frame of 256 KiB (R190). -/
def Rules.limit (o : Nat × Nat × Bool) : Nat := if o.2.2 then 0x40000 else 0x1F000

/-- R188–R192: with no fault pending and room in the queue, `mzero` and `aini` enter it, and so do `mring`, `mop` and `attn` with the 32 bytes of
their descriptor, once the entry checks find nothing; a descriptor address that is no multiple of 32 raises ALIGN, one that leaves the TCM, or lies
in the drain window while a drain runs (R200), PROT. An entry check of R190 that fails raises ILL, else ALIGN with the first base that is no multiple of 64,
else PROT with the first operand byte beyond the limit; that causes rank in the table's order and operands in the order A, B, scales or V is the model's
reading (notes/assumptions 48), and that a range covers the padding after a row (47). -/
def Obligations.MatrixCommandsEnterTheQueue : Prop :=
  ∀ (s : State) (i : Instr), ready s i = true → (getCore s s.cur).mfault = none →
    (∀ p form, i = .mzero p ∧ form = .mzero ∨ i = .aini p ∧ form = .aini → (getCore s s.cur).cmds.length < 4 →
      ∃ t, exec i s = .next t ∧ Retired s t (nextOf s i) [] ∧ MemSame s t ∧ (∀ h, h ≠ s.cur → getCore t h = getCore s h) ∧
        getCore t s.cur = { Rules.entered (getCore s s.cur)
          { form := form, elem := .fp32, desc := 0, pos := 0, ring := 0, gate := false, started := false } with ctx := (getCore t s.cur).ctx }) ∧
    (∀ form f base pos, Rules.command (xreg s) i = some (form, f, base, pos) →
      (base.toNat % 32 ≠ 0 → canTrap s = true → ∃ t, exec i s = .next t ∧ Trapped s t 0x05 base) ∧
      (base.toNat % 32 = 0 → 0x20000 ≤ base.toNat ∨ 0x1F000 ≤ base.toNat ∧ (getCore s s.cur).drain ≠ none → canTrap s = true →
        ∃ t, exec i s = .next t ∧ Trapped s t 0x07 base) ∧
      ∀ m, base.toNat % 32 = 0 → base.toNat < 0x20000 → (base.toNat < 0x1F000 ∨ (getCore s s.cur).drain = none) →
        (getCore s s.cur).rings ∉ (getCore s s.cur).ringsLost → Rules.sound s (gaTcm s.cur base.toNat) 32 →
        (∀ a, gaTcm s.cur base.toNat ≤ a → a < gaTcm s.cur base.toNat + 32 → areaOf s a = none) →
        m = { form := form, elem := f, desc := BitVec.ofNat 256 (Rules.number s (gaTcm s.cur base.toNat) 32), pos := pos, ring := 0, gate := false
              started := false } →
        (Rules.illegal s (clusterOf s.cur) form f m.desc → canTrap s = true → ∃ t, exec i s = .next t ∧ Trapped s t 0x01 (firstWord i)) ∧
        (¬Rules.illegal s (clusterOf s.cur) form f m.desc →
          (∀ o, (Rules.operands form f m.desc).find? (fun o => decide (o.1 % 64 ≠ 0)) = some o → canTrap s = true →
            ∃ t, exec i s = .next t ∧ Trapped s t 0x05 (BitVec.ofNat 64 o.1)) ∧
          ((∀ o ∈ Rules.operands form f m.desc, o.1 % 64 = 0) →
            (∀ o, (Rules.operands form f m.desc).find? (fun o => decide (Rules.limit o < o.1 + o.2.1)) = some o → canTrap s = true →
              ∃ t, exec i s = .next t ∧ Trapped s t 0x07 (BitVec.ofNat 64 (if o.1 ≤ Rules.limit o then Rules.limit o else o.1))) ∧
            ((∀ o ∈ Rules.operands form f m.desc, o.1 + o.2.1 ≤ Rules.limit o) → (getCore s s.cur).cmds.length < 4 →
              ∃ t, exec i s = .next t ∧ Retired s t (nextOf s i) [] ∧ MemSame s t ∧ (∀ h, h ≠ s.cur → getCore t h = getCore s h) ∧
                getCore t s.cur = { Rules.entered (getCore s s.cur) m with ctx := (getCore t s.cur).ctx }))))

/-- A word of the drain window as `dret` delivers it, with its flags (R201). -/
def Rules.delivered (f : Elem) (mode : RMode) (sat ftz : Bool) (g w : Lane) : Nat × Flags :=
  if f = .fp32 then (w.toNat, {})
  else if f = .int8 then ((roundInt (val32 ftz w) 8 true mode sat g.toNat).1.toNat, (roundInt (val32 ftz w) 8 true mode sat g.toNat).2)
  else roundFP (val32 ftz w) (fmtOf f) mode sat ftz g.toNat

/-- A lane's generator after n draws (R113). -/
def Rules.afterDraws (g : Lane) : Nat → Lane
  | 0 => g
  | n + 1 => genStep (Rules.afterDraws g n)

/-- R197–R201: `mwait` on the queue and `mdrain` wait until the queue is empty and no drain runs; then they take a pending fault, or complete.
`mwait` on a transfer, and a command, take it at once; the wait on a transfer retires once it is over, leaving one release credit. `mdrain` starts a drain of the shape of the latest operation. `dret` ends its row,
with xB[0] = 1 after storing it, here to the core's TCM: each word converted to the format under the mode and FTZ and packed, the flags raised unless NF is
set, and under SR one draw of the word's lane each. A misaligned xA raises ALIGN, and the first poisoned doubleword of the row POISON with its address in the
drain window; nothing is then stored. -/
def Obligations.MatrixWaitsAndDrainsComplete : Prop :=
  ∀ (s : State) (p : Pfx) (a b : Reg),
    (ready s (.mwait p a b) = true → (getCore s s.cur).mfault = none → (xreg s a).getLsbD 63 = true → xreg s b = 0 → matrixIdle s s.cur = true →
      ∃ t, exec (.mwait p a b) s = .next t ∧ RegisterOnly s t (nextOf s (.mwait p a b)) []) ∧
    (ready s (.mwait p a b) = true → (getCore s s.cur).mfault = none → (xreg s a).getLsbD 63 = false → (xreg s a).toNat % 65536 ≤ 15 →
      ∀ ch, ch = tget {} (getCore s (s.cur / 64 * 64 + s.cur % 64 / 3 * 3)).chans ((xreg s a).toNat % 65536) → ch.pid = none →
      (xreg s b).toNat % 2 ^ 48 < ch.w ∨ (xreg s b).toNat % 2 ^ 48 = 0 → (getCore s s.cur).credits < 4 →
      ∃ t, exec (.mwait p a b) s = .next t ∧ Retired s t (nextOf s (.mwait p a b)) [] ∧ MemSame s t ∧
        getCore t s.cur = { getCore s s.cur with ctx := (getCore t s.cur).ctx, credits := (getCore s s.cur).credits + 1 }) ∧
    (∀ i, i = Instr.mwait p a b ∧ (xreg s a).getLsbD 63 = true ∧ xreg s b = 0 ∨ i = Instr.mdrain p a b → ready s i = true →
      (getCore s s.cur).cmds ≠ [] → (getCore s s.cur).drain = none → exec i s = .next s) ∧
    (∀ i code v, i = Instr.mwait p a b ∧ ((xreg s a).getLsbD 63 = false ∨ matrixIdle s s.cur = true) ∨
        i = Instr.mdrain p a b ∧ matrixIdle s s.cur = true ∨ i = Instr.mzero p → ready s i = true → slotOf s = 0 →
      (getCore s s.cur).mfault = some (code, v) → code = 0x0A ∨ code = 0x0B → fget F.lvl (me s).priv = 0 → (me s).task = none →
      ownsQueue s s.cur 0 = false →
      ∃ t, exec i s = .next t ∧ (getCore t s.cur).mfault = none ∧ t.mem = s.mem ∧ (getCtx t s.cur 0).trapPc = (me s).pc.zeroExtend 64 ∧
        (getCtx t s.cur 0).trapCause = BitVec.ofNat 64 code ∧ (getCtx t s.cur 0).trapVal = v ∧
        (getCtx t s.cur 0).pc = BitVec.ofNat 16 (64 * fget F.tvBase (getCore s s.cur).trapvec + 32 * code)) ∧
    (ready s (.mdrain p a b) = true → (getCore s s.cur).mfault = none → matrixIdle s s.cur = true → mapHold s (clusterOf s.cur) = false →
      ∃ t, exec (.mdrain p a b) s = .next t ∧ Retired s t (nextOf s (.mdrain p a b)) [] ∧ MemSame s t ∧
        getCore t s.cur = { getCore s s.cur with
          ctx := (getCore t s.cur).ctx
          drain := match (getCore s s.cur).drainShape with
            | some (n + 1, cols) => some { rows := n + 1, row := 0, pc := BitVec.ofNat 16 ((xreg s a).toNat % 65536 / 2 * 2), arg := xreg s b
                                           cols := cols, slot := none }
            | _ => none }) ∧
    (∀ f d, ready s (.dret p f a b) = true → (getCore s s.cur).drain = some d → ownsQueue s s.cur (slotOf s) = false →
      ((xreg s b).getLsbD 0 = false → ∃ t, exec (.dret p f a b) s = .next t ∧ t.mem = s.mem ∧ t.net = s.net ∧
        getCtx t s.cur (slotOf s) = { me s with mode := .free, kind := .helper, instret := (me s).instret + 1 } ∧
        (getCore t s.cur).drain = (if d.rows ≤ d.row then none else some { d with slot := none })) ∧
      ((xreg s b).getLsbD 0 = true → (xreg s a).toNat % 8 ≠ 0 → canTrap s = true → ∃ t, exec (.dret p f a b) s = .next t ∧ Trapped s t 0x05 (xreg s a)) ∧
      (∀ j, (xreg s b).getLsbD 0 = true → (xreg s a).toNat % 8 = 0 → 8 * j < 4 * d.cols → d.cols ≤ 1024 → gaTcm s.cur 0x1F000 / 8 + j ∈ s.poison →
        (∀ n, n < j → gaTcm s.cur 0x1F000 / 8 + n ∉ s.poison) → s.latent = [] → s.soft = [] → canTrap s = true →
        ∃ t, exec (.dret p f a b) s = .next t ∧ Trapped s t 0x0A (BitVec.ofNat 64 (0x1F000 + 8 * j))) ∧
      (∀ va ga w mode (g : Nat → Lane) (word : Nat → Nat × Flags), (xreg s b).getLsbD 0 = true → f ∈ [Elem.fp32, .fp16, .bf16, .e4m3, .e5m2, .e2m1, .int8] → va = xreg s a → va.toNat % 8 = 0 →
        w = Rules.width f → 0 < d.cols → d.cols % 16 = 0 → d.cols ≤ 1024 → va.toNat + d.cols * w / 8 ≤ 0x20000 → ga = gaTcm s.cur va.toNat →
        (me s).kind = .drain → s.saves = [] → s.latent = [] → s.soft = [] → s.poison = [] →
        (getCore s s.cur).cmds = [] → (getCore s s.cur).comb = [] → (∀ m ∈ s.net, m.src ≠ s.cur) →
        mode = rmodeOf (if Pfx.rnd p = 6 then (getCore s s.cur).fmode.toNat % 8 else Pfx.rnd p) →
        (∀ c, g c = Rules.afterDraws (tget 0 (getCore s s.cur).gen (c % 64)) (if mode = .sr then c / 64 else 0)) →
        (∀ c, word c = Rules.delivered f mode (Pfx.sat p) ((getCore s s.cur).fmode.getLsbD 3) (g c)
          (BitVec.ofNat 32 (Rules.number s (gaTcm s.cur 0x1F000 + 4 * c) 4))) →
        ∃ t, exec (.dret p f a b) s = .next t ∧
          StoredBytes s t ga ((List.range (d.cols * w / 8)).map fun j =>
            BitVec.ofNat 8 (((List.range d.cols).map fun c => (word c).1 * 2 ^ (w * c)).sum / 256 ^ j)) ∧
          (getCore t s.cur).fmode = (if Pfx.nf p = true then (getCore s s.cur).fmode
            else (getCore s s.cur).fmode ||| BitVec.ofNat 64 (256 * (((List.range d.cols).map fun c => (word c).2).foldl Flags.or {}).bits)) ∧
          (∀ j, j < 64 → tget 0 (getCore t s.cur).gen j = Rules.afterDraws (tget 0 (getCore s s.cur).gen j)
            (if mode = .sr ∧ f ≠ .fp32 then (d.cols + 63 - j) / 64 else 0)) ∧
          (getCtx t s.cur (slotOf s)).mode = .free ∧ (getCore t s.cur).drain = if d.rows ≤ d.row then none else some { d with slot := none }))

/-- R203–R206: `mgeom` reads the map generation since launch, the live blocks and the shapes, `mfmap` an entry of the map; `mtest` queues a sweep
of its block and waits for it; `mremap` answers 100H + t for a malformed entry t, 200H + t for one that would enlarge a block at user level, and
else queues its map. -/
def Obligations.GeometryAndMapFormsComplete : Prop :=
  ∀ (s : State) (p : Pfx) (d a b : Reg),
    let q := clusterOf s.cur
    let entry (t : Nat) : Word := tget 0 (getCluster s q).fmap t
    let shape (t : Nat) : Nat := (entry t).toNat / 2 ^ 62
    (ready s (.mgeom p d) = true → ∃ t v, exec (.mgeom p d) s = .next t ∧ RegisterOnly s t (nextOf s (.mgeom p d)) [(d, v)] ∧
      (∀ u, u < 16 → v.toNat / 4 ^ u % 4 = shape u) ∧ v.toNat / 2 ^ 32 % 65536 = ((List.range 16).filter fun u => shape u ≠ 3).length ∧
      v.toNat / 2 ^ 48 = ((getCluster s q).mapGen + 65536 - (getCore s s.cur).mapBase) % 65536) ∧
    (ready s (.mfmap p d a) = true → ∃ t, exec (.mfmap p d a) s = .next t ∧
      RegisterOnly s t (nextOf s (.mfmap p d a)) [(d, entry ((xreg s a).toNat % 16))]) ∧
    (ready s (.mtest p d a b) = true → ∃ t o, exec (.mtest p d a b) s = .next t ∧ (getCluster t q).mapOps = (getCluster s q).mapOps ++ [o] ∧
      o.core = s.cur ∧ o.slot = slotOf s ∧ o.dest = d ∧ o.block = some ((xreg s a).toNat % 16) ∧ o.next = nextOf s (.mtest p d a b) ∧
      o.running = false ∧ getCtx t s.cur (slotOf s) = { me s with mode := .waiting .sweep } ∧ t.mem = s.mem ∧ t.net = s.net) ∧
    (ready s (.mremap p d a) = true → (xreg s a).toNat % 128 = 0 → (xreg s a).toNat < 0x20000 →
      ((xreg s a).toNat < 0x1F000 ∨ (getCore s s.cur).drain = none) → s.latent = [] → s.soft = [] → s.poison = [] → s.saves = [] →
      (∀ o ∈ (getCluster s q).mapOps, o.core ≠ s.cur) →
      let new (u : Nat) : Word := BitVec.ofNat 64 (Rules.number s (gaTcm s.cur (xreg s a).toNat + 8 * u) 8)
      (∀ u, u < 16 → mapValid (new u) = false → (∀ w, w < u → mapValid (new w) = true) →
        ∃ t, exec (.mremap p d a) s = .next t ∧ RegisterOnly s t (nextOf s (.mremap p d a)) [(d, BitVec.ofNat 64 (0x100 + u))]) ∧
      ((∀ u, u < 16 → mapValid (new u) = true) → (getCluster s q).mapOps = [] → fget F.lvl (me s).priv = 0 →
        ∀ u, u < 16 → mapShrinks (entry u) (new u) = false → (∀ w, w < u → mapShrinks (entry w) (new w) = true) →
        ∃ t, exec (.mremap p d a) s = .next t ∧ RegisterOnly s t (nextOf s (.mremap p d a)) [(d, BitVec.ofNat 64 (0x200 + u))]) ∧
      ((∀ u, u < 16 → mapValid (new u) = true) → (∀ u, u < 16 → mapShrinks (entry u) (new u) = true) →
        ∃ t o, exec (.mremap p d a) s = .next t ∧ (getCluster t q).mapOps = (getCluster s q).mapOps ++ [o] ∧ o.core = s.cur ∧
          o.slot = slotOf s ∧ o.dest = d ∧ o.block = none ∧ o.map = (List.range 16).map new ∧ t = { s with clusters := t.clusters }))

/-- R188, R192, R193, R199, R200: a head command that no gate, sweep or error holds starts, a held one with a release credit, which it takes; a
ring operation starts at all 16 members; `mzero` and `aini` complete with the words they clear, and leave the queue; a drain puts its next row's
words in the window and starts a drain context in the lowest FREE slot. -/
def Obligations.MatrixCommandsStartAndComplete : Prop :=
  ∀ (s : State) (m : MCmd) (rest : List MCmd),
    let g := s.argA
    (∀ u, (getCore s g).cmds = m :: rest → (getCore s g).run = true → (getCore s g).preempting = false → m.started = false →
      m.form = .mzero ∨ m.form = .aini ∨ m.form = .mop ∧ disabled s (clusterOf g) (triadOf g) = false →
      isHeld m = false ∧ u = (getCore s g).credits ∨ isHeld m = true ∧ (getCore s g).credits = u + 1 → mapHold s (clusterOf g) = false → s.ue = [] →
      ∃ t, exec .matrixCommandStart s = .next t ∧ t = { s with cores := t.cores } ∧ (∀ h, h ≠ g → getCore t h = getCore s h) ∧
        getCore t g = { getCore s g with cmds := { m with started := true, gate := m.gate || isHeld m } :: rest, credits := u }) ∧
    (∀ l, ringHeads s s.argA = some l → (∀ u, u < 16 → (getCore s (mcore s.argA u)).run = true ∧ (getCore s (mcore s.argA u)).preempting = false) →
      mapHold s s.argA = false → s.ue = [] → (∀ c ∈ l, c.started = false ∧ isHeld c = false ∧ fget F.mdBsrc c.desc = 0 ∧ ringKey c = ringKey m) → m ∈ l →
      fget F.mdM m.desc ≤ 8 * liveCount s s.argA →
      ∃ t, exec .ringOperationStart s = .next t ∧ t = { s with cores := t.cores } ∧
        ∀ u, u < 16 → (getCore t (mcore s.argA u)).cmds.head? = (l[u]?).map fun c => { c with started := true }) ∧
    ((getCore s g).cmds = m :: rest → m.started = true → (getCore s g).work = none → (getCore s g).drain = none →
      (m.form = .mzero → ∃ t, exec .matrixCommandComplete s = .next t ∧ t = { s with cores := t.cores, ue := t.ue } ∧
        (∀ h, h ≠ g → getCore t h = getCore s h) ∧ getCore t g = { getCore s g with cmds := rest, acc := [], accPoison := [], accLatent := [] }) ∧
      (m.form = .aini → ∃ t, exec .matrixCommandComplete s = .next t ∧ t = { s with cores := t.cores, ue := t.ue } ∧
        (∀ h, h ≠ g → getCore t h = getCore s h) ∧
        getCore t g = { getCore s g with cmds := rest, acc := [], accPoison := [], accLatent := [], rowMax := [], rowSum := [] })) ∧
    (∀ d k, (getCore s g).drain = some d → d.slot = none → d.row < d.rows → (getCore s g).run = true → (getCore s g).preempting = false →
      1 ≤ k → k ≤ 10 → (getCtx s g k).mode = .free → (∀ j, 1 ≤ j → j < k → (getCtx s g j).mode ≠ .free) →
      (getCore s g).accPoison = [] → (getCore s g).accLatent = [] → s.saves = [] →
      ∃ t, exec .drainRowDispatch s = .next t ∧ (getCore t g).drain = some { d with row := d.row + 1, slot := some k } ∧
        (getCtx t g k).pc = d.pc ∧ (getCtx t g k).kind = .drain ∧ tget 0 (getCtx t g k).x 0 = BitVec.ofNat 64 d.row ∧
        tget 0 (getCtx t g k).x 1 = d.arg ∧ tget 0 (getCtx t g k).x 2 = BitVec.ofNat 64 d.cols ∧
        (∀ c, c < 1024 → Rules.number t (gaTcm g 0x1F000 + 4 * c) 4 =
          (if c < d.cols then (tget 0 (getCore s g).acc (d.row * d.cols + c)).toNat else 0)) ∧
        ∀ key a, a < gaTcm g 0x1F000 ∨ gaTcm g 0x20000 ≤ a → readByte t key a = readByte s key a)

/-- Physical line j is one of the first n that the bits of a map entry do not exclude (R62). -/
def Rules.lineUsed (excluded n j : Nat) : Bool := !excluded.testBit j && decide (((List.range j).filter fun i => !excluded.testBit i).length < n)

/-- By how much the errors of a block change the product of a word at a depth, those of cells apart that its map excludes or that lie beyond its shape of
32 by 16, 32 by 8 or 16 by 16 cells (R62, R207, R342, R344). -/
def Rules.errorOf (s : State) (q t word depth : Nat) : Int :=
  let e : Word := tget 0 (getCluster s q).fmap t
  let shape := e.toNat / 2 ^ 62
  ((s.upsets.filter fun u => u.cluster == q && u.block == t && u.phase == 0 && u.word == word && u.depth == depth &&
    u.cell.all fun c => Rules.lineUsed (fget F.fmRowx e) ([32, 32, 16, 0].getD shape 0) c.1 &&
      Rules.lineUsed (fget F.fmColx e) ([16, 8, 16, 0].getD shape 0) c.2).map Upset.amount).sum

/-- R117, R195: an INT8 `mop` without scales whose operands are sound and whose products no error has changed adds, to every word of its M by N
tile, the exact sum of the products of its row of A and its column of B, modulo 2^32, or starts from zero where Z is 1; it leaves the queue, and the
drain shape becomes M by N. R207, R342: where errors have changed one of its products by an amount that 7 does not divide, its results are
discarded: it leaves the queue with those behind it, the accumulator stays, and MAC_FAULT with reason 0 is pending. How an error stands in the state as an
amount, and that the amounts of one word and depth add, is the model's choice (notes/assumptions 21); that the fault takes the place of one already pending,
its reading (156); and that the operands are read as they stand when the operation completes (45). -/
def Obligations.IntegerMatrixProductIsExact : Prop :=
  ∀ (s : State) (m : MCmd) (rest : List MCmd) (r c : Nat),
    let g := s.argA
    let k := fget F.mdK m.desc
    let n := fget F.mdN m.desc
    let row (x : Nat) : Nat := (x + 63) / 64 * 64
    let byte (off : Nat) : Int := (rawByte s (gaTcm g off)).toInt
    (getCore s g).cmds = m :: rest → m.started = true → m.form = .mop → m.elem = .int8 → fget F.mdSc m.desc = 0 → (getCore s g).work = none →
    (getCore s g).drain = none → s.poison = [] → s.latent = [] → s.soft = [] → (getCore s g).accLatent = [] → s.saves = [] →
    r < fget F.mdM m.desc → c < n →
    (∀ word depth, word < fget F.mdM m.desc * n → depth < k → Rules.errorOf s (clusterOf g) (triadOf g) word depth % 7 ≠ 0 → ∃ t, exec .matrixCommandComplete s = .next t ∧ (getCore t g).cmds = [] ∧ (getCore t g).acc = (getCore s g).acc ∧
        (getCore t g).mfault = some (0x0B, BitVec.ofNat 64 (triadOf g + 3 * 2 ^ 16 + (rest.length + 1) * 2 ^ 32))) ∧
    ((∀ u ∈ s.upsets, u.cluster ≠ clusterOf g ∨ u.block ≠ triadOf g) →
    ∃ t, exec .matrixCommandComplete s = .next t ∧ t = { s with cores := t.cores, ue := t.ue } ∧ (getCore t g).cmds = rest ∧
      (getCore t g).drainShape = some (fget F.mdM m.desc, n) ∧
      tget 0 (getCore t g).acc (r * n + c) = BitVec.ofInt 32 (
        (if fget F.mdZ m.desc = 1 then 0 else (tget 0 (getCore s g).acc (r * n + c)).toInt) +
        ((List.range k).map fun x => byte (fget F.mdA m.desc + r * row k + x) * byte (fget F.mdB m.desc + x * row n + c)).sum))

/-- Element x of row r of an operand of rows of n elements at a global address: rows start on 64-byte boundaries, and two 4-bit elements share a byte, the
lower-indexed in bits [3:0] (R190). -/
def Rules.element (s : State) (f : Elem) (base n r x : Nat) : Nat :=
  let b := Rules.width f
  let a := base + r * (64 * ((n * b + 511) / 512)) + x * b / 8
  if b = 4 then (rawByte s a).toNat / 16 ^ (x % 2) % 16 else ((List.range (b / 8)).map fun i => (rawByte s (a + i)).toNat * 256 ^ i).sum

/-- A value times 2^(e − 127), NaN for e = FFH (R104). -/
def Rules.scaledBy (e : Nat) : Val → Val
  | .num n m x => if e = 255 then .nan false else .num n m (x + (e - 127 : Int))
  | v => if e = 255 then .nan false else v

/-- A word to which chunks of 32 terms are added in ascending order: each chunk exact, scaled exactly, rounded once, and added with one rounding (R117). -/
def Rules.chunks (w : Lane) (k : Nat) (term : Nat → Val) (scaled : Nat → Val → Val) : Lane :=
  (List.range ((k + 31) / 32)).foldl (fun w c =>
    let sum := match ((List.range 32).filter fun i => decide (32 * c + i < k)).map fun i => term (32 * c + i) with
      | [] => .num false 0 0
      | t :: rest => rest.foldl (fun a b => (addVal .rne a b).1) t
    Rules.fadd .rne false w (BitVec.ofNat 32 (roundFP (scaled c sum) fp32 .rne false false 0).1)) w

/-- A word accumulated over a depth of K products of elements, with the scales of each chunk where it has them (R117). -/
def Rules.dot (f : Elem) (w : Lane) (k : Nat) (a b : Nat → Nat) (scales : Option ((Nat → Nat) × (Nat → Nat))) : Lane :=
  if f = .int8 then BitVec.ofInt 32 (w.toInt + ((List.range k).map fun x => (BitVec.ofNat 8 (a x)).toInt * (BitVec.ofNat 8 (b x)).toInt).sum)
  else Rules.chunks w k (fun x => (mulVal (valueOf (fmtOf f) false (a x)) (valueOf (fmtOf f) false (b x))).1) fun c v =>
    match scales with
    | some (sa, sb) => Rules.scaledBy (sb c) (Rules.scaledBy (sa c) v)
    | none => v

/-- A new word of `mop` or `mring`: row r of the core g with its command m, and column c of the slab that core h with its command l holds, whose rows have n
elements (R190, R194, R195). -/
def Rules.product (s : State) (g h : Nat) (m l : MCmd) (n r c : Nat) (w : Lane) : Lane :=
  let k := fget F.mdK m.desc
  Rules.dot m.elem w k (Rules.element s m.elem (gaTcm g (fget F.mdA m.desc)) k r) (fun x => Rules.element s m.elem (gaTcm h (fget F.mdB l.desc)) n x c)
    (if fget F.mdSc m.desc = 1 then
      some (Rules.element s .int8 (gaTcm g (fget F.mdSa m.desc)) ((k + 31) / 32) r, fun ch => Rules.element s .int8 (gaTcm h (fget F.mdSb l.desc)) n ch c)
    else none)

/-- One rounding of a difference, and of a product, of two words (R196). -/
def Rules.minus (a b : Lane) : Lane := BitVec.ofNat 32 (roundFP (addVal .rne (val32 false a) (negVal (val32 false b))).1 fp32 .rne false false 0).1
def Rules.times (a b : Lane) : Lane := BitVec.ofNat 32 (roundFP (mulVal (val32 false a) (val32 false b)).1 fp32 .rne false false 0).1

/-- The correction of a row whose maximum is now m1, and the weight of a key (R196). -/
def Rules.weight (m1 x : Lane) (none_ : Lane) : Lane := if m1 = 0xFF800000 then none_ else (specialFn 0 false (Rules.minus x m1)).1

/-- A ring operation that is running at all 16 matrix cores of a cluster, whose operands and products are sound and whose banks may be exchanged, with the
commands and what is queued behind them (R193). -/
structure Rules.RingRuns (s : State) (q : Nat) (cmd : Nat → MCmd) (rest : Nat → List MCmd) : Prop where
  heads : ∀ u, u < 16 → (getCore s (mcore q u)).cmds = cmd u :: rest u ∧ (cmd u).started = true ∧ (cmd u).ring = (cmd 0).ring ∧
    ringKey (cmd u) = ringKey (cmd 0)
  banks : ∀ u, u < 16 → (getCore s (mcore q u)).work = none ∧ (getCore s (mcore q u)).drain = none ∧ (getCore s (mcore q u)).accLatent = []
  sound : s.poison = [] ∧ s.latent = [] ∧ s.soft = [] ∧ s.saves = [] ∧ ∀ e ∈ s.upsets, e.cluster ≠ q
  member : ∃ u, u < 16 ∧ s.argA = mcore q u

/-- The rank of a live member, and that it computes a local row (R193). -/
def Rules.rankAt (s : State) (q u : Nat) : Nat := ((List.range u).filter fun v => decide ((tget 0 (getCluster s q).fmap v).toNat / 2 ^ 62 ≠ 3)).length
def Rules.computes (s : State) (q u m r : Nat) : Prop :=
  (tget 0 (getCluster s q).fmap u).toNat / 2 ^ 62 ≠ 3 ∧ r < 8 ∧ 8 * Rules.rankAt s q u + r < m

/-- R117, R190, R193–R196: a `mop` of any format adds, to every word of its tile or to zero where Z is 1, the products of its row of A and its column of B,
by chunks of 32 with the scales of each. An `mring` does the same at every member for the rows of its rank, with the column from the slab of the member that
holds it; a relay's words stay. An `attn` folds its keys into every local row: the maximum with the scores, the correction and the weights, the sum of the
weights, and the weighted values. That the operands are read as they stand when the operation completes (notes/assumptions 45), and that all members complete
in the step of the first (51), are the model's readings. -/
def Obligations.MatrixOperationsAccumulateByTheRule : Prop :=
  (∀ (s : State) (m : MCmd) (rest : List MCmd) (r c : Nat),
    let g := s.argA
    let n := fget F.mdN m.desc
    (getCore s g).cmds = m :: rest → m.started = true → m.form = .mop → (getCore s g).work = none → (getCore s g).drain = none →
    (getCore s g).accLatent = [] → s.poison = [] → s.latent = [] → s.soft = [] → s.saves = [] →
    (∀ e ∈ s.upsets, e.cluster ≠ clusterOf g ∨ e.block ≠ triadOf g) → r < fget F.mdM m.desc → c < n →
    ∃ t, exec .matrixCommandComplete s = .next t ∧ t = { s with cores := t.cores, ue := t.ue } ∧ (getCore t g).cmds = rest ∧
      tget 0 (getCore t g).acc (r * n + c) =
        Rules.product s g g m m n r c (if fget F.mdZ m.desc = 1 then 0 else tget 0 (getCore s g).acc (r * n + c))) ∧
  (∀ (s : State) (q : Nat) (cmd : Nat → MCmd) (rest : Nat → List MCmd) (n w : Nat), Rules.RingRuns s q cmd rest → (cmd 0).form = .mring →
    fget F.mdBsrc (cmd 0).desc = 0 → n = fget F.mdN (cmd 0).desc → w = n / 16 → 0 < w → n % 16 = 0 →
    ∃ t, exec .matrixCommandComplete s = .next t ∧ t = { s with cores := t.cores, ue := t.ue } ∧ ∀ u, u < 16 → (getCore t (mcore q u)).cmds = rest u ∧
      (∀ r c, Rules.computes s q u (fget F.mdM (cmd 0).desc) r → c < n → tget 0 (getCore t (mcore q u)).acc (r * n + c) =
        Rules.product s (mcore q u) (mcore q (c / w)) (cmd u) (cmd (c / w)) w r (c % w)
          (if fget F.mdZ (cmd 0).desc = 1 then 0 else tget 0 (getCore s (mcore q u)).acc (r * n + c))) ∧
      ((∀ r, ¬ Rules.computes s q u (fget F.mdM (cmd 0).desc) r) → (getCore t (mcore q u)).acc = (getCore s (mcore q u)).acc)) ∧
  (∀ (s : State) (q : Nat) (cmd : Nat → MCmd) (rest : Nat → List MCmd), Rules.RingRuns s q cmd rest → (cmd 0).form = .attn →
    let d := (cmd 0).desc
    let f := (cmd 0).elem
    let k := fget F.mdK d
    let n := fget F.mdN d
    let ts := fget F.mdTs d
    let slab (v off len : Nat) : Nat :=
      if fget F.mdBsrc d = 1 then
        frameGa s (q / 128) (fget F.arFid (arrivalEntry s (q / 128) (fget F.mdAent d))) (off + v * ts * (64 * ((len * Rules.width f + 511) / 512)))
      else gaTcm (mcore q v) off
    1 ≤ ts →
    ∃ t, exec .matrixCommandComplete s = .next t ∧ t.mem = s.mem ∧ ∀ u r, u < 16 → (getCore t (mcore q u)).cmds = rest u ∧
      (Rules.computes s q u (fget F.mdM d) r →
        let g := mcore q u
        let old := getCore s g
        let pos := (cmd u).pos.toNat
        let score (x : Nat) : Lane :=
          if fget F.mdCausal d = 1 ∧ pos % 2 ^ 32 + (8 * Rules.rankAt s q u + r) < pos / 2 ^ 32 + x then 0xFF800000
          else Rules.dot f 0 k (Rules.element s f (gaTcm g (fget F.mdA (cmd u).desc)) k r)
            (Rules.element s f (slab (x / ts) (fget F.mdB (cmd (x / ts)).desc) k) k (x % ts)) none
        let value (x e : Nat) : Val :=
          valueOf (fmtOf f) false (Rules.element s f (slab (x / ts) (fget F.mdVbase (cmd (x / ts)).desc) n) n (x % ts) e)
        let m1 := (List.range (16 * ts)).foldl (fun a x => Rules.pick false true a (score x)) (tget 0xFF800000 old.rowMax r)
        let c := Rules.weight m1 (tget 0xFF800000 old.rowMax r) 0x3F800000
        let p (x : Nat) : Val := val32 false (Rules.weight m1 (score x) 0)
        tget 0xFF800000 (getCore t g).rowMax r = m1 ∧
        tget 0 (getCore t g).rowSum r = Rules.chunks (Rules.times (tget 0 old.rowSum r) c) (16 * ts) p (fun _ v => v) ∧
        ∀ e, e < n → tget 0 (getCore t g).acc (r * n + e) =
          Rules.chunks (Rules.times (tget 0 old.acc (r * n + e)) c) (16 * ts) (fun x => (mulVal (p x) (value x e)).1) fun _ v => v))

/-- R205, R206, R339: the oldest sweep starts once nothing of the cluster's matrix cores runs, and ends with the failed cells of its block, 0 for
none, in its context's register: every cell that fails whatever the seed, and of those that fail for some seeds only any (the free choice of
notes/assumptions 21); a pending map is installed whole, the generation one higher, and its `mremap` retires with 0. -/
def Obligations.MapOperationsRun : Prop :=
  ∀ (s : State) (o : MapOp) (rest : List MapOp),
    let q := s.argA
    (getCluster s q).mapOps = o :: rest →
    (∀ blk, o.block = some blk → o.running = false → quiescent s q = true →
      ∃ t, exec .mtestSweepStart s = .next t ∧ t = { s with clusters := t.clusters } ∧
        (getCluster t q) = { getCluster s q with mapOps := { o with running := true } :: rest }) ∧
    (∀ blk, o.block = some blk → o.running = true → (getCtx s o.core o.slot).mode = .waiting .sweep → portMode s o.core o.slot = false → o.pops = [] →
      ∃ t v found, exec .mtestSweepEnd s = .next t ∧ (getCluster t q).mapOps = rest ∧ t.mem = s.mem ∧ (∀ c ∈ found, c ∈ s.rareCells) ∧
        tget 0 (getCtx t o.core o.slot).x o.dest.toNat = v ∧ (getCtx t o.core o.slot).pc = o.next ∧
        (getCtx t o.core o.slot).instret = (getCtx s o.core o.slot).instret + 1 ∧
        ((∀ c ∈ s.cells ++ found, c.1 ≠ q ∨ c.2.1 ≠ blk) → v = 0) ∧
        ((∃ c ∈ s.cells ++ found, c.1 = q ∧ c.2.1 = blk) → v.getLsbD 63 = true ∧
          (∀ r, r < 34 → (v.getLsbD r = true ↔ ∃ j, (q, blk, r, j) ∈ s.cells ++ found)) ∧
          ∀ j, j < 18 → (v.getLsbD (34 + j) = true ↔ ∃ r, (q, blk, r, j) ∈ s.cells ++ found))) ∧
    (o.block = none → quiescent s q = true → portMode s o.core o.slot = false → o.pops = [] →
      fget F.lvl (getCtx s o.core o.slot).priv = 1 ∨ (∀ u, u < 16 → mapShrinks (tget 0 (getCluster s q).fmap u) (o.map.getD u 0) = true) →
      ∃ t, exec .faultMapInstall s = .next t ∧ (getCluster t q).mapOps = rest ∧ (∀ u, u < 16 → tget 0 (getCluster t q).fmap u = o.map.getD u 0) ∧
        (getCluster t q).mapGen = ((getCluster s q).mapGen + 1) % 65536 ∧ tget 0 (getCtx t o.core o.slot).x o.dest.toNat = 0 ∧
        (getCtx t o.core o.slot).pc = o.next ∧ t.mem = s.mem)

/-! ### Transfer engines (R213–R223) -/

/-- Kind and operands of a command form: the channel and destination register, and the two others (R213, R217, R223). -/
def Rules.transfer : Instr → Option (XKind × Reg × Reg × Reg)
  | .xcopy _ d a b => some (.copy, d, a, b)
  | .xgat _ d a b => some (.gat, d, a, b)
  | .xsct _ d a b => some (.sct, d, a, b)
  | .xbins _ d a b => some (.bins, d, a, b)
  | .xfill _ d a b => some (.fill, d, a, b)
  | .xbindIn _ d a b => some (.bindIn, d, a, b)
  | .xbindOut _ d a b => some (.bindOut, d, a, b)
  | _ => none

/-- The channel's patterns suit the command: equal totals and element sizes for a copy, 8-byte tokens, 4-byte lanes (R217, R223). -/
def Rules.suits (c : Chan) : XKind → Bool
  | .copy => patTotal c.spat == patTotal c.dpat && patSize c.spat == patSize c.dpat
  | .bins => patSize c.spat == 8
  | .bindIn => patSize c.spat == 4
  | .bindOut => patSize c.dpat == 4
  | _ => true

/-- Only a channel of the issuing core, and its running context, have changed. -/
structure Rules.OnlyChan (s t : State) (ch : Nat) : Prop where
  others : ∀ h, h ≠ s.cur → getCore t h = getCore s h
  core : getCore t s.cur = { getCore s s.cur with ctx := (getCore t s.cur).ctx, chans := (getCore t s.cur).chans }
  chans : ∀ c, c ≠ ch → getChan t s.cur c = getChan s s.cur c
  same : MemSame s t

/-- R214, R217, R219, R223: a command whose patterns suit it takes the channel's NEXT into xD and joins the queue with the channel's items, its
operands, tenant and stream; on a faulted channel it only takes NEXT. One whose patterns do not suit it raises ILL.
R216, R220–R222: `xcfg` writes one item of its channel; `xid` reads W, NEXT, the lowest poisoned identifier or FREC; `xwait` retires once W is
above its identifier, and raises DEP_POISON for a poisoned one; `xcancel` counts and poisons the commands that have not begun, and with xA[8] = 1
and nothing left clears the fault and sets W to NEXT. -/
def Obligations.TransferCommandsJoinTheirChannel : Prop :=
  (∀ (s : State) (i : Instr) (kind : XKind) (d a b : Reg) (ch : Nat) (c : Chan), Rules.transfer i = some (kind, d, a, b) → ready s i = true →
    ch = (xreg s d).toNat % 16 → c = getChan s s.cur ch →
    (Rules.suits c kind = false → canTrap s = true → ∃ t, exec i s = .next t ∧ Trapped s t 0x01 (firstWord i)) ∧
    (Rules.suits c kind = true → c.pid ≠ none ∨ (c.queue.filter fun x => !x.begun).length < 8 →
      ∃ t, exec i s = .next t ∧ Retired s t (nextOf s i) [(d, BitVec.ofNat 64 c.next)] ∧ Rules.OnlyChan s t ch ∧
        getChan t s.cur ch = { c with
          next := if (c.next + 1) % 2 ^ 48 = 0 then 1 else (c.next + 1) % 2 ^ 48
          queue := if c.pid ≠ none then c.queue else c.queue ++
            [{ kind := kind, id := c.next, spat := c.spat, dpat := c.dpat, tbase := c.tbase, nb := c.nb, xa := xreg s a, xb := xreg s b
               slot := slotOf s, priv := (me s).priv, strm := (me s).strm, pos := 0, bytes := 0, begun := false, ended := false, place := none }] })) ∧
  (∀ (s : State) (p : Pfx) (d a b : Reg),
    let ch := (xreg s a).toNat % 16
    let sel := (xreg s a).toNat / 256 % 4
    let c := getChan s s.cur ch
    let id := (xreg s b).toNat % 2 ^ 48
    (∀ i, i = Instr.xcfg p a b → ready s i = true →
      (sel = 2 → ∃ t, exec i s = .next t ∧ Retired s t (nextOf s i) [] ∧ Rules.OnlyChan s t ch ∧
        getChan t s.cur ch = { c with tbase := xreg s b }) ∧
      (∀ n, n = (xreg s b).toNat % 8192 → sel = 3 → 1 ≤ n → n ≤ 4096 → ∃ t, exec i s = .next t ∧ Retired s t (nextOf s i) [] ∧
        Rules.OnlyChan s t ch ∧ getChan t s.cur ch = { c with nb := n }) ∧
      (∀ n, n = (xreg s b).toNat % 8192 → sel = 3 → n = 0 ∨ 4096 < n → canTrap s = true →
        ∃ t, exec i s = .next t ∧ Trapped s t 0x01 (firstWord i)) ∧
      (∀ pat : BitVec 256, sel < 2 → (xreg s b).toNat % 32 = 0 → (xreg s b).toNat < 0x20000 → s.poison = [] → s.latent = [] → s.soft = [] → s.saves = [] →
        pat = BitVec.ofNat 256 (Rules.number s (gaTcm s.cur (xreg s b).toNat) 32) → fget F.paRsv0 pat = 0 → fget F.paRsv1 pat = 0 →
        ∃ t, exec i s = .next t ∧ Retired s t (nextOf s i) [] ∧ Rules.OnlyChan s t ch ∧
          getChan t s.cur ch = if sel = 0 then { c with spat := pat } else { c with dpat := pat }) ∧
      (sel < 2 → (xreg s b).toNat % 32 ≠ 0 → canTrap s = true → ∃ t, exec i s = .next t ∧ Trapped s t 0x05 (xreg s b))) ∧
    (ready s (.xid p d a) = true → ∃ t, exec (.xid p d a) s = .next t ∧ RegisterOnly s t (nextOf s (.xid p d a)) [(d,
      if sel = 0 then BitVec.ofNat 64 c.w else if sel = 1 then BitVec.ofNat 64 c.next else if sel = 2 then BitVec.ofNat 64 (c.pid.getD 0) else c.frec)]) ∧
    (ready s (.xwait p a b) = true → (∀ q, c.pid = some q → id < q) → id = 0 ∨ id < c.w →
      ∃ t, exec (.xwait p a b) s = .next t ∧ RegisterOnly s t (nextOf s (.xwait p a b)) []) ∧
    (ready s (.xwait p a b) = true → (∀ q, c.pid = some q → id < q) → id ≠ 0 → c.w ≤ id → exec (.xwait p a b) s = .next s) ∧
    (ready s (.xwait p a b) = true → canTrap s = true → ∀ q, c.pid = some q → q ≤ id →
      ∃ t, exec (.xwait p a b) s = .next t ∧ Trapped s t 0x0C (BitVec.ofNat 64 (ch * 2 ^ 48 + id))) ∧
    (ready s (.xcancel p d a) = true → (me s).begun = false → (∀ x ∈ c.queue, isBinding x = false) →
      let waiting := c.queue.filter fun x => !x.begun
      (sel % 2 = 0 → ∃ t, exec (.xcancel p d a) s = .next t ∧ Retired s t (nextOf s (.xcancel p d a)) [(d, BitVec.ofNat 64 waiting.length)] ∧
        Rules.OnlyChan s t ch ∧ getChan t s.cur ch = { c with
          queue := (c.queue.filter fun x => x.begun).map fun x => { x with ended := false }, pid := c.pid.or (waiting.head?.map XCmd.id)
          cancelled := 0 }) ∧
      (sel % 2 = 1 → (∀ x ∈ c.queue, x.begun = false) →
        ∃ t, exec (.xcancel p d a) s = .next t ∧ Retired s t (nextOf s (.xcancel p d a)) [(d, BitVec.ofNat 64 waiting.length)] ∧
          Rules.OnlyChan s t ch ∧ getChan t s.cur ch = { c with queue := [], pid := none, frec := 0, w := c.next, cancelled := 0 })))

/-- The engine of core argA reaches the bytes of its own TCM at va: nothing is poisoned, saved away or on its way from the core. -/
structure Rules.Engine (s : State) (va : Word) (n ga : Nat) : Prop where
  aligned : va.toNat % n = 0
  inside : va.toNat + n ≤ 0x20000
  home : ga = gaTcm s.argA va.toNat
  sound : s.poison = [] ∧ s.latent = [] ∧ s.soft = [] ∧ s.saves = []
  quiet : ∀ m ∈ s.net, m.src ≠ s.argA

/-- A piece has stored bytes and changed no others, and the head of its channel is now y. -/
def Rules.wrote (s : State) (c : Chan) (rest : List XCmd) (dst : Nat) (bytes : List Byte) (y : XCmd) : Prop :=
  ∃ t, exec .enginePiece s = .next t ∧ StoredBytes s t dst bytes ∧ t.full = s.full ∧ t.net = s.net ∧
    getChan t s.argA s.argB = { c with queue := y :: rest }

/-- A piece has stored bytes and changed no others, the head of its channel is now y, and the full bits of the doublewords that it covers whole are set
where it fills, and else none (R218). -/
def Rules.filled (s : State) (c : Chan) (rest : List XCmd) (fill : Bool) (dst : Nat) (bytes : List Byte) (y : XCmd) : Prop :=
  ∃ t, exec .enginePiece s = .next t ∧ StoredBytes s t dst bytes ∧ t.net = s.net ∧ getChan t s.argA s.argB = { c with queue := y :: rest } ∧
    (fill = false → t.full = s.full) ∧
    ∀ dw, dw ∈ t.full ↔ dw ∈ s.full ∨ fill = true ∧ dst ≤ 8 * dw ∧ 8 * dw + 8 ≤ dst + bytes.length

/-- Element j from the head's position on of a copy, gather or scatter moves n bytes from src to va (R217); an index that it reads does not stand where an
earlier element of the piece at dst writes. -/
def Rules.moves (s : State) (x : XCmd) (n dst j src : Nat) (va : Word) : Prop :=
  let listed (base at_ : Word) : Prop := ∃ list, Rules.Engine s (base + BitVec.ofNat 64 (4 * (x.pos + j))) 4 list ∧
    (∀ a, list ≤ a → a < list + 4 → ¬ (dst ≤ a ∧ a < dst + j * n)) ∧ at_ = x.tbase + Rules.signed (Rules.number s list 4) 32 * BitVec.ofNat 64 n
  match x.kind with
  | .copy => Rules.Engine s (patAddr x.spat x.xa (x.pos + j)) n src ∧ va = patAddr x.dpat x.xb (x.pos + j)
  | .gat => ∃ e, listed x.xa e ∧ Rules.Engine s e n src ∧ va = patAddr x.dpat x.xb (x.pos + j)
  | .sct => listed x.xb va ∧ Rules.Engine s (patAddr x.spat x.xa (x.pos + j)) n src
  | _ => False

/-- What stands at an address after k elements of n bytes have moved, one after another, to consecutive places from dst on: an element reads what the
elements before it wrote (R218). -/
def Rules.moved (start : Nat → Byte) (n : Nat) (src : Nat → Nat) (dst : Nat) : Nat → Nat → Byte
  | 0, a => start a
  | k + 1, a => if dst + k * n ≤ a ∧ a < dst + (k + 1) * n then Rules.moved start n src dst k (src k + (a - (dst + k * n))) else Rules.moved start n src dst k a

/-- The bump by 1 of a bin's counter at a global address (R151, R217): it stores the counter, and gives the count before or all ones. -/
def Rules.binBumped (s : State) (c : Chan) (rest : List XCmd) (x : XCmd) (b ctr : Nat) : Prop :=
  ∀ old new answer, old = BitVec.ofNat 64 (Rules.number s ctr 8) → Rules.modified (fun _ => 1) old (.bump ⟨false, false, none, 0⟩ 0 0 0) = some new →
    Rules.answered (fun _ => 1) old (.bump ⟨false, false, none, 0⟩ 0 0 0) = [(0, answer)] →
    Rules.wrote s c rest ctr (Rules.bytesOf new 8) { x with bumped := some (b, answer) }

/-- R214, R217–R219, R223: the head of a channel begins, and a binding takes its register; a piece of a copy, gather, scatter or fill moves its
elements, those that follow one another within a 256-byte block, in ascending order to the destination, changes no other bytes, and with FILL = 1 sets the
full bit of each doubleword that it writes whole, else none; a token of `xbins` bumps its bin, or the overflow bin where its index is out of range or its
bin is full, reads the bin's base, and is copied to its place, or is dropped; a misaligned source or destination and a poisoned source fault the command, which
poisons its identifier and empties the queue; the last strip of an inbound feed takes one lane an element; the last element of an outbound feed is
stored; a command that is all performed leaves its queue and W passes its identifier. -/
def Obligations.TransfersMoveTheirElements : Prop :=
  ∀ (s : State) (c : Chan) (x : XCmd) (rest : List XCmd), c = getChan s s.argA s.argB → c.queue = x :: rest → x.fault = none →
    let g := s.argA
    (x.begun = false → isBinding x = false → ∃ t, exec .xferCommandStart s = .next t ∧
      getChan t g s.argB = { c with queue := { x with begun := true } :: rest } ∧ t = { s with cores := t.cores } ∧
      ∀ h, h ≠ g → getCore t h = getCore s h) ∧
    (x.begun = false → isBinding x = true → ∀ h r, bindTarget g x.xa = (h, r) → h ≠ g → tget none (getCore s h).feeds r = none →
      namesV (getCore s h) r = false → ∃ t, exec .xferCommandStart s = .next t ∧
        getChan t g s.argB = { c with queue := { x with begun := true } :: rest } ∧
        tget none (getCore t h).feeds r = some { xcore := g, chan := s.argB, inbound := x.kind == .bindIn, strips := [], last := false }) ∧
    (∀ n k total (src : Nat → Nat) (va : Nat → Word) dst fill, x.begun = true → x.kind ∈ [XKind.copy, .gat, .sct] →
      n = patSize (if x.kind = .gat then x.dpat else x.spat) → (x.kind = .copy → patSize x.dpat = n) →
      total = patTotal (if x.kind = .gat then x.dpat else x.spat) → fill = (x.kind != .sct && patFill x.dpat) → 0 < k → dst % 256 + k * n ≤ 256 →
      (∀ j, j < k → Rules.moves s x n dst j (src j) (va j) ∧ Rules.Engine s (va j) n (dst + j * n)) →
      (x.pos + k = total ∨ x.pos + k < total ∧ Rules.moves s x n dst k (src k) (va k) ∧
        ((va k).toNat ≠ (va 0).toNat + k * n ∨ (va k).toNat % 256 = 0)) → (fill = true → ∀ m ∈ s.net, m.listed = false) →
      Rules.filled s c rest fill dst ((List.range (k * n)).map fun i => Rules.moved (readByte s 0) n src dst k (dst + i))
        { x with pos := x.pos + k, bytes := x.bytes + k * n, asks := [] }) ∧
    (∀ n k (va : Nat → Word) dst, x.begun = true → x.kind = .fill → n = patSize x.dpat → 0 < k → dst % 256 + k * n ≤ 256 →
      (∀ j, va j = patAddr x.dpat x.xa (x.pos + j)) → (∀ j, j < k → Rules.Engine s (va j) n (dst + j * n)) →
      (x.pos + k = patTotal x.dpat ∨ x.pos + k < patTotal x.dpat ∧ ((va k).toNat ≠ (va 0).toNat + k * n ∨ (va k).toNat % 256 = 0)) →
      (patFill x.dpat = true → ∀ m ∈ s.net, m.listed = false) →
      Rules.filled s c rest (patFill x.dpat) dst ((List.range k).flatMap fun _ => Rules.bytesOf x.xb n)
        { x with pos := x.pos + k, bytes := x.bytes + k * n, asks := [] }) ∧
    (x.begun = true → x.kind = .bins → x.pos < patTotal x.spat → x.bumping = none →
      (∀ list b ctr, x.place = none → x.bumped = none → Rules.Engine s (x.xb + BitVec.ofNat 64 (2 * x.pos)) 2 list →
        b = min (Rules.number s list 2) x.nb → Rules.Engine s (x.tbase + BitVec.ofNat 64 (16 * b)) 8 ctr → Rules.binBumped s c rest x b ctr) ∧
      (∀ b ctr, x.place = none → x.bumped = some (b, 0xFFFFFFFFFFFFFFFF) → b ≠ x.nb → Rules.Engine s (x.tbase + BitVec.ofNat 64 (16 * x.nb)) 8 ctr →
        Rules.binBumped s c rest x x.nb ctr) ∧
      (x.place = none → x.bumped = some (x.nb, 0xFFFFFFFFFFFFFFFF) → ∃ t, exec .enginePiece s = .next t ∧ t = { s with cores := t.cores } ∧
        getChan t g s.argB = { c with queue := { x with pos := x.pos + 1, bumped := none, asks := [] } :: rest }) ∧
      (∀ b count ga, x.place = none → x.bumped = some (b, count) → count ≠ 0xFFFFFFFFFFFFFFFF →
        Rules.Engine s (x.tbase + BitVec.ofNat 64 (16 * b + 8)) 8 ga → ∃ t, exec .enginePiece s = .next t ∧ t = { s with cores := t.cores } ∧
          getChan t g s.argB = { c with queue := { x with place := some (BitVec.ofNat 64 (Rules.number s ga 8) + 8 * count), bumped := none } :: rest }) ∧
      (∀ va src dst, x.place = some va → Rules.Engine s (patAddr x.spat x.xa x.pos) 8 src → Rules.Engine s va 8 dst →
        Rules.wrote s c rest dst ((List.range 8).map fun j => readByte s 0 (src + j))
          { x with pos := x.pos + 1, bytes := x.bytes + 8, place := none, bumped := none, asks := [] })) ∧
    (∀ code, x.begun = true → c.pid = none → (∀ m ∈ s.net, m.src ≠ g) →
      (x.kind = .copy ∧ x.pos < patTotal x.spat ∧ (patAddr x.spat x.xa x.pos).toNat % patSize x.spat ≠ 0 ∧ code = 0x05 ∨
        x.kind = .fill ∧ x.pos < patTotal x.dpat ∧ (patAddr x.dpat x.xa x.pos).toNat % patSize x.dpat ≠ 0 ∧ code = 0x05 ∨
        x.kind = .copy ∧ x.pos < patTotal x.spat ∧ (patAddr x.spat x.xa x.pos).toNat % patSize x.spat = 0 ∧
          (patAddr x.spat x.xa x.pos).toNat + patSize x.spat ≤ 0x20000 ∧ gaTcm g (patAddr x.spat x.xa x.pos).toNat / 8 ∈ s.poison ∧ s.latent = [] ∧
          s.soft = [] ∧ s.saves = [] ∧ code = 0x0A) →
      ∃ t, exec .enginePiece s = .next t ∧ t = { s with cores := t.cores } ∧
        getChan t g s.argB = { c with queue := [], pid := some x.id, frec := BitVec.ofNat 64 (code * 2 ^ 56 + x.bytes % 2 ^ 40) }) ∧
    (∀ h r f, x.begun = true → x.kind = .bindIn → bindTarget g x.xa = (h, r) → h ≠ g → tget none (getCore s h).feeds r = some f →
      bound s g s.argB x = true → x.pos < patTotal x.spat → patTotal x.spat ≤ x.pos + 64 → f.strips.length < 4 →
      ∀ lane : Nat → Lane, (∀ j, x.pos + j < patTotal x.spat → ∃ ga, Rules.Engine s (patAddr x.spat x.xb (x.pos + j)) 4 ga ∧
        lane j = BitVec.ofNat 32 (Rules.number s ga 4)) →
      ∃ t strip, exec .feedStripDeliver s = .next t ∧ tget none (getCore t h).feeds r = some { f with strips := f.strips ++ [strip], last := true } ∧
        (∀ j, j < 64 → laneOf strip j = if x.pos + j < patTotal x.spat then lane j else 0) ∧ t.mem = s.mem ∧
        getChan t g s.argB = { c with
          queue := { x with pos := x.pos + 64, bytes := x.bytes + 4 * (patTotal x.spat - x.pos), asks := [] } :: rest }) ∧
    (∀ h r f strip more ga, x.begun = true → x.kind = .bindOut → bindTarget g x.xa = (h, r) → h ≠ g → tget none (getCore s h).feeds r = some f →
      bound s g s.argB x = true → f.strips = strip :: more → x.pos + 1 = patTotal x.dpat → patSize x.dpat = 4 → patFill x.dpat = false →
      Rules.Engine s (patAddr x.dpat x.xb x.pos) 4 ga →
      ∃ t, exec .feedStripWrite s = .next t ∧ StoredBytes s t ga (Rules.bytesOf ((laneOf strip (x.pos % 64)).setWidth 64) 4) ∧
        tget none (getCore t h).feeds r = some { f with strips := more } ∧
        getChan t g s.argB = { c with queue := { x with pos := x.pos + 1, bytes := x.bytes + 4, asks := [] } :: rest }) ∧
    (x.begun = true → isBinding x = false → xTotal x ≤ x.pos → (∀ m ∈ s.net, m.src ≠ g) →
      ∃ t, exec .xferCommandComplete s = .next t ∧ t = { s with cores := t.cores } ∧
        getChan t g s.argB = { c with queue := rest, w := if (x.id + 1) % 2 ^ 48 = 0 then 1 else (x.id + 1) % 2 ^ 48 })

/-! ### Streams (R224–R231, R277–R298) -/

/-- One stream control block has changed to b, and the running context; nothing else of the machine has. -/
structure Rules.OneBlock (s t : State) (d i : Nat) (b : BitVec 2048) : Prop where
  block : ∀ j, getScb t d j = if j = i then b else getScb s d j
  die : getDie t d = { getDie s d with scb := (getDie t d).scb }
  dies : ∀ e, e ≠ d → getDie t e = getDie s e
  cores : ∀ h, h ≠ s.cur → getCore t h = getCore s h
  rest : t = { s with cores := t.cores, dies := t.dies, ue := t.ue }

/-- A step on a stream of the core's own die that its table holds: block i has this SID, is not in error, no step on it waits and no write of a page
of it is granted to another, and the core holds back and awaits no write (R224, R247, R297). -/
structure Rules.OwnStream (s : State) (sid : Word) (d i : Nat) : Prop where
  gen : fget F.sidGen sid ≠ 0
  here : sidDie sid = dieOf s.cur ∧ fget F.sidMod sid = modOf s.cur
  names : d = dieOf s.cur ∧ i = sidIdx sid ∧ fget F.scSid (getScb s d i) = sid.toNat
  domain : inDomain s (modOf s.cur) (modOf s.cur) = true
  sound : s.ue = []
  free : grantHolds s d i = false
  first : ∀ w ∈ (getDie s d).steps, w.scb ≠ i ∧ ¬ (w.core = s.cur ∧ w.slot = slotOf s)
  drained : (getCore s s.cur).comb = [] ∧ (getCore s s.cur).xbuf = [] ∧ (getCore s s.cur).vjob = none ∧ ∀ m ∈ s.net, m.src ≠ s.cur

/-- A marked stream of die d whose pages from MARKPG on are its own down to their leaf nodes: page p stands in the leaf `leaf p`, its frame is `frame p`, in SRAM
or evicted, and no error or count walk is under way (R58, R59, R227). -/
structure Rules.Provisional (s : State) (d i : Nat) (blk : BitVec 2048) (leaf frame : Nat → Nat) : Prop where
  die : d = d / 16 * 16 + fget F.scRdie blk
  mark : fget F.scMarkV blk = 1 ∧ fget F.scMarkPg blk ≤ fget F.scNpg blk ∧ fget F.scNpg blk ≤ 4096
  path : ∀ p, fget F.scMarkPg blk ≤ p → p < fget F.scNpg blk →
    pathOf s d i p = { die := d, root := fget F.scRfid blk, leaf := some (leaf p), frame := some (frame p) }
  own : frGet s d (fget F.scRfid blk) F.frCnt = 1 ∧ frGet s d (fget F.scRfid blk) F.frKind = 2
  leaves : ∀ p, fget F.scMarkPg blk ≤ p → p < fget F.scNpg blk → frGet s d (leaf p) F.frCnt = 1 ∧ frGet s d (leaf p) F.frKind = 2 ∧
    frGet s d (leaf p) F.frPlace ≠ frGet s d (fget F.scRfid blk) F.frPlace ∧
    ∀ q, fget F.scMarkPg blk ≤ q → q < fget F.scNpg blk → leaf p ≠ leaf q → frGet s d (leaf p) F.frPlace ≠ frGet s d (leaf q) F.frPlace
  frames : ∀ p, fget F.scMarkPg blk ≤ p → p < fget F.scNpg blk → frGet s d (frame p) F.frKind = 1 ∧ frGet s d (frame p) F.frBusy = 0 ∧
    frGet s d (frame p) F.frQ = 0 ∧ 1 ≤ frGet s d (frame p) F.frCnt ∧
    ∀ q, fget F.scMarkPg blk ≤ q → q < fget F.scNpg blk → p ≠ q → frame p ≠ frame q
  quiet : (getDie s d).walk = [] ∧ (getDie s d).owed = [] ∧ s.latent = [] ∧ s.poison = [] ∧ s.soft = []

/-- Pages lo to hi − 1 have gone: their leaf entries are invalid, and their frames have one count less, or are free (R227, R230). -/
def Rules.dropped (s t : State) (d lo hi : Nat) (leaf frame : Nat → Nat) : Prop :=
  ∀ p, lo ≤ p → p < hi → fget F.teV (nodeEntry t d (leaf p) (p % 64)) = 0 ∧
    getFrame t d (frame p) = if frGet s d (frame p) F.frCnt = 1 then 0
      else fput F.frCnt (getFrame s d (frame p)) (frGet s d (frame p) F.frCnt - 1)

/-- Pages lo to hi − 1 are permanent: PROV is clear in their leaf entries, which name the same frames, and the counts of their frames stand (R227). -/
def Rules.permanent (s t : State) (d lo hi : Nat) (leaf frame : Nat → Nat) : Prop :=
  ∀ p, lo ≤ p → p < hi → nodeEntry t d (leaf p) (p % 64) = fput F.teProv (nodeEntry s d (leaf p) (p % 64)) 0 ∧
    getFrame t d (frame p) = getFrame s d (frame p)

/-- R225, R227, R229: what the steps on the bound stream of the context do to its block and give back: `sstep` lowers
HORIZON and counts, DONE at 0; `smark` sets the mark; `scommit` moves tokens, DONE at the end; `sroll` without a mark gives 0; `sret` deposits and is DONE;
`sunbind` frees the binding and STRM. Where pages are marked, `sroll` drops those from MARKPG on, gives their number and keeps the mark; `scommit` keeps xB of
them, drops the rest, makes those kept permanent and ends the mark; and `smark` makes them permanent and marks anew. -/
def Obligations.StepsOnTheBoundStreamComplete : Prop :=
  (∀ (s : State) (p : Pfx) (x a b : Reg) (d i : Nat) (blk : BitVec 2048) (leaf frame : Nat → Nat), Rules.OwnStream s (me s).strm d i → blk = getScb s d i →
    blk.getLsbD 191 = true → fget F.scState blk = 2 → Rules.Provisional s d i blk leaf frame →
    let mark := fget F.scMarkPg blk
    let npg := fget F.scNpg blk
    (ready s (.sroll p x) = true → ∃ t, exec (.sroll p x) s = .next t ∧ Retired s t (nextOf s (.sroll p x)) [(x, BitVec.ofNat 64 (npg - mark))] ∧
      getScb t d i = fput F.scNpg blk mark ∧ (∀ j, j ≠ i → getScb t d j = getScb s d j) ∧ Rules.dropped s t d mark npg leaf frame ∧ (getDie t d).walk = [] ∧
      ∀ f, (∀ q, mark ≤ q → q < npg → f ≠ frame q) → getFrame t d f = getFrame s d f) ∧
    (ready s (.scommit p x a b) = true → ∀ n keep, n = min (xreg s a).toNat (min (fget F.scNewTok blk) (fget F.scCtxLen blk)) →
      keep = min (xreg s b).toNat (npg - mark) →
      ∃ t, exec (.scommit p x a b) s = .next t ∧ Retired s t (nextOf s (.scommit p x a b)) [(x, BitVec.ofNat 64 n)] ∧
        getScb t d i = scbSet blk ([(F.scNpg, mark + keep), (F.scMarkV, 0), (F.scNewTok, fget F.scNewTok blk - n), (F.scCtxLen, fget F.scCtxLen blk - n),
          (F.scCommit, fget F.scCommit blk + n)] ++ if fget F.scNewTok blk = n ∨ fget F.scCtxLen blk = n then [(F.scState, 4)] else []) ∧
        Rules.dropped s t d (mark + keep) npg leaf frame ∧ Rules.permanent s t d mark (mark + keep) leaf frame) ∧
    (ready s (.smark p) = true → ∃ t, exec (.smark p) s = .next t ∧ Retired s t (nextOf s (.smark p)) [] ∧
      getScb t d i = scbSet blk [(F.scMarkV, 1), (F.scMarkPg, npg), (F.scMarkTok, fget F.scCommit blk)] ∧
      Rules.permanent s t d mark npg leaf frame ∧ ∀ f, getFrame t d f = getFrame s d f)) ∧
  ∀ (s : State) (p : Pfx) (x a b : Reg) (d i : Nat) (blk : BitVec 2048), Rules.OwnStream s (me s).strm d i → blk = getScb s d i →
    blk.getLsbD 191 = true → fget F.scState blk = 2 →
    (ready s (.sstep p x) = true → ∀ h, h = fget F.scHorizon blk - 1 →
      ∃ t, exec (.sstep p x) s = .next t ∧ Retired s t (nextOf s (.sstep p x)) [(x, BitVec.ofNat 64 h)] ∧
        Rules.OneBlock s t d i (scbSet blk ([(F.scHorizon, h), (F.scSteps, fget F.scSteps blk + 1)] ++ if h = 0 then [(F.scState, 4)] else []))) ∧
    (ready s (.smark p) = true → fget F.scMarkV blk = 0 →
      ∃ t, exec (.smark p) s = .next t ∧ Retired s t (nextOf s (.smark p)) [] ∧
        Rules.OneBlock s t d i (scbSet blk [(F.scMarkV, 1), (F.scMarkPg, fget F.scNpg blk), (F.scMarkTok, fget F.scCommit blk)])) ∧
    (ready s (.scommit p x a b) = true → fget F.scMarkV blk = 0 →
      ∀ n, n = min (xreg s a).toNat (min (fget F.scNewTok blk) (fget F.scCtxLen blk)) →
      ∃ t, exec (.scommit p x a b) s = .next t ∧ Retired s t (nextOf s (.scommit p x a b)) [(x, BitVec.ofNat 64 n)] ∧
        Rules.OneBlock s t d i (scbSet blk ([(F.scNewTok, fget F.scNewTok blk - n), (F.scCtxLen, fget F.scCtxLen blk - n),
          (F.scCommit, fget F.scCommit blk + n)] ++
          if fget F.scNewTok blk = n ∨ fget F.scCtxLen blk = n then [(F.scState, 4)] else []))) ∧
    (ready s (.sroll p x) = true → fget F.scMarkV blk = 0 →
      ∃ t, exec (.sroll p x) s = .next t ∧ RegisterOnly s t (nextOf s (.sroll p x)) [(x, 0)]) ∧
    (ready s (.sret p a) = true → ∀ n slot, n = fget F.scSset blk → slot = fget F.scSlot blk → n ≠ 0 →
      (slot, (me s).strm) ∈ (getSet s d n).members →
      ∃ t, exec (.sret p a) s = .next t ∧ Retired s t (nextOf s (.sret p a)) [] ∧ getScb t d i = fput F.scState blk 4 ∧ t.mem = s.mem ∧
        (getSet t d n).deposits = (getSet s d n).deposits ++ [
          { slot := slot, val := BitVec.ofNat 32 (xreg s a).toNat, weight := BitVec.ofNat 32 ((xreg s a).toNat / 2 ^ 32), sid := (me s).strm
            node := false }] ∧
        (slot, (me s).strm) ∉ (getSet t d n).members) ∧
    (ready s (.sunbind p) = true → ∃ t, exec (.sunbind p) s = .next t ∧
      Rules.OneBlock s t d i (scbSet blk [(F.scBcore, 0), (F.scBslot, 0), (F.scState, 1)]) ∧
      getCtx t s.cur (slotOf s) = { me s with pc := nextOf s (.sunbind p), instret := (me s).instret + 1, begun := false, strm := 0 })


/-- R224, R228, R229: `shold` pins a resident private page of the bound stream, or unpins it, with the count in xD; `sjoin` of an open set that the
stream parents makes it WAITING, and its context waits for the set. R224–R226, R230, R231: the forms that name a stream. `sbind` binds a READY stream
to the context; `sprune` makes a bound stream PRUNED, and it and `sfree` make an unbound one FREE, which keeps every field but MARKV, RV and STATE
(which fields stand in a freed block is the model's choice, notes/assumptions 72); `sstat` reads a doubleword of the block; `sfork`
makes a READY child on the parent's pages, which joins the Basin set that it names, or raises STREAM_STATE where that set or slot cannot take it (R229); `snew` a READY stream of the descriptor's numbers; `smig` towards another module of the domain makes the
stream MOVED and sends the request, and gives 2 elsewhere. -/
def Obligations.FormsThatNameAStreamComplete : Prop :=
  (∀ (s : State) (p : Pfx) (x a b : Reg) (d i : Nat) (blk : BitVec 2048), Rules.OwnStream s (me s).strm d i → blk = getScb s d i →
     blk.getLsbD 191 = true → fget F.scState blk = 2 →
     (ready s (.shold p x a b) = true → s.latent = [] → s.poison = [] → s.soft = [] → ∀ page w f, page = (xreg s a).toNat % 4096 → page < fget F.scNpg blk → w = pathOf s d i page →
       w.frame = some f → frameBusy s w.die f = false → frGet s w.die f F.frLoc = 0 → sharedFrame s w = false → granted s w.die s.cur (slotOf s) = false →
       ((xreg s b).getLsbD 0 = true → frGet s w.die f F.frPins < 63 →
         ∃ t, exec (.shold p x a b) s = .next t ∧ Retired s t (nextOf s (.shold p x a b)) [(x, BitVec.ofNat 64 (frGet s w.die f F.frPins + 1))] ∧
           getFrame t w.die f = fput F.frPins (getFrame s w.die f) (frGet s w.die f F.frPins + 1) ∧
           (∀ g, g ≠ f → getFrame t w.die g = getFrame s w.die g) ∧ t.mem = s.mem) ∧
       ((xreg s b).getLsbD 0 = false → 0 < frGet s w.die f F.frPins →
         ∃ t, exec (.shold p x a b) s = .next t ∧ Retired s t (nextOf s (.shold p x a b)) [(x, BitVec.ofNat 64 (frGet s w.die f F.frPins - 1))] ∧
           getFrame t w.die f = fput F.frPins (getFrame s w.die f) (frGet s w.die f F.frPins - 1) ∧ t.mem = s.mem)) ∧
     (ready s (.sjoin p x a b) = true → ∀ n, n = (xreg s a).toNat % 1024 → (xreg s a).getLsbD 63 = false → (getSet s d n).above = none →
       (xreg s b).toNat % 8 ≤ 4 → (getSet s d n).opened = true → (getSet s d n).joining = false → (getSet s d n).parent = (me s).strm → (∀ m ∈ s.net, m.id ≠ s.nextId) →
       ∃ t m, exec (.sjoin p x a b) s = .next t ∧ getScb t d i = fput F.scState blk 3 ∧ t.net = s.net ++ [m] ∧ m.listed = true ∧ t.mem = s.mem ∧
         (getSet t d n).joining = true ∧ (getSet t d n).join = some m.id ∧ (getSet t d n).red = (xreg s b).toNat % 8 ∧
         (getSet t d n).k = (xreg s b).toNat / 256 % 256 ∧ (getSet t d n).prune = (xreg s b).getLsbD 16 ∧
         getCtx t s.cur (slotOf s) = { me s with mode := .waiting (.reply m.id) })) ∧
  (∀ (s : State) (p : Pfx) (x a b : Reg) (d i : Nat) (blk : BitVec 2048),
     (Rules.OwnStream s (xreg s a) d i → blk = getScb s d i →
       (ready s (.sbind p a) = true → fget F.scState blk = 1 → blk.getLsbD 191 = false → fget F.sidGen (me s).strm = 0 →
         ∃ t, exec (.sbind p a) s = .next t ∧
           Rules.OneBlock s t d i (scbSet blk [(F.scBcore, 2 ^ 31 + s.cur % 131072), (F.scBslot, slotOf s), (F.scState, 2)]) ∧
           getCtx t s.cur (slotOf s) =
             { me s with pc := nextOf s (.sbind p a), instret := (me s).instret + 1, begun := false, strm := xreg s a &&& 0xFFFFFFFF000F0FFF }) ∧
       (ready s (.sprune p a) = true → fget F.scState blk = 2 → blk.getLsbD 191 = true → fget F.scSset blk = 0 → fget F.scParent blk = 0 →
         ∃ t, exec (.sprune p a) s = .next t ∧ Retired s t (nextOf s (.sprune p a)) [] ∧ getScb t d i = fput F.scState blk 6 ∧ t.mem = s.mem) ∧
       (∀ f, f = Instr.sprune p a ∨ f = Instr.sfree p a → ready s f = true → s.latent = [] → fget F.scState blk = 1 ∨ fget F.scState blk = 4 →
         blk.getLsbD 191 = false → fget F.scSset blk = 0 → fget F.scParent blk = 0 →
         ∃ t, exec f s = .next t ∧ (getCtx t s.cur (slotOf s)).pc = nextOf s f ∧
           getScb t d i = scbSet blk [(F.scMarkV, 0), (F.scRv, 0), (F.scState, 0)] ∧ t.mem = s.mem) ∧
       (ready s (.sstat p x a b) = true → ∃ t, exec (.sstat p x a b) s = .next t ∧ RegisterOnly s t (nextOf s (.sstat p x a b))
         [(x, BitVec.ofNat 64 (blk.toNat / 2 ^ (64 * ((xreg s b).toNat % 32))))]) ∧
       (ready s (.sfork p x a b) = true → fget F.scState blk = 1 ∨ fget F.scState blk = 2 → (xreg s b).toNat % 65536 = 0 →
         ∀ j rd root, freeScb s d = some j → j ≠ i → rd = d / 16 * 16 + fget F.scRdie blk → root = fget F.scRfid blk → canCount s rd root = true →
         ∃ t sid, exec (.sfork p x a b) s = .next t ∧ Retired s t (nextOf s (.sfork p x a b)) [(x, sid)] ∧ sidDie sid = d ∧ sidIdx sid = j ∧
           fget F.sidGen sid ≠ 0 ∧ fget F.scSid (getScb t d j) = sid.toNat ∧ fget F.scState (getScb t d j) = 1 ∧
           fget F.scParent (getScb t d j) = (xreg s a).toNat ∧ fget F.scRfid (getScb t d j) = root ∧
           fget F.scNpg (getScb t d j) = fget F.scNpg blk ∧ getScb t d i = fput F.scForks blk (fget F.scForks blk + 1) ∧ t.mem = s.mem ∧
           (quarantined s rd root = false → frameBusy s rd root = false → frGet t rd root F.frCnt = frGet s rd root F.frCnt + 1)) ∧
       (∀ n slot set, ready s (.sfork p x a b) = true → fget F.scState blk = 1 ∨ fget F.scState blk = 2 → n = (xreg s b).toNat % 65536 →
         slot = (xreg s b).toNat / 65536 % 256 → set = getSet s d n → 1 ≤ n → freeScb s d ≠ none →
         (n ≤ 1023 → set.joining = false → set.opened = false ∨ set.parent = xreg s a → slot ∉ set.slots → slot ∉ set.childSlots →
           set.slots.length + set.childSlots.length < 256 → ∀ j rd root, freeScb s d = some j → j ≠ i → rd = d / 16 * 16 + fget F.scRdie blk →
           root = fget F.scRfid blk → canCount s rd root = true →
           ∃ t sid, exec (.sfork p x a b) s = .next t ∧ Retired s t (nextOf s (.sfork p x a b)) [(x, sid)] ∧ sidDie sid = d ∧ sidIdx sid = j ∧
             fget F.scSid (getScb t d j) = sid.toNat ∧ fget F.scSset (getScb t d j) = n ∧ fget F.scSlot (getScb t d j) = slot ∧
             fget F.scParent (getScb t d j) = (xreg s a).toNat ∧ t.mem = s.mem ∧
             getSet t d n = { set with
               opened := true, parent := xreg s a, members := set.members ++ [(slot, sid)], slots := set.slots ++ [slot] } ∧
             ∀ o, o ≠ n → getSet t d o = getSet s d o) ∧
         (1023 < n ∨ set.joining = true ∨ set.opened = true ∧ set.parent ≠ xreg s a ∨ slot ∈ set.slots ∨ slot ∈ set.childSlots ∨
             256 ≤ set.slots.length + set.childSlots.length → canTrap s = true →
           ∃ t, exec (.sfork p x a b) s = .next t ∧ Trapped s t 0x11 (xreg s a))) ∧
       (ready s (.smig p x a b) = true → fget F.scState blk = 1 ∨ fget F.scState blk = 4 → blk.getLsbD 191 = false → fget F.scMarkV blk = 0 →
         fget F.scSset blk = 0 →
         ∀ dm, dm = (xreg s b).toNat % 65536 →
         (dm = d / 16 ∨ inDomain s (d / 16) dm = false →
           ∃ t, exec (.smig p x a b) s = .next t ∧ RegisterOnly s t (nextOf s (.smig p x a b)) [(x, 2)]) ∧
         (dm ≠ d / 16 → inDomain s (d / 16) dm = true →
           ∃ t m sent, exec (.smig p x a b) s = .next t ∧ Retired s t (nextOf s (.smig p x a b)) [(x, 0)] ∧ fget F.scState (getScb t d i) = 5 ∧
             t.net = s.net ++ [m] ∧ m.body = .smigAsk sent (xreg s a) ∧ m.dst = dm ∧ t.mem = s.mem))) ∧
     (ready s (.snew p x a) = true → d = dieOf s.cur → d < 2 ^ 20 → s.ue = [] → s.poison = [] → s.latent = [] → s.soft = [] → s.saves = [] → (xreg s a).toNat % 32 = 0 →
       (xreg s a).toNat + 32 ≤ 0x20000 → ∀ num es cap, num = Rules.number s (gaTcm s.cur (xreg s a).toNat) 32 → es = num / 2 ^ 160 % 256 →
       cap = num / 2 ^ 168 % 32 → num / 2 ^ 173 = 0 → es % 8 = 0 → 8 ≤ es → es ≤ 64 → 3 ≤ cap → cap ≤ 12 →
       (freeScb s d = none → ∃ t, exec (.snew p x a) s = .next t ∧ RegisterOnly s t (nextOf s (.snew p x a)) [(x, 0)]) ∧
       (∀ j root u, freeScb s d = some j → room (getDie s d) d 0 1 = .ok → takeNode s d = some (root, u) →
         ∃ t sid, exec (.snew p x a) s = .next t ∧ Retired s t (nextOf s (.snew p x a)) [(x, sid)] ∧ sidDie sid = d ∧ sidIdx sid = j ∧
           fget F.sidGen sid ≠ 0 ∧ fget F.scSid (getScb t d j) = sid.toNat ∧ fget F.scState (getScb t d j) = 1 ∧ fget F.scNpg (getScb t d j) = 0 ∧
           fget F.scHorizon (getScb t d j) = num / 2 ^ 128 % 2 ^ 32 ∧ fget F.scCtxLen (getScb t d j) = num / 2 ^ 96 % 2 ^ 32 ∧
           fget F.scNewTok (getScb t d j) = num / 2 ^ 64 % 2 ^ 32 ∧ fget F.scAqBase (getScb t d j) = num % 2 ^ 64 ∧
           fget F.scRfid (getScb t d j) = root ∧ ∀ k, k ≠ j → getScb t d k = getScb s d k)))

/-! ### Cascades, tasks and futures (R232–R237, R272, R305, R312) -/

/-- Place that `cdone` returns for a unit (R234). -/
def Rules.placeCode (x : Die) (u : Nat) : Nat :=
  match placeOf x u with
  | .stage c st => 512 + 256 + c * 32 + st
  | .pool c => 256 + c * 32
  | .none => 0

/-- The five units that a K-core offers: the X-cores of its quad's triads, and itself (R234, R305). -/
def Rules.quadUnits (g : Nat) : List Nat :=
  let c := g / 64 % 128 * 64
  let q := g % 64 - 48
  [c + 12 * q, c + 12 * q + 3, c + 12 * q + 6, c + 12 * q + 9, c + 48 + q]

/-- A stage queue that a form names by its handle, on the core's own die, where no error stands and the context owes no write below die level
(R232, R233, R411). -/
structure Rules.StageQueue (s : State) (h : Word) (d q : Nat) (e : BitVec 512) : Prop where
  die : d = dieOf s.cur
  handle : h.getLsbD 63 = false ∧ q = h.toNat % 512
  desc : e = queueDesc (getDie s d) q
  valid : (cascadeOfQueue (getDie s d) q).isSome = true ∧ queueInvalid d e = false
  sound : s.ue = [] ∧ s.poison = [] ∧ s.latent = [] ∧ s.soft = [] ∧ s.saves = []

/-- R232–R234: `cenq` and `cenq.nb` copy an entry from the core's TCM to the tail of a stage queue that has room, as do no others; full, `cenq.nb`
gives 1, and `cenq` does on a loop queue and else waits, and STALLS rises. `cdeq` copies up to xB entries from the head and gives their number;
`cocc` gives the occupancy and compares it with the watermarks. `cdone` sets the boundary bits of its five units and gives their places; in the clock
of an evaluation it gives those at the clock's end, behind the evaluation. That a refused `cenq` or `cenq.nb` leaves its task unmarked
(notes/assumptions 16), and that the late result of `cdone` is written as its clock ends (77), are the model's readings. -/
def Obligations.CascadeQueueFormsMoveEntries : Prop :=
  ∀ (s : State) (p : Pfx) (d a b : Reg) (x q : Nat) (e : BitVec 512),
    let es := fget F.qdEsize e
    let cap := 2 ^ fget F.qdLogCap e
    let occ := (fget F.qdTail e + 2 ^ 32 - fget F.qdHead e) % 2 ^ 32
    let base := x / 16 * 2 ^ 48 + fget F.qdBase e
    (∀ i, i = Instr.cenq p d a b ∨ i = Instr.cenqNb p d a b → ready s i = true → Rules.StageQueue s (xreg s a) x q e → quiet s 2 = true →
      (xreg s b).toNat % 8 = 0 → (xreg s b).toNat + es ≤ 0x20000 →
      (occ < cap → ∃ t, exec i s = .next t ∧
        Stores s { t with dies := s.dies } (nextOf s i) [(d, 0)] true (base + fget F.qdTail e % cap * es)
          ((List.range es).map fun j => readByte s 0 (gaTcm s.cur (xreg s b).toNat + j)) (fun dw => dw ∈ s.full) ∧
        ∀ n, queueDesc (getDie t x) n = if n = q then fput F.qdTail e (fget F.qdTail e + 1) else queueDesc (getDie s x) n) ∧
      (cap ≤ occ → i = Instr.cenqNb p d a b ∨ fget F.qdLoop e = 1 →
        ∃ t, exec i s = .next t ∧ RegisterOnly s { t with dies := s.dies } (nextOf s i) [(d, 1)] ∧
          ∀ n, queueDesc (getDie t x) n = if n = q then fput F.qdStalls e (fget F.qdStalls e + 1) else queueDesc (getDie s x) n) ∧
      (cap ≤ occ → i = Instr.cenq p d a b → fget F.qdLoop e = 0 →
        ((me s).begun = true → exec i s = .next s) ∧
        ((me s).begun = false → ∃ t, exec i s = .next t ∧ getCtx t s.cur (slotOf s) = { me s with begun := true } ∧ t.mem = s.mem ∧
          queueDesc (getDie t x) q = fput F.qdStalls e (fget F.qdStalls e + 1)))) ∧
    (∀ n, ready s (.cdeq p d a b) = true → Rules.StageQueue s (xreg s a) x q e → n = min occ (min (xreg s b).toNat 64) →
      (xreg s d).toNat % 8 = 0 → (xreg s d).toNat + min (xreg s b).toNat 64 * es ≤ 0x20000 →
      (0 < n → ∃ t, exec (.cdeq p d a b) s = .next t ∧
        Stores s { t with dies := s.dies } (nextOf s (.cdeq p d a b)) [(d, BitVec.ofNat 64 n)] false (gaTcm s.cur (xreg s d).toNat)
          ((List.range (n * es)).map fun j => readByte s 0 (base + (fget F.qdHead e + j / es) % cap * es + j % es)) (fun dw => dw ∈ s.full) ∧
        ∀ m, queueDesc (getDie t x) m = if m = q then fput F.qdHead e (fget F.qdHead e + n) else queueDesc (getDie s x) m) ∧
      (xreg s b = 0 → ∃ t, exec (.cdeq p d a b) s = .next t ∧ RegisterOnly s t (nextOf s (.cdeq p d a b)) [(d, 0)]) ∧
      (xreg s b ≠ 0 → occ = 0 → exec (.cdeq p d a b) s = .next s)) ∧
    (ready s (.cocc p d a) = true → Rules.StageQueue s (xreg s a) x q e → ∃ t, exec (.cocc p d a) s = .next t ∧
      RegisterOnly s t (nextOf s (.cocc p d a)) [(d, BitVec.ofNat 64
        (occ + (if fget F.qdHigh e ≤ occ then 2 ^ 32 else 0) + if occ ≤ fget F.qdLow e then 2 ^ 33 else 0))]) ∧
    (∀ i h, (i = Instr.cenq p d a b ∨ i = Instr.cenqNb p d a b ∨ i = Instr.cdeq p d a b ∨ i = Instr.cocc p d a) → h = xreg s a → ready s i = true →
      canTrap s = true →
      (h.getLsbD 63 = true → fget F.sidGen (me s).strm = 0 → ∃ t, exec i s = .next t ∧ Trapped s t 0x11 0) ∧
      (h.getLsbD 63 = false → cascadeOfQueue (getDie s (dieOf s.cur)) (h.toNat % 512) = none →
        ∃ t, exec i s = .next t ∧ Trapped s t 0x12 (BitVec.ofNat 64 (gaDieWin (dieOf s.cur) (0x1A0000 + 64 * (h.toNat % 512)) % 2 ^ 48)))) ∧
    (let due := ∃ c, c < 8 ∧ installed (getDie s (dieOf s.cur)) c = true ∧ fget F.cbNextIv (ctlBlock (getDie s (dieOf s.cur)) c) = 0
      let places (u : State) : Word := BitVec.ofNat 64
        (((Rules.quadUnits s.cur).zip [0, 10, 20, 30, 40]).map fun v => Rules.placeCode (getDie u (dieOf s.cur)) v.1 * 2 ^ v.2).sum
      (ready s (.cdone p d a) = true → ∃ t, exec (.cdone p d a) s = .next t ∧
        (¬ due → Retired s t (nextOf s (.cdone p d a)) [(d, places t)] ∧ (getCore t s.cur).boundary = (getCore s s.cur).boundary) ∧
        (due → Retired s t (nextOf s (.cdone p d a)) [] ∧ (getCore t s.cur).boundary = some (slotOf s, d)) ∧
        (∀ u, u ∉ Rules.quadUnits s.cur → (u ∈ (getDie t (dieOf s.cur)).offered ↔ u ∈ (getDie s (dieOf s.cur)).offered)) ∧
        (∀ u n, (u, n) ∈ (Rules.quadUnits s.cur).zip (List.range 5) → (u ∈ (getDie t (dieOf s.cur)).offered ↔ (xreg s a).getLsbD n = true)) ∧
        ((∀ c, installed (getDie s (dieOf s.cur)) c = false) → (getDie t (dieOf s.cur)).place = (getDie s (dieOf s.cur)).place) ∧
        t.mem = s.mem ∧ ∀ h, h ≠ s.cur → getCore t h = getCore s h) ∧
      ∀ k, (getCore s s.cur).boundary = some (k, d) → portMode s s.cur k = false →
        (getCore (boundaryEnd s s.cur) s.cur).boundary = none ∧ tget 0 (getCtx (boundaryEnd s s.cur) s.cur k).x d.toNat = places s)

/-- A TCB of a cluster, as its 64 bytes stand (R60). -/
def Rules.tcbAt (s : State) (q idx : Nat) : Nat := gaSpad q ((getCluster s q).tcbBase - 0x100000 + 64 * idx)
def Rules.tcb (s : State) (q idx : Nat) : BitVec 512 := BitVec.ofNat 512 (Rules.number s (Rules.tcbAt s q idx) 64)

/-- No launch has been taken from a cluster, no error is still to be found, and the TCB exists, in its cluster's scratchpad (R60, R235, R411). -/
structure Rules.Task (s : State) (q idx : Nat) : Prop where
  saves : s.saves = []
  sound : s.latent = [] ∧ s.soft = []
  count : idx < (getCluster s q).tcbCount
  inside : 0x100000 ≤ (getCluster s q).tcbBase ∧ (getCluster s q).tcbBase + 64 * (getCluster s q).tcbCount ≤ 0x300000

/-- The handle of a task of the core's die (R235). -/
def Rules.handle (s : State) (w : Word) (q idx : Nat) : Prop :=
  q = dieOf s.cur * 128 + w.toNat / 65536 % 128 ∧ idx = w.toNat % 4096

/-- The TCB has become v and its cluster's ready list l: no other byte, cluster or core has changed. -/
structure Rules.TaskSet (s t : State) (q idx : Nat) (v : BitVec 512) (l : List ReadyTask) : Prop where
  tcb : Rules.tcb t q idx = v
  bytes : BytesKept s t (Rules.tcbAt s q idx) (Rules.tcbAt s q idx + 64)
  ready : getCluster t q = { getCluster s q with ready := l, taskWait := (getCluster t q).taskWait }
  clusters : ∀ c, c ≠ q → getCluster t c = getCluster s c
  cores : ∀ h, h ≠ s.cur → getCore t h = getCore s h
  rest : t = { s with
    cores := t.cores, clusters := t.clusters, ue := t.ue, mem := t.mem, memKey := t.memKey, poison := t.poison, latent := t.latent, soft := t.soft }

/-- The first task to run (R272): highest PRIO, then earliest READY, then lowest index. -/
def Rules.firstReady (s : State) (q : Nat) (u : ReadyTask) : Prop :=
  u ∈ (getCluster s q).ready ∧ ∀ v ∈ (getCluster s q).ready, v ≠ u →
    let pu := fget F.tcbPrio (Rules.tcb s q u.idx)
    let pv := fget F.tcbPrio (Rules.tcb s q v.idx)
    pv < pu ∨ pv = pu ∧ (u.clock < v.clock ∨ u.clock = v.clock ∧ u.idx < v.idx)

/-- What a context holds once it has taken a task (R236): the pc is ENTRY, TRET is Next, x0–x3 the arguments, then xD the handle. -/
structure Rules.Takes (s t : State) (g k q idx : Nat) (d : Reg) (next : Code) : Prop where
  pc : (getCtx t g k).pc = BitVec.ofNat 16 (fget F.tcbEntry (Rules.tcb s q idx)) &&& 0xFFFE
  tret : (getCtx t g k).tret = next
  task : (getCtx t g k).task = some (q, idx)
  instret : (getCtx t g k).instret = (getCtx s g k).instret + 1
  regs : ∀ r : Reg, tget 0 (getCtx t g k).x r.toNat =
    if r = d then BitVec.ofNat 64 (q % 128 * 65536 + idx)
    else if r.toNat < 4 then BitVec.ofNat 64 (fget (F.tcbArg r.toNat) (Rules.tcb s q idx)) else tget 0 (getCtx s g k).x r.toNat

/-- R235, R236, R272: `tspawn` sets DEP and makes the task ARMED, or READY with DEP = 0; `tdec` lowers DEP, and an ARMED task whose DEP falls to 0
becomes READY; `tnext` takes the first READY task, or gives all ones, or waits, and a waiting context is given one in a clock after one is READY; `tend` ends
its task and lowers its successor's DEP; `tcancel` cancels a task. A handle outside the table raises QUEUE_CFG. -/
def Obligations.TasksBecomeReadyAndRun : Prop :=
  (∀ (s : State) (p : Pfx) (d a b : Reg) (q idx : Nat) (v : BitVec 512), Rules.handle s (xreg s a) q idx → v = Rules.tcb s q idx →
    (ready s (.tspawn p a b) = true → Rules.Task s q idx → quiet s 2 = true → fget F.tcbStatus v ∈ [0, 4, 6] → ∀ dep, dep = (xreg s b).toNat % 65536 →
      ∃ t, exec (.tspawn p a b) s = .next t ∧
        Rules.TaskSet s t q idx (fput F.tcbStatus (fput F.tcbDep v dep) (if dep = 0 then 2 else 1))
          ((getCluster s q).ready ++ if dep = 0 then [{ idx := idx, clock := s.now }] else []) ∧
        getCtx t s.cur (slotOf s) = { me s with
          pc := nextOf s (.tspawn p a b), instret := (me s).instret + 1, begun := false, dirty := (me s).dirty || (me s).task.isSome }) ∧
    (ready s (.tdec p d a) = true → Rules.Task s q idx → quiet s 2 = true →
      (fget F.tcbDep v = 0 → ∃ t, exec (.tdec p d a) s = .next t ∧ RegisterOnly s t (nextOf s (.tdec p d a)) [(d, 0xFFFFFFFFFFFFFFFF)]) ∧
      (∀ dep, fget F.tcbDep v = dep + 1 → let go := dep = 0 ∧ fget F.tcbStatus v = 1
        ∃ t, exec (.tdec p d a) s = .next t ∧ Retired s t (nextOf s (.tdec p d a)) [(d, BitVec.ofNat 64 dep)] ∧
          (go → Rules.TaskSet s t q idx (fput F.tcbStatus (fput F.tcbDep v dep) 2) ((getCluster s q).ready ++ [{ idx := idx, clock := s.now }])) ∧
          (¬go → Rules.TaskSet s t q idx (fput F.tcbDep v dep) (getCluster s q).ready))) ∧
    (ready s (.tcancel p d a) = true → Rules.Task s q idx → fget F.tcbNsucc v = 0 →
      (fget F.tcbStatus v ∈ [1, 2, 5] → ∃ t, exec (.tcancel p d a) s = .next t ∧ Retired s t (nextOf s (.tcancel p d a)) [(d, 1)] ∧
        Rules.TaskSet s t q idx (fput F.tcbStatus v 6) ((getCluster s q).ready.filter fun u => u.idx != idx)) ∧
      (fget F.tcbStatus v ∉ [1, 2, 5] → ∃ t, exec (.tcancel p d a) s = .next t ∧ RegisterOnly s t (nextOf s (.tcancel p d a)) [(d, 0)])) ∧
    (∀ i, i ∈ [Instr.tspawn p a b, .tdec p d a, .tcancel p d a] → ready s i = true → canTrap s = true → s.saves = [] →
      (getCluster s q).tcbCount ≤ idx → ∃ t, exec i s = .next t ∧ Trapped s t 0x12 (BitVec.ofNat 64 (Rules.tcbAt s q idx % 2 ^ 48)))) ∧
  (∀ (s : State) (p : Pfx) (d a : Reg) (q : Nat), ready s (.tnext p d a) = true → s.saves = [] → q = clusterOf s.cur →
    (getCluster s q).taskWait = [] →
    (∀ u, Rules.firstReady s q u → Rules.Task s q u.idx → ∃ t, exec (.tnext p d a) s = .next t ∧
      Rules.Takes s t s.cur (slotOf s) q u.idx d (nextOf s (.tnext p d a)) ∧
      Rules.TaskSet s t q u.idx (fput F.tcbStatus (Rules.tcb s q u.idx) 3) ((getCluster s q).ready.filter fun r => r.idx != u.idx)) ∧
    ((getCluster s q).ready = [] → xreg s a ≠ 0 → ∃ t, exec (.tnext p d a) s = .next t ∧
      RegisterOnly s t (nextOf s (.tnext p d a)) [(d, 0xFFFFFFFFFFFFFFFF)]) ∧
    ((getCluster s q).ready = [] → xreg s a = 0 → ∃ t, exec (.tnext p d a) s = .next t ∧ t.mem = s.mem ∧
      (getCluster t q).taskWait = [{ core := s.cur, slot := slotOf s, dest := d, next := nextOf s (.tnext p d a), pops := [] }] ∧
      getCtx t s.cur (slotOf s) = { me s with mode := .waiting .task })) ∧
  (∀ (s : State) (g k q : Nat) (d : Reg) (next : Code) (rest : List TaskWait) (u : ReadyTask), q = s.argA → s.saves = [] →
    (getCluster s q).taskWait = { core := g, slot := k, dest := d, next := next, pops := [] } :: rest → Rules.firstReady s q u →
    (∀ v ∈ (getCluster s q).ready, v.clock < s.now) → Rules.Task s q u.idx → (getCtx s g k).mode = .waiting .task → portMode s g k = false →
    ∃ t, exec .taskReadyDispatch s = .next t ∧ Rules.Takes s t g k q u.idx d next ∧ (getCluster t q).taskWait = rest ∧
      (getCluster t q).ready = ((getCluster s q).ready.filter fun r => r.idx != u.idx) ∧
      (∀ h, h ≠ g → (∀ w ∈ rest, w.core ≠ h) → getCore t h = getCore s h) ∧
      Rules.tcb t q u.idx = fput F.tcbStatus (Rules.tcb s q u.idx) 3 ∧ (getCtx t g k).mode ∈ [Mode.ready, .running]) ∧
  (∀ (s : State) (p : Pfx) (q idx : Nat) (v : BitVec 512), ready s (.tend p) = true → quiet s 2 = true → (me s).task = some (q, idx) →
    Rules.Task s q idx → v = Rules.tcb s q idx → s.poison = [] → s.latent = [] →
    (fget F.tcbNsucc v = 0 → ∃ t, exec (.tend p) s = .next t ∧ Rules.TaskSet s t q idx (fput F.tcbStatus v 4) (getCluster s q).ready ∧
      getCtx t s.cur (slotOf s) =
        { me s with pc := (me s).tret, instret := (me s).instret + 1, begun := false, task := none, dirty := false }) ∧
    (∀ va n q2 idx2 dep, fget F.tcbNsucc v = 1 → va = fget F.tcbSucc v → va % 4 = 0 → va + 4 ≤ 0x1F000 → n = Rules.number s (gaTcm s.cur va) 4 →
      Rules.handle s (BitVec.ofNat 64 n) q2 idx2 → Rules.Task s q2 idx2 → (q2, idx2) ≠ (q, idx) → fget F.tcbDep (Rules.tcb s q2 idx2) = dep + 1 →
      ∃ t, exec (.tend p) s = .next t ∧ fget F.tcbDep (Rules.tcb t q2 idx2) = dep ∧ fget F.tcbStatus (Rules.tcb t q idx) = 4 ∧
        (dep = 0 → fget F.tcbStatus (Rules.tcb s q2 idx2) = 1 → fget F.tcbStatus (Rules.tcb t q2 idx2) = 2 ∧
          (getCluster t q2).ready = (getCluster s q2).ready ++ [{ idx := idx2, clock := s.now }]) ∧
        (getCtx t s.cur (slotOf s)).pc = (me s).tret ∧ (getCtx t s.cur (slotOf s)).task = none))

/-- An aligned local access of a future's doubleword that nothing holds back (R237). -/
structure Rules.Future (s : State) (i : Instr) (va : Word) (ga : Nat) : Prop where
  ready : ready s i = true
  aligned : va.toNat % 8 = 0
  home : Rules.localAt s va 8 ga
  onPart : Rules.onPart s ga 8
  free : acquiring s s.cur (slotOf s) = false
  line : ((getCore s s.cur).comb.any fun e => entryHits e (lineOf ga) 64) = false ∧
    ((me s).begun = true → unacked s s.cur (lineOf ga) 64 = false)

/-- The message with m's number has become n; no other has. -/
def Rules.turned (s t : State) (m n : Msg) : Prop := t.net = s.net.map fun x => if x.id = m.id then n else x

/-- The message on its way back to its source with a body: it sets out anew, on the ordered route. -/
def Rules.back (m : Msg) (b : Body) : Msg :=
  { m with
    body := b, dst := m.src / 131072, route := .ordered, detour := none, inPort := none, fallen := false, second := false, listed := false
    refused := false }

/-- R237: `frd` raises DEP of its task and sends its request, and its context waits; with a task that has stored it raises FUT_ORDER, without a task
ILL. `fwr` writes its word and sets F. A request for a full word goes back with its bytes; its value lowers DEP again and continues the task, an
empty answer leaves the task ARMED and its context at TRET. R149: `take` empties the word; a refused request sets out again, behind what its core has
sent meanwhile. That `fwr` and these accesses leave the task unmarked is the model's reading of which writes mark one (notes/assumptions 16). -/
def Obligations.FuturesAreReadAndWritten : Prop :=
  (∀ (s : State) (p : Pfx) (d a b : Reg) (va : Word) (ga : Nat), va = xreg s a →
    (Rules.Future s (.frd p d a) va ga → ∀ q idx dep, (me s).task = some (q, idx) → (me s).dirty = false → Rules.Task s q idx →
      dep = fget F.tcbDep (Rules.tcb s q idx) → dep < 65535 →
      ∃ t m dest, exec (.frd p d a) s = .next t ∧ t.net = s.net ++ [m] ∧ m.body = .access (.fe .frd) ga va dest ∧ dest.reg = some d ∧
        dest.future = true ∧ dest.next = nextOf s (.frd p d a) ∧ Rules.tcb t q idx = fput F.tcbDep (Rules.tcb s q idx) (dep + 1) ∧
        getCtx t s.cur (slotOf s) = { me s with mode := .waiting (.reply m.id) }) ∧
    (ready s (.frd p d a) = true → canTrap s = true → ∃ t, exec (.frd p d a) s = .next t ∧ Trapped s t 0x01 (firstWord (.frd p d a))) ∧
    (ready s (.frd p d a) = true → (me s).task ≠ none → (me s).dirty = true → fget F.lvl (me s).priv = 0 → ownsQueue s s.cur (slotOf s) = false →
      slotOf s ≠ 0 → ∃ t, exec (.frd p d a) s = .next t ∧ (getCtx t s.cur (slotOf s)).trapCause = 0x0E ∧ (getCtx t s.cur (slotOf s)).trapVal = va ∧
        (getCtx t s.cur (slotOf s)).task = none) ∧
    (Rules.Future s (.fwr p a b) va ga → Rules.unlisted s ga → (Pfx.rel p = true → quiet s 4 = true) → locked s s.cur ga 8 = false →
      ∃ t, exec (.fwr p a b) s = .next t ∧
        Stores s t (nextOf s (.fwr p a b)) [] false ga (Rules.bytesOf (xreg s b) 8) fun dw => dw ∈ s.full ∨ dw = ga / 8)) ∧
  (∀ (s : State) (m : Msg) (op : FeOp) (ga : Nat) (va : Word) (dest : Dest), findMsg s s.argA = some m → m.body = .access (.fe op) ga va dest →
    m.listed = false → s.saves = [] → s.poison = [] → s.latent = [] → s.soft = [] → isWindow ga = false → (∀ d o, region ga ≠ .frame d o ∧ region ga ≠ .hbm d o) →
    (mayPerform s m = true → m.refused = false → ga / 8 ∈ s.full → op = .ldSync ∨ op = .take ∨ op = .tryt ∨ op = .frd →
      Rules.unlisted s ga →
      ∃ t, exec .feRequest s = .next t ∧
        Rules.turned s t m (Rules.back m (.reply ((List.range 8).map fun j => readByte s 0 (ga + j)) none dest)) ∧ t.mem = s.mem ∧
        ∀ dw, dw ∈ t.full ↔ dw ∈ s.full ∧ ¬ (dw = ga / 8 ∧ (op = .take ∨ op = .tryt))) ∧
    (∀ k, m.refused = true → waiter s m.src m.id = some k → (∀ x ∈ s.net, x.id ≠ s.nextId) →
      ∃ t, exec .feReissue s = .next t ∧ t.mem = s.mem ∧ t.full = s.full ∧
        t.net = (s.net.filter fun x => x.id != m.id) ++ [{ m with
          id := s.nextId, refused := false, here := m.src / 131072, detour := none, inPort := none, fallen := false, second := false }] ∧
        getCtx t m.src k = { getCtx s m.src k with mode := .waiting (.reply s.nextId) } ∧ ∀ h, h ≠ m.src → getCore t h = getCore s h)) ∧
  (∀ (s : State) (m : Msg) (k q idx : Nat) (val : List Byte) (dest : Dest) (dep : Nat), findMsg s s.argA = some m → m.here = m.dst →
    m.body = .reply val none dest → dest.future = true → waiter s m.src m.id = some k → portMode s m.src k = false →
    q = dieOf m.src * 128 + dest.va.toNat / 65536 % 128 → idx = dest.va.toNat % 4096 → Rules.Task s q idx →
    fget F.tcbDep (Rules.tcb s q idx) = dep + 1 →
    (∀ r, val.length = 8 → dest.reg = some r → dest.pair = none → dest.sext = 0 → dest.pops = [] → fget F.tcbStatus (Rules.tcb s q idx) ≠ 1 →
      ∃ t, exec .futureReply s = .next t ∧ Rules.tcb t q idx = fput F.tcbDep (Rules.tcb s q idx) dep ∧ (getCtx t m.src k).pc = dest.next ∧
        tget 0 (getCtx t m.src k).x r.toNat = BitVec.ofNat 64 ((val.zip (List.range 8)).map fun c => c.1.toNat * 256 ^ c.2).sum ∧
        (getCtx t m.src k).task = (getCtx s m.src k).task ∧ (getCtx t m.src k).mode ∈ [Mode.ready, .running] ∧
        t.net = s.net.filter fun n => n.id != m.id) ∧
    (val = [] → dest.wake = false → ∃ t, exec .futureReply s = .next t ∧ Rules.tcb t q idx = fput F.tcbStatus (Rules.tcb s q idx) 1 ∧
      (getCtx t m.src k).pc = (getCtx s m.src k).tret ∧ (getCtx t m.src k).task = none ∧ (getCtx t m.src k).mode ∈ [Mode.ready, .running] ∧
      t.net = s.net.filter fun n => n.id != m.id))

/-! ### Messages at their homes, and the fabric (R141, R144, R155, R158–R160, R319–R324, R328) -/

/-- A message that has arrived, with nothing before it, at memory that holds no error and stands for no saved cluster (R141, R240). -/
structure Rules.Arrived (s : State) (m : Msg) : Prop where
  found : findMsg s s.argA = some m
  may : mayPerform s m = true
  sound : s.poison = [] ∧ s.latent = [] ∧ s.soft = [] ∧ s.saves = []

/-- The message is gone, and no other. -/
def Rules.gone (s t : State) (m : Msg) : Prop := t.net = s.net.filter fun n => n.id != m.id

/-- Number of a list of bytes, lowest first (R21). -/
def Rules.value (l : List Byte) : Nat := ((l.zip (List.range l.length)).map fun c => c.1.toNat * 256 ^ c.2).sum

/-- The bytes that a message merged from held stores carries (R144). -/
def Rules.carried (m : Msg) : List Host.Cell :=
  match m.body with
  | .access (.merged cells _) _ _ _ => cells
  | _ => []

/-- R141, R143, R144, R150, R152: at its home a load is answered with the bytes there, a store writes its bytes and is acknowledged, an addition
writes the sum and is answered with the old word or, for a reduction, acknowledged. The answer writes its register, sign-extended where the load says
so, and its context goes on; an acknowledgement ends its write. Held stores of a core that have been idle for 32 clocks leave, behind older ones: one
message to each home of an entry's bytes, a quadword that one `stp` wrote in one message (R147; that it is one home is the model's reading,
notes/assumptions 151). -/
def Obligations.AccessesArePerformedAtTheirHome : Prop :=
  (∀ (s : State) (m : Msg) (op : MemOp) (ga : Nat) (va : Word) (dest : Dest), Rules.Arrived s m → m.body = .access op ga va dest → m.key = 0 →
    dest.strm = 0 → isWindow ga = false →
    (∀ n, op = .load n → 0 < n → ∃ t, exec .accessAtHome s = .next t ∧ t.mem = s.mem ∧ t.full = s.full ∧ t.cores = s.cores ∧
      Rules.turned s t m (Rules.back m (.reply ((List.range n).map fun j => readByte s 0 (ga + j)) none dest))) ∧
    (∀ bytes whole, op = .store (cellsAt ga bytes) ∨ op = .merged (cellsAt ga bytes) whole → bytes ≠ [] → m.listed = false → m.refused = false →
      ∃ t, exec .accessAtHome s = .next t ∧ StoredBytes s t ga bytes ∧ t.full = s.full ∧ t.cores = s.cores ∧
        Rules.turned s t m (Rules.back m (.ack ga (cellDwords (cellsAt ga bytes)) (m.route == .adaptive)))) ∧
    (∀ src cmp old, old = BitVec.ofNat 64 (Rules.number s ga 8) → op = .rmw .add src cmp → ∃ t, exec .accessAtHome s = .next t ∧
      StoredBytes s t ga (Rules.bytesOf (old + src) 8) ∧ t.full = s.full ∧ t.cores = s.cores ∧
      Rules.turned s t m (Rules.back m (.reply (Rules.bytesOf old 8) none dest))) ∧
    (∀ src old, old = BitVec.ofNat 64 (Rules.number s ga 8) → op = .red .add src → m.listed = false → m.refused = false →
      ∃ t, exec .accessAtHome s = .next t ∧ StoredBytes s t ga (Rules.bytesOf (old + src) 8) ∧ t.full = s.full ∧ t.cores = s.cores ∧
        Rules.turned s t m (Rules.back m (.ack ga [ga / 8] (m.route == .adaptive))))) ∧
  (∀ (s : State) (m : Msg) (val : List Byte) (dest : Dest) (r : Reg) (k : Nat), findMsg s s.argA = some m → m.here = m.dst →
    m.body = .reply val none dest → dest.future = false → dest.reg = some r → dest.pair = none → dest.pops = [] → val.length ≤ 8 →
    (dest.sext = 0 ∨ dest.sext = 8 * val.length) → waiter s m.src m.id = some k → portMode s m.src k = false →
    ∃ t, exec .remoteReply s = .next t ∧ Rules.gone s t m ∧ t.mem = s.mem ∧ (∀ h, h ≠ m.src → getCore t h = getCore s h) ∧
      (getCtx t m.src k).pc = dest.next ∧ (getCtx t m.src k).instret = (getCtx s m.src k).instret + 1 ∧
      (getCtx t m.src k).mode ∈ [Mode.ready, .running] ∧
      ∀ q : Reg, tget 0 (getCtx t m.src k).x q.toNat =
        if q ≠ r then tget 0 (getCtx s m.src k).x q.toNat
        else if dest.sext = 0 then BitVec.ofNat 64 (Rules.value val) else Rules.signed (Rules.value val) dest.sext) ∧
  (∀ (s : State) (m : Msg) (ga : Nat) (dws : List Nat) (ad : Bool), findMsg s s.argA = some m → m.here = m.dst → m.body = .ack ga dws ad →
    ∃ t, exec .writeAcknowledge s = .next t ∧ Rules.gone s t m ∧ t = { s with net := t.net }) ∧
  (∀ (s : State) (out kept : List Comb), (getCore s s.argA).comb = out ++ kept → (∀ e ∈ kept, s.now < e.since + 32) →
    (∀ e, out.getLast? = some e → e.since + 32 ≤ s.now) →
    ∃ t ms, exec .combiningIdleFlush s = .next t ∧ (getCore t s.argA).comb = kept ∧ t.net = s.net ++ ms ∧ t.mem = s.mem ∧
      (∀ e ∈ out, ∀ b ∈ e.bytes, ∃ m ∈ ms, b ∈ Rules.carried m) ∧
      (∀ m ∈ ms, ∃ e ∈ out, m.slots = e.slots ∧ m.src = s.argA ∧ m.key = e.key ∧ m.dst = e.line / 2 ^ 48 ∧
        m.route = (if e.adaptive then .adaptive else .ordered) ∧ ∀ b ∈ Rules.carried m, b ∈ e.bytes ∧ (e.quads = [] → homeKey b.1 = m.home)) ∧
      (∀ e, out = [e] → e.quads = [] → (ms.map Msg.home).Nodup) ∧
      (∀ e, out = [e] → ∀ b ∈ e.bytes, ∀ c ∈ e.bytes, b.1 / 16 = c.1 / 16 → b.1 / 16 ∈ e.quads → ∀ m ∈ ms, b ∈ Rules.carried m → c ∈ Rules.carried m) ∧
      (out = [] → t = s))

/-- R321, R322, R324: a message takes one hop along the first dimension in which it is not yet where it goes, the shorter way round, where that port
is up; an adaptive one takes the productive port that is up with the most free buffer space. With no way on, a store is lost and a load comes back
as a POISON trap. R320, R319, R337: a replayed flit is counted at its port. A port whose lanes work, between modules that may
train, comes up; one that falls faults every ring of its line. That the port with the most free space is the one behind which the fewest messages stand
is the model's reading (notes/assumptions 146); whether a port's lanes work, and whether an adaptive channel is full, is an operand of the step
(notes/assumptions 40, 146). -/
def Obligations.MessagesHopAndLinksChange : Prop :=
  (∀ (s : State) (m : Msg), findMsg s s.argA = some m → m.here ≠ m.dst →
    let dims := dimsOf s m.here
    (∀ d p n, m.route ≠ .adaptive → m.detour = none → d < 4 → coordOf dims m.here d ≠ coordOf dims m.dst d →
      (∀ e, e < d → coordOf dims m.here e = coordOf dims m.dst e) → p = orderedPort dims m.here m.dst d → portUp s m.here p = true →
      neighbour dims m.here p = some n →
      ∃ t, exec .messageHop s = .next t ∧ t = { s with net := t.net } ∧
        Rules.turned s t m { m with here := n, inPort := some (p ^^^ 1), second := channelAfter dims m p n }) ∧
    (∀ p n, m.route = .adaptive → m.fallen = false → s.argV.getLsbD 0 = false → m.detour = none → p ∈ productive dims m.here m.dst none →
      portUp s m.here p = true → neighbour dims m.here p = some n →
      (∀ q ∈ productive dims m.here m.dst none, portUp s m.here q = true →
        bufferUse s m.here p m.cls < bufferUse s m.here q m.cls ∨ (bufferUse s m.here p m.cls = bufferUse s m.here q m.cls ∧ p ≤ q)) →
      ∃ t, exec .messageHop s = .next t ∧ t = { s with net := t.net } ∧
        Rules.turned s t m { m with here := n, inPort := some (p ^^^ 1), second := channelAfter dims m p n }) ∧
    ((∀ p, portUp s m.here p = false) →
      (∀ cells ga va dest, m.body = .access (.store cells) ga va dest → m.cls ≠ 2 →
        ∃ t, exec .messageHop s = .next t ∧ Rules.gone s t m ∧ t.mem = s.mem ∧ t.cores = s.cores) ∧
      (∀ n ga va dest, m.body = .access (.load n) ga va dest → ∃ t, exec .messageHop s = .next t ∧ t.mem = s.mem ∧ t.cores = s.cores ∧
        Rules.turned s t m { Rules.back m (.reply [] (some (0x0A, va)) dest) with here := m.src / 131072 }))) ∧
  (∀ (s : State), s.argB < 8 →
    let old := tget 0 (getMod s s.argA).ptel s.argB
    (powered s s.argA = true → ∃ t, exec .flitReplay s = .next t ∧ (∀ m, m ≠ s.argA → getMod t m = getMod s m) ∧ t = { s with mods := t.mods } ∧
      (∀ p, p ≠ s.argB → tget 0 (getMod t s.argA).ptel p = tget 0 (getMod s s.argA).ptel p) ∧
      tget 0 (getMod t s.argA).ptel s.argB = if old.toNat % 2 ^ 48 + 1 < 2 ^ 48 then old + 1 else old) ∧
    (canTrain s s.argA s.argB = true → s.argV.getLsbD 0 = true → ∃ t, exec .portUpChange s = .next t ∧ portUp t s.argA s.argB = true ∧
      (∀ p, p < 8 → p ≠ s.argB → portUp t s.argA p = portUp s s.argA p) ∧ t.mem = s.mem ∧ t.net = s.net) ∧
    (s.argV.getLsbD 0 = false → portUp s s.argA s.argB = true → ∃ t, exec .portUpChange s = .next t ∧ portUp t s.argA s.argB = false ∧
      (∀ p, p < 8 → p ≠ s.argB → portUp t s.argA p = portUp s s.argA p) ∧ t.mem = s.mem ∧
      (tget 0 (getMod t s.argA).ptel s.argB).toNat / 2 ^ 48 = min 65535 (old.toNat / 2 ^ 48 + 1) ∧
      ∀ x r, x ∈ lineOfMods s s.argA (s.argB / 2) → r < 16 → fget F.prState (getRing s x r).desc ∈ [1, 2] →
        fget F.prDim (getRing s x r).desc = s.argB / 2 → fget F.prState (getRing t x r).desc = 3))

/-- R155, R63, R328: an arrival with the instance's GEN is counted at a fabric group's home and acknowledged. At the end of the clock a phase that
has its arrivals completes, and a fabric group's completion sets out to its members' modules; at each switch it is delivered where the module is a
branch, and goes on along every hop that its other branches take, all in one step. A surplus arrival is presented again in a later clock.
R128, R158–R161: a migration packet whose K-core has its tenant and image, the frame of its pc and a FREE slot runs there in the lowest one with
what it carries; refused, an explicit `mig` raises MIG_DENY at its origin, and a load becomes an ordinary load and goes on to its home. The result of a migrant ends its origin slot. That a core that does not run, or is told to stop for a pre-emption and not yet given back, refuses a
migrant (notes/assumptions 25), and that the load goes on with the packet's route and class (174), are the model's readings. That each member's module keeps
a copy of the phase is presumed (notes/assumptions 26); that an instance of EXPECT 0 completes with one arrival, and the list of surplus arrivals, are the
model's readings (notes/assumptions 130). -/
def Obligations.FabricBarriersAndMigrantsArrive : Prop :=
  (∀ (s : State) (m : Msg) (n ga : Nat) (b : BitVec 128), findMsg s s.argA = some m → mayPerform s m = true → m.body = .arrive n ga →
    m.refused = false → m.listed = false → (∃ e ∈ s.fabSet, e.1 = ga) → (∀ x ∈ s.surplus, x.inst ≠ ga) → b = getBar s ga →
    arrnOf s m.src n = fget F.biGen b → fget (cntFld (fget F.biGen b)) b < fget F.biExpect b →
    ∃ t, exec .barrierArrivalMessage s = .next t ∧ t.mem = s.mem ∧ (∀ h, h ≠ m.src → getCore t h = getCore s h) ∧
      (∀ key, key ≠ ga → getBar t key = getBar s key) ∧
      getBar t ga = fput (cntFld (fget F.biGen b)) b (fget (cntFld (fget F.biGen b)) b + 1) ∧
      arrnOf t m.src n = (arrnOf s m.src n + 1) % 65536 ∧ Rules.turned s t m (Rules.back m (.ack ga [] (m.route == .adaptive)))) ∧
  (∀ (s : State) (ga home off : Nat) (b : BitVec 128), s.bars.filter (fun e => decide (e.1 < 2 ^ 64 ∧ max (fget F.biExpect e.2) 1 ≤ fget (cntFld (fget F.biGen e.2)) e.2)) = [(ga, b)] →
    let v := fput F.biGen (fput (cntFld (fget F.biGen b)) b 0) (fget F.biGen b + 1)
    getBar (completeBarriers s) ga = v ∧ (∀ key, key ≠ ga → getBar (completeBarriers s) key = getBar s key) ∧
      (completeBarriers s).mem = s.mem ∧ (completeBarriers s).cores = s.cores ∧
      (region ga = .modWin home off → 0x10000 ≤ off → ∃ x, (completeBarriers s).net = s.net ++ [x] ∧ x.body = .phaseDone ga v ∧
        x.branches = groupModules s (ga / 2 ^ 48 * 32 + (ga % 2 ^ 48 - 0x013100010000) / 0x400))) ∧
  (∀ (s : State) (m : Msg) (ga : Nat) (v : BitVec 128), findMsg s s.argA = some m → m.body = .phaseDone ga v → multicastBefore s m = false →
    (∀ x ∈ s.net, x.id < s.nextId) →
    ∃ t, exec .multicastAdvance s = .next t ∧ (∀ x ∈ t.net, x.id ≠ m.id) ∧ (∀ x ∈ s.net, x.id ≠ m.id → x ∈ t.net) ∧ t.mem = s.mem ∧
      t.cores = s.cores ∧ (m.here ∈ m.branches → getBar t (phaseCopy m.here ga) = v) ∧
      (∀ key, (m.here ∈ m.branches → key ≠ phaseCopy m.here ga) → getBar t key = getBar s key) ∧
      ∀ b ∈ m.branches, b ≠ m.here → ∀ p h e, nextHop s m.here b .ordered m.detour m.cls = some (p, h, e) →
        ∃ x ∈ t.net, x.body = m.body ∧ x.here = h ∧ x.detour = e ∧ x.inPort = some (p ^^^ 1) ∧ b ∈ x.branches) ∧
  (∀ (s : State) (x : Surplus), s.surplus = [x] → x.core = s.argA → x.slot = s.argB → x.clock < s.now → x.msg = none →
    let b := getBar s x.inst
    let count := fget (cntFld (fget F.biGen b)) b
    arrnOf s x.core x.name = fget F.biGen b →
    (count < fget F.biExpect b → ∃ t, exec .barrierSurplusRetry s = .next t ∧ t.surplus = [] ∧ t.net = s.net ∧ t.mem = s.mem ∧
      getBar t x.inst = fput (cntFld (fget F.biGen b)) b (count + 1) ∧ (∀ key, key ≠ x.inst → getBar t key = getBar s key) ∧
      arrnOf t x.core x.name = (arrnOf s x.core x.name + 1) % 65536 ∧ getCtx t x.core x.slot = { getCtx s x.core x.slot with begun := true } ∧
      ∀ h, h ≠ x.core → getCore t h = getCore s h) ∧
    (0 < fget F.biExpect b → fget F.biExpect b ≤ count → exec .barrierSurplusRetry s = .next { s with surplus := [{ x with clock := s.now }] })) ∧
  (∀ (s : State) (m : Msg) (g k target : Nat) (pc : Code) (x : Tbl Word) (instret va image : Word) (tenant : Nat) (next : Code) (q : Option Nat),
    findMsg s s.argA = some m → mayPerform s m = true → m.body = .migrate pc x instret tenant image g k q none va next → m.src = g → m.slots = [k] →
    target = m.home / 16 →
    (∀ kt, (getCore s target).run = true → (getCore s target).preempting = false → (getCore s target).saved = false →
      (getCore s target).migTenant = some tenant →
      (getCore s target).migImage = image → (getCore s target).frameV.getLsbD (pc.toNat / 1024) = true →
      (getCore s target).frameX.getLsbD (pc.toNat / 1024) = true → 1 ≤ kt → kt ≤ 10 → (getCtx s target kt).mode = .free →
      (∀ j, 1 ≤ j → j < kt → (getCtx s target j).mode ≠ .free) →
      ∃ t, exec .migrationArrive s = .next t ∧ Rules.gone s t m ∧ t.mem = s.mem ∧ (∀ h, h ≠ target → getCore t h = getCore s h) ∧
        (getCtx t target kt).pc = pc ∧ (getCtx t target kt).x = x ∧ (getCtx t target kt).instret = instret ∧
        (getCtx t target kt).kind = .migrant g k image q ∧ fget F.ten (getCtx t target kt).priv = tenant % 4096 ∧
        (getCtx t target kt).mode ∈ [Mode.ready, .running]) ∧
    ((getCore s target).migTenant ≠ some tenant ∨ (getCore s target).run = false ∨ (getCore s target).preempting = true ∨ (getCore s target).saved = true →
      (getCtx s g k).mode = .waiting .away → ownsQueue s g k = false → k ≠ 0 →
      fget F.lvl (getCtx s g k).priv = 0 → (getCtx s g k).task = none →
      ∃ t, exec .migrationArrive s = .next t ∧ Rules.gone s t m ∧ t.mem = s.mem ∧ (getCtx t g k).trapCause = 0x13 ∧ (getCtx t g k).trapVal = va ∧
        (getCtx t g k).mode ∈ [Mode.ready, .running])) ∧
  (∀ (s : State) (m : Msg) (g k o ok ga n tenant : Nat) (pc next : Code) (x : Tbl Word) (instret va lva image : Word) (dest : Dest) (q : Option Nat),
    findMsg s s.argA = some m → mayPerform s m = true →
    m.body = .migrate pc x instret tenant image o ok q (some (ga, n, lva, dest)) va next → m.src = g → m.slots = [k] →
    (getCore s (m.home / 16)).migTenant ≠ some tenant ∨ (getCore s (m.home / 16)).run = false ∨ (getCore s (m.home / 16)).preempting = true ∨
      (getCore s (m.home / 16)).saved = true → (getCtx s g k).mode = .waiting .away →
    ∃ t, exec .migrationArrive s = .next t ∧ t.mem = s.mem ∧ getCtx t g k = { getCtx s g k with mode := .waiting (.reply m.id) } ∧
      (∀ y, y ∈ t.net ↔ y ∈ s.net ∧ y.id ≠ m.id ∨ y = { m with
        body := .access (.load n) ga lva { dest with next := next }, home := homeKey ga, dst := ga / 2 ^ 48, detour := none, inPort := none
        fallen := false, second := false })) ∧
  (∀ (s : State) (m : Msg) (g k : Nat) (q : Option Nat) (v : Word), findMsg s s.argA = some m → m.here = m.dst → m.body = .result g k q v →
    (q = none ∨ (getCore s g).launch = q) → (getCtx s g k).mode = .waiting .away → (∀ j, (getCtx s g j).mode ≠ .blockedJoin k) →
    ∃ t, exec .helperResultReturn s = .next t ∧ Rules.gone s t m ∧ (getCtx t g k).mode = .ended ∧ (getCtx t g k).result = v ∧ t.mem = s.mem ∧
      ∀ h, h ≠ g → getCore t h = getCore s h)

/-! ### Frames, topologies and snapshots (R54, R224, R227, R229–R231, R281–R287, R290–R296) -/

/-- Die argA does work w alone, on frames without error; nothing waits for its count walk or is owed a count, and no launch is saved away. -/
structure Rules.FrameWork (s : State) (w : FrameWork) : Prop where
  work : (getDie s s.argA).work = [w]
  walk : (getDie s s.argA).walk = [] ∧ (getDie s s.argA).owed = []
  sound : s.poison = [] ∧ s.latent = [] ∧ s.soft = [] ∧ s.saves = [] ∧ s.ue = []

/-- R54, R55, R227, R230, R282, R285, R286, R430: an ordinary store through the state window to page NPG of the bound stream appends it: a zeroed data frame with
CNT 1, its leaf entry with PROV = MARKV, and NPG one higher; the store then enters the combining buffer. A write of a page whose frame is shared begins a copy,
and its context waits for it; an access of a page that has been evicted begins its fetch-back, and waits. A walk reads one entry of a node at a time: a leaf fills the cluster's buffer, and the context goes on; a pointer
leads to the next node; without one it raises XLAT. The
count walk lowers the count of the first frame on its list; at 0 a data frame is freed, and a node passes a count off to each child. A returned
frame is zeroed. Below 96 free frames the frame used longest ago begins to be evicted; its bytes then lie in the area of HBM, and a fetch-back
brings them to SRAM. A copy made for a write holds the page's bytes, has count 1, and takes its place in the leaf. That a walk reads one entry a step is
the model's reading (notes/assumptions 36), and that of the area's free HBM frames an eviction takes the lowest (notes/assumptions 153) and that a frame never accessed has age stamp 0 (169) are its
choices. A walk for the vector memory form at the queue head traps with that form gone from the queue (R164, R165). -/
def Obligations.FramesAreFreedCopiedAndMoved : Prop :=
  (∀ (s : State) (i : Instr) (va : Word) (n p d k : Nat) (blk : BitVec 2048) (w : PagePath), ready s i = true → Rules.access (xreg s) i = some (va, n) →
    va.toNat % n = 0 → acquiring s s.cur (slotOf s) = false → Rules.Window s va p d k blk → Rules.Usable s blk → w = pathOf s d k p →
    (getCore s s.cur).comb = [] → frGet s w.die w.root F.frCnt ≤ 1 → freeFid (getDie s w.die) w.root = false →
    (∀ l, w.leaf = some l → frGet s w.die l F.frCnt ≤ 1 ∧ freeFid (getDie s w.die) l = false ∧
      frGet s w.die l F.frPlace ≠ frGet s w.die w.root F.frPlace) → room (getDie s w.die) w.die 1 0 = .ok →
    (∀ bytes l, Rules.stores (xreg s) i = some bytes → p = fget F.scNpg blk → p < 4096 → w.leaf = some l → granted s w.die s.cur (slotOf s) = false →
      (getCore s s.cur).cmds = [] → Pfx.rel (Rules.pfx i) = false → Pfx.route (Rules.pfx i) 0 ≠ .deferred →
      ∃ t e f, exec i s = .next t ∧ freeFid (getDie s w.die) f = true ∧ getScb t d k = fput F.scNpg blk (p + 1) ∧
        fget F.teV (nodeEntry t w.die l (p % 64)) = 1 ∧ fget F.teFid (nodeEntry t w.die l (p % 64)) = f ∧
        fget F.teProv (nodeEntry t w.die l (p % 64)) = fget F.scMarkV blk ∧ frGet t w.die f F.frKind = 1 ∧ frGet t w.die f F.frCnt = 1 ∧
        zeroedFrame (getDie s w.die) (frGet t w.die f F.frPlace) = true ∧ (getCtx t s.cur (slotOf s)).pc = nextOf s i ∧ (getCore t s.cur).comb = [e] ∧
        e.line = frameGa t w.die f ((va.toNat - 0x7E0000000000) % 2 ^ 18) / 64 * 64 ∧ e.strm = (me s).strm ∧
        ∀ j b, bytes[j]? = some b → tget 0 e.bytes (frameGa t w.die f ((va.toNat - 0x7E0000000000) % 2 ^ 18) + j) = b) ∧
    (∀ f, p < fget F.scNpg blk → w.frame = some f → frameBusy s w.die f = false → freeFid (getDie s w.die) f = false → (Rules.rights i).2.2.2 = false →
      ((Rules.rights i).2.1 = true → 1 < frGet s w.die f F.frCnt →
        ∃ t r, exec i s = .next t ∧ getCtx t s.cur (slotOf s) = { me s with mode := .waiting (.frame w.die f) } ∧ t.mem = s.mem ∧ t.net = s.net ∧
          (getDie t w.die).work = (getDie s w.die).work ++ [.copy f r k p] ∧ freeFid (getDie s w.die) r = true ∧
          frGet t w.die f F.frBusy = 1 ∧ frGet t w.die r F.frBusy = 1 ∧ getScb t d k = blk) ∧
      ((Rules.rights i).2.1 = false ∨ frGet s w.die f F.frCnt ≤ 1 → frGet s w.die f F.frLoc = 1 →
        ∃ t place, exec i s = .next t ∧ getCtx t s.cur (slotOf s) = { me s with mode := .waiting (.frame w.die f) } ∧ t.mem = s.mem ∧ t.net = s.net ∧
          (getDie t w.die).work = (getDie s w.die).work ++ [.fetch f place] ∧ zeroedFrame (getDie s w.die) place = true ∧
          frGet t w.die f F.frBusy = 1))) ∧
  (∀ (s : State) (va : Word) (next : Option (Nat × Nat)) (g k ten : Nat), g = s.argA → k = s.argB → (getCtx s g k).mode = .waiting (.walk va next) →
    ten = fget F.ten (getCtx s g k).priv →
    let traps : Prop := ∀ vq : List VqEntry, (∀ e ∈ vq, e.slot ≠ k) → ((getCore s g).vq = vq ∨ (getCore s g).vpos = 0 ∧
        ∃ e, (getCore s g).vq = e :: vq ∧ e.slot = k ∧ e.run = 1 ∧ e.reps = 1 ∧
        ∃ p mk d a b imm, e.ins ∈ [Instr.vld p d a imm, .vst p d a imm, .vldx p mk d a b, .vstx p mk d a b]) →
      (k = 0 → (getCore s g).mfault = none) → fget F.lvl (getCtx s g k).priv = 0 → (getCtx s g k).task = none →
      ∃ t, exec .translationWalkDone s = .next t ∧ t.mem = s.mem ∧ (getCtx t g k).trapCause = 0x06 ∧ (getCtx t g k).trapVal = va ∧
        (getCore t g).vq = vq ∧ (getCtx t g k).mode ∈ [Mode.ready, .running]
    (next = none → walkRoot s (modOf g) ten = none → traps) ∧
    ∀ node level e, next = some (node, level) ∨ next = none ∧ walkRoot s (modOf g) ten = some node ∧ level = 3 → s.poison = [] → s.latent = [] →
      s.soft = [] → s.saves = [] → e = BitVec.ofNat 128 (Rules.number s (walkGa (modOf g) va.toNat node level) 16) →
      (∀ size, fget F.lfV e = 1 → fget F.lfL e = 1 → leafOk s (modOf g) level e = true → size = pageSize (fget F.lfSz e) →
        (getCluster s (clusterOf g)).tlb.length < 1024 →
        ∃ t, exec .translationWalkDone s = .next t ∧ t.mem = s.mem ∧ (getCtx t g k).mode ∈ [Mode.ready, .running] ∧
          (getCtx t g k).pc = (getCtx s g k).pc ∧
          (getCluster t (clusterOf g)).tlb = (getCluster s (clusterOf g)).tlb ++
            [{ tenant := ten, base := va.toNat / size * size, size := size, leaf := e
               peers := if fget F.lfSt e = 1 then stripePeers s (modOf g) (fget F.lfHome e) else [] }]) ∧
      (∀ n, fget F.lfV e = 1 → fget F.lfL e = 0 → pointerTo level e = some n →
        ∃ t, exec .translationWalkDone s = .next t ∧ t = { s with cores := t.cores } ∧ (∀ h, h ≠ g → getCore t h = getCore s h) ∧
          getCtx t g k = { getCtx s g k with mode := .waiting (.walk va (some (n, level - 1))) }) ∧
      (fget F.lfV e = 0 → traps)) ∧
  (∀ (s : State) (f : Nat) (rest : List Nat), let d := s.argA
    (getDie s d).walk = f :: rest → frGet s d f F.frBusy = 0 → frGet s d f F.frQ = 0 → s.ue = [] →
    (2 ≤ frGet s d f F.frCnt → ∃ t, exec .countWalk s = .next t ∧ (getDie t d).walk = rest ∧ t.mem = s.mem ∧
      getFrame t d f = fput F.frCnt (getFrame s d f) (frGet s d f F.frCnt - 1) ∧ ∀ e, e ≠ f → getFrame t d e = getFrame s d e) ∧
    (frGet s d f F.frCnt = 1 → frGet s d f F.frKind = 1 → frGet s d f F.frLoc = 0 → ∃ t, exec .countWalk s = .next t ∧ (getDie t d).walk = rest ∧
      getFrame t d f = 0 ∧ (∀ e, e ≠ f → getFrame t d e = getFrame s d e) ∧ t.mem = s.mem ∧
      ∀ p, p ∈ (getDie t d).zeroing ↔ p ∈ (getDie s d).zeroing ∨ p = frGet s d f F.frPlace) ∧
    (frGet s d f F.frCnt = 1 → frGet s d f F.frKind = 2 → s.latent = [] → s.poison = [] → ∃ t, exec .countWalk s = .next t ∧ getFrame t d f = 0 ∧
      (getDie t d).walk = rest ++ (List.range 64).filterMap fun i =>
        if fget F.teV (nodeEntry s d f i) = 1 then some (fget F.teFid (nodeEntry s d f i)) else none)) ∧
  (∀ (s : State) (f : Nat) (rest : List Nat), let d := s.argA
    let within (a : Nat) : Prop := gaFrame d (f * 2 ^ 18) ≤ a ∧ a < gaFrame d (f * 2 ^ 18) + 2 ^ 18
    (getDie s d).zeroing = f :: rest → ∃ t, exec .frameZero s = .next t ∧ (getDie t d).zeroing = rest ∧ t.full = s.full ∧
      (∀ a, within a → rawByte t a = 0) ∧ (∀ a, ¬within a → rawByte t a = rawByte s a) ∧
      (∀ dw, dw ∈ t.poison ↔ dw ∈ s.poison ∧ ¬within (8 * dw)) ∧ (∀ dw, dw ∈ t.latent ↔ dw ∈ s.latent ∧ ¬within (8 * dw)) ∧
      ∀ dw, dw ∈ t.soft ↔ dw ∈ s.soft ∧ ¬within (8 * dw)) ∧
  (∀ (s : State) (fid h : Nat) (e : Word), let d := s.argA
    let x := getDie s d
    (freeFrames x < 96 ∨ x.evicting = true ∧ freeFrames x < 160 → (fid, e) ∈ x.frames → getFrame s d fid = e → evictable e = true →
      (∀ o ∈ x.frames, o.1 ≠ fid → evictable o.2 = true → tget 0 x.age fid < tget 0 x.age o.1) →
      h < fget ⟨0, 16⟩ x.spCount → h ∉ x.spillUsed → (∀ j, j < h → j ∈ x.spillUsed) → s.ue = [] →
      ∃ t, exec .spillwayEvict s = .next t ∧ getFrame t d fid = fput F.frBusy e 1 ∧ (∀ o, o ≠ fid → getFrame t d o = getFrame s d o) ∧
        (getDie t d).work = x.work ++ [.evict fid h] ∧ h ∈ (getDie t d).spillUsed ∧ (getDie t d).evicting = true ∧ t.mem = s.mem) ∧
    (160 ≤ freeFrames x → ∃ t, exec .spillwayEvict s = .next t ∧ (getDie t d).work = x.work ∧ (getDie t d).evicting = false ∧ t.mem = s.mem)) ∧
  (∀ (s : State) (h p : Nat) (e : Word), let d := s.argA
    let fid := s.argB
    let area := (getDie s d).spBase.toNat % 2 ^ 36
    e = getFrame s d fid → p = fget F.frPlace e →
    (Rules.FrameWork s (.evict fid h) → fget F.frLoc e = 0 → fget F.frQ e = 0 → accessesTo s d p = false →
      ∃ t, exec .evictionComplete s = .next t ∧ (getDie t d).work = [] ∧
        getFrame t d fid = fput F.frBusy (fput F.frPlace (fput F.frLoc e 1) h) 0 ∧ p ∈ (getDie t d).zeroing ∧
        ∀ o, o < 2 ^ 18 → readByte t 0 (gaHbm d (area + h * 2 ^ 18 + o)) = readByte s 0 (gaFrame d (p * 2 ^ 18 + o))) ∧
    (Rules.FrameWork s (.fetch fid h) → fget F.frLoc e = 1 →
      ∃ t, exec .fetchBackComplete s = .next t ∧ (getDie t d).work = [] ∧
        getFrame t d fid = fput F.frBusy (fput F.frPlace (fput F.frLoc e 0) h) 0 ∧ p ∉ (getDie t d).spillUsed ∧
        ∀ o, o < 2 ^ 18 → readByte t 0 (gaFrame d (h * 2 ^ 18 + o)) = readByte s 0 (gaHbm d (area + p * 2 ^ 18 + o)))) ∧
  (∀ (s : State) (src dst i page leaf : Nat), let d := s.argA
    src = s.argB → Rules.FrameWork s (.copy src dst i page) → (pathOf s d i page).leaf = some leaf → (pathOf s d i page).die = d → src ≠ dst →
    dst < 65536 → leaf ≠ src → leaf ≠ dst → frGet s d src F.frLoc = 0 → frGet s d src F.frQ = 0 → frGet s d dst F.frQ = 0 → 2 ≤ frGet s d src F.frCnt →
    frGet s d leaf F.frPlace / 512 ≠ frGet s d dst F.frPlace →
    ∃ t, exec .frameCopyComplete s = .next t ∧ frGet t d dst F.frCnt = 1 ∧ frGet t d dst F.frBusy = 0 ∧ frGet t d src F.frBusy = 0 ∧
      frGet t d src F.frCnt = frGet s d src F.frCnt - 1 ∧ fget F.teFid (nodeEntry t d leaf (page % 64)) = dst ∧
      ∀ o, o < 2 ^ 18 → readByte t 0 (frameGa s d dst o) = readByte s 0 (frameGa s d src o))

/-- A message of a die's table has arrived and acts (R224, R291–R294). -/
structure Rules.AtTable (s : State) (m : Msg) (b : Body) : Prop where
  found : findMsg s s.argA = some m
  may : mayPerform s m = true
  body : m.body = b

/-- The message sets out anew between the tables of two dies, with a body. -/
def Rules.onward (m : Msg) (here dst home : Nat) (b : Body) : Msg :=
  { m with body := b, home := home, here := here, dst := dst, detour := none, inPort := none, fallen := false, second := false }

/-- The lowest of the entries that fail a check of a topology (R291). -/
def Rules.firstBad (n : Nat) (p : Nat → Bool) : Option Nat := (List.range n).find? p

/-- R224, R229, R290–R293: a stream step at another die's table acts and is answered; a set whose members have all deposited gives the sum in slot
order to the context that joined and is IDLE; with the write of that result the context's stream is BOUND again. A topology whose entry names itself as its parent is rejected with reason 1; a
list of one sound root is sent, its entry is taken by its set, and its acknowledgement ends the load. A prune acts at its stream's die, and its
acknowledgement counts. -/
def Obligations.BasinsReduceAndTopologiesLoad : Prop :=
  (∀ (s : State) (m : Msg) (xa xb strm : Word) (dest : Dest) (k d i : Nat), Rules.AtTable s m (.stream .sstat xa xb strm dest) → m.listed = false →
    waiter s m.src m.id = some k → d = m.home / 16 → i = sidIdx xa → fget F.sidGen xa ≠ 0 → fget F.scSid (getScb s d i) = xa.toNat →
    fget F.scState (getScb s d i) = 1 → s.ue = [] → grantHolds s d i = false →
    (∀ w ∈ (getDie s d).steps, w.scb ≠ i ∧ ¬ (w.core = m.src ∧ w.slot = k)) →
    ∃ t, exec .remoteStreamStep s = .next t ∧ t = { s with net := t.net } ∧
      Rules.turned s t m (Rules.back m (.reply (Rules.bytesOf (BitVec.ofNat 64 ((getScb s d i).toNat / 2 ^ (64 * (xb.toNat % 32)))) 8) none dest))) ∧
  (∀ (s : State) (m : Msg) (xa xb strm : Word) (dest : Dest) (x : BSet), let d := s.argA
    x = getSet s d s.argB → x.joining = true → x.result = none → x.members = [] → x.childSlots = [] → x.above = none → x.prune = false →
    x.red = 0 → x.parent = strm → x.join = some m.id → findMsg s m.id = some m → m.body = .stream .sjoin xa xb strm dest →
    x.deposits.Pairwise (fun a b => a.slot < b.slot) → (∀ y ∈ x.deposits, y.slot < 256) → fget F.sidGen strm ≠ 0 →
    fget F.scSid (getScb s (sidDie strm) (sidIdx strm)) = strm.toNat → fget F.scState (getScb s (sidDie strm) (sidIdx strm)) = 3 →
    ∃ t, exec .basinReduce s = .next t ∧ t.mem = s.mem ∧ t.cores = s.cores ∧
      fget F.scState (getScb t (sidDie strm) (sidIdx strm)) = 3 ∧
      (getSet t d s.argB).opened = false ∧ (getSet t d s.argB).deposits = [] ∧
      Rules.turned s t m (Rules.back m (.reply
        (Rules.bytesOf (((x.deposits.map Deposit.val).foldl addLane 0).setWidth 64) 8 ++ List.replicate 8 0) none { dest with join := strm }))) ∧
  (∀ (s : State) (m : Msg) (v sid strm : Word) (dest : Dest) (r : Reg) (k : Nat), findMsg s s.argA = some m → m.here = m.dst →
    m.body = .reply (Rules.bytesOf v 8 ++ Rules.bytesOf sid 8) none dest → dest.reg = some r → dest.pair = some (r + 1) → r ≠ 31 → dest.sext = 0 →
    dest.pops = [] → dest.future = false → dest.join = strm → waiter s m.src m.id = some k → portMode s m.src k = false → fget F.sidGen strm ≠ 0 →
    fget F.scSid (getScb s (sidDie strm) (sidIdx strm)) = strm.toNat → fget F.scState (getScb s (sidDie strm) (sidIdx strm)) = 3 →
    ∃ t, exec .remoteReply s = .next t ∧ Rules.gone s t m ∧ t.mem = s.mem ∧
      getScb t (sidDie strm) (sidIdx strm) = fput F.scState (getScb s (sidDie strm) (sidIdx strm)) 2 ∧
      tget 0 (getCtx t m.src k).x r.toNat = v ∧ tget 0 (getCtx t m.src k).x (r + 1).toNat = sid ∧ (getCtx t m.src k).pc = dest.next ∧
      (getCtx t m.src k).mode = .ready) ∧
  (∀ (s : State) (n : Nat) (l : List Word), let d := s.argA
    let x := getDie s d
    x.topoStat.getLsbD 63 = true → x.topoLeft = none → n = x.topoCtl.toNat % 1024 →
    l = ((List.range n).map fun i => BitVec.ofNat 64 (Rules.number s (d / 16 * 2 ^ 48 + x.topoAddr.toNat + 8 * i) 8)) →
    (∀ i, Rules.firstBad n (fun j => fget F.toParent (l.getD j 0) == j) = some i →
      ∃ t, exec .topoLoad s = .next t ∧ (getDie t d).topoStat = BitVec.ofNat 64 (i * 65536 + 1) ∧ (getDie t d).topoLeft = none ∧ t.net = s.net ∧
        t.mem = s.mem ∧ (getDie t d).sets = x.sets) ∧
    (∀ e, l = [e] → fget F.toParent e = 0x3FF → fget F.toRsv e = 0 → fget F.toSet e ≠ 0 → fget F.toRed e ≤ 4 →
      inDomain s (d / 16) (fget F.toMod e) = true → (getSet s (fget F.toMod e * 16 + fget F.toDie e) (fget F.toSet e)).opened = false →
      (getSet s (fget F.toMod e * 16 + fget F.toDie e) (fget F.toSet e)).topo = none →
      ∃ t m, exec .topoLoad s = .next t ∧ t.net = s.net ++ [m] ∧ m.body = .topo d 0 e false ∧ m.dst = fget F.toMod e ∧ (getDie t d).topoLeft = some 1 ∧
        (getDie t d).topoNodes = [e] ∧ t.mem = s.mem)) ∧
  (∀ (s : State) (m : Msg) (d node : Nat) (e : Word),
    (Rules.AtTable s m (.topo d node e false) → ∃ t, exec .topologyEntryArrive s = .next t ∧ t.mem = s.mem ∧
      Rules.turned s t m (Rules.onward m m.here (d / 16) (16 * d + 7) (.topo d node e true)) ∧
      (getSet t (fget F.toMod e * 16 + fget F.toDie e) (fget F.toSet e)).topo = some (d, e) ∧
      (getSet t (fget F.toMod e * 16 + fget F.toDie e) (fget F.toSet e)).childSlots =
        (((getDie s d).topoNodes.filter fun c => fget F.toParent c == node).map (fget F.toPslot))) ∧
    (Rules.AtTable s m (.topo d node e true) → (getDie s d).topoLeft = some 1 → ∃ t, exec .topologyEntryArrive s = .next t ∧ Rules.gone s t m ∧
      (getDie t d).topoStat = 0 ∧ (getDie t d).topoLeft = none ∧ t.mem = s.mem)) ∧
  (∀ (s : State) (m : Msg) (sid : Word) (d n : Nat) (b : BitVec 2048), b = getScb s (sidDie sid) (sidIdx sid) →
    (Rules.AtTable s m (.prune sid d n false) → fget F.scSid b = sid.toNat → fget F.scState b = 2 → b.getLsbD 191 = true → fget F.scSset b = 0 →
      fget F.scParent b = 0 → ∃ t, exec .topologyPrune s = .next t ∧ getScb t (sidDie sid) (sidIdx sid) = fput F.scState b 6 ∧
        Rules.turned s t m (Rules.onward m m.here (d / 16) (16 * d + 7) (.prune sid d n true)) ∧ t.mem = s.mem) ∧
    (Rules.AtTable s m (.prune sid d n true) → 2 ≤ (getSet s d n).pruneLeft → ∃ t, exec .topologyPrune s = .next t ∧ Rules.gone s t m ∧
      getSet t d n = { getSet s d n with pruneLeft := (getSet s d n).pruneLeft - 1 } ∧ t.mem = s.mem))

/-- R231, R294, R296: a request for a stream of no pages takes the lowest FREE block of the destination and answers that it is done; without one, or
without the frames that its pages and nodes need, it is refused, and the source stream is what it was before; that it waits where an eviction could
still make room, but not at 96 free frames or more, is the model's reading (notes/assumptions 64). A page's bytes go from where they lie into the frame of the new stream, wherever that lies,
both frames' age stamps are renewed, and the next page follows. The end makes
the new stream READY and writes FWD. Which fields stand in a freed record, and that REFS is 0 in one that is refused, is the model's choice
(notes/assumptions 72). -/
def Obligations.SnapshotsMoveStreams : Prop :=
  (∀ (s : State) (m : Msg) (b : BitVec 2048) (sid : Word) (e : Nat), Rules.AtTable s m (.smigAsk b sid) → e = m.home / 16 →
    (freeScb s e = none → ∃ t, exec .smigRequestArrive s = .next t ∧ t = { s with net := t.net } ∧ Rules.turned s t m
      { Rules.onward m (e / 16) (sidDie sid / 16) (16 * sidDie sid + 7) (.smigRefused sid) with src := 8192 * e + 63, cls := 1 }) ∧
    (room (getDie s e) e (fget F.scNpg b) (1 + (fget F.scNpg b + 63) / 64) = .oom ∨
        96 ≤ freeFrames (getDie s e) ∧ freeFrames (getDie s e) < framesFor (getDie s e) (fget F.scNpg b) (1 + (fget F.scNpg b + 63) / 64) →
      ∃ t, exec .smigRequestArrive s = .next t ∧ t = { s with net := t.net } ∧ Rules.turned s t m
        { Rules.onward m (e / 16) (sidDie sid / 16) (16 * sidDie sid + 7) (.smigRefused sid) with src := 8192 * e + 63, cls := 1 }) ∧
    (∀ j root u, e < 2 ^ 20 → freeScb s e = some j → fget F.scNpg b = 0 → room (getDie s e) e 0 1 = .ok → takeNode s e = some (root, u) →
      ∃ t new, exec .smigRequestArrive s = .next t ∧ Rules.turned s t m
          { Rules.onward m (e / 16) (sidDie sid / 16) (16 * sidDie sid + 7) (.smigDone sid new) with src := 8192 * e + 63, cls := 1 } ∧
        fget F.scSid (getScb t e j) = new.toNat ∧ sidIdx new = j ∧ fget F.sidGen new ≠ 0 ∧ fget F.scRfid (getScb t e j) = root % 65536 ∧
        (∀ f, f ∈ [F.scHorizon, F.scNewTok, F.scCtxLen, F.scCommit, F.scAqBase, F.scAqLogCap, F.scAqEsize, F.scAqHead, F.scAqTail, F.scParent] →
          fget f (getScb t e j) = fget f b) ∧
        fget F.scNpg (getScb t e j) = 0 ∧ ∀ n, n ≠ j → getScb t e n = getScb s e n)) ∧
  (∀ (s : State) (m : Msg) (sid : Word) (x : Snapshot), let d := sidDie sid
    Rules.AtTable s m (.smigRefused sid) → (getDie s d).snaps = [x] → x.sid = sid →
    ∃ t, exec .smigRefuse s = .next t ∧ Rules.gone s t m ∧ getScb t d (sidIdx sid) = scbSet (getScb s d (sidIdx sid)) [(F.scState, x.before), (F.scRefs, 0)] ∧
      (getDie t d).snaps = [] ∧ t.mem = s.mem) ∧
  (∀ (s : State) (m : Msg) (sid new : Word) (p f t0 : Nat), let d := sidDie sid
    let e := sidDie new
    Rules.AtTable s m (.smigPage sid new p) → (pathOf s d (sidIdx sid) p).frame = some f → (pathOf s d (sidIdx sid) p).die = d →
    (pathOf s e (sidIdx new) p).frame = some t0 → frameBusy s d f = false → frameBusy s e t0 = false → s.poison = [] → s.latent = [] →
    s.soft = [] → s.saves = [] → s.ue = [] →
    ∃ t, exec .snapshotPage s = .next t ∧
      (∀ o, o < 2 ^ 18 → readByte t 0 (contentGa s e t0 o) = readByte s 0 (contentGa s d f o)) ∧
      tget 0 (getDie t e).age t0 = s.now / 1024 ∧ tget 0 (getDie t d).age f = s.now / 1024 ∧
      (p + 1 < fget F.scNpg (getScb s e (sidIdx new)) → Rules.turned s t m
        { Rules.onward m (d / 16) (e / 16) (16 * e + 7) (.smigPage sid new (p + 1)) with src := 8192 * d + 63, cls := 2 }) ∧
      (fget F.scNpg (getScb s e (sidIdx new)) = p + 1 → Rules.turned s t m
        { Rules.onward m (e / 16) (d / 16) (16 * d + 7) (.smigDone sid new) with src := 8192 * e + 63, cls := 1 })) ∧
  (∀ (s : State) (m : Msg) (sid new : Word), let d := sidDie sid
    let e := sidDie new
    Rules.AtTable s m (.smigDone sid new) → d ≠ e → (getDie s d).walk = [] → s.ue = [] → 2 ≤ frGet s d (fget F.scRfid (getScb s d (sidIdx sid))) F.frCnt →
    frGet s d (fget F.scRfid (getScb s d (sidIdx sid))) F.frQ = 0 → frGet s d (fget F.scRfid (getScb s d (sidIdx sid))) F.frBusy = 0 →
    ∃ t, exec .smigComplete s = .next t ∧ Rules.gone s t m ∧ t.mem = s.mem ∧
      getScb t e (sidIdx new) = fput F.scState (getScb s e (sidIdx new)) 1 ∧
      getScb t d (sidIdx sid) = scbSet (getScb s d (sidIdx sid)) [(F.scFwd, new.toNat), (F.scRv, 0),
        (F.scState, if fget F.scRefs (getScb s d (sidIdx sid)) = 0 then 0 else 5)] ∧
      frGet t d (fget F.scRfid (getScb s d (sidIdx sid))) F.frCnt = frGet s d (fget F.scRfid (getScb s d (sidIdx sid))) F.frCnt - 1)

/-! ### Cascades as a whole (R299–R311) and Peal rings (R209–R212, R331–R337) -/

/-- f(q) and P(s) of a stage (R308). -/
def Rules.fill (e : BitVec 512) : Nat :=
  min 256 (256 * ((fget F.qdTail e + 2 ^ 32 - fget F.qdHead e) % 2 ^ 32) / 2 ^ fget F.qdLogCap e)
def Rules.pressure (x : Die) (b : BitVec 512) (st : Nat) : Int :=
  let qs := (List.range (fget F.cbQcount b)).map fun n => queueDesc x (fget F.cbQfirst b + n)
  let ins := qs.filter fun e => fget F.qdCons e == st
  let outs := qs.filter fun e => fget F.qdProd e == st
  (if ins = [] then (128 : Int) else ((ins.map Rules.fill).foldl max 0 : Nat)) - ((outs.map Rules.fill).foldl max 0 : Nat)

/-- R301–R304, R308–R310: at the end of an interval every stage's pressure is written and the interval begins again; a lone stage below MIN takes the
lowest unit of the pool. Offered cores of a stage that their cluster no longer serves go to the pool, and no core that is not offered moves. An install
that passes its checks places its units, sets COUNT to INIT and V; one of a cascade that is installed ends with reason 1. A removal waits for the cores
of the stages, then clears V, the stages' COUNT and the places. That an installation sets RECV to 0 is the model's reading (notes/assumptions 162). -/
def Obligations.CascadesBalanceInstallAndGo : Prop :=
  (∀ (s : State) (b : BitVec 512), let d := s.argA
    let c := s.argB
    let x := getDie s d
    b = ctlBlock x c → fget F.cbV b = 1 → fget F.cbNextIv b = 0 →
    (∃ t, exec .balancerEvaluate s = .next t ∧ fget F.cbNextIv (ctlBlock (getDie t d) c) = fget F.cbIvm1 b + 1 ∧ t.mem = s.mem ∧ t.cores = s.cores ∧
      (∀ st, st < fget F.cbNstage b → fget F.sdPress (stageDesc (getDie t d) c st) = (BitVec.ofInt 16 (Rules.pressure x b st)).toNat) ∧
      ((∀ st, st < fget F.cbNstage b → fget F.sdMax (stageDesc x c st) ≤ fget F.sdCount (stageDesc x c st)) →
        (getDie t d).place = x.place ∧ fget F.cbMoves (ctlBlock (getDie t d) c) = fget F.cbMoves b)) ∧
    (∀ e u, fget F.cbNstage b = 1 → e = stageDesc x c 0 → stageKind e = 1 → isRing e = false → fget F.sdCount e < fget F.sdMin e →
      fget F.sdCount e < fget F.sdMax e → (offeredUnits s d c (.pool c) e).head? = some [u] →
      ∃ t, exec .balancerEvaluate s = .next t ∧ placeOf (getDie t d) u = .stage c 0 ∧ (∀ v, v ≠ u → placeOf (getDie t d) v = placeOf x v) ∧
        fget F.sdCount (stageDesc (getDie t d) c 0) = fget F.sdCount e + 1 ∧
        fget F.sdRecv (stageDesc (getDie t d) c 0) = (fget F.sdRecv e + 1) % 2 ^ 32)) ∧
  (∀ (s : State), let d := s.argA
    let x := getDie s d
    ∃ t, exec .strandedToPool s = .next t ∧ t.mem = s.mem ∧ t.cores = s.cores ∧ (∀ u, u ∉ x.offered → placeOf (getDie t d) u = placeOf x u) ∧
      ∀ c st cl tri e, c < 8 → tri < 16 → installed x c = true → st < fget F.cbNstage (ctlBlock x c) → cl ∈ spanOf (ctlBlock x c) →
        e = stageDesc x c st → stageKind e = 1 → isRing e = false → meetsNeed s d cl e = false → cl * 64 + 3 * tri ∈ x.offered →
        placeOf x (cl * 64 + 3 * tri) = .stage c st → placeOf (getDie t d) (cl * 64 + 3 * tri) = .pool c) ∧
  (∀ (s : State) (c : Nat), let d := s.argA
    let x := getDie s d
    x.cascStat.getLsbD 63 = true → c = x.cascCtl.toNat % 8 →
    (x.cascCtl.getLsbD 8 = false → installed x c = true → ∃ t, exec .cascadeInstall s = .next t ∧ (getDie t d).cascStat = 1 ∧
      (getDie t d).cblk = x.cblk ∧ (getDie t d).place = x.place ∧ t.mem = s.mem) ∧
    (∀ l, x.cascCtl.getLsbD 8 = false → installCheck s d c = (0, 0, 0) → placement s d c = some l → (l.map Prod.fst).Nodup →
      ∃ t, exec .cascadeInstall s = .next t ∧ (getDie t d).cascStat = 0 ∧ installed (getDie t d) c = true ∧ t.mem = s.mem ∧
        (∀ u pl, (u, pl) ∈ l → placeOf (getDie t d) u = pl ∧ u ∉ (getDie t d).offered) ∧
        (∀ u, u ∉ l.map Prod.fst → placeOf (getDie t d) u = placeOf x u) ∧
        fget F.cbNextIv (ctlBlock (getDie t d) c) = fget F.cbIvm1 (ctlBlock x c) + 1 ∧
        ∀ st, st < fget F.cbNstage (ctlBlock x c) →
          fget F.sdCount (stageDesc (getDie t d) c st) = fget F.sdInit (stageDesc x c st) ∧ fget F.sdRecv (stageDesc (getDie t d) c st) = 0) ∧
    (x.cascCtl.getLsbD 8 = true → installed x c = true → (∀ u st, placeOf x u = .stage c st → u ∈ x.offered) → (∀ a ∈ x.place, placeOf x a.1 = a.2) →
      ∃ t, exec .cascadeRemove s = .next t ∧ (getDie t d).cascStat = 0 ∧ installed (getDie t d) c = false ∧ t.mem = s.mem ∧
        (∀ st, st < fget F.cbNstage (ctlBlock x c) → fget F.sdCount (stageDesc (getDie t d) c st) = 0) ∧
        ∀ u, placeOf (getDie t d) u = if placeCascade (placeOf x u) = some c then .none else placeOf x u) ∧
    (∀ u st, x.cascCtl.getLsbD 8 = true → installed x c = true → (u, Place.stage c st) ∈ x.place → u ∉ x.offered → exec .cascadeRemove s = .next s))

/-- A valid arrival entry n of the core's die that a form names, where no error stands (R212, R411). -/
structure Rules.Entry (s : State) (h : Word) (d n : Nat) (e : BitVec 256) : Prop where
  die : d = dieOf s.cur
  index : n = h.toNat ∧ n ≤ 127
  desc : e = arrivalEntry s d n
  sound : s.ue = []

/-- R210, R212, R336: `abind` binds a free entry to a slot of a ring, with the slot's frame, and answers 0; it answers 1 for an entry whose block is not
released, 2 for bad operands, 3 for a slot that is bound. `await` gives the end-of-block word once the block has ended, and else waits. `aret` of a
finished entry releases the block, whose marker goes upstream with the last copy, or hands it on where it lies on FDIE; that one which does not hand on a
block handed on before leaves its release to the forward is the model's reading (notes/assumptions 84). Both raise ILL for an entry that is not valid. -/
def Obligations.PealFormsComplete : Prop :=
  ∀ (s : State) (p : Pfx) (d a b : Reg) (die n : Nat) (e : BitVec 256),
    (∀ w r j, ready s (.abind p d a b) = true → Rules.Entry s (xreg s a) die n e → w = (xreg s b).toNat → r = w / 2 ^ 59 % 16 → j = w / 2 ^ 56 % 8 →
      (∀ fid, w / 2 ^ 63 = 1 → w / 2 ^ 16 % 2 ^ 17 = 0 → 1 ≤ w / 2 ^ 41 % 256 → 1 ≤ w / 2 ^ 33 % 256 → w / 2 ^ 49 % 128 + w / 2 ^ 41 % 256 ≤ 128 →
        slotFrame (getRing s (die / 16) r) die j = some fid → fid < 65536 → fget F.arV e = 0 →
        (∀ x ∈ (getDie s die).arrival, x.1 ≠ n → ¬ (fget F.arV x.2 = 1 ∧ fget F.arRing x.2 = r ∧ fget F.arSlot x.2 = j)) →
        (∀ o, (j, o) ∉ (getRing s (die / 16) r).blocks) →
        ∃ t, exec (.abind p d a b) s = .next t ∧ Retired s t (nextOf s (.abind p d a b)) [(d, 0)] ∧ t.mem = s.mem ∧
          (∀ m, arrivalEntry t die m = if m = n then BitVec.ofNat 256 (w / 2 ^ 33 * 2 ^ 33 + fid) else arrivalEntry s die m)) ∧
      (w / 2 ^ 16 % 2 ^ 17 ≠ 0 → ∃ t, exec (.abind p d a b) s = .next t ∧ RegisterOnly s t (nextOf s (.abind p d a b)) [(d, 2)]) ∧
      (w = 0 → fget F.arV e = 1 → holdsBlock s die (fget F.arRing e) (fget F.arSlot e) = true →
        ∃ t, exec (.abind p d a b) s = .next t ∧ RegisterOnly s t (nextOf s (.abind p d a b)) [(d, 1)]) ∧
      (∀ fid x, w / 2 ^ 63 = 1 → w / 2 ^ 16 % 2 ^ 17 = 0 → 1 ≤ w / 2 ^ 41 % 256 → 1 ≤ w / 2 ^ 33 % 256 → w / 2 ^ 49 % 128 + w / 2 ^ 41 % 256 ≤ 128 →
        slotFrame (getRing s (die / 16) r) die j = some fid → fget F.arV e = 0 →
        x ∈ (getDie s die).arrival → x.1 ≠ n → fget F.arV x.2 = 1 → fget F.arRing x.2 = r → fget F.arSlot x.2 = j →
        ∃ t, exec (.abind p d a b) s = .next t ∧ RegisterOnly s t (nextOf s (.abind p d a b)) [(d, 3)])) ∧
    (ready s (.await p d a) = true → Rules.Entry s (xreg s a) die n e → fget F.arV e = 1 →
      (fget F.arEob e = 1 → ∃ t, exec (.await p d a) s = .next t ∧
        RegisterOnly s t (nextOf s (.await p d a)) [(d, BitVec.ofNat 64 (fget F.arEobw e))]) ∧
      (fget F.arEob e = 0 → ∃ t, exec (.await p d a) s = .next t ∧ t = { s with cores := t.cores } ∧
        getCtx t s.cur (slotOf s) = { me s with mode := .waiting (.peal n) })) ∧
    (∀ i ring r j, i = Instr.aret p a b → ready s i = true → Rules.Entry s (xreg s a) die n e → fget F.arV e = 1 → r = fget F.arRing e →
      j = fget F.arSlot e → ring = getRing s (die / 16) r → fget F.arEob e = 1 → fget F.arFin e = fget F.arNcl e →
      ((xreg s b).getLsbD 0 = true → die % 16 = fget F.prFdie ring.desc → fget F.prState ring.desc = 2 →
        ∃ t, exec i s = .next t ∧ Retired s t (nextOf s i) [] ∧ t.mem = s.mem ∧ t.dies = s.dies ∧ getRing t (die / 16) r =
          { ring with forwards := ring.forwards ++ [{ slot := j, eobw := BitVec.ofNat 64 (fget F.arEobw e) }] }) ∧
      ((xreg s b).getLsbD 0 = false → handedOn s die r j = true → ∃ t, exec i s = .next t ∧ RegisterOnly s t (nextOf s i) []) ∧
      ((xreg s b).getLsbD 0 = false → handedOn s die r j = false → (∀ f ∈ ring.frames, f.2.1 = j → f.1 = die) → (∀ x ∈ s.net, x.id ≠ s.nextId) →
        ∃ t m, exec i s = .next t ∧ Retired s t (nextOf s i) [] ∧ t.mem = s.mem ∧ t.net = s.net ++ [m] ∧ m.body = .marker r j ∧
          m.dst = upstream s (die / 16) ring.desc ∧ (∀ o, (j, o) ∉ (getRing t (die / 16) r).blocks) ∧
          fget F.arEob (arrivalEntry t die n) = 0 ∧ fget F.arArr (arrivalEntry t die n) = 0 ∧ fget F.arFin (arrivalEntry t die n) = 0)) ∧
    (∀ i, i = Instr.await p d a ∨ i = Instr.aret p a b → ready s i = true → canTrap s = true → s.ue = [] →
      127 < (xreg s a).toNat ∨ fget F.arV (arrivalEntry s (dieOf s.cur) (xreg s a).toNat) = 0 →
      ∃ t, exec i s = .next t ∧ Trapped s t 0x01 (firstWord i))

/-- A step of an operation on a ring at a module: it starts there as PEALCTL asks, none being on its way, or its message has come there (R332). -/
def Rules.PealAt (s : State) (r op m start : Nat) (own : BitVec 512) (visited : List Nat) : Prop :=
  (visited = [] ∧ start = m ∧ own = (getRing s m r).desc ∧ (getMod s m).pealStat.getLsbD 63 = true ∧ r = (getMod s m).pealCtl.toNat % 16 ∧
    op = (getMod s m).pealCtl.toNat / 256 % 4 ∧ ∀ n ∈ s.net, n.id < s.nextId ∧ ∀ o q st w v, n.body ≠ .peal o q st w v) ∨
  (visited ≠ [] ∧ ∃ n, n.body = .peal op r start own visited ∧ n.dst = m ∧ n.here = m ∧ n.id < s.nextId ∧ s.net = [n])

/-- R325, R332, R334–R336: an operation visits its members in ring order as a message of class 3. One whose check fails at a member ends with that
member's coordinate and the reason, and a set-up then leaves the members it has visited IDLE; else a set-up gives the member its markers and it is SETTING
UP until the message is back at the starting member, where a set-up is done, a start makes every member RUNNING and a removal frees them. A member's sender
puts out its oldest forward, else its next local block, each on a usable marker; a block's bytes arrive in its slot's frame, and its entry ends. A read
forward is released, and a marker that arrives is usable. That PEALSTAT shows coordinate 0 on success, what a failure undoes and when it is undone are the
model's reading (notes/assumptions 79), and so is a block that arrives whole where the operand is 0 (83). -/
def Obligations.PealRingsCarryBlocks : Prop :=
  (∀ (s : State) (r op m start : Nat) (i : Instr) (own : BitVec 512) (visited : List Nat),
    (i = .pealSetup ∧ op = 0 ∨ i = .pealStart ∧ op = 1 ∨ i = .pealRemove ∧ op = 2) → m = s.argA →
    Rules.PealAt s r op m start own visited →
    (fget F.prState (getRing s m r).desc ≠ op → op < 2 → visited = [] → memberCheck s r op start own m = some 1) ∧
    (∀ reason, memberCheck s r op start own m = some reason → visited = [] ∨ m ≠ start →
      ∃ t, exec i s = .next t ∧ (getMod t start).pealStat = BitVec.ofNat 64 (coordOf (dimsOf s start) m (fget F.prDim own) * 65536 + reason) ∧
        (∀ y ∈ visited, op = 0 → fget F.prState (getRing t y r).desc = 0 ∧ (getRing t y r).frames = [] ∧ (getRing t y r).markers = []) ∧
        (op ≠ 0 → ∀ y, getRing t y r = getRing s y r) ∧ (visited = [] → t.dies = s.dies ∧ t.mem = s.mem) ∧ t.cores = s.cores) ∧
    (∀ a next b, memberCheck s r op start own m = none → visited = [] ∨ m ≠ start → m ∉ a →
      ((membersOf s start own).map Prod.snd) ++ [start] = a ++ m :: next :: b →
      ∃ t n, exec i s = .next t ∧ n ∈ t.net ∧ n.id = s.nextId ∧ n.body = .peal op r start own (visited ++ [m]) ∧ n.cls = 3 ∧ n.here = m ∧ n.dst = next ∧
        (getMod t start).pealStat = (getMod s start).pealStat ∧ t.cores = s.cores ∧
        (op = 0 → fget F.prState (getRing t m r).desc = 1 ∧ (getRing t m r).markers = List.range (fget F.prS own)) ∧
        (op ≠ 0 → t.mods = s.mods ∧ t.dies = s.dies ∧ t.mem = s.mem)) ∧
    (m = start → visited ≠ [] → (op < 2 → ∀ y ∈ visited, fget F.prState (getRing s y r).desc = 1) →
      ∃ t, exec i s = .next t ∧ (getMod t start).pealStat = 0 ∧ t.cores = s.cores ∧
        ∀ y ∈ visited, fget F.prState (getRing t y r).desc = (op + 1) % 3 ∧
          (op = 2 → (getRing t y r).frames = [] ∧ (getRing t y r).markers = [] ∧ ∀ n ∈ t.net, n.dst = y → ∀ j, n.body ≠ .marker r j))) ∧
  (∀ (s : State) (ring : Ring) (j : Nat) (rest : List Nat), let m := s.argA
    let r := s.argB
    ring = getRing s m r → fget F.prState ring.desc = 2 → sending s m r = false → ring.reading = none → (∀ x ∈ s.net, x.id ≠ s.nextId) →
    s.latent = [] → s.soft = [] →
    (∀ f later fid d, ring.markers = j :: rest → ring.forwards = f :: later → d = m * 16 + fget F.prFdie ring.desc → slotFrame ring d f.slot = some fid →
      ∃ t n data bad, exec .pealBlockStart s = .next t ∧ t.net = s.net ++ [n] ∧ n.body = .block r j 0 data bad f.eobw ∧
        n.dst = downstream s m ring.desc ∧ (∀ o, o < 2 ^ 18 → tget 0 data o = readByte s 0 (frameGa s d fid o)) ∧ t.mem = s.mem ∧
        (getRing t m r).markers = rest ∧ (getRing t m r).forwards = later ∧ (getRing t m r).reading = some f.slot ∧
        fget F.prBlkOut (getRing t m r).desc = (fget F.prBlkOut ring.desc + 1) % 2 ^ 64) ∧
    (∀ k, ring.markers = j :: k :: rest → ring.forwards = [] → ring.nextLocal < fget F.prSrcN ring.desc →
      ∃ t n data bad, exec .pealBlockStart s = .next t ∧ t.net = s.net ++ [n] ∧
        n.body = .block r j 0 data bad (BitVec.ofNat 64 (m * 2 ^ 48 + r * 2 ^ 40 + ring.nextLocal)) ∧
        n.dst = downstream s m ring.desc ∧ (getRing t m r).markers = k :: rest ∧ (getRing t m r).nextLocal = ring.nextLocal + 1 ∧ t.mem = s.mem ∧
        ∀ o, o < 2 ^ 18 → tget 0 data o = readByte s 0 (m * 2 ^ 48 + fget F.prSrcBase ring.desc + ring.nextLocal * 2 ^ 18 + o))) ∧
  (∀ (s : State) (m : Msg) (r j d fid n : Nat) (data : List Host.Cell) (eobw : Word) (e : BitVec 256) (ring : Ring),
    findMsg s s.argA = some m → s.argV = 0 → m.body = .block r j 0 data [] eobw → ring = getRing s m.dst r → fget F.prState ring.desc = 2 →
    (ring.frames.filter fun f => f.2.1 == j) = [(d, j, fid)] → d / 16 = m.dst → ring.released = [] → s.saves = [] → s.poison = [] →
    (getDie s d).arrival = [(n, e)] → fget F.arV e = 1 → fget F.arRing e = r → fget F.arSlot e = j →
    ∃ t, exec .pealBlockArrive s = .next t ∧ Rules.gone s t m ∧ (∀ o, o < 2 ^ 18 → readByte t 0 (frameGa s d fid o) = tget 0 data o) ∧
      fget F.arEob (arrivalEntry t d n) = 1 ∧ fget F.arEobw (arrivalEntry t d n) = eobw.toNat ∧ fget F.arArr (arrivalEntry t d n) = 2 ^ 18 ∧
      fget F.arBseq (arrivalEntry t d n) = (fget F.arBseq e + 1) % 65536 ∧ tget (0, none) (getRing t m.dst r).blocks j = (2 ^ 18, some eobw)) ∧
  (∀ (s : State) (j n : Nat) (e : BitVec 256), let m := s.argA
    let r := s.argB
    let d := m * 16 + fget F.prFdie (getRing s m r).desc
    (getRing s m r).reading = some j → (getDie s d).arrival = [(n, e)] → fget F.arV e = 1 → fget F.arRing e = r → fget F.arSlot e = j →
    ∃ t, exec .pealForwardReadDone s = .next t ∧ (getRing t m r).reading = none ∧ t.mem = s.mem ∧
      ((∀ f ∈ (getRing s m r).forwards, f.slot ≠ j) → fget F.arEob (arrivalEntry t d n) = 0 ∧ fget F.arArr (arrivalEntry t d n) = 0) ∧
      ((∃ f ∈ (getRing s m r).forwards, f.slot = j) → t.dies = s.dies ∧ t.net = s.net)) ∧
  (∀ (s : State) (m : Msg) (r j : Nat), findMsg s s.argA = some m → mayPerform s m = true → m.body = .marker r j →
    fget F.prState (getRing s m.dst r).desc = 2 → ∃ t, exec .releaseMarkerArrive s = .next t ∧ Rules.gone s t m ∧ t.mem = s.mem ∧
      getRing t m.dst r = { getRing s m.dst r with markers := (getRing s m.dst r).markers ++ [j] })

/-! ### Launches, pre-emption, core messages (R136, R137, R264–R276, R390–R397) -/

/-- Launch queue number and record: queue argB of die argA has started and takes the record at its head, and no error is still to be found (R390, R391, R411). -/
structure Rules.Taking (s : State) (n : Nat) (x : LQueue) (r : List Byte) : Prop where
  number : n = 4 * s.argA + s.argB ∧ s.argB < 4
  queue : x = getLq s s.argA s.argB
  ready : (getDie s s.argA).rdy.getLsbD 0 = true ∧ fget F.lqEn x.cfg = 1 ∧ x.qerr = false ∧ x.head ≠ x.tail ∧ x.launch = none ∧
    (x.cqt - x.cqh).toNat < 2 ^ fget F.lqLogCq x.cfg
  sound : s.latent = [] ∧ s.soft = []
  rcd : r = (List.range 128).map fun j => readByte s 0
    (s.argA / 16 * 2 ^ 48 + x.base.toNat + 128 * (x.head.toNat % 2 ^ fget F.lqLogSz x.cfg) + j)

/-- Sections of an image, KIND, LOAD, SIZE and FILE, from its bytes (R89). -/
def Rules.sections (s : State) (img : Nat) : List (Nat × Nat × Nat × Nat) :=
  (List.range (Rules.number s (img + 7) 1)).map fun i =>
    (Rules.number s (img + 0x40 + 16 * i) 1, Rules.number s (img + 0x44 + 16 * i) 4, Rules.number s (img + 0x48 + 16 * i) 4,
      Rules.number s (img + 0x4C + 16 * i) 4)

/-- An image lies in HBM with its sections, whose data fit the TCM and the scratchpad (R89, R264). -/
def Rules.imageFits (s : State) (img : Nat) : Prop :=
  img % 2 ^ 48 + 0x40 + 16 * Rules.number s (img + 7) 1 ≤ 2 ^ 40 ∧ ∀ x ∈ Rules.sections s img, img % 2 ^ 48 + x.2.2.2 + x.2.2.1 ≤ 2 ^ 40 ∧
    (x.1 = 1 → x.2.1 + x.2.2.1 ≤ 131072) ∧ (x.1 = 2 → x.2.1 + x.2.2.1 ≤ 2097152)

/-- The byte that an image's sections of a KIND put at an address of their memory: that of the last section which covers it (R89, R267). -/
def Rules.loaded (s : State) (img kind o : Nat) : Option Byte :=
  (((Rules.sections s img).filter fun x => x.1 == kind && decide (x.2.1 ≤ o ∧ o < x.2.1 + x.2.2.1)).getLast?).map fun x =>
    readByte s 0 (img + x.2.2.2 + (o - x.2.1))

/-- Global address of the image that a launch record names for a role (R392). -/
def Rules.image (q : Nat) (r : List Byte) (role : Nat) : Nat := q / 64 * 2 ^ 48 + Rules.value ((r.drop (0x30 + 8 * role)).take 6)

/-- Barrier entries of a launch's set-up block: level, instance, EXPECT (R394). -/
def Rules.setup (s : State) (q : Nat) (r : List Byte) : List (Nat × Nat × Nat) :=
  let a := q / 64 * 2 ^ 48 + Rules.value ((r.drop 0x58).take 6)
  (List.range (Rules.number s a 1 % 64)).map fun i =>
    let w := Rules.number s (a + 0x20 + 16 * i) 8
    (w / 2 ^ 8 % 4, w / 2 ^ 16 % 256, w / 2 ^ 32)

/-- Instances at a level are set as the set-up block says, the last entry for an instance counting (R394). -/
def Rules.instancesSet (s t : State) (q : Nat) (r : List Byte) (level : Nat) (place : Nat → Nat) : Prop :=
  ∀ b, ((Rules.setup s q r).filter fun x => x.1 == level && x.2.1 == b.2.1).getLast? = some b →
    getBar t (place b.2.1) = BitVec.ofNat 128 (b.2.2 * 2 ^ 32)

/-- The queue has answered with a completion record in host memory (R396): tag, status, code, node, runs, amount, head and queue. -/
structure Rules.Completed (s t : State) (d q : Nat) (x : LQueue) (tag head status code node runs amount : Nat) : Prop where
  rcd : hostRead t (x.cq.toNat / 32 * 32 + 32 * (x.cqt.toNat % 2 ^ fget F.lqLogCq x.cfg)) 32 =
    Rules.bytesOf (BitVec.ofNat 64 tag) 8 ++ Rules.bytesOf (BitVec.ofNat 64 (status + code * 2 ^ 8 + node * 2 ^ 16 + runs * 2 ^ 32)) 8 ++
    Rules.bytesOf (BitVec.ofNat 64 amount) 8 ++ Rules.bytesOf (BitVec.ofNat 64 (head + (d % 16 * 4 + q) * 2 ^ 32)) 8
  queue : (getLq t d q).cqt = x.cqt + 1 ∧ (getLq t d q).launch = none
  vector : (getMod t (d / 16)).msix = (getMod s (d / 16)).msix ++ [d % 16 * 4 + q]

/-- R264–R268, R391, R393, R396, R397: a record that fails a check completes with its code, else its launch waits for cores; a graph whose first
node is END completes. A waiting launch that can takes its clusters' cores, or has lower launches pre-empted. A cluster is prepared: scrubbed where it
must be, data and code loaded from the images, barriers set; its cores get the state in which a launch starts them, and start messages leave at ENTRY.
When every core has stopped and all is performed, the launch completes. A waiting launch one of whose clusters has been retired since its check completes
with code 2 (the model's reading, notes/assumptions 98). Record and node bytes that are poisoned or outside HBM are read as they stand (the model's reading,
95), a cluster is prepared with its start messages in one step (100), an odd ENTRY starts at its halfword (150), and a byte of the instruction store that
no code section covers reads 0 (the model's choices, 163). -/
def Obligations.LaunchesRunToTheirCompletion : Prop :=
  (∀ (s : State) (n : Nat) (x : LQueue) (r : List Byte) (s1 : State), Rules.Taking s n x r →
    s1 = modLq s s.argA s.argB (fun y => { y with head := y.head + 1 }) →
    (∀ code amount, recKind r ≠ 1 → checkLaunch s1 n r = some (code, amount) → ∃ t, exec .launchTake s = .next t ∧
      Rules.Completed s t s.argA s.argB x (Rules.value (r.take 8)) x.head.toNat 1 code 0 0 amount ∧ (getLq t s.argA s.argB).head = x.head + 1 ∧ t.mem = s.mem) ∧
    (recKind r ≠ 1 → checkLaunch s1 n r = none → ∃ t l, exec .launchTake s = .next t ∧ (getLq t s.argA s.argB).launch = some l ∧ l.rcd = r ∧
      l.taken = false ∧ l.graph = none ∧ l.prio = (Rules.value ((r.drop 8).take 1)) / 4 % 4 ∧ l.tenant = fget F.lqTen x.cfg ∧
      l.clusters = clustersOf (targetsOf n r) ∧ (getLq t s.argA s.argB).head = x.head + 1 ∧ t.mem = s.mem ∧ t.cores = s.cores) ∧
    (recKind r = 1 → fget F.lqTen x.cfg = 0 → ∃ t, exec .graphStart s = .next t ∧
      Rules.Completed s t s.argA s.argB x (Rules.value (r.take 8)) x.head.toNat 1 10 0 0 0 ∧ t.mem = s.mem) ∧
    (recKind r = 1 → fget F.lqTen x.cfg ≠ 0 → (tget 0 (getMod s (s.argA / 16)).tenants (fget F.lqTen x.cfg)).getLsbD 63 = true → badGraph r = none →
      0 < recNnode r → Rules.number s (n / 64 * 2 ^ 48 + recGraph r) 8 % 16 = 0 → ∃ t, exec .graphStart s = .next t ∧
        Rules.Completed s t s.argA s.argB x (Rules.value (r.take 8)) x.head.toNat 0 0 0 0 0 ∧ t.mem = s.mem)) ∧
  (∀ (s : State) (l : Launch) (n c : Nat), n = 4 * s.argA + s.argB → s.argB < 4 → launchAt s n = some l → l.clusters = [c] →
    (waitingLaunches s (s.argA / 16)).find? (canTake s) = some n →
    (lowerOn s c n = [] → ∃ t, exec .takeCores s = .next t ∧ launchAt t n = some { l with taken := true } ∧
      (getCluster t c).prepare = (getCluster s c).prepare ++ [n] ∧ t.mem = s.mem ∧
      (∀ g, g ∈ targetsOf n l.rcd → clusterOf g = c → (getCore t g).launch = some n) ∧
      ∀ g, g ∉ targetsOf n l.rcd ∨ clusterOf g ≠ c → getCore t g = getCore s g) ∧
    (lowerOn s c n ≠ [] → ∃ t, exec .takeCores s = .next t ∧ launchAt t n = some { l with taken := true } ∧ t.cores = s.cores ∧
      (getCluster t c).preemptFor = some n ∧ t.mem = s.mem)) ∧
  (∀ (s : State) (l : Launch) (n g : Nat), n = 4 * s.argA + s.argB → s.argB < 4 → launchAt s n = some l → l.taken = false → l.graph = none →
    (targetsOf n l.rcd).find? (fun g => !(getDie s (dieOf g)).rdyCl.getLsbD (clusterOf g % 128)) = some g → ∃ t, exec .takeCores s = .next t ∧
      Rules.Completed s t s.argA s.argB (getLq s s.argA s.argB) l.tag.toNat (l.head % 2 ^ 32) 1 2 0 0 (g % 131072) ∧ t.mem = s.mem ∧ t.cores = s.cores) ∧
  (∀ (s : State) (l : Launch) (q : Nat) (rest : List Nat), let c := s.argA
    (getCluster s c).prepare = q :: rest → launchAt s q = some l → l.begun = true →
    ∃ t, exec .clusterPrepare s = .next t ∧ (getCluster t c).prepare = rest ∧ (getCluster t c).tenant = l.tenant ∧
      (∀ g, g ∉ targetsOf q l.rcd ∨ clusterOf g ≠ c → getCore t g = getCore s g) ∧
      ∀ g, g ∈ targetsOf q l.rcd → clusterOf g = c →
        (getCore t g).run = false ∧ (getCore t g).launch = some q ∧ (getCore t g).ctx = [(0, { kind := .base, priv := BitVec.ofNat 64 (l.tenant * 2 ^ 16) })] ∧
        (getCore t g).trapvec = BitVec.ofNat 64 ((if roleOf g = 3 then 0x2E0 else 0x1E0) * 64) ∧ (getCore t g).cycle = 0 ∧
        (∀ f, f = (if roleOf g = 3 then 46 else 30) ∨ f = (if roleOf g = 3 then 47 else 31) →
          (getCore t g).frameV.getLsbD f = true ∧ (getCore t g).frameX.getLsbD f = true) ∧
        ∃ m ∈ t.net, m.dst = modOf g ∧
          m.body = .launchStart g (BitVec.ofNat 16 (Rules.number t (Rules.image q l.rcd (roleOf g) + 8) 2) &&& 0xFFFE) false) ∧
  (∀ (s : State) (l : Launch) (q : Nat) (rest : List Nat), let c := s.argA
    let scrub := ((launchesOn s c).all fun o => o == q || rest.contains o) && (recScrub l.rcd || (getCluster s c).tenant != l.tenant)
    (getCluster s c).prepare = q :: rest → launchAt s q = some l → l.begun = true → (∀ v ∈ s.saves, v.area % 2 ^ 48 + 2 ^ 24 ≤ 2 ^ 40) →
    (∀ g ∈ targetsOf q l.rcd, clusterOf g = c → Rules.imageFits s (Rules.image q l.rcd (roleOf g))) →
    ∃ t, exec .clusterPrepare s = .next t ∧
      (∀ g o, g ∈ coresIn c → o < 0x20000 → readByte t 0 (gaTcm g o) =
        (if g ∈ targetsOf q l.rcd then Rules.loaded s (Rules.image q l.rcd (roleOf g)) 1 o else none).getD
          (if scrub then 0 else readByte s 0 (gaTcm g o))) ∧
      (∀ o, o < 0x200000 → readByte t 0 (gaSpad c o) =
        ((List.range 4).foldl (fun b role => if (targetsOf q l.rcd).any fun g => clusterOf g == c && roleOf g == role then
            (Rules.loaded s (Rules.image q l.rcd role) 2 o).or b else b) none).getD (if scrub then 0 else readByte s 0 (gaSpad c o))) ∧
      (∀ a, placeIn c a = none → readByte t 0 a = readByte s 0 a) ∧
      (∀ dw, dw ∈ t.full ↔ dw ∈ s.full ∧ ¬ (scrub = true ∧ (placeIn c (8 * dw)).isSome = true)) ∧
      (∀ g o, g ∈ targetsOf q l.rcd → clusterOf g = c → o < (if roleOf g = 3 then 0xB800 else 0x7800) →
        tget 0 (getCore t g).code o = (Rules.loaded s (Rules.image q l.rcd (roleOf g)) 0 o).getD 0) ∧
      (recSetup l.rcd ≠ 0 → setupOk s q l.rcd = true → Rules.instancesSet s t q l.rcd 0 (gaBarCluster c)) ∧
      ∀ i, i < 256 → recSetup l.rcd = 0 → getBar t (gaBarCluster c i) = if scrub then 0 else getBar s (gaBarCluster c i)) ∧
  (∀ (s : State) (l : Launch) (q grp : Nat) (rest : List Nat), let c := s.argA
    q < 65536 → (getCluster s c).prepare = q :: rest → launchAt s q = some l → l.begun = false → recSetup l.rcd ≠ 0 → setupOk s q l.rcd = true →
    grp = Rules.number s (q / 64 * 2 ^ 48 + recSetup l.rcd + 8) 8 / 2 ^ 48 % 2 ^ 15 →
    ∃ t, exec .clusterPrepare s = .next t ∧ (∃ x, launchAt t q = some x ∧ x.begun = true ∧ x.rcd = l.rcd) ∧
      (∀ g ∈ targetsOf q l.rcd, Rules.instancesSet s t q l.rcd 1 (gaBarDie (dieOf g))) ∧ Rules.instancesSet s t q l.rcd 2 (gaBarModule (q / 64)) ∧
      (grp / 32 = q / 64 → Rules.instancesSet s t q l.rcd 3 (gaBarFabric grp))) ∧
  (∀ (s : State) (l : Launch) (n : Nat), n = 4 * s.argA + s.argB → s.argB < 4 → launchAt s n = some l →
    (launchDone s n l = true → l.graph = none → ∃ t, exec .launchRetire s = .next t ∧
      Rules.Completed s t s.argA s.argB (getLq s s.argA s.argB) l.tag.toNat (l.head % 2 ^ 32) 0 0 0 1 0 ∧ t.mem = s.mem ∧
      ∀ g, (getCore t g) = if (getCore s g).launch = some n then { getCore s g with launch := none } else getCore s g) ∧
    ((∃ g, (getCore s g).launch = some n ∧ (getCore s g).run = true) → (∀ g, (getCore s g).comb = []) → exec .launchRetire s = .next s))

/-- The message goes back to its source with a status word (R136, R137). -/
def Rules.status (s t : State) (m : Msg) (v : Nat) (dest : Dest) : Prop :=
  Rules.turned s t m { Rules.back m (.reply (Rules.bytesOf (BitVec.ofNat 64 v) 8) none dest) with listed := m.listed, refused := m.refused }

/-- R46, R135–R137, R156, R267, R268: a start message starts a READY core that is stopped: slot 0 at its entry and level, CYCLE, INSTRET and EV 0, in
COMPUTE; it answers 0, or 1 for a core that runs and 2 for one that cannot be reached. The launch unit's message starts slot 0 at its entry. A stop message
stops a core, once, and answers 0 once no write of the core is held or under way, or 1 for a core that was stopped and 2 for one that cannot be reached. That `cstart` sets INSTRET to 0, which
R136 does not list, is the model's reading (notes/assumptions 33). -/
def Obligations.CoreMessagesStartAndStop : Prop :=
  ∀ (s : State) (m : Msg), findMsg s s.argA = some m → m.here = m.dst →
    (∀ tgt xb dest g, m.body = .start tgt xb dest → g = m.src / 131072 * 131072 + tgt →
      (reachable s (m.src / 131072) tgt = true → (getCore s g).run = false → ∃ t, exec .coreStartMessage s = .next t ∧ Rules.status s t m 0 dest ∧
        (getCore t g).run = true ∧ (getCore t g).cycle = 0 ∧ (getCtx t g 0).pc = BitVec.ofNat 16 (xb.toNat % 65536) &&& 0xFFFE ∧
        (getCtx t g 0).instret = 0 ∧ fget F.lvl (getCtx t g 0).priv = xb.toNat / 65536 % 2 ∧ (getCtx t g 0).x = (getCtx s g 0).x ∧
        (getCtx t g 0).mode = .running ∧ (getCore t g).phase = 0 ∧ (getCore t g).ev = false ∧ t.mem = s.mem ∧ ∀ h, h ≠ g → getCore t h = getCore s h) ∧
      (reachable s (m.src / 131072) tgt = true → (getCore s g).run = true → ∃ t, exec .coreStartMessage s = .next t ∧ Rules.status s t m 1 dest ∧
        t = { s with net := t.net }) ∧
      (reachable s (m.src / 131072) tgt = false → ∃ t, exec .coreStartMessage s = .next t ∧ Rules.status s t m 2 dest ∧ t = { s with net := t.net })) ∧
    (∀ g entry, m.body = .launchStart g entry false → (∀ k, 1 ≤ k → (getCtx s g k).mode = .free) → (getCore s g).preempting = false →
      ∃ t, exec .coreStartMessage s = .next t ∧ Rules.gone s t m ∧ (getCore t g).run = true ∧ (getCtx t g 0).pc = entry ∧
        (getCtx t g 0).mode = .running ∧ (getCore t g).cycle = 0 ∧ (getCore t g).ev = false ∧ t.mem = s.mem ∧ ∀ h, h ≠ g → getCore t h = getCore s h) ∧
    (∀ tgt dest did g, m.body = .stop tgt dest did → g = m.src / 131072 * 131072 + tgt →
      (reachable s (m.src / 131072) tgt = true → (getCore s g).run = true → did = false → ∃ t, exec .coreStopMessage s = .next t ∧ (getCore t g).run = false ∧ (getCore t g).comb = [] ∧ t.mem = s.mem ∧
        ∀ h, h ≠ g → (getCore t h).run = (getCore s h).run) ∧
      (reachable s (m.src / 131072) tgt = true → (getCore s g).run = false → did = false →
        ∃ t, exec .coreStopMessage s = .next t ∧ Rules.status s t m 1 dest ∧ t = { s with net := t.net }) ∧
      (reachable s (m.src / 131072) tgt = false → did = false →
        ∃ t, exec .coreStopMessage s = .next t ∧ Rules.status s t m 2 dest ∧ t = { s with net := t.net }) ∧
      (did = true → (getCore s g).comb = [] → (∀ x ∈ s.net, x.src ≠ g) →
        ∃ t, exec .coreStopMessage s = .next t ∧ Rules.status s t m 0 dest ∧ t = { s with net := t.net }))

/-- A core that has nothing to wait for but its base context, at user level (R274). -/
structure Rules.Idle (s : State) (g : Nat) : Prop where
  runs : (getCore s g).run = true ∧ (getCore s g).saved = false ∧ (getCore s g).slot = 0 ∧ (getCtx s g 0).mode = .running
  slots : ∀ k, 1 ≤ k → (getCtx s g k).mode = .free
  core : (getCore s g).vq = [] ∧ (getCore s g).vjob = none ∧ (getCore s g).capture = [] ∧ (getCore s g).cmds = [] ∧ (getCore s g).comb = []
  ports : (getCore s g).port0.length + (getCore s g).deposit0.length ≤ 8 ∧ (getCore s g).port1.length + (getCore s g).deposit1.length ≤ 8
  level : fget F.lvl (getCtx s g 0).priv = 0
  owes : owesWrite s g 0 = false
  away : (∀ m ∈ s.net, m.src ≠ g ∧ ∀ key e, m.body ≠ .exchangeBegin key e) ∧ (getCluster s (clusterOf g)).mapOps = []

/-- Where the save record of a core lies in a cluster's save area (R395). -/
def Rules.recordOf (area g : Nat) : Nat := area + 0xB00000 + 0x10000 * (g % 64)

/-- R273–R276, R395: a core of a lower launch writes its save record, and takes the pre-emption trap at user level. A cluster whose cores have stopped is
copied to its save area and given to the higher launch; an access by a launch that is away is performed there; and when no launch holds or needs the
cluster, its bytes and its launch come back, the core's vector registers and matrix queue from the bytes of its record. Their places in the record are the
model's (notes/assumptions 38), and the restore entry is open (notes/assumptions 8). -/
def Obligations.PreemptionSavesAndRestores : Prop :=
  (∀ (s : State) (q o base : Nat), let g := s.argA
    base = Rules.recordOf (modOf g * 2 ^ 48 + (getCluster s (clusterOf g)).saveBase.toNat) g →
    (∀ v ∈ s.saves, base + 0x10000 ≤ v.area ∨ v.area + 0x1000000 ≤ base) → Rules.Idle s g → preempting s (clusterOf g) = some q → (getCore s g).launch = some o → o ∈ lowerOn s (clusterOf g) q →
    ∃ t r, exec .preempt s = .next t ∧ (getCore t g).saved = true ∧ (getCore t g).run = true ∧ tget {} t.records g = r ∧ r.run = false ∧
      (tget {} r.ctx 0).x = (getCtx s g 0).x ∧ (tget {} r.ctx 0).pc = (getCtx s g 0).pc ∧
      (∀ a, a < base ∨ base + 0x10000 ≤ a → readByte t 0 a = readByte s 0 a) ∧
      (∀ i, i < 16 → Rules.number t (base + 0x1800 + 256 * i) 256 = (tget 0 (getCore s g).v i).toNat) ∧
      (getCtx t g 0).trapPc = (getCtx s g 0).pc.zeroExtend 64 ∧ (getCtx t g 0).trapCause = 0x8000000000000000 ∧ (getCtx t g 0).trapVal = 0 ∧
      fget F.lvl (getCtx t g 0).priv = 1 ∧ (getCtx t g 0).pc = BitVec.ofNat 16 (64 * fget F.tvBase (getCore s g).trapvec) ∧
      (getCtx t g 0).x = (getCtx s g 0).x ∧ ∀ h, h ≠ g → getCore t h = getCore s h) ∧
  (∀ (s : State) (q o area : Nat), let c := s.argA
    preempting s c = some q → lowerOn s c q = [o] → area = areaFor s o c → Memory.wf s.mem = true →
    (∀ v ∈ s.saves, area + 0x1000000 ≤ v.area ∨ v.area + 0x1000000 ≤ area) →
    (∀ g, g ∈ coresIn c → (getCore s g).launch = some o → stopDone s g = true ∧ (getCore s g).saved = false) →
    ∃ t v, exec .clusterSave s = .next t ∧ t.saves = s.saves ++ [v] ∧ v.cluster = c ∧ v.queues = [o] ∧ v.area = area ∧
      (∀ i, i < 0x880000 → rawByte t (area + i) = rawByte s (placeGa c i)) ∧ (getCluster t c).prepare = (getCluster s c).prepare ++ [q] ∧
      (getCluster t c).preemptFor = none ∧ ∀ g, g ∈ coresIn c → (getCore s g).launch = some o → (getCore t g).launch ≠ some o ∨ o = q) ∧
  (∀ (s : State) (m : Msg) (ga n : Nat) (va : Word) (dest : Dest), findMsg s s.argA = some m → mayPerform s m = true → m.key = 0 →
    m.body = .access (.load n) ga va dest → dest.strm = 0 → 0 < n → redirect s m.src ga ≠ ga → s.latent = [] → s.soft = [] → poisoned s (redirect s m.src ga) n = none →
    isWindow (redirect s m.src ga) = false → (∀ d o, region (redirect s m.src ga) ≠ .frame d o) →
    ∃ t, exec .savedCopyAccess s = .next t ∧ t.mem = s.mem ∧ t.cores = s.cores ∧
      Rules.turned s t m (Rules.back m (.reply ((List.range n).map fun j => readByte s 0 (redirect s m.src ga + j)) none dest))) ∧
  (∀ (s : State) (v : SavedCluster) (g o : Nat) (r : Core), let c := s.argA
    nextSave s c = some v → v.owned = [(g, o)] → v.cores = [(g, r)] → v.stopped = [] → (getCore s g).launch = none →
    (∀ i, i < 0x10000 → placeIn c (Rules.recordOf v.area g + i) = none) → r.dommem = 0 → launchesOn s c = [] → (getCluster s c).prepare = [] →
    (getCluster s c).preemptFor = none → (∀ prio, needed s c prio = false) → (getCluster s c).tenant = v.tenant → Memory.wf s.mem = true →
    ∃ t m, exec .launchResume s = .next t ∧ (∀ w, w ∈ t.saves ↔ w ∈ s.saves ∧ ¬ (w.area = v.area ∧ w.cluster = c)) ∧
      (∀ i, i < 0x880000 → rawByte t (placeGa c i) = rawByte s (v.area + i)) ∧ (getCluster t c).ready = v.ready ∧
      (getCluster t c).tcbCount = v.tcbCount ∧ (getCore t g).launch = some o ∧
      (∀ n, n = Rules.number s (Rules.recordOf v.area g + 0x7000) 8 → n ≤ 28 →
        (∀ i, i < n → Rules.number s (Rules.recordOf v.area g + 0x7130 + 64 * i) 8 % 16 < 5 ∧
          Rules.number s (Rules.recordOf v.area g + 0x7130 + 64 * i) 8 / 16 < 10) →
        (getCore t g).cmds.length = n ∧ ∀ i, i < n → ∃ x, (getCore t g).cmds[i]? = some x ∧ x.started = false ∧
          x.desc = BitVec.ofNat 256 (Rules.number s (Rules.recordOf v.area g + 0x7100 + 64 * i) 32) ∧
          x.pos = BitVec.ofNat 64 (Rules.number s (Rules.recordOf v.area g + 0x7120 + 64 * i) 8)) ∧
      (getCore t g).credits = Rules.number s (Rules.recordOf v.area g + 0x7008) 8 ∧
      (∀ i, i < 16 → tget 0 (getCore t g).v i = BitVec.ofNat 2048 (Rules.number s (Rules.recordOf v.area g + 0x1800 + 256 * i) 256)) ∧
      t.net = s.net ++ [m] ∧ ∃ entry, m.body = .launchStart g entry true ∧ entry.getLsbD 0 = false)

/-! ### Registers, the host, firmware (R284, R318, R319, R329, R389–R391, R399, R403, R406, R408, R415, R422, R425) -/

/-- Only one die, or one module, has changed. -/
def Rules.onlyDie (s t : State) (d : Nat) : Prop := t = { s with dies := t.dies } ∧ ∀ e, e ≠ d → getDie t e = getDie s e
def Rules.onlyMod (s t : State) (m : Nat) : Prop := t = { s with mods := t.mods } ∧ ∀ e, e ≠ m → getMod t e = getMod s e

/-- The walks of the cores named begin anew, and nothing else of a core has changed (R249). -/
def Rules.walksBeginAnew (s t : State) (mine : Nat → Prop) : Prop :=
  ∀ g, getCore t g = { getCore s g with ctx := (getCore t g).ctx } ∧ ∀ k,
    (∀ va n, mine g → (getCtx s g k).mode = .waiting (.walk va n) → getCtx t g k = { getCtx s g k with mode := .waiting (.walk va none) }) ∧
    (¬ mine g ∨ (∀ va n, (getCtx s g k).mode ≠ .waiting (.walk va n)) → getCtx t g k = getCtx s g k)

/-- R390, R391, R284, R249, R399, R403, R422: LQTAIL takes the tail, and one further ahead than the ring is long stops a queue that is on. LQCFG changes its fields
while EN = 0 and BUSY = 0, else EN alone; EN from 0 to 1 ends an error and sets HEAD to TAIL. The spilled area is taken while no frame is spilled. TBINV
removes its translations unless it is busy; that walks under way then begin anew, and that it is over once no access is held or under way, are the model's
readings (notes/assumptions 35). A cluster retired, READY or not, is READY no more, and its record with RETIRE = 1 is to be
appended; before the first install that record holds the stored map (notes/assumptions 122). Without power none of this happens (R400). -/
def Obligations.DieRegistersTakeTheirWrites : Prop :=
  ∀ (s : State),
    (∀ x, x = getLq s s.argA s.argB → powered s (s.argA / 16) = true →
      let far := fget F.lqEn x.cfg = 1 ∧ x.qerr = false ∧ 2 ^ fget F.lqLogSz x.cfg < (s.argV.setWidth 32 - x.head).toNat
      (∃ t, exec .lqtailDoorbell s = .next t ∧ t.mem = s.mem ∧ t.cores = s.cores ∧ (∀ q, q ≠ s.argB → getLq t s.argA q = getLq s s.argA q) ∧
        (far → getLq t s.argA s.argB = { x with tail := s.argV.setWidth 32, qerr := true }) ∧
        (¬far → getLq t s.argA s.argB = { x with tail := s.argV.setWidth 32 } ∧ Rules.onlyDie s t s.argA)) ∧
      (∃ t y, exec .lqcfgEnWrite s = .next t ∧ Rules.onlyDie s t s.argA ∧ getLq t s.argA s.argB = y ∧
        (∀ q, q ≠ s.argB → getLq t s.argA q = getLq s s.argA q) ∧ fget F.lqEn y.cfg = fget F.lqEn s.argV ∧
        (∀ f, f = F.lqTen ∨ f = F.lqLogCq ∨ f = F.lqLogSz →
          fget f y.cfg = if fget F.lqEn x.cfg = 0 ∧ x.launch = none then fget f s.argV else fget f x.cfg) ∧
        (fget F.lqEn x.cfg = 0 → fget F.lqEn s.argV = 1 → y.qerr = false ∧ y.head = x.tail) ∧
        (fget F.lqEn x.cfg = 1 ∨ fget F.lqEn s.argV = 0 → y.qerr = x.qerr ∧ y.head = x.head))) ∧
    (∀ x lo, x = getDie s s.argA → powered s (s.argA / 16) = true → lo = s.argA % 16 * 2 ^ 36 →
      ((∀ e ∈ x.frames, fget F.frLoc e.2 = 0) →
        (∀ n, s.argB = 1 → n = s.argV.toNat % 65536 → n ≤ 59392 → lo ≤ x.spBase.toNat → x.spBase.toNat + n * 2 ^ 18 ≤ lo + 2 ^ 36 →
          ∃ t, exec .spillwayAreaWrite s = .next t ∧ Rules.onlyDie s t s.argA ∧ getDie t s.argA = { x with spCount := BitVec.ofNat 64 n }) ∧
        (∀ n base, s.argB ≠ 1 → n = x.spCount.toNat % 65536 → base = s.argV.toNat / 2 ^ 18 % 2 ^ 30 * 2 ^ 18 → n ≤ 59392 → lo ≤ base →
          base + n * 2 ^ 18 ≤ lo + 2 ^ 36 → ∃ t, exec .spillwayAreaWrite s = .next t ∧ Rules.onlyDie s t s.argA ∧
            getDie t s.argA = { x with spBase := BitVec.ofNat 64 base, spCount := BitVec.ofNat 64 n })) ∧
      ((∃ e ∈ x.frames, fget F.frLoc e.2 = 1 ∧ fget F.frKind e.2 ≠ 0) → exec .spillwayAreaWrite s = .next s)) ∧
    (∀ (v : Word) (hit : TlbEntry → Prop), v = s.argV →
      (∀ e, hit e ↔ e.tenant = v.toNat / 2 ^ 48 % 4096 ∧ (v.getLsbD 62 = true ∨
        e.base ≤ v.toNat / 2 ^ 18 % 2 ^ 30 * 2 ^ 18 ∧ v.toNat / 2 ^ 18 % 2 ^ 30 * 2 ^ 18 < e.base + e.size)) →
      ((getCluster s s.argA).tbinv.getLsbD 63 = true → exec .tbinvWrite s = .next s) ∧
      ((getCluster s s.argA).tbinv.getLsbD 63 = false → powered s (s.argA / 2048) = true → v.getLsbD 63 = true → ∃ t, exec .tbinvWrite s = .next t ∧
        t = { s with clusters := t.clusters, cores := t.cores } ∧ Rules.walksBeginAnew s t (fun g => clusterOf g = s.argA) ∧
        (getCluster t s.argA).tbinv.getLsbD 63 = true ∧ (∀ e, e ∈ (getCluster t s.argA).tlb ↔ e ∈ (getCluster s s.argA).tlb ∧ ¬ hit e) ∧
        ∀ c, c ≠ s.argA → getCluster t c = getCluster s c) ∧
      ((getMod s s.argA).tbinvm.getLsbD 63 = false → powered s s.argA = true → v.getLsbD 63 = true → ∃ t, exec .tbinvmWrite s = .next t ∧
        t = { s with clusters := t.clusters, cores := t.cores, mods := t.mods } ∧ Rules.walksBeginAnew s t (fun g => modOf g = s.argA) ∧
        (getMod t s.argA).tbinvm.getLsbD 63 = true ∧
        ∀ c e, e ∈ (getCluster t c).tlb ↔ e ∈ (getCluster s c).tlb ∧ ¬ (c / 2048 = s.argA ∧ hit e))) ∧
    ((getCluster s s.argA).tbinv.getLsbD 63 = true → (∀ g, (getCore s g).comb = [] ∧ (getCore s g).vjob = none) → s.net = [] →
      ∃ t, exec .tbinvComplete s = .next t ∧ (getCluster t s.argA).tbinv = (getCluster s s.argA).tbinv &&& 0x7FFFFFFFFFFFFFFF ∧ t.cores = s.cores ∧
        t.mem = s.mem ∧ (getMod t (s.argA / 2048)).tbinvm.getLsbD 63 = false) ∧
    (∀ d c, d = s.argA / 128 → c = s.argA % 128 → powered s (s.argA / 2048) = true → ∃ t r, exec .rdyclRetire s = .next t ∧ t.mem = s.mem ∧
      t.cores = s.cores ∧ (∀ n, n < 128 → (getDie t d).rdyCl.getLsbD n = ((getDie s d).rdyCl.getLsbD n && n != c)) ∧
      (getMod t (d / 16)).journalDue = (getMod s (d / 16)).journalDue ++ [r] ∧ (getCluster t s.argA).retired = true ∧
      r = { cl := s.argA % 2048, gen := (getCluster s s.argA).mapGen, retire := true, change := false,
            map := if (getCluster s s.argA).mapGen = 0 then (storedMap s s.argA).1 else (List.range 16).map (tget 0 (getCluster s s.argA).fmap) }) ∧
    -- without power
    (∀ i, i = .lqtailDoorbell ∨ i = .lqcfgEnWrite ∨ i = .spillwayAreaWrite → powered s (s.argA / 16) = false → exec i s = .next s) ∧
    (∀ i, i = .tbinvWrite ∨ i = .rdyclRetire → powered s (s.argA / 2048) = false → exec i s = .next s) ∧
    (∀ i, i = .tbinvmWrite ∨ i = .fabcfgWrite ∨ i = .linkstatEnWrite ∨ i = .stripeSetWrite ∨ i = .keyctlWrite ∨ i = .pcapWrite ∨ i = .flitReplay →
      powered s s.argA = false → exec i s = .next s) ∧
    (∀ i, i = .registerWrite ∨ i = .patrolScrubVisit → powered s (s.argA / 2 ^ 48) = false → exec i s = .next s)

/-- Flash with other bytes in the copy of a number. -/
def Rules.copyAs (f : Flash) (copy : Bool) (b : List Byte) : Flash := if copy then { f with bundleB := b } else { f with bundleA := b }

/-- R318, R319, R329, R399, R406, R408, R415, R425, R429: FABCFG is taken while no port is enabled; LINKSTAT enables ports, and one that is not enabled falls. A
stripe set's members and its NPEER are taken; KEYCTL with GO makes the key written the key of its index; PCAP is clamped. A trap image and a bundle are checked
and used, or refused with their result; a bundle's write waits for the journal, and takes the values that stood when GO was written. A tenant's entry takes
its bits; a read-only window ignores a write. Without power none of this happens (R400). The order of the checks and a flash write that fails with bit 0 of the operand are the model's reading
(notes/assumptions 117), a trap image's payload of 4,096 bytes too (118), and a copy whose write failed is erased by the model's choice (159). -/
def Obligations.ModuleRegistersTakeTheirWrites : Prop :=
  ∀ (s : State) (m : Nat) (x : Mod) (v : Word), m = s.argA → x = getMod s m → v = s.argV →
    ((∃ p, p < 8 ∧ portEn s m p = true) → exec .fabcfgWrite s = .next s) ∧
    ((∀ p, p < 8 → portEn s m p = false) → powered s m = true → dimSize (fabDims v) ≤ 1024 → ∃ t, exec .fabcfgWrite s = .next t ∧ Rules.onlyMod s t m ∧
      getMod t m = { x with fabcfg := BitVec.ofNat 64 (v.toNat / 2 ^ 13 % 2 ^ 14 * 2 ^ 13) }) ∧
    (powered s m = true → ∃ t, exec .linkstatEnWrite s = .next t ∧ t.mem = s.mem ∧ ∀ p, p < 8 → portEn t m p = v.getLsbD (8 * p + 1) ∧
      portUp t m p = (portUp s m p && v.getLsbD (8 * p + 1))) ∧
    (∀ e b, s.argB = 256 * e + b → powered s m = true →
      (b < 128 → b % 8 = 0 → ∃ t, exec .stripeSetWrite s = .next t ∧ Rules.onlyMod s t m ∧ ∀ i, tget 0 (getMod t m).stripeMem i =
        if 64 * e + b / 2 ≤ i ∧ i < 64 * e + b / 2 + 4 then BitVec.ofNat 16 (v.toNat / 2 ^ (16 * (i - (64 * e + b / 2)))) else tget 0 x.stripeMem i) ∧
      (∀ n, b = 128 → n = v.toNat % 256 → n ∈ [2, 3, 4, 5, 7, 8, 11, 13, 16, 17, 19, 23, 29, 31, 32, 37, 41, 43, 47, 53, 59, 61, 64] →
        (∀ i, i < n → inDomain s m (tget 0 x.stripeMem (64 * e + i)).toNat = true) → ∃ t, exec .stripeSetWrite s = .next t ∧ Rules.onlyMod s t m ∧
          tget 0 (getMod t m).stripeCtl e = BitVec.ofNat 64 (v.toNat / 2 ^ 63 * 2 ^ 63 + n) ∧
          ∀ i, i ≠ e → tget 0 (getMod t m).stripeCtl i = tget 0 x.stripeCtl i) ∧
      (∀ n, b = 128 → n = v.toNat % 256 → n ∉ [2, 3, 4, 5, 7, 8, 11, 13, 16, 17, 19, 23, 29, 31, 32, 37, 41, 43, 47, 53, 59, 61, 64] →
        exec .stripeSetWrite s = .next s)) ∧
    (∀ k, k = v.toNat % 64 → (v.getLsbD 63 = true → k ≠ 0 → x.rdyMod.getLsbD 2 = true → powered s m = true → ∃ t, exec .keyctlWrite s = .next t ∧ Rules.onlyMod s t m ∧
        ∀ i, tget 0 (getMod t m).keys i = if i = k then x.keywr else tget 0 x.keys i) ∧
      (v.getLsbD 63 = false ∨ k = 0 → exec .keyctlWrite s = .next s)) ∧
    (powered s m = true → ∃ t, exec .pcapWrite s = .next t ∧ Rules.onlyMod s t m ∧ getMod t m = { x with pcap := max 1500 (min 5400 (v.toNat / 2 ^ 32 % 65536)) }) ∧
    (∀ b r, x.trapstat.getLsbD 63 = true → b = readBytes s 0 (m * 2 ^ 48 + x.trapimg.toNat / 128 % 2 ^ 41 * 128) 4992 →
      (bunLen b = 4096 → r = bunCheck x.flash b) → (bunLen b ≠ 4096 → r = 3) → ∃ t, exec .trapimgInstall s = .next t ∧ t.mem = s.mem ∧ t.cores = s.cores ∧
        (getMod t m).trapstat = BitVec.ofNat 64 r ∧
        (getMod t m).trapTriad = (if r = 0 then (b.drop 512).take 2048 else x.trapTriad) ∧
        (getMod t m).trapK = (if r = 0 then ((b.drop 512).take 4096).drop 2048 else x.trapK)) ∧
    (∀ b c copy, x.fwmbStat.getLsbD 63 = true → powered s m = true → copy = x.fwmbJob.2.getLsbD 32 →
      b = hostRead s (x.fwmbJob.1.toNat / 4096 * 4096) (x.fwmbJob.2.toNat % 2 ^ 32) → c = bunCheck x.flash b →
      (x.journalDue ≠ [] → exec .fwmbUpdate s = .next s) ∧
      (x.journalDue = [] → ∃ t, exec .fwmbUpdate s = .next t ∧ Rules.onlyMod s t m ∧
        (c ≠ 0 → (getMod t m).fwmbStat = BitVec.ofNat 64 c ∧ (getMod t m).flash = x.flash) ∧
        (c = 0 → x.booted = some copy → (getMod t m).fwmbStat = 4 ∧ (getMod t m).flash = x.flash) ∧
        (c = 0 → x.booted ≠ some copy → v.getLsbD 0 = false → (getMod t m).fwmbStat = 0 ∧ (getMod t m).flash = Rules.copyAs x.flash copy b) ∧
        (c = 0 → x.booted ≠ some copy → v.getLsbD 0 = true → (getMod t m).fwmbStat = 5 ∧ (getMod t m).flash = Rules.copyAs x.flash copy []))) ∧
    (∀ n, m = gaModWin n 0x4305008 → powered s n = true → ∃ t, exec .registerWrite s = .next t ∧ Rules.onlyMod s t n ∧
      (getMod t n).fwmbCtl.toNat % 2 ^ 33 = v.toNat % 2 ^ 33 ∧
      ((getMod s n).fwmbStat.getLsbD 63 = true → (getMod t n).fwmbJob = (getMod s n).fwmbJob ∧ (getMod t n).fwmbStat.getLsbD 63 = true) ∧
      ((getMod s n).fwmbStat.getLsbD 63 = false → (v.getLsbD 63 = false → (getMod t n).fwmbStat = (getMod s n).fwmbStat) ∧
        (v.getLsbD 63 = true → (getMod t n).fwmbStat.getLsbD 63 = true ∧ (getMod t n).fwmbJob.1 = (getMod s n).fwmbAddr ∧
          (getMod t n).fwmbJob.2.toNat % 2 ^ 33 = v.toNat % 2 ^ 33))) ∧
    (∀ n w, m = gaModWin n (0x4310000 + 16 * w) → powered s n = true → 1 ≤ w → w < 4096 → ∃ t, exec .registerWrite s = .next t ∧ Rules.onlyMod s t n ∧
      tget 0 (getMod t n).tenants w = BitVec.ofNat 64 (v.toNat / 2 ^ 63 * 2 ^ 63 + v.toNat / 2 ^ 12 % 2 ^ 36 * 2 ^ 12) ∧
      ∀ i, i ≠ w → tget 0 (getMod t n).tenants i = tget 0 (getMod s n).tenants i) ∧
    (∀ d off, m = gaDieWin d off → off < 0x190000 → exec .registerWrite s = .next s)

/-- R389, R404: a host write stores its bytes at their homes, and a host read returns theirs, in the order in which the host made them; a byte of a hole reads
as all ones. That an access is judged byte by byte, that poisoned bytes read as they stand (notes/assumptions 115), and that in recovery all but the mailbox
is a hole (116), is the model's reading. -/
def Obligations.HostAccessesAreMadeInOrder : Prop :=
  ∀ (s : State) (m a : Nat) (h : HostAccess) (rest : List HostAccess), m = s.argA → (getMod s m).hostQ = h :: rest → h.bar ≠ 0 → h.bar ≠ 2 →
    a = m * 2 ^ 48 + ((getMod s m).apbase.toNat + h.off % 2 ^ 36) % 2 ^ 48 → powered s m = true → (getMod s m).rdyMod.getLsbD 1 = true →
    s.latent = [] → s.soft = [] → s.saves = [] →
    (∀ j, j < h.data.length + h.len → isWindow (a + j) = false) →
    (h.write = true → (∀ j, j < h.data.length → hostHole s (a + j) = false) → ∃ t, exec .hostWrite s = .next t ∧ StoredBytes s t a h.data ∧
      (getMod t m).hostQ = rest ∧ (∀ n, n ≠ m → getMod t n = getMod s n) ∧ t.cores = s.cores ∧ t.full = s.full) ∧
    (h.write = false → ∃ t, exec .hostRead s = .next t ∧ (getMod t m).hostQ = rest ∧ t.mem = s.mem ∧ t.cores = s.cores ∧
      (getMod t m).hostReads = (getMod s m).hostReads ++
        [(List.range h.len).map fun j => if hostHole s (a + j) then 0xFF else readByte s 0 (a + j)]) ∧
    (h.write = true → exec .hostRead s = .next s) ∧ (h.write = false → exec .hostWrite s = .next s)

/-! ### Power, bring-up, telemetry, the journal and attestation (R400–R405, R407, R411, R412, R415, R417, R418, R420–R422) -/

/-- One response has gone out for the oldest request, and nothing outside the module's responder has changed. -/
def Rules.attested (s t : State) (m : Nat) (out : List Byte) : Prop :=
  (getMod t m).spdmOut = (getMod s m).spdmOut ++ [out] ∧ (getMod t m).spdmIn = (getMod s m).spdmIn.drop 1 ∧
    t = { s with mods := t.mods, oracle := t.oracle, draws := t.draws } ∧ ∀ n, n ≠ m → getMod t n = getMod s n

/-- An ERROR response with a code and its data. -/
def Rules.refusedWith (s : State) (i : Instr) (m err : Nat) (data : Byte := 0) : Prop :=
  ∃ t, exec i s = .next t ∧ Rules.attested s t m [0x13, 0x7F, BitVec.ofNat 8 err, data] ∧ (getMod t m).spdmStage = (getMod s m).spdmStage

/-- R400–R405, R411, R412, R415, R417, R418, R420–R422: with power, the SMU takes of two good bundles the one of higher SVN, and leaves only recovery without
one; a function's last step zeroes its memory or clears its tables and sets its READY bit, the SMU's first, a cluster's with its stored map in force and that
change in the journal's queue; a window's readings refresh the telemetry, its power within the effective cap and 5,400 W, whose peaks keep the largest, and
move the cap; clocks that the governor gates are counted, and no core of the die issues in them; a module that is too hot, or lacks flow, goes off; power
takes all but flash, and a copy that is being written with it. The scrubber corrects and counts what it can, and poisons the rest. The journal takes the
oldest change, a full half first compacted; a map's change then has its commit event. How functions are numbered (notes/assumptions 119), that the minimum SVN rises with the last of them (120), 6,553 records a half
(123), at most 20 steps of the cap and which clocks are gated (124) and an upset copy (159) are the model's. So are the stored map's generation 1 and
its record (121), that a record of a retirement posts no event and a bring-up record carries it (122), that a port's READY bit is set as its function ends,
whether or not the port is up (132), the lists of errors not yet found and of correctable ones (126), the polynomial of the CRC in a record (30), and what
RSASSA-PSS and SHA-256 are taken to be (10). What a module holds after a loss of power, its registers, cores and memory at their values of reset, and
what the cores of a cluster brought up hold, is the model's choice where the spec gives no value (2, 3, 125). R407, in the layout of SPDM 1.3 (the model's choice, log entry 5): each request is
answered in its stage of the connection, challenges and measurements under the device's signature, and what is not supported with an error. -/
def Obligations.ModulesPowerUpWatchAndAttest : Prop :=
  ∀ (s : State) (m : Nat) (x : Mod), m = s.argA → x = getMod s m →
    -- power good
    (powered s m = true → exec .powerGood s = .next s) ∧
    (∀ good : List Byte → Bool, (∀ b, good b = (bunCheck x.flash (flashCopy b) == 0)) → powered s m = false →
      ∃ t, exec .powerGood s = .next t ∧ (∀ n, n ≠ m → getMod t n = getMod s n) ∧ (getMod t m).flash = x.flash ∧
        (∀ g, getCore t g = if modOf g = m then {} else getCore s g) ∧ (∀ q, getCluster t q = if q / 2048 = m then {} else getCluster s q) ∧
        (∀ d, getDie t d = if d / 16 = m then {} else getDie s d) ∧ (∀ a, tget 0 t.mem a = if a / 2 ^ 48 = m then 0 else tget 0 s.mem a) ∧
        (getMod t m).booted = (if good x.flash.bundleA ∧ (good x.flash.bundleB = false ∨ bunSvn x.flash.bundleB ≤ bunSvn x.flash.bundleA) then some false
          else if good x.flash.bundleB then some true else none) ∧
        (good x.flash.bundleA = true ∨ good x.flash.bundleB = true → (getMod t m).power = .on bringupFunctions) ∧
        (good x.flash.bundleA = false → good x.flash.bundleB = false → (getMod t m).power = .on [])) ∧
    -- bring-up
    (∀ f left, f = s.argB → x.power = .on left → f ∈ left →
      (f ≠ 0 → x.rdyMod.getLsbD 0 = false → exec .bringupFunctionReady s = .next s) ∧
      (f = 0 ∨ x.rdyMod.getLsbD 0 = true →
        (f < 3 → ∃ t, exec .bringupFunctionReady s = .next t ∧ t.mem = s.mem ∧ t.cores = s.cores ∧ (getMod t m).power = .on (left.filter (· ≠ f)) ∧
          (getMod t m).flash.minSvn = (if left.filter (· ≠ f) = [] then max x.flash.minSvn (bunSvn (bootBundle x)) else x.flash.minSvn) ∧
          ∀ i, i < 64 → (getMod t m).rdyMod.getLsbD i = (x.rdyMod.getLsbD i || i == [0, 2, 1].getD f 0)) ∧
        (∀ p, p < 8 → f = 8 + p → ∃ t, exec .bringupFunctionReady s = .next t ∧ t.mem = s.mem ∧ t.cores = s.cores ∧
          ∀ i, i < 64 → (getMod t m).rdyPort.getLsbD i = (x.rdyPort.getLsbD i || i == p)) ∧
        (∀ d k, d < 16 → k < 4 → f = 16 + 16 * k + d →
          (k = 3 → (getDie s (m * 16 + d)).rdy.getLsbD 1 = true ∧ (getDie s (m * 16 + d)).rdy.getLsbD 3 = true) →
          ∃ t, exec .bringupFunctionReady s = .next t ∧ t.cores = s.cores ∧
            (∀ a, rawByte t a = match region a with
              | .frame e _ => if k = 0 ∧ e = m * 16 + d then 0 else rawByte s a
              | _ => rawByte s a) ∧
            (∀ w, w ∈ t.full ↔ w ∈ s.full ∧ (k = 0 → ∀ o, region (8 * w) ≠ .frame (m * 16 + d) o) ∧ (k = 1 → ∀ o, region (8 * w) ≠ .hbm (m * 16 + d) o)) ∧
            (k = 1 → ∀ w o, region (8 * w) = .hbm (m * 16 + d) o → w ∉ t.poison ∧ w ∉ t.latent ∧ w ∉ t.soft) ∧
            (k = 2 → (getDie t (m * 16 + d)).scb = [] ∧ (getDie t (m * 16 + d)).frames = [] ∧ (getDie t (m * 16 + d)).arrival = []) ∧
            ∀ i, i < 64 → (getDie t (m * 16 + d)).rdy.getLsbD i = ((getDie s (m * 16 + d)).rdy.getLsbD i || i == [1, 2, 3, 0].getD k 0)) ∧
        (∀ c q gone, c < 2048 → f = 2048 + c → q = m * 2048 + c →
          gone = ((storedMap s q).2 || (getCluster s q).retired || x.journalDue.any fun r => r.cl == c && r.retire) → s.cells = [] → s.rareCells = [] → ∃ t, exec .bringupFunctionReady s = .next t ∧
          (∀ a, rawByte t a = if (placeIn q a).isSome then 0 else rawByte s a) ∧ (∀ g, getCore t g = if clusterOf g = q then {} else getCore s g) ∧
          (∀ b, b < 16 → tget 0 (getCluster t q).fmap b = (storedMap s q).1.getD b 0) ∧ (getCluster t q).mapGen = 1 ∧
          (getCluster t q).retired = gone ∧
          (getMod t m).journalDue = x.journalDue ++ [{ cl := c, gen := 1, retire := gone, map := (storedMap s q).1 }] ∧
          ∀ i, i < 128 → (getDie t (q / 128)).rdyCl.getLsbD i = ((getDie s (q / 128)).rdyCl.getLsbD i || (i == q % 128 && !gone))))) ∧
    -- telemetry
    (powered s m = true → ∃ t, exec .powerWindow s = .next t ∧ t.mem = s.mem ∧ t.cores = s.cores ∧ t.net = s.net ∧
      (∀ n, n ≠ m → getMod t n = getMod s n) ∧ (∀ d, d / 16 ≠ m → getDie t d = getDie s d) ∧ (getMod t m).ppeak = max x.ppeak (getMod t m).pwr ∧
      (getMod t m).pwr ≤ 5400 ∧ (getMod t m).pwr ≤ x.pcapNow * (20 - x.capSteps) / 20 ∧ (getMod t m).pcapNow = x.pcap ∧
      (getMod t m).lowFlow = (if (getMod t m).cool.toNat / 2 ^ 48 < 300 then x.lowFlow + 1 else 0) ∧
      (∀ d, d / 16 = m → fget ⟨16, 16⟩ (getDie t d).dtel1 = max (fget ⟨16, 16⟩ (getDie s d).dtel1) (tj t d) ∧
        getDie t d = { getDie s d with dtel1 := (getDie t d).dtel1, gateLeft := (getDie t d).gateLeft }) ∧
      ((∃ d, d / 16 = m ∧ 1520 ≤ tj t d) → (getMod t m).capSteps = min 20 (x.capSteps + 1)) ∧
      ((∀ d, d / 16 = m → tj t d < 1488) → (getMod t m).capSteps = x.capSteps - 1)) ∧
    (∀ d, let y := getDie s d; let g := decide (0 < y.gateLeft) && Config.gates d (s.now + 1)
      (getDie (clockRise s) d).gated = g ∧ (getDie (clockRise s) d).gateLeft = y.gateLeft - g.toNat ∧
      (getDie (clockRise s) d).dtel2.toNat = min (2 ^ 64 - 1) (y.dtel2.toNat + g.toNat)) ∧
    (∀ g, (getDie s (dieOf g)).gated = true → coreExists g = true → stepCore g s = .next { s with cur := g }) ∧
    -- loss of power
    ((∀ p, p < 8 → portUp s m p = false) → (∀ n ∈ s.net, n.here = m → modOf n.src = m) → powered s m = true →
      (∀ i, i = .mainPowerLoss ∨ i = .thermalShutdown ∧ ((∃ d, d / 16 = m ∧ 1760 ≤ tj s d) ∨ 720 ≤ fget ⟨0, 16⟩ x.cool ∨ 1000 ≤ x.lowFlow) →
        ∃ t f, exec i s = .next t ∧ getMod t m = { flash := f } ∧ (x.fwmbStat.getLsbD 63 = false → f = x.flash) ∧
          (∀ b copy, x.fwmbStat.getLsbD 63 = true → copy = x.fwmbJob.2.getLsbD 32 →
            b = hostRead s (x.fwmbJob.1.toNat / 4096 * 4096) (x.fwmbJob.2.toNat % 2 ^ 32) →
            f = if bunCheck x.flash b = 0 ∧ x.booted ≠ some copy then Rules.copyAs x.flash copy [] else x.flash) ∧ (∀ n, n ≠ m → getMod t n = getMod s n) ∧
          (∀ g, getCore t g = if modOf g = m then {} else getCore s g) ∧
          ∀ a, tget 0 t.mem a = if a / 2 ^ 48 = m then 0 else tget 0 s.mem a) ∧
      ((∀ d, d / 16 = m → tj s d < 1760) → fget ⟨0, 16⟩ x.cool < 720 → x.lowFlow < 1000 → exec .thermalShutdown s = .next s)) ∧
    -- the scrubber
    (scrubbed s.argA = true → powered s (s.argA / 2 ^ 48) = true → s.argV.getLsbD 63 = false → s.saves = [] →
      (s.argA / 8 ∈ s.latent → ∃ t, exec .patrolScrubVisit s = .next t ∧ t.mem = s.mem ∧ t.cores = s.cores ∧
        (∀ dw, dw ∈ t.poison ↔ dw ∈ s.poison ∨ dw = s.argA / 8) ∧ ∀ dw, dw ∈ t.latent ↔ dw ∈ s.latent ∧ dw ≠ s.argA / 8) ∧
      (s.argA / 8 ∉ s.latent → s.argA / 8 ∉ s.soft → exec .patrolScrubVisit s = .next s) ∧
      (∀ d, d = dieOfGa (8 * (s.argA / 8)) → s.argA / 8 ∉ s.latent → s.argA / 8 ∈ s.soft → ∃ t, exec .patrolScrubVisit s = .next t ∧
        t = { s with dies := t.dies, soft := t.soft } ∧ (∀ dw, dw ∈ t.soft ↔ dw ∈ s.soft ∧ dw ≠ s.argA / 8) ∧
        (∀ e, getDie t e = { getDie s e with dtel0 := (getDie t e).dtel0 } ∧ (e ≠ d → getDie t e = getDie s e)) ∧
        (getDie t d).dtel0.toNat % 2 ^ 32 = min (2 ^ 32 - 1) ((getDie s d).dtel0.toNat % 2 ^ 32 + 1) ∧
        (getDie t d).dtel0.toNat / 2 ^ 32 = (getDie s d).dtel0.toNat / 2 ^ 32)) ∧
    -- the journal
    (x.journalDue = [] → exec .journalAppend s = .next s) ∧
    (∀ r rest, x.journalDue = r :: rest → powered s m = true → ∃ t, exec .journalAppend s = .next t ∧ t.mem = s.mem ∧ t.cores = s.cores ∧
      (getMod t m).journalDue = rest ∧ (r.change = false → Rules.onlyMod s t m ∧ (getMod t m).evqTail = x.evqTail ∧ (getMod t m).evLost = x.evLost) ∧
      (r.change = true → x.evqCfg.getLsbD 63 = true → (x.evqTail - x.evqHead).toNat < 2 ^ (x.evqCfg.toNat % 16) → (getMod t m).evqTail = x.evqTail + 1 ∧
        ∀ a, a = x.evqBase.toNat / 32 * 32 + 32 * (x.evqTail.toNat % 2 ^ (x.evqCfg.toNat % 16)) →
          (hostRead t (a + 12) 4 = leBytes 0x22 4) ∧ hostRead t (a + 16) 16 = leBytes r.gen 8 ++ leBytes r.cl 8) ∧
      (getMod t m).flash = { x.flash with
        seq := x.flash.seq + 1
        journal := (if x.flash.journal.length < 6553 then x.flash.journal else (List.range 2048).filterMap (lastRecord x.flash.journal))
          ++ [recordBytes r (x.flash.seq + 1)] }) ∧
    -- attestation
    (∀ r rest, powered s m = true → x.rdyMod.getLsbD 0 = true → x.spdmIn = r :: rest →
      (r.getD 1 0 = 0x84 → ∃ t, exec .getVersion s = .next t ∧ Rules.attested s t m [0x10, 0x04, 0, 0, 0, 1, 0, 0x13] ∧ (getMod t m).spdmStage = 1) ∧
      (r.getD 1 0 = 0xE1 → (x.spdmStage = 1 → ∃ t out, exec .getCapabilities s = .next t ∧ Rules.attested s t m out ∧ out.take 2 = [0x13, 0x61] ∧
          out.length = 20 ∧ (out.drop 8).take 4 = [0x36, 0, 0, 0] ∧ (getMod t m).spdmStage = 2) ∧
        (x.spdmStage ≠ 1 → Rules.refusedWith s .getCapabilities m 4)) ∧
      (r.getD 1 0 = 0xE3 → (x.spdmStage = 2 → ∃ t out, exec .negotiateAlgorithms s = .next t ∧ Rules.attested s t m out ∧ out.take 2 = [0x13, 0x63] ∧
          out.length = 36 ∧ (out.drop 12).take 4 = [r.getD 8 0 &&& 8, 0, 0, 0] ∧ (out.drop 16).take 4 = [r.getD 12 0 &&& 1, 0, 0, 0] ∧
          (getMod t m).spdmStage = 3) ∧
        (x.spdmStage ≠ 2 → Rules.refusedWith s .negotiateAlgorithms m 4)) ∧
      (r.getD 1 0 = 0x81 → (3 ≤ x.spdmStage → ∃ t, exec .getDigests s = .next t ∧
          Rules.attested s t m ([0x13, 0x01, 1, 1] ++ leBytes (sha256 (certChain x)).toNat 32) ∧ (getMod t m).spdmStage = x.spdmStage) ∧
        (x.spdmStage < 3 → Rules.refusedWith s .getDigests m 4)) ∧
      (∀ off len part, r.getD 1 0 = 0x82 → off = leNat ((r.drop 4).take 2) → len = leNat ((r.drop 6).take 2) → part = ((certChain x).drop off).take len →
        (3 ≤ x.spdmStage → (r.getD 2 0).toNat % 16 = 0 → off ≤ (certChain x).length → ∃ t, exec .getCertificate s = .next t ∧
          Rules.attested s t m ([0x13, 0x02, 0, 0] ++ leBytes part.length 2 ++ leBytes ((certChain x).length - off - part.length) 2 ++ part)) ∧
        (3 ≤ x.spdmStage → (r.getD 2 0).toNat % 16 ≠ 0 ∨ (certChain x).length < off → Rules.refusedWith s .getCertificate m 1)) ∧
      (r.getD 1 0 = 0x83 → 3 ≤ x.spdmStage → (r.getD 2 0).toNat % 16 = 0 → ∃ t body nonce summary salt, exec .challenge s = .next t ∧
        body = [0x13, 0x03, 0, 1] ++ leBytes (sha256 (certChain x)).toNat 32 ++ nonce ++ summary ++ [0, 0] ++ (r.drop 36).take 8 ∧
        nonce.length = 32 ∧ (r.getD 3 0 = 0 → summary = []) ∧ (r.getD 3 0 ≠ 0 → summary.length = 32) ∧
        Rules.attested s t m (body ++ pssSign (Config.deviceKey m) salt (spdmMessage "responder-challenge_auth signing" (x.spdmA ++ x.spdmB ++ r ++ body))) ∧ salt.length = 32) ∧
      (∀ op l blocks, r.getD 1 0 = 0xE0 → 3 ≤ x.spdmStage → op = (r.getD 3 0).toNat → op ≤ 6 ∨ op = 255 →
        l = (if op = 0 then [] else if op = 255 then [1, 2, 3, 4, 5, 6] else [op]) → blocks = l.flatMap (measBlock s m) →
        ∃ t body nonce salt, exec .getMeasurements s = .next t ∧ nonce.length = 32 ∧ salt.length = 32 ∧
          body = [0x13, 0x60, if op = 0 then 6 else 0, 0, BitVec.ofNat 8 l.length] ++ leBytes blocks.length 3 ++ blocks ++ nonce ++ [0, 0]
            ++ (r.drop (if (r.getD 2 0).getLsbD 0 then 37 else 4)).take 8 ∧
          ((r.getD 2 0).getLsbD 0 = true → Rules.attested s t m (body ++ pssSign (Config.deviceKey m) salt (spdmMessage "responder-measurements signing" (x.spdmA ++ x.spdmL ++ r ++ body))) ∧ (getMod t m).spdmL = []) ∧
          ((r.getD 2 0).getLsbD 0 = false → Rules.attested s t m body ∧ (getMod t m).spdmL = x.spdmL ++ r ++ body)) ∧
      (r.getD 1 0 ∉ [0x84, 0xE1, 0xE3, 0x81, 0x82, 0x83, 0xE0] → Rules.refusedWith s .spdmUnsupported m 7 (r.getD 1 0)))

/-! ### Reset, decoding, the step, and the whole machine -/

/-- Words by ascending index of the core that deposited them, those of one core in their order (R42). -/
def Rules.bySender (l : List (Nat × Word)) : List Word := (List.range 64).flatMap fun i => (l.filter fun e => e.1 % 64 == i).map Prod.snd

/-- R30, R42, R131: with PORTEN.EN = 1, x24 and x25 of the base context are the heads of the inbound queues, each popped once by an instruction that
reads it, and a result for x26 or x27 is deposited at every core that the port delivers to, readable once the clock has ended, those of one clock by ascending index of their senders. All take effect together. A queue that is empty or full holds
the instruction up with nothing changed; a port that is not wired traps with its number. -/
def Obligations.PortRegistersPopAndPush : Prop :=
  (∀ (s : State) (g p : Nat), p < 2 → portQueue (getCore (coreClockEnd s g) g) p = portQueue (getCore s g) p ++ Rules.bySender (deposits (getCore s g) p) ∧
    deposits (getCore (coreClockEnd s g) g) p = []) ∧
  ∀ (s : State) (i : Instr) (d : Reg) (v : Word) (x : Reg → Word), clear s i = true → scoreboard s s.cur (slotOf s) i = false →
    portMode s s.cur (slotOf s) = true →
    (∀ r, x r = if r = 24 ∨ r = 25 then (portQueue (getCore s s.cur) (r.toNat - 24)).headD 0 else xreg s r) →
    Rules.arith x i = some (d, v) ∨ i.wf = true ∧ Rules.shift x i = some (d, v) →
    let wired (p : Nat) := (BitVec.ofNat 5 (24 + p) ∈ i.xReads → (portIn s s.cur p).isSome = true) ∧
      (d = BitVec.ofNat 5 (26 + p) → (portOut s s.cur p).isSome = true)
    let word (p : Nat) := BitVec.ofNat 5 (24 + p) ∈ i.xReads → portQueue (getCore s s.cur) p ≠ []
    let room (p : Nat) := d = BitVec.ofNat 5 (26 + p) → ∀ h ∈ (portOut s s.cur p).getD [],
      s.cur ∈ (portIn s h p).getD [] ∧ portFill s h p < 8
    (wired 0 → wired 1 → word 0 → word 1 → room 0 → room 1 → ∃ t c, exec i s = .next t ∧ t = { s with cores := t.cores, ue := t.ue } ∧
      c = getCtx t s.cur (slotOf s) ∧ c = { me s with pc := nextOf s i, instret := (me s).instret + 1, begun := false, x := c.x } ∧
      (∀ r : Reg, tget 0 c.x r.toNat = if r = d ∧ d ≠ 26 ∧ d ≠ 27 then v else xreg s r) ∧
      (∀ j, j ≠ slotOf s → getCtx t s.cur j = getCtx s s.cur j) ∧
      (∀ p, p < 2 → portQueue (getCore t s.cur) p = (portQueue (getCore s s.cur) p).drop (if BitVec.ofNat 5 (24 + p) ∈ i.xReads then 1 else 0)) ∧
      getCore t s.cur = { getCore s s.cur with ctx := (getCore t s.cur).ctx, port0 := (getCore t s.cur).port0, port1 := (getCore t s.cur).port1 } ∧
      (∀ h, h ≠ s.cur → getCore t h = { getCore s h with deposit0 := (getCore t h).deposit0, deposit1 := (getCore t h).deposit1 }) ∧
      ∀ h p, h ≠ s.cur → p < 2 → deposits (getCore t h) p = deposits (getCore s h) p ++
        if d = BitVec.ofNat 5 (26 + p) ∧ h ∈ (portOut s s.cur p).getD [] then [(s.cur, v)] else []) ∧
    (wired 0 → wired 1 → ¬(word 0 ∧ word 1 ∧ room 0 ∧ room 1) → exec i s = .next s) ∧
    (canTrap s = true → ∀ p, p < 2 → ¬wired p → (p = 1 → wired 0) → ∃ t, exec i s = .next t ∧ Trapped s t causePORT (BitVec.ofNat 64 p))

/-- At reset nothing runs, no module has power, READY bits are 0 (R403), registers hold the values of their field maps' Reset columns, no message is under
way, and memory lists nothing in its canonical form. The zeros of what the spec gives no reset value, and of unwritten memory, are the model's (log entries 2
and 3). -/
def Obligations.ResetIsAsTheFieldMapsSay : Prop :=
  State.reset.wfMem = true ∧
  (∀ key a, key = 0 → readByte State.reset key a = 0) ∧
  (∀ m, (getMod State.reset m).power = .off ∧ (getMod State.reset m).rdyMod = 0 ∧ (getMod State.reset m).rdyPort = 0) ∧
  (∀ d, (getDie State.reset d).rdy = 0 ∧ (getDie State.reset d).rdyCl = 0) ∧
  (∀ m o w, readModReg State.reset m o = some w → w = if o = 0x4430000 then BitVec.ofNat 64 (5400 * 2 ^ 32) else 0) ∧
  (∀ d o w, readDieReg State.reset d o = some w → w = 0) ∧
  (∀ g, (getCore State.reset g).run = false ∧ (getCore State.reset g).vqw = 4 ∧ (getCore State.reset g).fmode = 0 ∧ (getCore State.reset g).porten = 0 ∧
    (getCore State.reset g).portmap = 0 ∧ (getCore State.reset g).migen = 0 ∧ (getCore State.reset g).dommem = 0) ∧
  (∀ g k, (getCtx State.reset g k).mode = .free) ∧ State.reset.net = []

/-- R64–R74, R94–R100: a well-formed instruction's words decode to it, whatever follows; and words that decode to an instruction are that well-formed
instruction's words. So no operand, prefix or qualifier is dropped and no two encodings mean one instruction. -/
def Obligations.DecodeAndEncodeAgree : Prop :=
  (∀ (i : Instr) (ws rest : List Code), i.wf = true → encode i = some ws → decodeWords (ws ++ rest) = .ok i ws.length) ∧
  ∀ (ws : List Code) (i : Instr) (n : Nat), decodeWords ws = .ok i n → i.wf = true ∧ encode i = some (ws.take n) ∧ n ≤ ws.length

/-- Words that the spec writes out, and words laid out by hand from R65, R69, R71, R72 and R94–R100, decode to what they stand for; the malformed chains of
R74 and the fixed words of R95 are refused at the place given. -/
def Obligations.WordsDecodeAsTheSpecLaysThemOut : Prop :=
  let plain : Pfx := ⟨false, false, none, 0⟩
  let paged : Pfx := ⟨true, false, none, 0⟩
  decodeWords [0x8002] = .ok (.nop plain) 1 ∧
  decodeWords [0xFC01, 0xFF00, 0x6003] = .ok (.fence ⟨true, false, some ⟨2, 0, 0, false, false⟩, 0⟩ 3) 3 ∧
  decodeWords [0xFB40, 0xF9F6, 0x23B4] = .ok (.addi ⟨false, true, none, 1⟩ 19 21 (-300)) 3 ∧
  decodeWords [0b0000100101001100] = .ok (.add plain 1 2 3) 1 ∧
  decodeWords [0xFA01, 0b0011000101000001] = .ok (.ld ⟨false, true, none, 0⟩ .w 1 2 1) 2 ∧
  decodeWords [0xFC02, 0b0101000100010000] = .ok (.csrr paged 1 16) 2 ∧
  decodeWords [0xFC03, 0b0011100101001101] = .ok (.vadd paged 1 .fp32 1 2 3) 2 ∧
  decodeWords [0xFC05, 0xFA01, 0b0001100001000000] = .ok (.mop ⟨true, true, none, 0⟩ .bf16 2) 3 ∧
  decodeWords [0xFC06, 0b0001000101001100] = .ok (.xcopy paged 1 2 3) 2 ∧
  decodeWords [0xFC07, 0b0010100100000000] = .ok (.sstep paged 1) 2 ∧
  decodeWords [0xFC08, 0b0000100101001101] = .ok (.cenqNb paged 1 2 3) 2 ∧
  decodeWords [0x0000] = .bad 0 0 0 ∧ decodeWords [0xFFFF] = .chain 0 ∧
  decodeWords [0xFA00, 0xFC00, 0x8002] = .chain 1 ∧ decodeWords [0xFE00, 0xF800, 0xF800, 0xF800, 0xF800, 0x23B4] = .chain 4 ∧
  decodeWords [0xFC10, 0x8002] = .chain 0 ∧ decodeWords [0xF800, 0x094C] = .chain 1 ∧ decodeWords [0xFA08, 0x23B4] = .chain 0

/-- R27, R64, R76, R77: where the words at the pc, in frames that are present and without errors, are those of a well-formed instruction, the core's turn runs
that instruction, after the clocks of the turn, in which CYCLE of every running core rises (R46). An instruction that has issued and waits is run again without
being fetched. A turn of a core that issues nothing changes nothing, for it is the end of a clock that gives an idle core its next context (R126); any other turn is the hardware's step that the schedule names, and a turn
that would break the order of a clock waits for the next one (the model's choice, log entry 6). -/
def Obligations.StepRunsTheDecodedInstruction : Prop :=
  ∀ (s u t : State) (turn : Turn) (rest : List Turn) (dt : Nat), s.sched = turn :: rest → dt = (inOrder s turn).dt →
    u = takePlace (tick { s with sched := rest } dt) turn.act →
    (turn.dt ≤ dt ∧ dt ≤ turn.dt + 1) ∧
    (∀ h, (getCore u h).cycle = (getCore s h).cycle + if (getCore s h).run then BitVec.ofNat 64 dt else 0) ∧
    (∀ g k, turn.act = .core g → coreExists g = true → t = { u with cur := g } → k = (getCore t g).slot →
      (∀ i pc, issuing t = true → pc = (getCtx t g k).pc →
        (((getCtx t g k).held = none ∧ i.wf = true ∧ ∃ ws, encode i = some ws ∧
            ∀ j w, ws[j]? = some w → wordPresent g (getCore t g) (pc.toNat + 2 * j) = true ∧ codeWord (getCore t g) (pc.toNat + 2 * j) = w ∧
              isBad t (modOf g) (locator 3 g (pc.toNat / 2 + j)) = false) ∨
          (getCtx t g k).held = some (pc, (getCtx t g k).instret, i)) →
        (∀ v, exec i t = .next v → (getCtx v g k).instret ≠ (getCtx t g k).instret → step s = .next v) ∧
        (∀ v, exec i t = .next v → ∃ w h, step s = .next w ∧ (w = v ∨ w = modCtx v g k fun c => { c with held := some h })) ∧
        (∀ f, exec i t = .fault f → step s = .fault f) ∧ ∀ r, exec i t = .refused r → step s = .refused r) ∧
      (issuing t = false → step s = .next t)) ∧
    (∀ i a b v, turn.act = .event i a b v → step s = exec i { u with argA := a, argB := b, argV := v }) ∧
    ∀ g, turn.act = .core g → coreExists g = false → step s = .fault (.noSuchCore g)

/-- Every step keeps memory, the machine's and the host's, in its canonical form: addresses strictly rise and no byte listed is what an unlisted address
reads as. -/
def Obligations.StepKeepsMemoryCanonical : Prop :=
  ∀ (s t : State), s.wfMem = true → step s = .next t → t.wfMem = true
end

