-- ==== Sys2Proof/Laws/State.lean ====
section
/-!
SUPPORT. What each update of a unit of the machine leaves alone: one lemma per field of State per update, true by unfolding.
-/
namespace Sys2Proof.Machine

/-! ### `putCore` -/

@[simp] theorem putCore_clusters (s : State) (g : Nat) (c : Core) : (putCore s g c).clusters = s.clusters := rfl
@[simp] theorem putCore_dies (s : State) (g : Nat) (c : Core) : (putCore s g c).dies = s.dies := rfl
@[simp] theorem putCore_mods (s : State) (g : Nat) (c : Core) : (putCore s g c).mods = s.mods := rfl
@[simp] theorem putCore_mem (s : State) (g : Nat) (c : Core) : (putCore s g c).mem = s.mem := rfl
@[simp] theorem putCore_full (s : State) (g : Nat) (c : Core) : (putCore s g c).full = s.full := rfl
@[simp] theorem putCore_poison (s : State) (g : Nat) (c : Core) : (putCore s g c).poison = s.poison := rfl
@[simp] theorem putCore_latent (s : State) (g : Nat) (c : Core) : (putCore s g c).latent = s.latent := rfl
@[simp] theorem putCore_soft (s : State) (g : Nat) (c : Core) : (putCore s g c).soft = s.soft := rfl
@[simp] theorem putCore_memKey (s : State) (g : Nat) (c : Core) : (putCore s g c).memKey = s.memKey := rfl
@[simp] theorem putCore_bars (s : State) (g : Nat) (c : Core) : (putCore s g c).bars = s.bars := rfl
@[simp] theorem putCore_groups (s : State) (g : Nat) (c : Core) : (putCore s g c).groups = s.groups := rfl
@[simp] theorem putCore_ue (s : State) (g : Nat) (c : Core) : (putCore s g c).ue = s.ue := rfl
@[simp] theorem putCore_ueFound (s : State) (g : Nat) (c : Core) : (putCore s g c).ueFound = s.ueFound := rfl
@[simp] theorem putCore_cells (s : State) (g : Nat) (c : Core) : (putCore s g c).cells = s.cells := rfl
@[simp] theorem putCore_rareCells (s : State) (g : Nat) (c : Core) : (putCore s g c).rareCells = s.rareCells := rfl
@[simp] theorem putCore_upsets (s : State) (g : Nat) (c : Core) : (putCore s g c).upsets = s.upsets := rfl
@[simp] theorem putCore_net (s : State) (g : Nat) (c : Core) : (putCore s g c).net = s.net := rfl
@[simp] theorem putCore_nextId (s : State) (g : Nat) (c : Core) : (putCore s g c).nextId = s.nextId := rfl
@[simp] theorem putCore_surplus (s : State) (g : Nat) (c : Core) : (putCore s g c).surplus = s.surplus := rfl
@[simp] theorem putCore_records (s : State) (g : Nat) (c : Core) : (putCore s g c).records = s.records := rfl
@[simp] theorem putCore_saves (s : State) (g : Nat) (c : Core) : (putCore s g c).saves = s.saves := rfl
@[simp] theorem putCore_fabSet (s : State) (g : Nat) (c : Core) : (putCore s g c).fabSet = s.fabSet := rfl
@[simp] theorem putCore_host (s : State) (g : Nat) (c : Core) : (putCore s g c).host = s.host := rfl
@[simp] theorem putCore_launches (s : State) (g : Nat) (c : Core) : (putCore s g c).launches = s.launches := rfl
@[simp] theorem putCore_now (s : State) (g : Nat) (c : Core) : (putCore s g c).now = s.now := rfl
@[simp] theorem putCore_draws (s : State) (g : Nat) (c : Core) : (putCore s g c).draws = s.draws := rfl
@[simp] theorem putCore_oracle (s : State) (g : Nat) (c : Core) : (putCore s g c).oracle = s.oracle := rfl
@[simp] theorem putCore_sched (s : State) (g : Nat) (c : Core) : (putCore s g c).sched = s.sched := rfl
@[simp] theorem putCore_turnKey (s : State) (g : Nat) (c : Core) : (putCore s g c).turnKey = s.turnKey := rfl
@[simp] theorem putCore_cur (s : State) (g : Nat) (c : Core) : (putCore s g c).cur = s.cur := rfl
@[simp] theorem putCore_argA (s : State) (g : Nat) (c : Core) : (putCore s g c).argA = s.argA := rfl
@[simp] theorem putCore_argB (s : State) (g : Nat) (c : Core) : (putCore s g c).argB = s.argB := rfl
@[simp] theorem putCore_argV (s : State) (g : Nat) (c : Core) : (putCore s g c).argV = s.argV := rfl

/-! ### `modCore` -/

@[simp] theorem modCore_clusters (s : State) (g : Nat) (f : Core → Core) : (modCore s g f).clusters = s.clusters := rfl
@[simp] theorem modCore_dies (s : State) (g : Nat) (f : Core → Core) : (modCore s g f).dies = s.dies := rfl
@[simp] theorem modCore_mods (s : State) (g : Nat) (f : Core → Core) : (modCore s g f).mods = s.mods := rfl
@[simp] theorem modCore_mem (s : State) (g : Nat) (f : Core → Core) : (modCore s g f).mem = s.mem := rfl
@[simp] theorem modCore_full (s : State) (g : Nat) (f : Core → Core) : (modCore s g f).full = s.full := rfl
@[simp] theorem modCore_poison (s : State) (g : Nat) (f : Core → Core) : (modCore s g f).poison = s.poison := rfl
@[simp] theorem modCore_latent (s : State) (g : Nat) (f : Core → Core) : (modCore s g f).latent = s.latent := rfl
@[simp] theorem modCore_soft (s : State) (g : Nat) (f : Core → Core) : (modCore s g f).soft = s.soft := rfl
@[simp] theorem modCore_memKey (s : State) (g : Nat) (f : Core → Core) : (modCore s g f).memKey = s.memKey := rfl
@[simp] theorem modCore_bars (s : State) (g : Nat) (f : Core → Core) : (modCore s g f).bars = s.bars := rfl
@[simp] theorem modCore_groups (s : State) (g : Nat) (f : Core → Core) : (modCore s g f).groups = s.groups := rfl
@[simp] theorem modCore_ue (s : State) (g : Nat) (f : Core → Core) : (modCore s g f).ue = s.ue := rfl
@[simp] theorem modCore_ueFound (s : State) (g : Nat) (f : Core → Core) : (modCore s g f).ueFound = s.ueFound := rfl
@[simp] theorem modCore_cells (s : State) (g : Nat) (f : Core → Core) : (modCore s g f).cells = s.cells := rfl
@[simp] theorem modCore_rareCells (s : State) (g : Nat) (f : Core → Core) : (modCore s g f).rareCells = s.rareCells := rfl
@[simp] theorem modCore_upsets (s : State) (g : Nat) (f : Core → Core) : (modCore s g f).upsets = s.upsets := rfl
@[simp] theorem modCore_net (s : State) (g : Nat) (f : Core → Core) : (modCore s g f).net = s.net := rfl
@[simp] theorem modCore_nextId (s : State) (g : Nat) (f : Core → Core) : (modCore s g f).nextId = s.nextId := rfl
@[simp] theorem modCore_surplus (s : State) (g : Nat) (f : Core → Core) : (modCore s g f).surplus = s.surplus := rfl
@[simp] theorem modCore_records (s : State) (g : Nat) (f : Core → Core) : (modCore s g f).records = s.records := rfl
@[simp] theorem modCore_saves (s : State) (g : Nat) (f : Core → Core) : (modCore s g f).saves = s.saves := rfl
@[simp] theorem modCore_fabSet (s : State) (g : Nat) (f : Core → Core) : (modCore s g f).fabSet = s.fabSet := rfl
@[simp] theorem modCore_host (s : State) (g : Nat) (f : Core → Core) : (modCore s g f).host = s.host := rfl
@[simp] theorem modCore_launches (s : State) (g : Nat) (f : Core → Core) : (modCore s g f).launches = s.launches := rfl
@[simp] theorem modCore_now (s : State) (g : Nat) (f : Core → Core) : (modCore s g f).now = s.now := rfl
@[simp] theorem modCore_draws (s : State) (g : Nat) (f : Core → Core) : (modCore s g f).draws = s.draws := rfl
@[simp] theorem modCore_oracle (s : State) (g : Nat) (f : Core → Core) : (modCore s g f).oracle = s.oracle := rfl
@[simp] theorem modCore_sched (s : State) (g : Nat) (f : Core → Core) : (modCore s g f).sched = s.sched := rfl
@[simp] theorem modCore_turnKey (s : State) (g : Nat) (f : Core → Core) : (modCore s g f).turnKey = s.turnKey := rfl
@[simp] theorem modCore_cur (s : State) (g : Nat) (f : Core → Core) : (modCore s g f).cur = s.cur := rfl
@[simp] theorem modCore_argA (s : State) (g : Nat) (f : Core → Core) : (modCore s g f).argA = s.argA := rfl
@[simp] theorem modCore_argB (s : State) (g : Nat) (f : Core → Core) : (modCore s g f).argB = s.argB := rfl
@[simp] theorem modCore_argV (s : State) (g : Nat) (f : Core → Core) : (modCore s g f).argV = s.argV := rfl

/-! ### `putCtx` -/

@[simp] theorem putCtx_clusters (s : State) (g k : Nat) (x : Ctx) : (putCtx s g k x).clusters = s.clusters := rfl
@[simp] theorem putCtx_dies (s : State) (g k : Nat) (x : Ctx) : (putCtx s g k x).dies = s.dies := rfl
@[simp] theorem putCtx_mods (s : State) (g k : Nat) (x : Ctx) : (putCtx s g k x).mods = s.mods := rfl
@[simp] theorem putCtx_mem (s : State) (g k : Nat) (x : Ctx) : (putCtx s g k x).mem = s.mem := rfl
@[simp] theorem putCtx_full (s : State) (g k : Nat) (x : Ctx) : (putCtx s g k x).full = s.full := rfl
@[simp] theorem putCtx_poison (s : State) (g k : Nat) (x : Ctx) : (putCtx s g k x).poison = s.poison := rfl
@[simp] theorem putCtx_latent (s : State) (g k : Nat) (x : Ctx) : (putCtx s g k x).latent = s.latent := rfl
@[simp] theorem putCtx_soft (s : State) (g k : Nat) (x : Ctx) : (putCtx s g k x).soft = s.soft := rfl
@[simp] theorem putCtx_memKey (s : State) (g k : Nat) (x : Ctx) : (putCtx s g k x).memKey = s.memKey := rfl
@[simp] theorem putCtx_bars (s : State) (g k : Nat) (x : Ctx) : (putCtx s g k x).bars = s.bars := rfl
@[simp] theorem putCtx_groups (s : State) (g k : Nat) (x : Ctx) : (putCtx s g k x).groups = s.groups := rfl
@[simp] theorem putCtx_ue (s : State) (g k : Nat) (x : Ctx) : (putCtx s g k x).ue = s.ue := rfl
@[simp] theorem putCtx_ueFound (s : State) (g k : Nat) (x : Ctx) : (putCtx s g k x).ueFound = s.ueFound := rfl
@[simp] theorem putCtx_cells (s : State) (g k : Nat) (x : Ctx) : (putCtx s g k x).cells = s.cells := rfl
@[simp] theorem putCtx_rareCells (s : State) (g k : Nat) (x : Ctx) : (putCtx s g k x).rareCells = s.rareCells := rfl
@[simp] theorem putCtx_upsets (s : State) (g k : Nat) (x : Ctx) : (putCtx s g k x).upsets = s.upsets := rfl
@[simp] theorem putCtx_net (s : State) (g k : Nat) (x : Ctx) : (putCtx s g k x).net = s.net := rfl
@[simp] theorem putCtx_nextId (s : State) (g k : Nat) (x : Ctx) : (putCtx s g k x).nextId = s.nextId := rfl
@[simp] theorem putCtx_surplus (s : State) (g k : Nat) (x : Ctx) : (putCtx s g k x).surplus = s.surplus := rfl
@[simp] theorem putCtx_records (s : State) (g k : Nat) (x : Ctx) : (putCtx s g k x).records = s.records := rfl
@[simp] theorem putCtx_saves (s : State) (g k : Nat) (x : Ctx) : (putCtx s g k x).saves = s.saves := rfl
@[simp] theorem putCtx_fabSet (s : State) (g k : Nat) (x : Ctx) : (putCtx s g k x).fabSet = s.fabSet := rfl
@[simp] theorem putCtx_host (s : State) (g k : Nat) (x : Ctx) : (putCtx s g k x).host = s.host := rfl
@[simp] theorem putCtx_launches (s : State) (g k : Nat) (x : Ctx) : (putCtx s g k x).launches = s.launches := rfl
@[simp] theorem putCtx_now (s : State) (g k : Nat) (x : Ctx) : (putCtx s g k x).now = s.now := rfl
@[simp] theorem putCtx_draws (s : State) (g k : Nat) (x : Ctx) : (putCtx s g k x).draws = s.draws := rfl
@[simp] theorem putCtx_oracle (s : State) (g k : Nat) (x : Ctx) : (putCtx s g k x).oracle = s.oracle := rfl
@[simp] theorem putCtx_sched (s : State) (g k : Nat) (x : Ctx) : (putCtx s g k x).sched = s.sched := rfl
@[simp] theorem putCtx_turnKey (s : State) (g k : Nat) (x : Ctx) : (putCtx s g k x).turnKey = s.turnKey := rfl
@[simp] theorem putCtx_cur (s : State) (g k : Nat) (x : Ctx) : (putCtx s g k x).cur = s.cur := rfl
@[simp] theorem putCtx_argA (s : State) (g k : Nat) (x : Ctx) : (putCtx s g k x).argA = s.argA := rfl
@[simp] theorem putCtx_argB (s : State) (g k : Nat) (x : Ctx) : (putCtx s g k x).argB = s.argB := rfl
@[simp] theorem putCtx_argV (s : State) (g k : Nat) (x : Ctx) : (putCtx s g k x).argV = s.argV := rfl

/-! ### `modCtx` -/

@[simp] theorem modCtx_clusters (s : State) (g k : Nat) (f : Ctx → Ctx) : (modCtx s g k f).clusters = s.clusters := rfl
@[simp] theorem modCtx_dies (s : State) (g k : Nat) (f : Ctx → Ctx) : (modCtx s g k f).dies = s.dies := rfl
@[simp] theorem modCtx_mods (s : State) (g k : Nat) (f : Ctx → Ctx) : (modCtx s g k f).mods = s.mods := rfl
@[simp] theorem modCtx_mem (s : State) (g k : Nat) (f : Ctx → Ctx) : (modCtx s g k f).mem = s.mem := rfl
@[simp] theorem modCtx_full (s : State) (g k : Nat) (f : Ctx → Ctx) : (modCtx s g k f).full = s.full := rfl
@[simp] theorem modCtx_poison (s : State) (g k : Nat) (f : Ctx → Ctx) : (modCtx s g k f).poison = s.poison := rfl
@[simp] theorem modCtx_latent (s : State) (g k : Nat) (f : Ctx → Ctx) : (modCtx s g k f).latent = s.latent := rfl
@[simp] theorem modCtx_soft (s : State) (g k : Nat) (f : Ctx → Ctx) : (modCtx s g k f).soft = s.soft := rfl
@[simp] theorem modCtx_memKey (s : State) (g k : Nat) (f : Ctx → Ctx) : (modCtx s g k f).memKey = s.memKey := rfl
@[simp] theorem modCtx_bars (s : State) (g k : Nat) (f : Ctx → Ctx) : (modCtx s g k f).bars = s.bars := rfl
@[simp] theorem modCtx_groups (s : State) (g k : Nat) (f : Ctx → Ctx) : (modCtx s g k f).groups = s.groups := rfl
@[simp] theorem modCtx_ue (s : State) (g k : Nat) (f : Ctx → Ctx) : (modCtx s g k f).ue = s.ue := rfl
@[simp] theorem modCtx_ueFound (s : State) (g k : Nat) (f : Ctx → Ctx) : (modCtx s g k f).ueFound = s.ueFound := rfl
@[simp] theorem modCtx_cells (s : State) (g k : Nat) (f : Ctx → Ctx) : (modCtx s g k f).cells = s.cells := rfl
@[simp] theorem modCtx_rareCells (s : State) (g k : Nat) (f : Ctx → Ctx) : (modCtx s g k f).rareCells = s.rareCells := rfl
@[simp] theorem modCtx_upsets (s : State) (g k : Nat) (f : Ctx → Ctx) : (modCtx s g k f).upsets = s.upsets := rfl
@[simp] theorem modCtx_net (s : State) (g k : Nat) (f : Ctx → Ctx) : (modCtx s g k f).net = s.net := rfl
@[simp] theorem modCtx_nextId (s : State) (g k : Nat) (f : Ctx → Ctx) : (modCtx s g k f).nextId = s.nextId := rfl
@[simp] theorem modCtx_surplus (s : State) (g k : Nat) (f : Ctx → Ctx) : (modCtx s g k f).surplus = s.surplus := rfl
@[simp] theorem modCtx_records (s : State) (g k : Nat) (f : Ctx → Ctx) : (modCtx s g k f).records = s.records := rfl
@[simp] theorem modCtx_saves (s : State) (g k : Nat) (f : Ctx → Ctx) : (modCtx s g k f).saves = s.saves := rfl
@[simp] theorem modCtx_fabSet (s : State) (g k : Nat) (f : Ctx → Ctx) : (modCtx s g k f).fabSet = s.fabSet := rfl
@[simp] theorem modCtx_host (s : State) (g k : Nat) (f : Ctx → Ctx) : (modCtx s g k f).host = s.host := rfl
@[simp] theorem modCtx_launches (s : State) (g k : Nat) (f : Ctx → Ctx) : (modCtx s g k f).launches = s.launches := rfl
@[simp] theorem modCtx_now (s : State) (g k : Nat) (f : Ctx → Ctx) : (modCtx s g k f).now = s.now := rfl
@[simp] theorem modCtx_draws (s : State) (g k : Nat) (f : Ctx → Ctx) : (modCtx s g k f).draws = s.draws := rfl
@[simp] theorem modCtx_oracle (s : State) (g k : Nat) (f : Ctx → Ctx) : (modCtx s g k f).oracle = s.oracle := rfl
@[simp] theorem modCtx_sched (s : State) (g k : Nat) (f : Ctx → Ctx) : (modCtx s g k f).sched = s.sched := rfl
@[simp] theorem modCtx_turnKey (s : State) (g k : Nat) (f : Ctx → Ctx) : (modCtx s g k f).turnKey = s.turnKey := rfl
@[simp] theorem modCtx_cur (s : State) (g k : Nat) (f : Ctx → Ctx) : (modCtx s g k f).cur = s.cur := rfl
@[simp] theorem modCtx_argA (s : State) (g k : Nat) (f : Ctx → Ctx) : (modCtx s g k f).argA = s.argA := rfl
@[simp] theorem modCtx_argB (s : State) (g k : Nat) (f : Ctx → Ctx) : (modCtx s g k f).argB = s.argB := rfl
@[simp] theorem modCtx_argV (s : State) (g k : Nat) (f : Ctx → Ctx) : (modCtx s g k f).argV = s.argV := rfl

/-! ### `modCluster` -/

@[simp] theorem modCluster_cores (s : State) (q : Nat) (f : Cluster → Cluster) : (modCluster s q f).cores = s.cores := rfl
@[simp] theorem modCluster_dies (s : State) (q : Nat) (f : Cluster → Cluster) : (modCluster s q f).dies = s.dies := rfl
@[simp] theorem modCluster_mods (s : State) (q : Nat) (f : Cluster → Cluster) : (modCluster s q f).mods = s.mods := rfl
@[simp] theorem modCluster_mem (s : State) (q : Nat) (f : Cluster → Cluster) : (modCluster s q f).mem = s.mem := rfl
@[simp] theorem modCluster_full (s : State) (q : Nat) (f : Cluster → Cluster) : (modCluster s q f).full = s.full := rfl
@[simp] theorem modCluster_poison (s : State) (q : Nat) (f : Cluster → Cluster) : (modCluster s q f).poison = s.poison := rfl
@[simp] theorem modCluster_latent (s : State) (q : Nat) (f : Cluster → Cluster) : (modCluster s q f).latent = s.latent := rfl
@[simp] theorem modCluster_soft (s : State) (q : Nat) (f : Cluster → Cluster) : (modCluster s q f).soft = s.soft := rfl
@[simp] theorem modCluster_memKey (s : State) (q : Nat) (f : Cluster → Cluster) : (modCluster s q f).memKey = s.memKey := rfl
@[simp] theorem modCluster_bars (s : State) (q : Nat) (f : Cluster → Cluster) : (modCluster s q f).bars = s.bars := rfl
@[simp] theorem modCluster_groups (s : State) (q : Nat) (f : Cluster → Cluster) : (modCluster s q f).groups = s.groups := rfl
@[simp] theorem modCluster_ue (s : State) (q : Nat) (f : Cluster → Cluster) : (modCluster s q f).ue = s.ue := rfl
@[simp] theorem modCluster_ueFound (s : State) (q : Nat) (f : Cluster → Cluster) : (modCluster s q f).ueFound = s.ueFound := rfl
@[simp] theorem modCluster_cells (s : State) (q : Nat) (f : Cluster → Cluster) : (modCluster s q f).cells = s.cells := rfl
@[simp] theorem modCluster_rareCells (s : State) (q : Nat) (f : Cluster → Cluster) : (modCluster s q f).rareCells = s.rareCells := rfl
@[simp] theorem modCluster_upsets (s : State) (q : Nat) (f : Cluster → Cluster) : (modCluster s q f).upsets = s.upsets := rfl
@[simp] theorem modCluster_net (s : State) (q : Nat) (f : Cluster → Cluster) : (modCluster s q f).net = s.net := rfl
@[simp] theorem modCluster_nextId (s : State) (q : Nat) (f : Cluster → Cluster) : (modCluster s q f).nextId = s.nextId := rfl
@[simp] theorem modCluster_surplus (s : State) (q : Nat) (f : Cluster → Cluster) : (modCluster s q f).surplus = s.surplus := rfl
@[simp] theorem modCluster_records (s : State) (q : Nat) (f : Cluster → Cluster) : (modCluster s q f).records = s.records := rfl
@[simp] theorem modCluster_saves (s : State) (q : Nat) (f : Cluster → Cluster) : (modCluster s q f).saves = s.saves := rfl
@[simp] theorem modCluster_fabSet (s : State) (q : Nat) (f : Cluster → Cluster) : (modCluster s q f).fabSet = s.fabSet := rfl
@[simp] theorem modCluster_host (s : State) (q : Nat) (f : Cluster → Cluster) : (modCluster s q f).host = s.host := rfl
@[simp] theorem modCluster_launches (s : State) (q : Nat) (f : Cluster → Cluster) : (modCluster s q f).launches = s.launches := rfl
@[simp] theorem modCluster_now (s : State) (q : Nat) (f : Cluster → Cluster) : (modCluster s q f).now = s.now := rfl
@[simp] theorem modCluster_draws (s : State) (q : Nat) (f : Cluster → Cluster) : (modCluster s q f).draws = s.draws := rfl
@[simp] theorem modCluster_oracle (s : State) (q : Nat) (f : Cluster → Cluster) : (modCluster s q f).oracle = s.oracle := rfl
@[simp] theorem modCluster_sched (s : State) (q : Nat) (f : Cluster → Cluster) : (modCluster s q f).sched = s.sched := rfl
@[simp] theorem modCluster_turnKey (s : State) (q : Nat) (f : Cluster → Cluster) : (modCluster s q f).turnKey = s.turnKey := rfl
@[simp] theorem modCluster_cur (s : State) (q : Nat) (f : Cluster → Cluster) : (modCluster s q f).cur = s.cur := rfl
@[simp] theorem modCluster_argA (s : State) (q : Nat) (f : Cluster → Cluster) : (modCluster s q f).argA = s.argA := rfl
@[simp] theorem modCluster_argB (s : State) (q : Nat) (f : Cluster → Cluster) : (modCluster s q f).argB = s.argB := rfl
@[simp] theorem modCluster_argV (s : State) (q : Nat) (f : Cluster → Cluster) : (modCluster s q f).argV = s.argV := rfl

/-! ### `modDie` -/

@[simp] theorem modDie_cores (s : State) (d : Nat) (f : Die → Die) : (modDie s d f).cores = s.cores := rfl
@[simp] theorem modDie_clusters (s : State) (d : Nat) (f : Die → Die) : (modDie s d f).clusters = s.clusters := rfl
@[simp] theorem modDie_mods (s : State) (d : Nat) (f : Die → Die) : (modDie s d f).mods = s.mods := rfl
@[simp] theorem modDie_mem (s : State) (d : Nat) (f : Die → Die) : (modDie s d f).mem = s.mem := rfl
@[simp] theorem modDie_full (s : State) (d : Nat) (f : Die → Die) : (modDie s d f).full = s.full := rfl
@[simp] theorem modDie_poison (s : State) (d : Nat) (f : Die → Die) : (modDie s d f).poison = s.poison := rfl
@[simp] theorem modDie_latent (s : State) (d : Nat) (f : Die → Die) : (modDie s d f).latent = s.latent := rfl
@[simp] theorem modDie_soft (s : State) (d : Nat) (f : Die → Die) : (modDie s d f).soft = s.soft := rfl
@[simp] theorem modDie_memKey (s : State) (d : Nat) (f : Die → Die) : (modDie s d f).memKey = s.memKey := rfl
@[simp] theorem modDie_bars (s : State) (d : Nat) (f : Die → Die) : (modDie s d f).bars = s.bars := rfl
@[simp] theorem modDie_groups (s : State) (d : Nat) (f : Die → Die) : (modDie s d f).groups = s.groups := rfl
@[simp] theorem modDie_ue (s : State) (d : Nat) (f : Die → Die) : (modDie s d f).ue = s.ue := rfl
@[simp] theorem modDie_ueFound (s : State) (d : Nat) (f : Die → Die) : (modDie s d f).ueFound = s.ueFound := rfl
@[simp] theorem modDie_cells (s : State) (d : Nat) (f : Die → Die) : (modDie s d f).cells = s.cells := rfl
@[simp] theorem modDie_rareCells (s : State) (d : Nat) (f : Die → Die) : (modDie s d f).rareCells = s.rareCells := rfl
@[simp] theorem modDie_upsets (s : State) (d : Nat) (f : Die → Die) : (modDie s d f).upsets = s.upsets := rfl
@[simp] theorem modDie_net (s : State) (d : Nat) (f : Die → Die) : (modDie s d f).net = s.net := rfl
@[simp] theorem modDie_nextId (s : State) (d : Nat) (f : Die → Die) : (modDie s d f).nextId = s.nextId := rfl
@[simp] theorem modDie_surplus (s : State) (d : Nat) (f : Die → Die) : (modDie s d f).surplus = s.surplus := rfl
@[simp] theorem modDie_records (s : State) (d : Nat) (f : Die → Die) : (modDie s d f).records = s.records := rfl
@[simp] theorem modDie_saves (s : State) (d : Nat) (f : Die → Die) : (modDie s d f).saves = s.saves := rfl
@[simp] theorem modDie_fabSet (s : State) (d : Nat) (f : Die → Die) : (modDie s d f).fabSet = s.fabSet := rfl
@[simp] theorem modDie_host (s : State) (d : Nat) (f : Die → Die) : (modDie s d f).host = s.host := rfl
@[simp] theorem modDie_launches (s : State) (d : Nat) (f : Die → Die) : (modDie s d f).launches = s.launches := rfl
@[simp] theorem modDie_now (s : State) (d : Nat) (f : Die → Die) : (modDie s d f).now = s.now := rfl
@[simp] theorem modDie_draws (s : State) (d : Nat) (f : Die → Die) : (modDie s d f).draws = s.draws := rfl
@[simp] theorem modDie_oracle (s : State) (d : Nat) (f : Die → Die) : (modDie s d f).oracle = s.oracle := rfl
@[simp] theorem modDie_sched (s : State) (d : Nat) (f : Die → Die) : (modDie s d f).sched = s.sched := rfl
@[simp] theorem modDie_turnKey (s : State) (d : Nat) (f : Die → Die) : (modDie s d f).turnKey = s.turnKey := rfl
@[simp] theorem modDie_cur (s : State) (d : Nat) (f : Die → Die) : (modDie s d f).cur = s.cur := rfl
@[simp] theorem modDie_argA (s : State) (d : Nat) (f : Die → Die) : (modDie s d f).argA = s.argA := rfl
@[simp] theorem modDie_argB (s : State) (d : Nat) (f : Die → Die) : (modDie s d f).argB = s.argB := rfl
@[simp] theorem modDie_argV (s : State) (d : Nat) (f : Die → Die) : (modDie s d f).argV = s.argV := rfl

/-! ### `modMod` -/

@[simp] theorem modMod_cores (s : State) (m : Nat) (f : Mod → Mod) : (modMod s m f).cores = s.cores := rfl
@[simp] theorem modMod_clusters (s : State) (m : Nat) (f : Mod → Mod) : (modMod s m f).clusters = s.clusters := rfl
@[simp] theorem modMod_dies (s : State) (m : Nat) (f : Mod → Mod) : (modMod s m f).dies = s.dies := rfl
@[simp] theorem modMod_mem (s : State) (m : Nat) (f : Mod → Mod) : (modMod s m f).mem = s.mem := rfl
@[simp] theorem modMod_full (s : State) (m : Nat) (f : Mod → Mod) : (modMod s m f).full = s.full := rfl
@[simp] theorem modMod_poison (s : State) (m : Nat) (f : Mod → Mod) : (modMod s m f).poison = s.poison := rfl
@[simp] theorem modMod_latent (s : State) (m : Nat) (f : Mod → Mod) : (modMod s m f).latent = s.latent := rfl
@[simp] theorem modMod_soft (s : State) (m : Nat) (f : Mod → Mod) : (modMod s m f).soft = s.soft := rfl
@[simp] theorem modMod_memKey (s : State) (m : Nat) (f : Mod → Mod) : (modMod s m f).memKey = s.memKey := rfl
@[simp] theorem modMod_bars (s : State) (m : Nat) (f : Mod → Mod) : (modMod s m f).bars = s.bars := rfl
@[simp] theorem modMod_groups (s : State) (m : Nat) (f : Mod → Mod) : (modMod s m f).groups = s.groups := rfl
@[simp] theorem modMod_ue (s : State) (m : Nat) (f : Mod → Mod) : (modMod s m f).ue = s.ue := rfl
@[simp] theorem modMod_ueFound (s : State) (m : Nat) (f : Mod → Mod) : (modMod s m f).ueFound = s.ueFound := rfl
@[simp] theorem modMod_cells (s : State) (m : Nat) (f : Mod → Mod) : (modMod s m f).cells = s.cells := rfl
@[simp] theorem modMod_rareCells (s : State) (m : Nat) (f : Mod → Mod) : (modMod s m f).rareCells = s.rareCells := rfl
@[simp] theorem modMod_upsets (s : State) (m : Nat) (f : Mod → Mod) : (modMod s m f).upsets = s.upsets := rfl
@[simp] theorem modMod_net (s : State) (m : Nat) (f : Mod → Mod) : (modMod s m f).net = s.net := rfl
@[simp] theorem modMod_nextId (s : State) (m : Nat) (f : Mod → Mod) : (modMod s m f).nextId = s.nextId := rfl
@[simp] theorem modMod_surplus (s : State) (m : Nat) (f : Mod → Mod) : (modMod s m f).surplus = s.surplus := rfl
@[simp] theorem modMod_records (s : State) (m : Nat) (f : Mod → Mod) : (modMod s m f).records = s.records := rfl
@[simp] theorem modMod_saves (s : State) (m : Nat) (f : Mod → Mod) : (modMod s m f).saves = s.saves := rfl
@[simp] theorem modMod_fabSet (s : State) (m : Nat) (f : Mod → Mod) : (modMod s m f).fabSet = s.fabSet := rfl
@[simp] theorem modMod_host (s : State) (m : Nat) (f : Mod → Mod) : (modMod s m f).host = s.host := rfl
@[simp] theorem modMod_launches (s : State) (m : Nat) (f : Mod → Mod) : (modMod s m f).launches = s.launches := rfl
@[simp] theorem modMod_now (s : State) (m : Nat) (f : Mod → Mod) : (modMod s m f).now = s.now := rfl
@[simp] theorem modMod_draws (s : State) (m : Nat) (f : Mod → Mod) : (modMod s m f).draws = s.draws := rfl
@[simp] theorem modMod_oracle (s : State) (m : Nat) (f : Mod → Mod) : (modMod s m f).oracle = s.oracle := rfl
@[simp] theorem modMod_sched (s : State) (m : Nat) (f : Mod → Mod) : (modMod s m f).sched = s.sched := rfl
@[simp] theorem modMod_turnKey (s : State) (m : Nat) (f : Mod → Mod) : (modMod s m f).turnKey = s.turnKey := rfl
@[simp] theorem modMod_cur (s : State) (m : Nat) (f : Mod → Mod) : (modMod s m f).cur = s.cur := rfl
@[simp] theorem modMod_argA (s : State) (m : Nat) (f : Mod → Mod) : (modMod s m f).argA = s.argA := rfl
@[simp] theorem modMod_argB (s : State) (m : Nat) (f : Mod → Mod) : (modMod s m f).argB = s.argB := rfl
@[simp] theorem modMod_argV (s : State) (m : Nat) (f : Mod → Mod) : (modMod s m f).argV = s.argV := rfl

end Sys2Proof.Machine
end

