-- ==== Sys2Proof/Laws/Tables.lean ====
section
/-!
SUPPORT. Read after write: sparse tables, units of the machine, contexts; and that a table in canonical form stays in it.
-/
namespace Sys2Proof.Machine

/-! ### Tables -/

theorem tget_tdel_self {α : Type} (d : α) (t : Tbl α) (k : Nat) : tget d (tdel t k) k = d := by
  induction t with
  | nil => rfl
  | cons e rest ih =>
    by_cases h : e.1 = k
    · simpa [tdel, h] using ih
    · simpa [tdel, h, tget] using ih

theorem tget_tdel_of_ne {α : Type} (d : α) (t : Tbl α) {k j : Nat} (h : j ≠ k) : tget d (tdel t k) j = tget d t j := by
  induction t with
  | nil => rfl
  | cons e rest ih =>
    have ih' : tget d (List.filter (fun e => e.1 ≠ k) rest) j = tget d rest j := ih
    obtain ⟨i, v⟩ := e
    by_cases he : i = k
    · have hj : ¬ i = j := fun hj => h (hj ▸ he)
      rw [tdel, List.filter_cons_of_neg (by simp [he]), ih', tget, if_neg hj]
    · rw [tdel, List.filter_cons_of_pos (by simp [he]), tget, tget, ih']

theorem tget_tins_self {α : Type} (d : α) (t : Tbl α) (k : Nat) (v : α) (h : ∀ e ∈ t, e.1 ≠ k) : tget d (tins k v t) k = v := by
  induction t with
  | nil => simp [tins, tget]
  | cons e rest ih =>
    unfold tins
    split
    · simp [tget]
    · have he := h e (by simp)
      simpa [tget, he] using ih fun x hx => h x (by simp [hx])

theorem tget_tins_of_ne {α : Type} (d : α) (t : Tbl α) {k j : Nat} (v : α) (h : j ≠ k) : tget d (tins k v t) j = tget d t j := by
  induction t with
  | nil => simp [tins, tget, Ne.symm h]
  | cons e rest ih =>
    unfold tins
    split
    · simp [tget, Ne.symm h]
    · by_cases hj : e.1 = j
      · simp [tget, hj]
      · simpa [tget, hj] using ih

/-- Reading a key that was set. -/
@[simp] theorem tget_tput_self {α : Type} (d : α) (t : Tbl α) (k : Nat) (v : α) : tget d (tput t k v) k = v :=
  tget_tins_self d _ k v (by simp [tdel])

/-- Reading any other key. -/
theorem tget_tput_of_ne {α : Type} (d : α) (t : Tbl α) {k j : Nat} (v : α) (h : j ≠ k) : tget d (tput t k v) j = tget d t j := by
  rw [tput, tget_tins_of_ne d _ v h, tget_tdel_of_ne d t h]

theorem tget_tput {α : Type} (d : α) (t : Tbl α) (k j : Nat) (v : α) : tget d (tput t k v) j = if j = k then v else tget d t j := by
  split
  · next h => subst h; simp
  · next h => exact tget_tput_of_ne d t v h

theorem tget_tset {α : Type} [DecidableEq α] (d : α) (t : Tbl α) (k j : Nat) (v : α) :
    tget d (tset d t k v) j = if j = k then v else tget d t j := by
  unfold tset
  split
  · next hv =>
    split
    · next h => subst h hv; exact tget_tdel_self v t j
    · next h => exact tget_tdel_of_ne d t h
  · exact tget_tput d t k j v

@[simp] theorem tget_tset_self {α : Type} [DecidableEq α] (d : α) (t : Tbl α) (k : Nat) (v : α) : tget d (tset d t k v) k = v := by
  simp [tget_tset]

/-! ### Units -/

theorem getCore_putCore (s : State) (g h : Nat) (c : Core) : getCore (putCore s g c) h = if h = g then c else getCore s h :=
  tget_tput ({} : Core) s.cores g h c

theorem getCore_modCore (s : State) (g h : Nat) (f : Core → Core) : getCore (modCore s g f) h = if h = g then f (getCore s g) else getCore s h :=
  getCore_putCore s g h _

@[simp] theorem getCore_modCore_self (s : State) (g : Nat) (f : Core → Core) : getCore (modCore s g f) g = f (getCore s g) := by
  simp [getCore_modCore]

@[simp] theorem getCore_putCore_self (s : State) (g : Nat) (c : Core) : getCore (putCore s g c) g = c := by simp [getCore_putCore]

theorem getCluster_modCluster (s : State) (q r : Nat) (f : Cluster → Cluster) :
    getCluster (modCluster s q f) r = if r = q then f (getCluster s q) else getCluster s r := tget_tput ({} : Cluster) s.clusters q r _

@[simp] theorem getCluster_modCluster_self (s : State) (q : Nat) (f : Cluster → Cluster) :
    getCluster (modCluster s q f) q = f (getCluster s q) := by simp [getCluster_modCluster]

theorem getDie_modDie (s : State) (d e : Nat) (f : Die → Die) : getDie (modDie s d f) e = if e = d then f (getDie s d) else getDie s e :=
  tget_tput ({} : Die) s.dies d e _

@[simp] theorem getDie_modDie_self (s : State) (d : Nat) (f : Die → Die) : getDie (modDie s d f) d = f (getDie s d) := by
  simp [getDie_modDie]

theorem getMod_modMod (s : State) (m n : Nat) (f : Mod → Mod) : getMod (modMod s m f) n = if n = m then f (getMod s m) else getMod s n :=
  tget_tput ({} : Mod) s.mods m n _

@[simp] theorem getMod_modMod_self (s : State) (m : Nat) (f : Mod → Mod) : getMod (modMod s m f) m = f (getMod s m) := by
  simp [getMod_modMod]

@[simp] theorem getCore_modCluster (s : State) (q : Nat) (f : Cluster → Cluster) (g : Nat) : getCore (modCluster s q f) g = getCore s g := rfl
@[simp] theorem getCore_modDie (s : State) (d : Nat) (f : Die → Die) (g : Nat) : getCore (modDie s d f) g = getCore s g := rfl
@[simp] theorem getCore_modMod (s : State) (m : Nat) (f : Mod → Mod) (g : Nat) : getCore (modMod s m f) g = getCore s g := rfl
@[simp] theorem getCluster_modCore (s : State) (g : Nat) (f : Core → Core) (q : Nat) : getCluster (modCore s g f) q = getCluster s q := rfl
@[simp] theorem getCluster_modDie (s : State) (d : Nat) (f : Die → Die) (q : Nat) : getCluster (modDie s d f) q = getCluster s q := rfl
@[simp] theorem getCluster_modMod (s : State) (m : Nat) (f : Mod → Mod) (q : Nat) : getCluster (modMod s m f) q = getCluster s q := rfl
@[simp] theorem getDie_modCore (s : State) (g : Nat) (f : Core → Core) (d : Nat) : getDie (modCore s g f) d = getDie s d := rfl
@[simp] theorem getDie_modCluster (s : State) (q : Nat) (f : Cluster → Cluster) (d : Nat) : getDie (modCluster s q f) d = getDie s d := rfl
@[simp] theorem getDie_modMod (s : State) (m : Nat) (f : Mod → Mod) (d : Nat) : getDie (modMod s m f) d = getDie s d := rfl
@[simp] theorem getMod_modCore (s : State) (g : Nat) (f : Core → Core) (m : Nat) : getMod (modCore s g f) m = getMod s m := rfl
@[simp] theorem getMod_modCluster (s : State) (q : Nat) (f : Cluster → Cluster) (m : Nat) : getMod (modCluster s q f) m = getMod s m := rfl
@[simp] theorem getMod_modDie (s : State) (d : Nat) (f : Die → Die) (m : Nat) : getMod (modDie s d f) m = getMod s m := rfl
@[simp] theorem getCtx_modCluster (s : State) (q : Nat) (f : Cluster → Cluster) (g k : Nat) : getCtx (modCluster s q f) g k = getCtx s g k := rfl
@[simp] theorem getCtx_modDie (s : State) (d : Nat) (f : Die → Die) (g k : Nat) : getCtx (modDie s d f) g k = getCtx s g k := rfl
@[simp] theorem getCtx_modMod (s : State) (m : Nat) (f : Mod → Mod) (g k : Nat) : getCtx (modMod s m f) g k = getCtx s g k := rfl

/-! ### Contexts -/

theorem getCore_modCtx (s : State) (g k h : Nat) (f : Ctx → Ctx) :
    getCore (modCtx s g k f) h = if h = g then { getCore s g with ctx := tput (getCore s g).ctx k (f (getCtx s g k)) } else getCore s h :=
  getCore_modCore s g h _

theorem getCtx_modCtx (s : State) (g k h j : Nat) (f : Ctx → Ctx) :
    getCtx (modCtx s g k f) h j = if h = g ∧ j = k then f (getCtx s g k) else getCtx s h j := by
  unfold getCtx
  rw [getCore_modCtx]
  by_cases hg : h = g
  · subst hg
    simp [tget_tput, getCtx]
  · simp [hg]

@[simp] theorem getCtx_modCtx_self (s : State) (g k : Nat) (f : Ctx → Ctx) : getCtx (modCtx s g k f) g k = f (getCtx s g k) := by
  simp [getCtx_modCtx]

@[simp] theorem getCluster_modCtx (s : State) (g k : Nat) (f : Ctx → Ctx) (q : Nat) : getCluster (modCtx s g k f) q = getCluster s q := rfl
@[simp] theorem getDie_modCtx (s : State) (g k : Nat) (f : Ctx → Ctx) (d : Nat) : getDie (modCtx s g k f) d = getDie s d := rfl
@[simp] theorem getMod_modCtx (s : State) (g k : Nat) (f : Ctx → Ctx) (m : Nat) : getMod (modCtx s g k f) m = getMod s m := rfl

/-- A context update changes nothing of its core but its table of contexts. -/
theorem getCtx_modCore (s : State) (g h j : Nat) (f : Core → Core) (hf : ∀ c, (f c).ctx = c.ctx) :
    getCtx (modCore s g f) h j = getCtx s h j := by
  unfold getCtx
  rw [getCore_modCore]
  by_cases hg : h = g
  · subst hg; simp [hf]
  · simp [hg]

/-- Two updates of one context are one. -/
theorem modCtx_modCtx (s : State) (g k h j : Nat) (f e : Ctx → Ctx) :
    getCtx (modCtx (modCtx s g k f) g k e) h j = getCtx (modCtx s g k fun x => e (f x)) h j := by
  simp [getCtx_modCtx]
  split <;> simp_all

end Sys2Proof.Machine
end

