-- ==== Sys2Proof/Laws/Memory.lean ====
section
/-!
SUPPORT. Memory: every operation over it keeps the canonical form, and a byte that is read is the byte that was written.
-/
namespace Sys2Proof.Machine

/-! ### Rising keys -/

theorem risingKeys_iff {α : Type} (t : Tbl α) : risingKeys t = true ↔ t.Pairwise fun a b => a.1 < b.1 := by
  induction t with
  | nil => simp [risingKeys]
  | cons a rest ih =>
    cases rest with
    | nil => simp [risingKeys]
    | cons b more =>
      simp only [risingKeys, Bool.and_eq_true, decide_eq_true_eq, ih]
      constructor
      · rintro ⟨hab, h⟩
        rw [List.pairwise_cons] at h ⊢
        refine ⟨?_, List.pairwise_cons.2 h⟩
        intro c hc
        rcases List.mem_cons.1 hc with rfl | hc
        · exact hab
        · exact lt_trans hab (h.1 c hc)
      · intro h
        rw [List.pairwise_cons] at h
        exact ⟨h.1 b (by simp), h.2⟩

theorem mem_tins {α : Type} {k : Nat} {v : α} {t : Tbl α} {e : Nat × α} (h : e ∈ tins k v t) : e = (k, v) ∨ e ∈ t := by
  induction t with
  | nil => simpa [tins] using h
  | cons a rest ih =>
    unfold tins at h
    split at h
    · simpa using h
    · rcases List.mem_cons.1 h with rfl | h
      · simp
      · rcases ih h with h | h
        · exact .inl h
        · simp [h]

theorem pairwise_tins {α : Type} (k : Nat) (v : α) (t : Tbl α) (h : t.Pairwise fun a b => a.1 < b.1) (hk : ∀ e ∈ t, e.1 ≠ k) :
    (tins k v t).Pairwise fun a b => a.1 < b.1 := by
  induction t with
  | nil => simp [tins]
  | cons a rest ih =>
    rw [List.pairwise_cons] at h
    unfold tins
    split
    · next hlt =>
      refine List.pairwise_cons.2 ⟨?_, List.pairwise_cons.2 h⟩
      intro c hc
      rcases List.mem_cons.1 hc with rfl | hc
      · exact hlt
      · exact lt_trans hlt (h.1 c hc)
    · next hge =>
      refine List.pairwise_cons.2 ⟨?_, ih h.2 fun e he => hk e (by simp [he])⟩
      intro c hc
      rcases mem_tins hc with rfl | hc
      · have := hk a (by simp)
        simp only
        omega
      · exact h.1 c hc

theorem risingKeys_filter {α : Type} (t : Tbl α) (p : Nat × α → Bool) (h : risingKeys t = true) : risingKeys (t.filter p) = true :=
  (risingKeys_iff _).2 (((risingKeys_iff _).1 h).filter p)

theorem risingKeys_tput {α : Type} (t : Tbl α) (k : Nat) (v : α) (h : risingKeys t = true) : risingKeys (tput t k v) = true :=
  (risingKeys_iff _).2 (pairwise_tins k v _ (((risingKeys_iff _).1 h).filter _) (by simp [tdel]))

theorem risingKeys_tset {α : Type} [DecidableEq α] (d : α) (t : Tbl α) (k : Nat) (v : α) (h : risingKeys t = true) :
    risingKeys (tset d t k v) = true := by
  unfold tset
  split
  · exact risingKeys_filter t _ h
  · exact risingKeys_tput t k v h

/-! ### The canonical form -/

/-- No memory: the canonical form holds. -/
@[simp] theorem Memory.wf_nil : Memory.wf [] = true := rfl

/-- A byte set in a memory keeps the canonical form: a zero removes the entry. -/
theorem Memory.wf_tset (m : List Host.Cell) (a : Nat) (b : Byte) (h : Memory.wf m = true) : Memory.wf (tset 0 m a b) = true := by
  simp only [Memory.wf, Bool.and_eq_true, List.all_eq_true] at h ⊢
  refine ⟨risingKeys_tset 0 m a b h.1, ?_⟩
  intro c hc
  unfold tset at hc
  split at hc
  · exact h.2 c (List.mem_of_mem_filter hc)
  · next hb =>
    rcases mem_tins hc with rfl | hc
    · simpa using hb
    · exact h.2 c (List.mem_of_mem_filter hc)

/-- Cells left out keep the canonical form. -/
theorem Memory.wf_filter (m : List Host.Cell) (p : Host.Cell → Bool) (h : Memory.wf m = true) : Memory.wf (m.filter p) = true := by
  simp only [Memory.wf, Bool.and_eq_true, List.all_eq_true] at h ⊢
  exact ⟨risingKeys_filter m p h.1, fun c hc => h.2 c (List.mem_of_mem_filter hc)⟩

/-- Bytes set one after another keep the canonical form. -/
theorem Memory.wf_foldl {α : Type} (f : α → Nat × Byte) (l : List α) (m : List Host.Cell) (h : Memory.wf m = true) :
    Memory.wf (l.foldl (fun t e => tset 0 t (f e).1 (f e).2) m) = true := by
  induction l generalizing m with
  | nil => exact h
  | cons e rest ih => exact ih _ (Memory.wf_tset m _ _ h)

/-- A fold of operations that keep a property keeps it. -/
theorem foldl_keeps {α σ : Type} (P : σ → Prop) (f : σ → α → σ) (hf : ∀ s a, P s → P (f s a)) (l : List α) (s : σ) (h : P s) :
    P (l.foldl f s) := by
  induction l generalizing s with
  | nil => exact h
  | cons a rest ih => exact ih _ (hf s a h)

/-- A block taken under other key material keeps the canonical form. -/
theorem rekey_wf (s : State) (key : BitVec 512) (blk : Nat) (h : Memory.wf s.mem = true) : Memory.wf (rekey s key blk).mem = true := by
  unfold rekey
  split
  · exact h
  · exact Memory.wf_foldl (fun i => (16 * blk + i, (blockUnder s key blk).getD i 0)) _ _ h

theorem writeByte_wf (s : State) (key : BitVec 512) (a : Nat) (b : Byte) (h : Memory.wf s.mem = true) :
    Memory.wf (writeByte s key a b).mem = true := Memory.wf_tset _ a b (rekey_wf s key (a / 16) h)

/-- All that writing a byte can change. -/
theorem writeByte_eq (s : State) (key : BitVec 512) (a : Nat) (b : Byte) :
    writeByte s key a b = { s with mem := (writeByte s key a b).mem, memKey := (writeByte s key a b).memKey } := by
  unfold writeByte rekey
  dsimp only
  split <;> rfl

theorem setBitAt_wf (s : State) (base : Nat) (v : SavedCluster) (a : Nat) (b : Bool) (h : Memory.wf s.mem = true) :
    Memory.wf (setBitAt s base v a b).mem = true := writeByte_wf s _ _ _ h

theorem setFull_wf (s : State) (a : Nat) (b : Bool) (h : Memory.wf s.mem = true) : Memory.wf (setFull s a b).mem = true := by
  unfold setFull
  split
  · exact setBitAt_wf s _ _ _ _ h
  · exact h

theorem setPoison_wf (s : State) (a : Nat) (b : Bool) (h : Memory.wf s.mem = true) : Memory.wf (setPoison s a b).mem = true := by
  unfold setPoison
  split
  · exact setBitAt_wf s _ _ _ _ h
  · exact h

theorem overwritten_wf (s : State) (dw : Nat) (h : Memory.wf s.mem = true) : Memory.wf (overwritten s dw).mem = true :=
  setPoison_wf s _ _ h

/-- A store keeps the canonical form. -/
theorem writeCells_wf (s : State) (key : BitVec 512) (cells : List Host.Cell) (h : Memory.wf s.mem = true) :
    Memory.wf (writeCells s key cells).mem = true :=
  foldl_keeps (fun s : State => Memory.wf s.mem = true) _ overwritten_wf _ _
    (foldl_keeps (fun s : State => Memory.wf s.mem = true) _ (fun t c ht => writeByte_wf t key c.1 c.2 ht) cells s h)

theorem writeBytes_wf (s : State) (key : BitVec 512) (a : Nat) (bs : List Byte) (h : Memory.wf s.mem = true) :
    Memory.wf (writeBytes s key a bs).mem = true :=
  foldl_keeps (fun s : State => Memory.wf s.mem = true) _ overwritten_wf _ _
    (foldl_keeps (fun s : State => Memory.wf s.mem = true) _ (fun t c ht => writeByte_wf t key c.1 c.2 ht) _ s h)

theorem writeNat_wf (s : State) (a n v : Nat) (h : Memory.wf s.mem = true) : Memory.wf (writeNat s a n v).mem = true :=
  writeBytes_wf s 0 a _ h

/-- Host memory keeps the canonical form. -/
theorem hostWrite_wf (s : State) (a : Nat) (bs : List Byte) (h : Memory.wf s.host = true) : Memory.wf (hostWrite s a bs).host = true :=
  Memory.wf_foldl id _ _ h

@[simp] theorem hostWrite_mem (s : State) (a : Nat) (bs : List Byte) : (hostWrite s a bs).mem = s.mem := rfl

@[simp] theorem postEvent_mem (s : State) (m : Nat) (r : Source) (ty d0 d1 : Nat) : (postEvent s m r ty d0 d1).mem = s.mem := by
  unfold postEvent
  dsimp only
  split <;> rfl

theorem findError_wf (s : State) (dw by_ : Nat) (h : Memory.wf s.mem = true) : Memory.wf (findError s dw by_).mem = true := by
  unfold findError
  split
  · simp only [postEvent_mem]
    exact setPoison_wf _ _ _ h
  · exact h

@[simp] theorem correct_mem (s : State) (dw : Nat) : (correct s dw).mem = s.mem := by
  unfold correct
  split <;> rfl

theorem findErrors_wf (s : State) (a n : Nat) (h : Memory.wf s.mem = true) : Memory.wf (findErrors s a n).mem = true :=
  foldl_keeps (fun s : State => Memory.wf s.mem = true) _ (fun t dw ht => findError_wf _ dw 1 (by simpa using ht)) _ _ h

/-- Where no error stands anywhere, none is found. -/
theorem findErrors_of_none (s : State) (a n : Nat) (hl : s.latent = []) (hs : s.soft = []) : findErrors s a n = s := by
  unfold findErrors
  induction dwords a n with
  | nil => rfl
  | cons dw rest ih =>
    rw [List.foldl_cons, show findError (correct s dw) dw 1 = s by simp [findError, correct, hl, hs], ih]

theorem findWhere_wf (s : State) (p : Nat → Bool) (h : Memory.wf s.mem = true) : Memory.wf (findWhere s p).mem = true :=
  foldl_keeps (fun s : State => Memory.wf s.mem = true) _ (fun t dw ht => findError_wf _ dw 1 (by simpa using ht)) _ _ h

/-- Where no error stands anywhere, reading a block finds none. -/
@[simp] theorem findWhere_of_none (s : State) (p : Nat → Bool) (hl : s.latent = []) (hs : s.soft = []) : findWhere s p = s := by
  simp [findWhere, hl, hs]

@[simp] theorem touchFrame_mem (s : State) (a : Nat) : (touchFrame s a).mem = s.mem := by
  unfold touchFrame
  split
  · split <;> rfl
  · rfl

/-! ### Read after write -/

theorem mem_upFrom (a n x : Nat) : x ∈ upFrom a n ↔ a ≤ x ∧ x < a + n := by
  induction n generalizing a with
  | zero => simp [upFrom]
  | succ n ih => rw [upFrom, List.mem_cons, ih]; omega

/-- What a byte reads as depends on the bytes and the key material of its block alone. -/
theorem readByte_congr (s t : State) (key : BitVec 512) (x : Nat) (hk : tget 0 t.memKey (x / 16) = tget 0 s.memKey (x / 16))
    (hb : ∀ y, y / 16 = x / 16 → rawByte t y = rawByte s y) : readByte t key x = readByte s key x := by
  have hl : (upFrom (16 * (x / 16)) 16).map (rawByte t) = (upFrom (16 * (x / 16)) 16).map (rawByte s) :=
    List.map_congr_left fun y hy => hb y (by rw [mem_upFrom] at hy; omega)
  unfold readByte blockUnder
  rw [hk, hb x rfl, hl]

/-- A block that is held under the key material already stays as it is. -/
theorem rekey_of_eq (s : State) (key : BitVec 512) (blk : Nat) (h : tget 0 s.memKey blk = key) : rekey s key blk = s := if_pos h

/-- Bytes set at consecutive places. -/
theorem tget_foldl_upFrom (f : Nat → Byte) (base a n x : Nat) (m : List Host.Cell) :
    tget 0 ((upFrom a n).foldl (fun t i => tset 0 t (base + i) (f i)) m) x =
      if base + a ≤ x ∧ x < base + a + n then f (x - base) else tget 0 m x := by
  induction n generalizing a m with
  | zero =>
    have : ¬ (base + a ≤ x ∧ x < base + a + 0) := by omega
    rw [if_neg this]
    rfl
  | succ n ih =>
    rw [upFrom, List.foldl_cons, ih, tget_tset]
    by_cases hx : x = base + a
    · subst hx
      have : base + a - base = a := by omega
      simp [this]
    · rw [if_neg hx]
      have : (base + (a + 1) ≤ x ∧ x < base + (a + 1) + n) ↔ (base + a ≤ x ∧ x < base + a + (n + 1)) := by omega
      simp only [this]

/-- The bytes of a block taken under other key material: those of the block as the material sees them, and all others as they stood. -/
theorem rawByte_rekey (s : State) (key : BitVec 512) (blk x : Nat) :
    rawByte (rekey s key blk) x = if x / 16 = blk then readByte s key x else rawByte s x := by
  unfold rekey
  split
  · next h =>
    split
    · next hx => subst hx; exact (if_pos h).symm
    · rfl
  · next h =>
    refine (tget_foldl_upFrom _ _ _ _ x s.mem).trans ?_
    by_cases hx : x / 16 = blk
    · have h1 : 16 * blk + 0 ≤ x ∧ x < 16 * blk + 0 + 16 := by omega
      have h2 : x - 16 * blk = x % 16 := by omega
      rw [if_pos h1, if_pos hx, h2]
      subst hx
      exact (if_neg h).symm
    · have h1 : ¬ (16 * blk + 0 ≤ x ∧ x < 16 * blk + 0 + 16) := by omega
      rw [if_neg h1, if_neg hx]
      rfl

theorem memKey_rekey (s : State) (key : BitVec 512) (blk j : Nat) :
    tget 0 (rekey s key blk).memKey j = if j = blk then key else tget 0 s.memKey j := by
  unfold rekey
  split
  · next h => split <;> simp_all
  · exact tget_tset (0 : BitVec 512) s.memKey blk j key

/-- The byte written is the byte that stands there, and no other byte changes, in a block held under the key material already. -/
theorem rawByte_writeByte (s : State) (key : BitVec 512) (a x : Nat) (b : Byte) (h : tget 0 s.memKey (a / 16) = key) :
    rawByte (writeByte s key a b) x = if x = a then b else rawByte s x := by
  simp only [writeByte, rekey_of_eq s key _ h]
  exact tget_tset (0 : Byte) s.mem a x b

/-- A byte written under a key reads back under that key, and no other byte read under it changes. -/
theorem readByte_writeByte (s : State) (key : BitVec 512) (a x : Nat) (b : Byte) :
    readByte (writeByte s key a b) key x = if x = a then b else readByte s key x := by
  have hraw (y : Nat) : rawByte (writeByte s key a b) y = if y = a then b else rawByte (rekey s key (a / 16)) y :=
    tget_tset (0 : Byte) _ a y b
  have hkey : tget 0 (writeByte s key a b).memKey (x / 16) = if x / 16 = a / 16 then key else tget 0 s.memKey (x / 16) :=
    memKey_rekey s key (a / 16) (x / 16)
  by_cases hb : x / 16 = a / 16
  · rw [if_pos hb] at hkey
    rw [readByte, if_pos hkey, hraw, rawByte_rekey, if_pos hb]
  · have hx : x ≠ a := fun h => hb (h ▸ rfl)
    rw [if_neg hb] at hkey
    have hsame : ∀ y, y / 16 = x / 16 → rawByte (writeByte s key a b) y = rawByte s y := fun y hy => by
      rw [hraw, if_neg (fun h => hb (by rw [← hy, h])), rawByte_rekey, if_neg (by omega)]
    rw [if_neg hx]
    exact readByte_congr _ _ key x hkey hsame

/-- Bytes outside the block that a byte is written to read as before under every key. -/
theorem readByte_writeByte_far (s : State) (key key' : BitVec 512) (a x : Nat) (b : Byte) (h : x / 16 ≠ a / 16) :
    readByte (writeByte s key a b) key' x = readByte s key' x := by
  refine readByte_congr _ _ key' x ?_ fun y hy => ?_
  · exact (memKey_rekey s key (a / 16) (x / 16)).trans (if_neg h)
  · have hraw : rawByte (writeByte s key a b) y = if y = a then b else rawByte (rekey s key (a / 16)) y := tget_tset (0 : Byte) _ a y b
    rw [hraw, if_neg (fun e => h (by rw [← hy, e])), rawByte_rekey, if_neg (by omega)]

/-- The bytes of a number read back as the number (R21). -/
theorem leNat_leBytes (v n : Nat) : leNat (leBytes v n) = v % 256 ^ n := by
  induction n generalizing v with
  | zero => simp [leBytes, leNat, Nat.mod_one]
  | succ n ih =>
    have hb : (BitVec.ofNat 8 v).toNat = v % 256 := by simp
    rw [leBytes, leNat, ih, hb, pow_succ, Nat.mul_comm (256 ^ n) 256, Nat.mod_mul]

theorem leBytes_length (v n : Nat) : (leBytes v n).length = n := by
  induction n generalizing v with
  | zero => rfl
  | succ n ih => simp [leBytes, ih]

end Sys2Proof.Machine
end

