-- ==== Sys2Proof/Laws/Ops.lean ====
section
/-!
SUPPORT. What the shared operations of issue come to: issue, the write of a register, retirement.
-/
namespace Sys2Proof.Machine

/-! ### Issue -/

/-- An instruction that nothing stops comes to its own effect. -/
theorem issue_ready {s : State} {i : Instr} (h : ready s i = true) (body : State → Nat → Nat → Eff) :
    issue i s body = match body s s.cur (slotOf s) with
      | .done t => t
      | .trap code val => raiseTrap s (modOf s.cur) s.cur (slotOf s) code val
      | .stall => s := by
  simp only [ready, clear, Bool.and_eq_true, Bool.not_eq_true', Option.isNone_iff_eq_none] at h
  obtain ⟨⟨⟨⟨⟨hi, hv⟩, hc⟩, hb⟩, hs⟩, hp⟩ := h
  unfold slotOf at *
  simp only [issue, hi, hv, hc, hb, hs, hp, Bool.not_true, Bool.false_eq_true, if_false, Bool.false_and, Option.elim_none]
    <;> cases body s s.cur (getCore s s.cur).slot <;> rfl

theorem issue_done {s t : State} {i : Instr} (h : ready s i = true) {body : State → Nat → Nat → Eff}
    (hb : body s s.cur (slotOf s) = .done t) : issue i s body = t := by
  rw [issue_ready h, hb]

theorem portMode_of_ready {s : State} {i : Instr} (h : ready s i = true) : portMode s s.cur (slotOf s) = false := by
  simp only [ready, Bool.and_eq_true, Bool.not_eq_true'] at h
  exact h.2

/-! ### Registers -/

/-- Outside port mode a source register is the register. -/
theorem readX_plain {s : State} {g k : Nat} (h : portMode s g k = false) (r : Reg) : readX s g k r = tget 0 (getCtx s g k).x r.toNat := by
  simp [readX, h]

theorem readX_ready {s : State} {i : Instr} (h : ready s i = true) (r : Reg) : readX s s.cur (slotOf s) r = xreg s r :=
  readX_plain (portMode_of_ready h) r

theorem reg_toNat_ne {a b : Reg} (h : a ≠ b) : a.toNat ≠ b.toNat := fun e => h (BitVec.eq_of_toNat_eq e)

@[simp] theorem getCore_rewritten (s : State) (m : Nat) (l : Word) (g : Nat) : getCore (rewritten s m l) g = getCore s g := rfl
@[simp] theorem getCtx_rewritten (s : State) (m : Nat) (l : Word) (g k : Nat) : getCtx (rewritten s m l) g k = getCtx s g k := rfl

/-- What the write of a register does to the contexts. -/
theorem getCtx_setX (s : State) (g k h j : Nat) (r : Reg) (v : Word) :
    getCtx (setX s g k r v) h j = if h = g ∧ j = k then { getCtx s g k with x := tset 0 (getCtx s g k).x r.toNat v } else getCtx s h j := by
  unfold setX
  rw [getCtx_modCtx]
  rfl

theorem getCore_setX (s : State) (g k h : Nat) (r : Reg) (v : Word) :
    getCore (setX s g k r v) h = if h = g then { getCore s g with ctx := (getCore (setX s g k r v) g).ctx } else getCore s h := by
  unfold setX
  simp only [getCore_modCtx]
  by_cases hg : h = g <;> simp [hg]

theorem portMode_congr {s t : State} {g k : Nat} (h : (getCore t g).porten = (getCore s g).porten) : portMode t g k = portMode s g k := by
  simp [portMode, h]

/-- Outside port mode a destination register is the register. -/
theorem writeX_plain {s : State} {g k : Nat} (h : portMode s g k = false) (r : Reg) (v : Word) : writeX s g k r v = setX s g k r v := by
  simp [writeX, h]

/-- What writing registers of a slot comes to, outside port mode: nothing but those registers, and the parity reports of them. -/
structure Wrote (s t : State) (g k : Nat) (ws : List (Reg × Word)) : Prop where
  others : ∀ h, h ≠ g → getCore t h = getCore s h
  core : getCore t g = { getCore s g with ctx := (getCore t g).ctx }
  slots : ∀ j, j ≠ k → getCtx t g j = getCtx s g j
  ctx : getCtx t g k = { getCtx s g k with x := (getCtx t g k).x }
  regs : ∀ r : Reg, tget 0 (getCtx t g k).x r.toNat = (ws.lookup r).getD (tget 0 (getCtx s g k).x r.toNat)
  rest : t = { s with cores := t.cores, ue := t.ue }
  parity : ∀ e ∈ t.ue, e ∈ s.ue

theorem Wrote.nil (s : State) (g k : Nat) : Wrote s s g k [] where
  others _ _ := rfl
  core := rfl
  slots _ _ := rfl
  ctx := rfl
  regs _ := rfl
  rest := rfl
  parity _ h := h

theorem Wrote.cons {s t : State} {g k : Nat} {r : Reg} {v : Word} {ws : List (Reg × Word)}
    (h : Wrote (setX s g k r v) t g k ws) (hn : ws.lookup r = none) : Wrote s t g k ((r, v) :: ws) where
  others j hj := by rw [h.others j hj, getCore_setX, if_neg hj]
  core := by
    have := h.core
    rw [getCore_setX, if_pos rfl] at this
    exact this
  slots j hj := by rw [h.slots j hj, getCtx_setX, if_neg (by simp [hj])]
  ctx := by
    have := h.ctx
    rw [getCtx_setX, if_pos ⟨rfl, rfl⟩] at this
    exact this
  regs q := by
    rw [h.regs q, getCtx_setX, if_pos ⟨rfl, rfl⟩]
    by_cases hq : q = r
    · subst hq
      simp [hn, List.lookup]
    · have : (q == r) = false := by simpa using hq
      simp [List.lookup, this, tget_tset, reg_toNat_ne hq]
  rest := by
    have := h.rest
    rw [this]
    rfl
  parity e he := (List.mem_filter.1 (h.parity e he)).1

/-- Writing distinct registers outside port mode. -/
theorem writeXs_plain (s : State) (g k : Nat) (ws : List (Reg × Word)) (hp : portMode s g k = false) (hn : (ws.map Prod.fst).Nodup) :
    Wrote s (writeXs s g k ws) g k ws := by
  induction ws generalizing s with
  | nil => exact Wrote.nil s g k
  | cons w rest ih =>
    obtain ⟨r, v⟩ := w
    simp only [List.map_cons, List.nodup_cons] at hn
    have hp' : portMode (setX s g k r v) g k = false := by
      rw [portMode_congr (s := s) (by rw [getCore_setX, if_pos rfl]), hp]
    have := ih (setX s g k r v) hp' hn.2
    rw [← writeX_plain hp] at this
    refine Wrote.cons (by rw [← writeX_plain hp]; exact this) ?_
    rw [List.lookup_eq_none_iff]
    intro p hp
    have : p.1 ∈ rest.map Prod.fst := List.mem_map_of_mem hp
    have hne : r ≠ p.1 := fun h => hn.1 (h ▸ this)
    simpa using hne

/-! ### Retirement -/

theorem popList_plain {s : State} {g k : Nat} (h : portMode s g k = false) (i : Instr) : popList s g k i = [] := by
  simp [popList, h]

/-- Retirement outside port mode: the registers listed, the pc and INSTRET, and nothing else. -/
theorem retireTo_plain {s : State} (i : Instr) {ws : List (Reg × Word)} (pc : Code) (hp : portMode s s.cur (slotOf s) = false)
    (hn : (ws.map Prod.fst).Nodup) : RegisterOnly s (retireTo s s.cur (slotOf s) i ws pc) pc ws := by
  have w := writeXs_plain s s.cur (slotOf s) ws hp hn
  simp only [retireTo, popList_plain hp, List.foldl_nil]
  generalize writeXs s s.cur (slotOf s) ws = t at w
  refine ⟨⟨?_, ?_, ?_⟩, ⟨?_, ?_⟩, ⟨?_, ?_, ?_⟩⟩
  · intro h hh
    rw [getCore_modCtx, if_neg hh, w.others h hh]
  · rw [getCore_modCtx, if_pos rfl]
    conv_lhs => rw [w.core]
  · intro j hj
    have hj : j ≠ slotOf s := by simpa using hj
    rw [getCtx_modCtx, if_neg (by simp [hj]), w.slots j hj]
  · rw [getCtx_modCtx, if_pos ⟨rfl, rfl⟩]
    conv_lhs => rw [w.ctx]
    rfl
  · intro r
    rw [getCtx_modCtx, if_pos ⟨rfl, rfl⟩]
    exact w.regs r
  · conv_lhs => rw [w.rest]
    rfl
  · intro key a
    rw [w.rest]
    rfl
  · intro e he
    exact w.parity e he

/-- An instruction whose whole effect is to retire. -/
theorem issue_retires {s : State} {i : Instr} (h : ready s i = true) {body : State → Nat → Nat → Eff} {ws : List (Reg × Word)} {pc : Code}
    (hb : body s s.cur (slotOf s) = .done (retireTo s s.cur (slotOf s) i ws pc)) (hn : (ws.map Prod.fst).Nodup := by simp) :
    RegisterOnly s (issue i s body) pc ws := by
  rw [issue_done h hb]
  exact retireTo_plain i pc (portMode_of_ready h) hn

/-! ### Context switching (R126) -/

theorem nextReady_ready {s : State} {g k : Nat} (h : nextReady s g = some k) : (getCtx s g k).mode = .ready := by
  have := List.find?_some h
  simp only [Bool.and_eq_true, beq_iff_eq] at this
  exact this.1

/-- CONTEXT_SWITCH makes at most one READY slot RUNNING, and nothing else. -/
theorem settle_cases (s : State) (g : Nat) :
    settle s g = s ∨ ∃ k, nextReady s g = some k ∧ (getCtx s g k).mode = .ready ∧
      settle s g = modCore s g fun c => { c with slot := k, ctx := tput c.ctx k { tget {} c.ctx k with mode := .running } } := by
  by_cases hc : ((getCore s g).run && !busy (getCore s g)) = true
  · cases hk : nextReady s g with
    | none => exact .inl (by simp only [settle, hc, if_true, hk])
    | some k => exact .inr ⟨k, rfl, nextReady_ready hk, by simp only [settle, hc, if_true, hk]⟩
  · exact .inl (by simp only [settle, hc, if_false, Bool.false_eq_true])

theorem settle_rest (s : State) (g : Nat) : settle s g = { s with cores := (settle s g).cores } := by
  rcases settle_cases s g with h | ⟨k, _, _, h⟩ <;> rw [h] <;> rfl

/-- A slot that is not READY is left as it is. -/
theorem getCtx_settle {s : State} {g h j : Nat} (hm : h = g → (getCtx s g j).mode ≠ .ready) : getCtx (settle s g) h j = getCtx s h j := by
  rcases settle_cases s g with e | ⟨k, _, hk, e⟩ <;> rw [e]
  unfold getCtx at *
  rw [getCore_modCore]
  split
  · next hg =>
    subst hg
    have : j ≠ k := fun hj => hm rfl (hj ▸ hk)
    simp [tget_tput, this]
  · rfl

theorem getCore_settle_of_ne {s : State} {g h : Nat} (hg : h ≠ g) : getCore (settle s g) h = getCore s h := by
  rcases settle_cases s g with e | ⟨k, _, _, e⟩ <;> rw [e]
  rw [getCore_modCore, if_neg hg]

end Sys2Proof.Machine
end

