-- ==== Sys2Proof/Laws/Power.lean ====
section
/-!
SUPPORT. What a module does without power, and what a loss of power leaves.
-/
namespace Sys2Proof.Machine

/-- An effect of a module happens with its power, and else nothing does. -/
theorem whilePowered_cases (s : State) (m : Nat) (t : State) :
    (powered s m = true ∧ whilePowered s m t = t) ∨ (powered s m = false ∧ whilePowered s m t = s) := by
  cases h : powered s m <;> simp [whilePowered, h]

@[simp] theorem whilePowered_self (s : State) (m : Nat) : whilePowered s m s = s := by simp [whilePowered]

theorem tget_filter {α : Type} (d : α) (p : Nat → Bool) (t : Tbl α) (k : Nat) :
    tget d (t.filter fun e => p e.1) k = if p k then tget d t k else d := by
  induction t with
  | nil => simp [tget]
  | cons e rest ih =>
    obtain ⟨j, v⟩ := e
    by_cases hj : j = k
    · subst hj
      by_cases hp : p j <;> simp [tget, hp, ih]
    · by_cases hp : p j <;> simp [tget, hp, hj, ih]

theorem getMod_emptied (s : State) (m n : Nat) (x : Mod) : getMod (emptied s m x) n = if n = m then x else getMod s n :=
  tget_tput _ _ _ _ _

theorem getCore_emptied (s : State) (m g : Nat) (x : Mod) : getCore (emptied s m x) g = if modOf g = m then {} else getCore s g :=
  (tget_filter ({} : Core) (fun g => modOf g != m) s.cores g).trans (by by_cases h : modOf g = m <;> simp [h, getCore])

theorem getCluster_emptied (s : State) (m q : Nat) (x : Mod) : getCluster (emptied s m x) q = if q / 2048 = m then {} else getCluster s q :=
  (tget_filter ({} : Cluster) (fun q => q / 2048 != m) s.clusters q).trans (by by_cases h : q / 2048 = m <;> simp [h, getCluster])

theorem getDie_emptied (s : State) (m d : Nat) (x : Mod) : getDie (emptied s m x) d = if d / 16 = m then {} else getDie s d :=
  (tget_filter ({} : Die) (fun d => d / 16 != m) s.dies d).trans (by by_cases h : d / 16 = m <;> simp [h, getDie])

end Sys2Proof.Machine
end

