-- ==== Sys2Proof/Tests/Slice0.lean ====
section
/-!
SUPPORT. Tests of the model: ill-formed terms that each check of WellFormed refuses, words laid out from the spec's encoding tables, and single
steps on small machines, which also show that the hypotheses of the statements of Sys2Proof/Certificates/Slice0/Obligations.lean can be met, clause by
clause. Expected values are the spec's own examples or computed by hand from the rule that a test names.
-/
open Sys2Proof Sys2Proof.Machine
namespace Sys2Proof.Tests
set_option Elab.async false

/-- Every entry of a list holds. -/
def allOf (l : List Bool) : Bool := l.all id

def plain : Pfx := ⟨false, false, none, 0⟩
def paged : Pfx := ⟨true, false, none, 0⟩
def wide : Pfx := ⟨false, true, none, 0⟩
def both : Pfx := ⟨true, true, none, 0⟩

/-- Each list of words decodes to its instruction, whole. -/
def decodesAll (t : List (List Code × Instr)) : Bool := t.all fun e => decodeWords e.1 == .ok e.2 e.1.length

/-- Core g runs slot k alone, of a kind and level, with registers x and its pc at 0. -/
def machine (g k : Nat) (kind : Kind) (firmware : Bool) (x : Tbl Word) : State :=
  modCtx (placeProgram State.reset [] g (k, kind) firmware) g k fun c => { c with x := x }

/-- A base context at user level. -/
def base (g : Nat) (x : Tbl Word) : State := machine g 0 .base false x

/-- The instruction answers a next state of which p holds. -/
def runs (i : Instr) (s : State) (p : State → Bool) : Bool :=
  match exec i s with
  | .next t => p t
  | _ => false

/-- The instruction answers the state it was given. -/
def stalls (i : Instr) (s : State) : Bool := runs i s fun t => t == s

/-- It retires at Next with word v in register r. -/
def writes (i : Instr) (s : State) (r : Reg) (v : Word) : Bool :=
  ready s i && runs i s fun t => xreg t r == v && (me t).pc == nextOf s i && (me t).instret == (me s).instret + 1

/-- It takes a trap of this cause and value, from a context that can. -/
def traps (i : Instr) (s : State) (code : Nat) (val : Word) : Bool :=
  canTrap s && runs i s fun t => (me t).trapCause == BitVec.ofNat 64 code && (me t).trapVal == val && fget F.lvl (me t).priv == 1

/-! ### Well-formedness: one ill-formed term for each check -/

/-- The check f refuses the instruction's layout, and so does `wf`. -/
def refuses (f : Shape → Bool) (i : Instr) : Bool := (i.shape.any fun h => !f h) && !i.wf

theorem test_wf_accepts : allOf [(Instr.add plain 1 2 3).wf, (Instr.ld wide .w 1 2 1).wf, (Instr.nop plain).wf] = true := by decide +kernel
theorem test_wf_chain : refuses Shape.chainOk (.addi ⟨false, true, some ⟨0, 0, 0, false, false⟩, 3⟩ 1 2 0) = true := by decide +kernel
theorem test_wf_page : refuses Shape.pageOk (.mul plain 1 2 3) = true := by decide +kernel
theorem test_wf_reg : refuses Shape.regOk (.add plain 9 2 3) = true := by decide +kernel
theorem test_wf_class : refuses Shape.classOk (.vmov both 0 16 1) = true := by decide +kernel
theorem test_wf_class_pair : refuses Shape.classOk (.ldp paged 3 4 0) = true := by decide +kernel
theorem test_wf_fmt : ((Instr.shape (.nop plain)).any fun h => !Shape.fmtOk { h with fmt := .n11, a := .x 1 }) = true := by decide +kernel
theorem test_wf_variant : refuses Shape.varOk (.vadd both 0 .bf16 1 2 3) = true := by decide +kernel
theorem test_wf_immediate : refuses Shape.immOk (.addi plain 1 2 16) = true := by decide +kernel
theorem test_wf_bit_field : refuses Shape.immOk (.bfx ⟨true, false, none, 1⟩ 1 2 (63 * 64 + 1)) = true := by decide +kernel
theorem test_wf_qualifier : refuses Shape.qualOk (.add ⟨false, false, some ⟨1, 0, 0, false, false⟩, 0⟩ 1 2 3) = true := by decide +kernel
theorem test_wf_needs_layout : (Instr.messageHop).wf = false := by decide +kernel

/-! ### Decoding -/

/-- Words laid out from the opcode table (R94–R100): page 0, part 1. -/
theorem test_decode_page0a : decodesAll [
    ([0x0A98], .add plain 2 4 6), ([0x0A99], .sub plain 2 4 6), ([0x0A9A], .and plain 2 4 6), ([0x0A9B], .or plain 2 4 6),
    ([0x1298], .xor plain 2 4 6), ([0x1299], .sll plain 2 4 6), ([0x129A], .srl plain 2 4 6), ([0x129B], .sra plain 2 4 6),
    ([0x1A98], .slt plain 2 4 6), ([0x1A99], .sltu plain 2 4 6), ([0x1A9A], .seq plain 2 4 6), ([0x1A83], .mov plain 2 4),
    ([0x2285], .addi plain 2 4 5), ([0x2A05], .li plain 2 5), ([0xFAC0, 0x3285], .ld wide .d 10 20 5), ([0xFAC0, 0x3A85], .st wide .d 10 20 5),
    ([0x4205], .bz plain 2 5), ([0x4A05], .bnz plain 2 5), ([0x5285], .blt plain 2 4 5), ([0x5A85], .bge plain 2 4 5)] = true := by decide +kernel

/-- Words laid out from the opcode table (R94–R100): page 0, part 2. -/
theorem test_decode_page0b : decodesAll [
    ([0x6285], .bltu plain 2 4 5), ([0x6A85], .bgeu plain 2 4 5), ([0x7005], .j plain 5), ([0x7805], .jal plain 5), ([0x8080], .jr plain 4),
    ([0x8281], .jalr plain 2 4), ([0x8002], .nop plain)] = true := by decide +kernel

/-- Words laid out from the opcode table (R94–R100): page 1, part 1. -/
theorem test_decode_page1a : decodesAll [
    ([0xFC01, 0x0A85], .ldp paged 2 4 5), ([0xFC01, 0x1285], .stp paged 2 4 5), ([0xFC01, 0x1A85], .ldSync paged 2 4 5),
    ([0xFC01, 0x2285], .stFill paged 2 4 5), ([0xFC01, 0x2A85], .take paged 2 4 5), ([0xFC01, 0x3285], .put paged 2 4 5),
    ([0xFC01, 0x3A85], .tryt paged 2 4 5), ([0xFC01, 0x4298], .amoAdd paged 2 4 6), ([0xFC01, 0x4299], .amoMin paged 2 4 6),
    ([0xFC01, 0x429A], .amoMax paged 2 4 6), ([0xFC01, 0x429B], .amoMinu paged 2 4 6), ([0xFC01, 0x4A98], .amoMaxu paged 2 4 6),
    ([0xFC01, 0x4A99], .amoAnd paged 2 4 6), ([0xFC01, 0x4A9A], .amoOr paged 2 4 6), ([0xFC01, 0x4A9B], .amoXor paged 2 4 6),
    ([0xFC01, 0x5298], .amoSwap paged 2 4 6), ([0xFC01, 0x5299], .amoCas paged 2 4 6), ([0xFC01, 0x529A], .bump paged 2 4 6),
    ([0xFC01, 0x5898], .redAdd paged 4 6), ([0xFC01, 0x5899], .redMin paged 4 6)] = true := by decide +kernel

/-- Words laid out from the opcode table (R94–R100): page 1, part 2. -/
theorem test_decode_page1b : decodesAll [
    ([0xFC01, 0x589A], .redMax paged 4 6), ([0xFC01, 0x589B], .redFadd paged 4 6), ([0xFC01, 0x6003], .fence paged 3),
    ([0xFC01, 0x6102], .fenceRt paged 2), ([0xFC01, 0x6201], .fenceEng paged 1), ([0xFC01, 0x6805], .barArv paged 5),
    ([0xFC01, 0x7005], .barWait paged 5), ([0xFC01, 0x7805], .barSync paged 5), ([0xFC01, 0x8205], .barPhase paged 2 5),
    ([0xFC01, 0x8801], .sphX paged 1), ([0xFC01, 0x8902], .sphC paged 2), ([0xFC01, 0x9085], .mig paged 4 5)] = true := by decide +kernel

/-- Words laid out from the opcode table (R94–R100): page 2, part 1. -/
theorem test_decode_page2a : decodesAll [
    ([0xFC02, 0x0A98], .mul paged 2 4 6), ([0xFC02, 0x0A99], .mulh paged 2 4 6), ([0xFC02, 0x0A9A], .mulhu paged 2 4 6),
    ([0xFC02, 0x1298], .div paged 2 4 6), ([0xFC02, 0x1299], .divu paged 2 4 6), ([0xFC02, 0x129A], .rem paged 2 4 6),
    ([0xFC02, 0x129B], .remu paged 2 4 6), ([0xFC02, 0x1A98], .min paged 2 4 6), ([0xFC02, 0x1A99], .max paged 2 4 6),
    ([0xFC02, 0x1A9A], .minu paged 2 4 6), ([0xFC02, 0x1A9B], .maxu paged 2 4 6), ([0xFC02, 0x2280], .clz paged 2 4),
    ([0xFC02, 0x2281], .ctz paged 2 4), ([0xFC02, 0x2282], .popc paged 2 4), ([0xFC02, 0x229B], .ror paged 2 4 6),
    ([0xFC02, 0x2A98], .sel paged 2 4 6), ([0xFC02, 0x4285], .hstart paged 2 4 5), ([0xFC02, 0x4880], .hend paged 4),
    ([0xFC02, 0x4A81], .hjoin paged 2 4), ([0xFC02, 0x4802], .yield paged)] = true := by decide +kernel

/-- Words laid out from the opcode table (R94–R100): page 2, part 2. -/
theorem test_decode_page2b : decodesAll [
    ([0xFC02, 0x5205], .csrr paged 2 5), ([0xFC02, 0x5A05], .csrw paged 2 5), ([0xFC02, 0x6205], .csrs paged 2 5),
    ([0xFC02, 0x6A05], .csrc paged 2 5), ([0xFC02, 0x7005], .trap paged 5), ([0xFC02, 0x7800], .eret paged), ([0xFC02, 0x7801], .wfe paged),
    ([0xFC02, 0x7882], .sev paged 4), ([0xFC02, 0x7803], .brk paged), ([0xFC02, 0x8298], .cstart paged 2 4 6), ([0xFC02, 0x8281], .cstop paged 2 4),
    ([0xFC02, 0x8082], .finv paged 4), ([0xFC02, 0x8283], .rng paged 2 4)] = true := by decide +kernel

/-- Words laid out from the opcode table (R94–R100): page 3, part 1. -/
theorem test_decode_page3a : decodesAll [
    ([0xFC03, 0x0A85], .vld paged 2 4 5), ([0xFC03, 0x1285], .vst paged 2 4 5), ([0xFC03, 0x1A99], .vldx paged 1 2 4 6),
    ([0xFC03, 0x2299], .vstx paged 1 2 4 6), ([0xFC03, 0x2A81], .vmov paged 1 2 4), ([0xFC03, 0x2A85], .vabs paged 1 .fp32 2 4),
    ([0xFC03, 0x2A89], .vneg paged 1 .fp32 2 4), ([0xFC03, 0x3281], .vbcast paged 1 2 4), ([0xFC03, 0x3A99], .vadd paged 1 .fp32 2 4 6),
    ([0xFC03, 0x4299], .vsub paged 1 .fp32 2 4 6), ([0xFC03, 0x4A99], .vmul paged 1 .fp32 2 4 6), ([0xFC03, 0x5299], .vfma paged 1 2 4 6),
    ([0xFC03, 0x5A99], .vfms paged 1 2 4 6), ([0xFC03, 0x6299], .vfnma paged 1 2 4 6), ([0xFC03, 0x6A99], .vmin paged 1 .fp32 2 4 6),
    ([0xFC03, 0x7299], .vmax paged 1 .fp32 2 4 6), ([0xFC03, 0x7A99], .vand paged 1 2 4 6), ([0xFC03, 0x8299], .vor paged 1 2 4 6),
    ([0xFC03, 0x8A99], .vxor paged 1 2 4 6), ([0xFC03, 0x9299], .vshl paged 1 2 4 6)] = true := by decide +kernel

/-- Words laid out from the opcode table (R94–R100): page 3, part 2. -/
theorem test_decode_page3b : decodesAll [
    ([0xFC03, 0xA299], .vcmp paged .lt .fp32 2 4 6), ([0xFC03, 0xAA99], .vsel paged 1 2 4 6), ([0xFC03, 0xB281], .vredsum paged 1 .fp32 2 4),
    ([0xFC03, 0xB285], .vredmax paged 1 .fp32 2 4), ([0xFC03, 0xB289], .vredmin paged 1 .fp32 2 4), ([0xFC03, 0xB28D], .vargmax paged 1 .fp32 2 4),
    ([0xFC03, 0xBA81], .vscan paged 1 .fp32 2 4), ([0xFC03, 0xC299], .vtopk paged 1 .fp32 2 4 6), ([0xFC03, 0xCA99], .vperm paged 1 2 4 6),
    ([0xFC03, 0xD22C], .vmskAnd paged 2 1 3), ([0xFC03, 0xD22D], .vmskOr paged 2 1 3), ([0xFC03, 0xD22E], .vmskXor paged 2 1 3),
    ([0xFC03, 0xD223], .vmskNot paged 2 1), ([0xFC03, 0xDA05], .vrep paged 2 5), ([0xFC03, 0xE080], .vseed paged 4),
    ([0xFC03, 0xEA01], .vrand paged 1 2)] = true := by decide +kernel

/-- Words laid out from the opcode table (R94–R100): page 4. -/
theorem test_decode_page4 : decodesAll [
    ([0xFC04, 0x2A80], .cvtiI32 paged 2 4), ([0xFC04, 0x2A81], .cvtiF32 paged 2 4), ([0xFC04, 0x4280], .vexp2 paged 2 4),
    ([0xFC04, 0x4284], .vlog2 paged 2 4), ([0xFC04, 0x4288], .vrcp paged 2 4), ([0xFC04, 0x428C], .vrsqrt paged 2 4),
    ([0xFC04, 0x4290], .vtanh paged 2 4), ([0xFC04, 0x4294], .vsig paged 2 4)] = true := by decide +kernel

/-- Words laid out from the opcode table (R94–R100): page 5. -/
theorem test_decode_page5 : decodesAll [
    ([0xFC05, 0x0800], .mzero paged), ([0xFC05, 0x2098], .mwait paged 4 6), ([0xFC05, 0x2898], .mdrain paged 4 6), ([0xFC05, 0x4000], .aini paged),
    ([0xFC05, 0x4A00], .mgeom paged 2), ([0xFC05, 0x5298], .mtest paged 2 4 6), ([0xFC05, 0x5A80], .mfmap paged 2 4),
    ([0xFC05, 0x6280], .mremap paged 2 4), ([0xFC05, 0x6A98], .abind paged 2 4 6), ([0xFC05, 0x7280], .await paged 2 4),
    ([0xFC05, 0x7898], .aret paged 4 6)] = true := by decide +kernel

/-- Words laid out from the opcode table (R94–R100): page 6. -/
theorem test_decode_page6 : decodesAll [
    ([0xFC06, 0x0898], .xcfg paged 4 6), ([0xFC06, 0x1298], .xcopy paged 2 4 6), ([0xFC06, 0x1A98], .xgat paged 2 4 6),
    ([0xFC06, 0x2298], .xsct paged 2 4 6), ([0xFC06, 0x2A98], .xbins paged 2 4 6), ([0xFC06, 0x3298], .xfill paged 2 4 6),
    ([0xFC06, 0x3A98], .xbindIn paged 2 4 6), ([0xFC06, 0x3A99], .xbindOut paged 2 4 6), ([0xFC06, 0x4280], .xid paged 2 4),
    ([0xFC06, 0x4898], .xwait paged 4 6), ([0xFC06, 0x5280], .xcancel paged 2 4)] = true := by decide +kernel

/-- Words laid out from the opcode table (R94–R100): page 7. -/
theorem test_decode_page7 : decodesAll [
    ([0xFC07, 0x0A80], .snew paged 2 4), ([0xFC07, 0x1298], .sfork paged 2 4 6), ([0xFC07, 0x1880], .sbind paged 4),
    ([0xFC07, 0x2000], .sunbind paged), ([0xFC07, 0x2A00], .sstep paged 2), ([0xFC07, 0x3000], .smark paged),
    ([0xFC07, 0x3A98], .scommit paged 2 4 6), ([0xFC07, 0x4200], .sroll paged 2), ([0xFC07, 0x4880], .sret paged 4),
    ([0xFC07, 0x5298], .sjoin paged 2 4 6), ([0xFC07, 0x5880], .sprune paged 4), ([0xFC07, 0x6080], .sfree paged 4),
    ([0xFC07, 0x6A98], .smig paged 2 4 6), ([0xFC07, 0x7298], .sstat paged 2 4 6), ([0xFC07, 0x7A98], .shold paged 2 4 6)] = true := by decide +kernel

/-- Words laid out from the opcode table (R94–R100): page 8. -/
theorem test_decode_page8 : decodesAll [
    ([0xFC08, 0x0A98], .cenq paged 2 4 6), ([0xFC08, 0x0A99], .cenqNb paged 2 4 6), ([0xFC08, 0x1298], .cdeq paged 2 4 6),
    ([0xFC08, 0x1A80], .cdone paged 2 4), ([0xFC08, 0x2280], .cocc paged 2 4), ([0xFC08, 0x2898], .tspawn paged 4 6),
    ([0xFC08, 0x3280], .tdec paged 2 4), ([0xFC08, 0x3A80], .tnext paged 2 4), ([0xFC08, 0x4000], .tend paged),
    ([0xFC08, 0x4A80], .tcancel paged 2 4), ([0xFC08, 0x5280], .frd paged 2 4), ([0xFC08, 0x5898], .fwr paged 4 6)] = true := by decide +kernel

/-- Words with a variant, a wide immediate or no row of bits in the table, and the words that R101 itself writes out. -/
theorem test_decode_variants : decodesAll [
    ([0xFC02, 0xF812, 0x3283], .bfx ⟨true, false, none, 1⟩ 2 4 579), ([0xFC02, 0xF812, 0x3A83], .bfi ⟨true, false, none, 1⟩ 2 4 579),
    ([0xFC03, 0xFA01, 0x9A99], .vshr both 1 .arith 2 4 6), ([0xFC03, 0xFA02, 0x9A9B], .vshr both 3 .logical 2 4 6),
    ([0xFC03, 0xFA01, 0xD280], .vmskFromx both 2 4), ([0xFC03, 0xFA01, 0xD441], .vmskTox both 4 2),
    ([0xFC03, 0xFA81, 0x3A98], .vadd both 0 .int32 10 4 6), ([0xFC04, 0xFA01, 0x0A98], .cvt2 both .bf16 2 4 6),
    ([0xFC04, 0xFA01, 0x1280], .cvt8 both .e5m2 2 4), ([0xFC04, 0xFA01, 0x1A80], .cvt4 both .int4 2 4),
    ([0xFC04, 0xFA02, 0x2284], .cvtu both .e4m3 2 4 1), ([0xFC04, 0xFA03, 0x3280], .qscale both .e4m3 2 4),
    ([0xFC04, 0xFA06, 0x3A98], .qz both .e2m1 2 4 6), ([0xFC05, 0x1060], .mring paged .fp32 3), ([0xFC05, 0xFA03, 0x1880], .mop both .e4m3 4),
    ([0xFC05, 0xFA01, 0x3098], .dret both .bf16 4 6), ([0xFC05, 0xFA02, 0x3898], .attn both .fp16 4 6), ([0xFA83, 0x3143], .ld wide .h 9 2 3),
    ([0xFC05, 0x7060], .await paged 0 3)] = true := by decide +kernel

/-! ### Integer forms, branches, traps, contexts, CSRs, events (R114, R119–R139) -/

/-- x1 = −2^63, x2 = 7, x3 = −1, x4 = 0, x5 = 0x1001. -/
def ints : Tbl Word := [(1, 0x8000000000000000), (2, 7), (3, 0xFFFFFFFFFFFFFFFF), (5, 0x1001)]

theorem test_integer_forms_are_ready :
    [Instr.add plain 1 2 3, .sub plain 1 2 3, .mul paged 1 2 3, .mulh paged 1 2 3, .mulhu paged 1 2 3, .addi plain 1 2 3, .li plain 1 2, .mov plain 1 2,
      .and plain 1 2 3, .or plain 1 2 3, .xor plain 1 2 3, .slt plain 1 2 3, .sltu plain 1 2 3, .seq plain 1 2 3, .min paged 1 2 3, .max paged 1 2 3,
      .minu paged 1 2 3, .maxu paged 1 2 3, .sel paged 1 2 3, .sll plain 1 2 3, .srl plain 1 2 3, .sra plain 1 2 3, .ror paged 1 2 3,
      .bfx ⟨true, false, none, 1⟩ 1 2 579, .bfi ⟨true, false, none, 1⟩ 1 2 579, .div paged 1 2 3, .rem paged 1 2 3, .divu paged 1 2 3,
      .remu paged 1 2 3, .clz paged 1 2, .ctz paged 1 2, .popc paged 1 2, .bz plain 1 2, .bnz plain 1 2, .blt plain 1 2 3, .bge plain 1 2 3,
      .bltu plain 1 2 3, .bgeu plain 1 2 3, .j plain 2, .jal plain 2, .jr plain 2, .jalr plain 1 2, .nop plain].all
        (fun i => i.wf && ready (base 48 ints) i) = true := by decide +kernel

theorem test_arithmetic : allOf [
    writes (.add plain 6 2 3) (base 48 ints) 6 6, writes (.sub plain 6 4 2) (base 48 ints) 6 0xFFFFFFFFFFFFFFF9,
    writes (.mulh paged 6 1 3) (base 48 ints) 6 0, writes (.mulhu paged 6 1 3) (base 48 ints) 6 0x7FFFFFFFFFFFFFFF,
    writes (.slt plain 6 1 2) (base 48 ints) 6 1, writes (.sltu plain 6 1 2) (base 48 ints) 6 0, writes (.min paged 6 1 2) (base 48 ints) 6 0x8000000000000000,
    writes (.sra plain 6 1 2) (base 48 ints) 6 0xFF00000000000000, writes (.ror paged 6 5 2) (base 48 ints) 6 0x0200000000000020,
    writes (.addi plain 2 2 (-16)) (base 48 ints) 2 0xFFFFFFFFFFFFFFF7, writes (.bfx ⟨true, false, none, 1⟩ 6 5 (11 * 64 + 4)) (base 48 ints) 6 0x100,
    writes (.bfi ⟨true, false, none, 1⟩ 3 4 (7 * 64 + 8)) (base 48 ints) 3 0xFFFFFFFFFFFF00FF] = true := by decide +kernel

theorem test_divisions : allOf [
    writes (.div paged 6 1 3) (base 48 ints) 6 0x8000000000000000, writes (.rem paged 6 1 3) (base 48 ints) 6 0,
    writes (.div paged 6 2 4) (base 48 ints) 6 0xFFFFFFFFFFFFFFFF, writes (.rem paged 6 2 4) (base 48 ints) 6 7,
    writes (.div paged 6 3 2) (base 48 ints) 6 0, writes (.divu paged 6 3 2) (base 48 ints) 6 0x2492492492492492,
    writes (.clz paged 6 4) (base 48 ints) 6 64, writes (.ctz paged 6 5) (base 48 ints) 6 0, writes (.popc paged 6 5) (base 48 ints) 6 2] = true := by decide +kernel

/-- The instruction continues at pc. -/
def goesTo (i : Instr) (s : State) (pc : Code) : Bool := ready s i && runs i s fun t => (me t).pc == pc

theorem test_branches : allOf [
    goesTo (.bz plain 4 (-3)) (base 48 ints) 0xFFFA, goesTo (.bnz plain 4 (-3)) (base 48 ints) 2, goesTo (.blt plain 1 2 4) (base 48 ints) 8,
    goesTo (.bltu plain 1 2 4) (base 48 ints) 2, goesTo (.bge plain 2 2 4) (base 48 ints) 8, goesTo (.jr plain 5) (base 48 ints) 0x1000,
    writes (.nop plain) (base 48 ints) 1 0x8000000000000000, runs (.jal plain 5) (base 48 ints) (fun t => xreg t 30 == 2 && (me t).pc == 10),
    runs (.jal plain 5) (machine 48 1 .helper false []) (fun t => xreg t 15 == 2),
    runs (.jalr plain 5 5) (base 48 ints) (fun t => xreg t 5 == 2 && (me t).pc == 0x1000)] = true := by decide +kernel

theorem test_traps : allOf [
    ready (base 48 []) (.trap paged 9), traps (.trap paged 9) (base 48 []) 0x20 9, traps (.brk paged) (base 48 []) 0x21 0,
    traps (.undefinedEncoding (.bad 0 0 0)) (base 48 []) 0x01 0, traps (.undefinedEncoding (.bad 3 5 0xFC03)) (base 0 []) 0x03 3,
    traps (.undefinedEncoding (.chain 2)) (base 48 []) 0x02 2, traps (.undefinedEncoding (.fetch 1 2)) (base 48 []) 0x08 0x10002,
    ready (machine 48 0 .base true []) (.trap paged 9) && runs (.trap paged 9) (machine 48 0 .base true []) (fun t => !(getCore t 48).run)] = true := by decide +kernel

theorem test_trap_entry : runs (.trap paged 9) (modCore (base 48 []) 48 fun c => { c with trapvec := 0xB800 })
    (fun t => (me t).pc == 0xBC00 && (me t).trapPc == 0 && fget F.plvl (me t).priv == 0) = true := by decide +kernel

theorem test_eret : allOf [
    ready (machine 48 0 .base true []) (.eret paged), traps (.eret paged) (base 48 []) 0x04 0,
    runs (.eret paged) (modCtx (machine 48 0 .base true []) 48 0 fun c => { c with trapPc := 0x40 })
      (fun t => (me t).pc == 0x40 && fget F.lvl (me t).priv == 0)] = true := by decide +kernel

theorem test_checks_in_order : allOf [
    traps (.vmov paged 0 1 2) (base 0 []) 0x03 3, traps (.hend paged 1) (base 48 []) 0x01 0xFC02,
    traps (.add wide 17 2 3) (machine 48 1 .helper false []) 0x10 17, traps (.cstart paged 1 2 3) (base 48 []) 0x04 0] = true := by decide +kernel

theorem test_csr : allOf [
    Rules.csrAllowed (base 48 []) 0x010 false, Rules.csrAllowed (base 48 []) 0x010 true, Rules.csrAllowed (machine 48 0 .base true []) 0x022 true,
    writes (.csrr paged 6 0x012) (base 48 []) 6 4, ready (base 48 ints) (.csrw paged 3 0x010),
    runs (.csrw paged 3 0x010) (base 48 ints) (fun t => (getCore t 48).fmode == 0x1F08), runs (.csrw paged 2 0x012) (base 48 ints) (fun t => (getCore t 48).vqw == 7),
    runs (.csrc paged 3 0x012) (base 48 ints) (fun t => (getCore t 48).vqw == 0), runs (.csrs paged 2 0x015) (base 48 ints) (fun t => (getCore t 48).migen == 1),
    runs (.csrw paged 3 0x022) (machine 48 0 .base true ints) (fun t => (me t).trapPc == 0xFFFE)] = true := by decide +kernel

/-- A K-core with ten helper slots, and slot 1 in a mode. -/
def helping (m : Mode) : State := modCtx (modCore (base 48 [(2, 1)]) 48 fun c => { c with helpers := 10 }) 48 1 fun c => { c with mode := m, result := 5 }

theorem test_contexts : allOf [
    writes (.hstart paged 6 2 4) (helping .free) 6 1, runs (.hstart paged 6 2 4) (helping .free) (fun t => (getCtx t 48 1).pc == 8 && (getCtx t 48 1).mode == .ready),
    writes (.hstart paged 6 2 4) (helping .ready) 6 2, writes (.hstart paged 6 2 4) (base 48 []) 6 0,
    writes (.hjoin paged 6 2) (helping .free) 6 0, writes (.hjoin paged 6 2) (helping .ended) 6 5, ready (helping .ready) (.hjoin paged 6 2),
    runs (.hjoin paged 6 2) (helping .ready) (fun t => (getCore t 48).slot == 1 && (getCtx t 48 0).mode == .blockedJoin 1),
    ready (helping .ready) (.yield paged), runs (.yield paged) (helping .ready) (fun t => (getCore t 48).slot == 1 && (getCtx t 48 0).mode == .ready),
    runs (.yield paged) (helping .free) (fun t => (getCore t 48).slot == 0 && (getCtx t 48 0).mode == .running)] = true := by decide +kernel

theorem test_hend : allOf [
    ready (machine 48 1 .helper false []) (.hend paged 2), quiet (machine 48 1 .helper false []) 4,
    runs (.hend paged 2) (modCtx (machine 48 1 .helper false [(2, 7)]) 48 0 fun c => { c with mode := .blockedJoin 1 })
      (fun t => (getCtx t 48 1).mode == .ended && (getCtx t 48 1).result == 7 && (getCtx t 48 0).mode == .ready),
    runs (.hend paged 2) (machine 48 1 (.migrant 131120 3 0 none) false [(2, 7)])
      (fun t => (getCtx t 48 1).mode == .free && t.net.any fun m => m.dst == 1 && m.body == .result 131120 3 none 7)] = true := by decide +kernel

theorem test_events : allOf [
    ready (base 48 []) (.wfe paged), runs (.wfe paged) (base 48 []) (fun t => (getCtx t 48 0).mode == .blockedEvent),
    runs (.wfe paged) (modCore (base 48 []) 48 fun c => { c with ev := true }) (fun t => (getCtx t 48 0).pc == 4 && !(getCore t 48).ev),
    ready (base 48 ints) (.sev paged 2), runs (.sev paged 2) (base 48 ints) (fun t => (getCore t 7).evNext && (getCore (coreClockEnd t 7) 7).ev && !(getCore t 8).evNext)] = true := by decide +kernel

theorem test_core_control : allOf [
    ready (machine 48 0 .base true ints) (.cstart paged 6 2 5), runs (.cstart paged 6 2 5) (machine 48 0 .base true ints) (fun t => t.net.length == 1),
    ready (machine 48 0 .base true ints) (.cstop paged 6 2), runs (.cstop paged 6 2) (machine 48 0 .base true ints) (fun t => t.net.length == 1),
    runs (.cstop paged 6 2) (machine 48 0 .base true [(2, 48)]) (fun t => !(getCore t 48).run),
    ready (base 48 []) (.finv paged 2), runs (.finv paged 4) (base 48 []) (fun t => !(getCore t 48).frameV.getLsbD 0),
    writes (.rng paged 6 4) (base 48 []) 6 1, runs (.rng paged 6 2) (base 48 ints) (fun t => (getCore t 48).rng == 7)] = true := by decide +kernel

/-! ### Memory (R122, R140–R161) -/

/-- x2 = 0x100 in the TCM, x3 = 0x1122334455667788, x5 = 0x100008 in the scratchpad; the doubleword at 0x100 holds 0x00000000FFFFFF80, with F = 1. -/
def stored : State :=
  let s := base 48 [(2, 0x100), (3, 0x1122334455667788), (5, 0x100008), (6, 0x103)]
  setFull (writeNat s (gaTcm 48 0x100) 8 0xFFFFFF80) (gaTcm 48 0x100) true

/-- The n bytes at a TCM offset after the instruction are v, and xD is w. -/
def leaves (i : Instr) (s : State) (off n v : Nat) (r : Reg) (w : Word) : Bool :=
  ready s i && runs i s fun t => readNat t (gaTcm 48 off) n == v && xreg t r == w && (me t).pc == nextOf s i && t.mem.all fun c => c.2 != 0

theorem witness_local_access : Rules.Local stored (.ld plain .d 1 2 0) 0x100 8 (gaTcm 48 0x100) ∧ Rules.sound stored (gaTcm 48 0x100) 8 ∧
    Rules.Local stored (.st plain .d 1 2 0) 0x100 8 (gaTcm 48 0x100) ∧ Rules.mayWrite stored (.st plain .d 1 2 0) (gaTcm 48 0x100) 8 ∧
    Rules.unlisted stored (gaTcm 48 0x100) := by
  have h : Rules.localAt stored 0x100 8 (gaTcm 48 0x100) := .inl (by decide +kernel)
  have e : stored.poison = [] ∧ stored.latent = [] ∧ stored.soft = [] ∧ stored.net = [] ∧ stored.saves = [] := by decide +kernel
  have p : Rules.onPart stored (gaTcm 48 0x100) 8 := ⟨by decide +kernel, fun _ _ _ => by simp [areaOf, e]⟩
  exact ⟨⟨by decide +kernel, by decide +kernel, by decide +kernel, h, p, by decide +kernel, by decide +kernel⟩, fun dw _ _ => by simp [e],
    ⟨by decide +kernel, by decide +kernel, by decide +kernel, h, p, by decide +kernel, by decide +kernel⟩, by unfold Rules.mayWrite; decide +kernel,
    by simp [Rules.unlisted, e]⟩

theorem test_loads : allOf [
    writes (.ld plain .d 1 2 0) stored 1 0xFFFFFF80, writes (.ld wide .w 1 2 0) stored 1 0xFFFFFFFFFFFFFF80, writes (.ld wide .wz 1 2 0) stored 1 0xFFFFFF80,
    writes (.ld wide .h 1 2 1) stored 1 0xFFFFFFFFFFFFFFFF, writes (.ld wide .b 1 2 0) stored 1 0xFFFFFFFFFFFFFF80, writes (.ld wide .bz 1 2 0) stored 1 0x80,
    writes (.ldp paged 2 2 0) stored 2 0xFFFFFF80] = true := by decide +kernel

theorem test_stores : allOf [
    leaves (.st plain .d 3 2 1) stored 0x108 8 0x1122334455667788 1 0, leaves (.st wide .h 3 2 1) stored 0x100 8 0x7788FF80 1 0,
    leaves (.st wide .b 3 2 0) stored 0x100 8 0xFFFFFF88 1 0, leaves (.stp paged 2 2 2) stored 0x110 16 (0x100 + 0x1122334455667788 * 2 ^ 64) 1 0] = true := by decide +kernel

theorem test_full_empty : allOf [
    writes (.ldSync paged 1 2 0) stored 1 0xFFFFFF80, writes (.take paged 1 2 0) stored 1 0xFFFFFF80,
    runs (.take paged 1 2 0) stored (fun t => !fullAt t (gaTcm 48 0x100)), writes (.tryt paged 1 2 1) stored 1 0x8000000000000000,
    leaves (.put paged 3 2 1) stored 0x108 8 0x1122334455667788 1 0, runs (.put paged 3 2 1) stored (fun t => fullAt t (gaTcm 48 0x108)),
    leaves (.stFill paged 3 2 0) stored 0x100 8 0x1122334455667788 1 0,
    ready stored (.take paged 1 2 1), runs (.take paged 1 2 1) stored (fun t => t.net.length == 1 && t.net.all fun m => m.listed),
    runs (.put paged 3 2 0) stored (fun t => t.net.length == 1 && (me t).mode == .waiting (.reply 0))] = true := by decide +kernel

theorem test_atomics : allOf [
    leaves (.amoAdd paged 1 2 3) stored 0x100 8 0x1122334555667708 1 0xFFFFFF80, leaves (.amoMin paged 1 2 3) stored 0x100 8 0xFFFFFF80 1 0xFFFFFF80,
    leaves (.amoMax paged 1 2 3) stored 0x100 8 0x1122334455667788 1 0xFFFFFF80, leaves (.amoAnd paged 1 2 3) stored 0x100 8 0x55667780 1 0xFFFFFF80,
    leaves (.amoSwap paged 1 2 3) stored 0x100 8 0x1122334455667788 1 0xFFFFFF80, leaves (.amoCas paged 1 2 3) stored 0x100 8 0xFFFFFF80 1 0xFFFFFF80,
    leaves (.redAdd paged 2 3) stored 0x100 8 0x1122334555667708 1 0,
    leaves (.bump paged 1 2 5) (writeNat (modCtx stored 48 0 fun c => { c with x := tput c.x 5 2 }) (gaTcm 48 0x100) 8 (3 * 2 ^ 24 + 1)) 0x100 8 (3 * 2 ^ 24 + 3) 1 1,
    leaves (.bump paged 1 2 5) (writeNat (modCtx stored 48 0 fun c => { c with x := tput c.x 5 3 }) (gaTcm 48 0x100) 8 (3 * 2 ^ 24 + 1)) 0x100 8
      (2 ^ 48 + 3 * 2 ^ 24 + 1) 1 0xFFFFFFFFFFFFFFFF,
    leaves (.redFadd paged 2 3) (writeNat (modCtx stored 48 0 fun c => { c with x := tput c.x 3 0x3F8000003F800000 }) (gaTcm 48 0x100) 8 0x400000003F800000) 0x100 8
      0x4040000040000000 1 0] = true := by decide +kernel

theorem test_failing_accesses : allOf [
    traps (.ld plain .d 1 6 0) stored 0x05 0x103,
    traps (.amoAdd paged 1 4 3) (base 48 [(4, 0x20000)]) 0x06 0x20000, traps (.ld plain .d 1 4 0) (base 48 [(4, 0x1000000000000)]) 0x06 0x1000000000000,
    traps (.ldp paged 2 2 0) { stored with poison := [gaTcm 48 0x108 / 8] } 0x0A 0x108] = true := by decide +kernel

/-- A leaf that maps 256 KiB at 0x400000 to the scratchpad of cluster 3, readable, writable, for users, atomic and full/empty. -/
def mapped (sz : Nat) : State :=
  modCluster (base 48 [(2, 0x400000), (3, 7)]) 0 fun q =>
    { q with tlb := [{ tenant := 0, base := 0x400000, size := sz, leaf := BitVec.ofNat 128 (0x1F3 + (gaSpad 3 0 / 2 ^ 18) * 2 ^ 18), peers := [] }] }

theorem test_remote_accesses : allOf [
    translate (mapped (2 ^ 18)) (whoOf (mapped (2 ^ 18)) 48 0) needLoad 0x400000 8 == .at (mapped (2 ^ 18)) (gaSpad 3 0) 0 0,
    runs (.ld plain .d 1 2 0) (mapped (2 ^ 18)) (fun t => t.net.length == 1 && (me t).mode == .waiting (.reply 0)),
    runs (.st plain .d 3 2 0) (mapped (2 ^ 18)) (fun t => t.net.isEmpty && (getCore t 48).comb.length == 1 && (me t).pc == 2),
    runs (.fence paged 3) (mapped (2 ^ 18)) (fun t => (me t).pc == 4),
    runs (.st plain .d 3 2 0) (mapped (2 ^ 18)) fun t => heldIn t 48 3 && runs (.fence paged 3) t fun u => u.net.length == 1 && (getCore u 48).comb.isEmpty] = true := by decide +kernel

/-! ### Barriers, exchanges, migration (R44, R63, R155–R160) -/

/-- Barrier 2 of the core is instance 5 of the cluster, with EXPECT, COUNT[0] and GEN 0; the latest arrival is of phase `arrn`. -/
def barrier (expect count arrn : Nat) : State :=
  let s := setBar (base 48 []) (gaBarCluster 0 5) (fput F.biCnt0 (fput F.biExpect 0 expect) count)
  modCore s 48 fun c => { c with barmap := [(2, BitVec.ofNat 64 (2 ^ 63 + arrn * 2 ^ 16 + 5))] }

/-- GEN and COUNT[0] of that instance at the end of the clock in which the instruction has run. -/
def phaseAfter (i : Instr) (s : State) (gen count : Nat) : Bool :=
  ready s i && runs i s fun t => let b := getBar (completeBarriers t) (gaBarCluster 0 5); fget F.biGen b == gen && fget F.biCnt0 b == count && arrnOf t 48 2 == 1

theorem test_barriers : allOf [
    barrierOf (barrier 2 0 0) 48 2 == some (0, gaBarCluster 0 5), phaseAfter (.barArv paged 2) (barrier 2 0 0) 0 1, phaseAfter (.barArv paged 2) (barrier 2 1 0) 1 0,
    phaseAfter (.barSync paged 2) (barrier 1 0 0) 1 0, phaseAfter (.barArv paged 2) (barrier 0 0 0) 1 0,
    runs (.barSync paged 2) (barrier 1 0 0) (fun t => (me t).pc == 0 && (me t).begun),
    writes (.barPhase paged 1 2) (barrier 2 0 3) 1 0x30000, runs (.barWait paged 2) (barrier 2 0 0) (fun t => (me t).pc == 4),
    ready (barrier 2 1 1) (.barWait paged 2), stalls (.barWait paged 2) (barrier 2 1 1)] = true := by decide +kernel

/-- Two cores are in cluster group 3, of which those listed have arrived; core 48's phase. -/
def grouped (there : List Nat) (at_ : Bool) : State :=
  let s := modCore (modCore (base 48 []) 49 fun c => { c with dommem := 0x8003, launch := some 0 }) 48 fun c =>
    { c with dommem := 0x8003, phase := if at_ then 1 else 0 }
  modGroup s ((2 ^ 21 * 32768 + 3) * 4) fun x => { x with count := 2, arrived := there }

theorem test_superstep : allOf [
    groupKey (grouped [] false) 48 0 == some ((2 ^ 21 * 32768 + 3) * 4), ready (grouped [] false) (.sphX paged 0), quiet (grouped [] false) 1,
    runs (.sphX paged 0) (grouped [] false) (fun t => (getCore t 48).phase == 1 && (getGroup t ((2 ^ 21 * 32768 + 3) * 4)).arrived == [48] && (me t).pc == 4),
    runs (.sphX paged 0) (grouped [49] false) (fun t => (getGroup t ((2 ^ 21 * 32768 + 3) * 4)).epoch == 1),
    ready (grouped [48] true) (.sphC paged 0), stalls (.sphC paged 0) (grouped [48] true),
    runs (.sphX paged 0) (grouped [49] false) (fun t => runs (.sphC paged 0) t fun u => (getCore u 48).phase == 0 && (me u).pc == 8),
    traps (.sphX paged 1) (base 48 []) 0x01 0xFC01, traps (.sphC paged 0) (base 48 []) 0x01 0xFC01,
    runs (.sphX paged 3) (modCore (base 48 []) 48 fun c => { c with dommem := 0x8021000000000000 }) (fun t => t.net.any fun m => m.cls == 0 && m.dst == 1)] = true := by decide +kernel

/-- A helper at 0xC000 whose page 0x400000 lies in the scratchpad of cluster 3 of module `m`. -/
def away (m : Nat) : State :=
  let s := machine 48 1 .helper false [(2, 0x400000), (20, 9)]
  let leaf := BitVec.ofNat 128 (0x1F3 + (gaSpad 3 0 / 2 ^ 18) * 2 ^ 18 + m * 2 ^ 48)
  modMod (modCluster (modCtx s 48 1 fun c => { c with pc := 0xC000 }) 0 fun q => { q with tlb := [{ tenant := 0, base := 0x400000, size := 2 ^ 18, leaf := leaf, peers := [] }] })
    0 fun x => { x with fabcfg := BitVec.ofNat 64 (2 ^ 13) }

theorem test_migration : allOf [
    ready (away 0) (.mig paged 2 0), runs (.mig paged 2 0) (away 0) (fun t => (me t).pc == 0xC004 && t.net.isEmpty),
    runs (.mig paged 2 0) (away 1) (fun t => (getCtx t 48 1).mode == .waiting .away && t.net.length == 1),
    traps (.mig paged 2 0) (modCtx (away 1) 48 1 fun c => { c with pc := 0x100 }) 0x13 0x400000] = true := by decide +kernel

/-! ### Vector forms (R162–R186) -/

/-- A C-core whose v1 holds 1, 2, 3 in lanes 0 to 2, v2 −1 in lane 0 and 5 in lane 1, with m1 = 3. -/
def lanes : State := modCore (base 1 [(2, 0x100), (5, 9)]) 1 fun c => { c with v := [(1, 1 + 2 * 2 ^ 32 + 3 * 2 ^ 64), (2, 0xFFFFFFFF + 5 * 2 ^ 32)], m := [(1, 3)] }

/-- The form enters the queue; given a lane group it then retires. -/
def retires (i : Instr) (s : State) (p : State → Bool) : Bool :=
  ready s i && runs i s fun t =>
    let q := { t with argA := 0, argB := 0 }
    wantsGroup q 1 && runs .vectorLaneGrant q fun u => (getCore u 1).lane == some 0 && runs .vectorRetire { u with argA := 1 } fun w => (getCore w 1).vq.isEmpty && p w

/-- Lane j of vector register r of core 1. -/
def laneAt (s : State) (r j : Nat) : Lane := laneOf (tget 0 (getCore s 1).v r) j

theorem test_vector_integer : allOf [
    retires (.vadd both 1 .int32 3 1 2) lanes (fun t => laneAt t 3 0 == 0 && laneAt t 3 1 == 7 && laneAt t 3 2 == 0),
    retires (.vsub both 0 .int32 3 1 2) lanes (fun t => laneAt t 3 0 == 2 && laneAt t 3 1 == 0xFFFFFFFD),
    retires (.vmin both 0 .int32 3 1 2) lanes (fun t => laneAt t 3 0 == 0xFFFFFFFF), retires (.vmin both 0 .uint32 3 1 2) lanes (fun t => laneAt t 3 0 == 1),
    retires (.vshl paged 0 3 1 1) lanes (fun t => laneAt t 3 2 == 24), retires (.vsel paged 1 3 1 2) lanes (fun t => laneAt t 3 1 == 2 && laneAt t 3 2 == 0),
    retires (.vcmp both .lt .int32 2 1 2) lanes (fun t => tget 0 (getCore t 1).m 2 == 2),
    retires (.vredsum both 1 .int32 3 1) lanes (fun t => tget 0 (getCtx t 1 0).x 3 == 3), retires (.vredmax both 0 .int32 3 2) lanes (fun t => tget 0 (getCtx t 1 0).x 3 == 5),
    retires (.vscan both 0 .int32 3 1) lanes (fun t => laneAt t 3 2 == 6 && laneAt t 3 63 == 6),
    retires (.vbcast paged 0 3 5) lanes (fun t => laneAt t 3 63 == 9), retires (.vmskNot paged 2 1) lanes (fun t => tget 0 (getCore t 1).m 2 == 0xFFFFFFFFFFFFFFFC)] = true := by decide +kernel

/-- v1 = 1.0, v2 = 2.0, v3 = 3.0 and a third of it in lane 1. -/
def floats : State := modCore (base 1 []) 1 fun c => { c with v := [(1, 0x3F800000), (2, 0x40000000), (3, 0x40400000 + 0x7F800001 * 2 ^ 32)] }

theorem test_vector_float : allOf [
    retires (.vadd paged 0 .fp32 4 1 2) floats (fun t => laneAt t 4 0 == 0x40400000), retires (.vfma paged 0 3 2 2) floats (fun t => laneAt t 3 0 == 0x40E00000),
    retires (.vrcp paged 4 2) floats (fun t => laneAt t 4 0 == 0x3F000000 && laneAt t 4 1 == 0x7F800000 && fget F.flags (getCore t 1).fmode == 8),
    retires (.vadd paged 0 .fp32 4 3 3) floats (fun t => laneAt t 4 1 == 0x7FC00000 && fget F.flags (getCore t 1).fmode == 16),
    retires (.cvt2 both .bf16 4 1 2) floats (fun t => laneAt t 4 0 == 0x3F80 && laneAt t 4 32 == 0x4000)] = true := by decide +kernel

theorem test_special_functions : allOf [
    (specialFn 0 false 0x3F800000).1 == 0x40000000, (specialFn 1 false 0x40000000).1 == 0x3F800000, (specialFn 2 false 0x40400000).1 == 0x3EAAAAAB,
    (specialFn 3 false 0x40800000).1 == 0x3F000000, (specialFn 4 false 0).1 == 0, (specialFn 5 false 0).1 == 0x3F000000] = true := by decide +kernel

/-- The access at the head of core 1's queue performs its next piece. -/
def nextPiece (s : State) : State :=
  match exec .vectorMemoryAccess { s with argA := 1 } with
  | .next t => t
  | _ => s

theorem test_vector_memory : allOf [
    ready lanes (.vst paged 1 2 0), runs (.vst paged 1 2 0) lanes (fun t => (me t).pc == 0 && (getCtx (nextPiece t) 1 0).pc == 4 && (getCore (nextPiece t) 1).vq.isEmpty),
    runs (.vstx paged 1 2 2 1) lanes (fun t => let u := nextPiece^[2] t
      readNat u (gaTcm 1 0x104) 12 == 0xFFFFFFFF + 5 * 2 ^ 32 && (getCore u 1).vq.isEmpty),
    runs (.vldx paged 1 4 2 1) (writeNat lanes (gaTcm 1 0x108) 4 77) (fun t => let u := nextPiece^[2] t
      laneAt u 4 0 == 0 && laneAt u 4 1 == 77 && laneAt u 4 2 == 0 && (getCore u 1).vq.isEmpty)] = true := by decide +kernel

/-- A run of two members, three times: v1 doubled, then m2 the complement of m1. -/
def runTwo : State :=
  let ws : List Code := [0xFC03, 0xD903, 0xFC03, 0xFA01, 0x3924, 0xFC03, 0xD223]
  modCore lanes 1 fun c => { c with code := (codeBytes ws).zipIdx.map fun e => (e.2, e.1) }

/-- Four clocks on, the head of core 1 gets a lane group and retires. -/
def retireHead (s : State) : State :=
  match exec .vectorLaneGrant { s with argA := 0, argB := 0, now := s.now + 4 } with
  | .next t => match exec .vectorRetire { t with argA := 1 } with
    | .next u => u
    | _ => s
  | _ => s

theorem test_repeat : allOf [
    fetched runTwo 1 0 == .vrep paged 1 3, ready runTwo (.vrep paged 1 3),
    runOf runTwo 1 0 4 2 == .ok ([.vadd both 0 .int32 1 1 1, .vmskNot paged 2 1], 14),
    runs (.vrep paged 1 3) runTwo (fun t => (me t).pc == 14 && (me t).instret == 3 && (getCore t 1).vq.length == 2 &&
      laneAt (retireHead^[6] t) 1 0 == 8 && (getCore (retireHead^[6] t) 1).vq.isEmpty && tget 0 (getCore (retireHead t) 1).m 2 == 0)] = true := by decide +kernel

theorem test_feed_misuse : traps (.vld paged 12 2 0) (modCore lanes 1 fun c => { c with feeds := [(12, some ⟨0, 0, true, [], false⟩)] }) 0x01 0xFC03 = true := by decide +kernel

/-! ### Matrix forms (R187–R211) -/

/-- Descriptor of a product of M = 2, N = 16 and K = 2 from A at 0 and B at 0x1000, Z = 1. -/
def productDesc : BitVec 256 := fput F.mdM (fput F.mdN (fput F.mdK (fput F.mdB (fput F.mdZ 0 1) 0x1000) 2) 16) 2

/-- An M-core with that descriptor at 0x200, A = (1 2; 3 4) and B = (5 6 0 …; 7 −8 0 …) in INT8. -/
def product : State :=
  let put (s : State) (e : Nat × Nat × Nat) : State := writeNat s (gaTcm 2 e.1) e.2.1 e.2.2
  [(0, 2, 0x0201), (0x40, 2, 0x0403), (0x1000, 2, 0x0605), (0x1040, 2, 0xF807), (0x200, 32, productDesc.toNat)].foldl put (base 2 [(2, 0x200), (3, 0x8000000000000000), (5, 0x40)])

/-- Core 2 completes its head command, started. -/
def computed (i : Instr) (p : State → Bool) : Bool :=
  runs i product fun t => runs .matrixCommandStart { t with argA := 2 } fun u => runs .matrixCommandComplete { u with argA := 2 } p

theorem test_matrix_product : allOf [
    ready product (.mop both .int8 2), runs (.mop both .int8 2) product (fun t => (getCore t 2).cmds.length == 1 && (me t).pc == 6),
    computed (.mop both .int8 2) (fun t => (getCore t 2).cmds.isEmpty && [0, 1, 2, 16, 17].map (tget 0 (getCore t 2).acc) == [19, 0xFFFFFFF6, 0, 43, 0xFFFFFFF2]),
    traps (.mop both .int8 5) (modCtx product 2 0 fun c => { c with x := [(5, 0x44)] }) 0x05 0x44,
    traps (.mop both .int8 5) (modCtx product 2 0 fun c => { c with x := [(5, 0x20000)] }) 0x07 0x20000,
    ready product (.mzero paged), runs (.mzero paged) product (fun t => (getCore t 2).cmds.length == 1)] = true := by decide +kernel

theorem test_matrix_wait : allOf [
    ready product (.mwait paged 3 4), runs (.mwait paged 3 4) product (fun t => (me t).pc == 4),
    runs (.mzero paged) product (fun t => stalls (.mwait paged 3 4) t),
    runs (.mwait paged 3 4) (modCore product 2 fun c => { c with mfault := some (0x0B, 5) }) (fun t => (me t).trapCause == 0x0B && (me t).trapVal == 5),
    runs (.mwait paged 4 4) product (fun t => (getCore t 2).credits == 1 && (me t).pc == 4)] = true := by decide +kernel

set_option maxRecDepth 100000 in
theorem test_drain : computed (.mop both .int8 2) (fun t => runs (.mdrain paged 5 4) t fun u => runs .drainRowDispatch { u with argA := 2 } fun w =>
    (getCtx w 2 1).kind == .drain && (getCtx w 2 1).pc == 0x40 && tget 0 (getCtx w 2 1).x 2 == 16) = true := by decide +kernel

theorem test_dret : runs (.dret paged .fp32 2 4) (modCore (machine 2 1 .drain false []) 2 fun c =>
    { c with drain := some { rows := 1, row := 1, pc := 0x40, arg := 0, cols := 16, slot := some 1 } })
    (fun t => (getCtx t 2 1).mode == .free && (getCore t 2).drain.isNone) = true := by decide +kernel

theorem test_map_forms : allOf [
    writes (.mfmap paged 6 3) (modCluster product 0 fun q => { q with fmap := [(0, 0xC000000000000000)] }) 6 0xC000000000000000,
    ready product (.mgeom paged 6), runs (.mgeom paged 6) (modCluster product 0 fun q => { q with fmap := [(1, 0xC000000000000000)], mapGen := 3 })
      (fun t => xreg t 6 == 0x0003000F0000000C), ready product (.mtest paged 6 2 4),
    runs (.mtest paged 6 4 2) product (fun t => runs .mtestSweepStart t fun u => runs .mtestSweepEnd u fun w => (getCtx w 2 0).pc == 4)] = true := by decide +kernel

/-! ### Transfer engines (R213–R223) -/

/-- One element of 8 bytes: every count 0, ES = 3. -/
def oneElement : BitVec 256 := 3

/-- An X-core whose channel 0 copies one doubleword; 0x77 stands at 0x100 of its TCM; x2 = 0x100, x3 = 0x200. -/
def copying : State :=
  modCore (writeNat (base 0 [(2, 0x100), (3, 0x200)]) (gaTcm 0 0x100) 8 0x77) 0 fun c => { c with chans := [(0, { spat := oneElement, dpat := oneElement })] }

/-- After an event of core 0, channel 0. -/
def thenEvent (i : Instr) (s : State) (p : State → Bool) : Bool := runs i { s with argA := 0, argB := 0 } p

theorem test_copy : allOf [
    patTotal oneElement == 1, ready copying (.xcopy paged 4 2 3), writes (.xcopy paged 4 2 3) copying 4 1,
    runs (.xcopy paged 4 2 3) copying (fun t => thenEvent .xferCommandStart t fun u => thenEvent .enginePiece u fun v =>
      readNat v (gaTcm 0 0x200) 8 == 0x77 && thenEvent .xferCommandComplete v fun w => (getChan w 0 0).w == 2 && (getChan w 0 0).queue.isEmpty),
    runs (.xwait paged 4 5) copying (fun t => (me t).pc == 4),
    runs (.xcopy paged 4 2 3) copying (fun t => stalls (.xwait paged 5 4) t), writes (.xid paged 6 5) copying 6 1, writes (.xcancel paged 6 5) copying 6 0,
    runs (.xcfg paged 2 3) (modCtx copying 0 0 fun c => { c with x := [(2, 0x200), (3, 9)] }) (fun t => (getChan t 0 0).tbase == 9),
    traps (.xbins paged 4 2 3) (base 0 []) 0x01 0xFC06] = true := by decide +kernel

/-! ### Streams (R224–R231) -/

/-- SID of module 0, die 0, block 4, generation 2. -/
def sid : Word := 0x0002000000000004

/-- Block 4 in a state, with HORIZON 3, NEWTOK 5 and CTXLEN 9, bound to slot 0 of core 48 where `bound`; x2 = the SID, x3 = 2. -/
def stream (state : Nat) (bound : Bool) : State :=
  let b := scbSet (0 : BitVec 2048) ([(F.scSid, sid.toNat), (F.scState, state), (F.scHorizon, 3), (F.scNewTok, 5), (F.scCtxLen, 9)] ++ if bound then [(F.scBcore, 2 ^ 31 + 48)] else [])
  modCtx (setScb (base 48 [(2, sid), (3, 2)]) 0 4 b) 48 0 fun c => { c with strm := if bound then sid else 0 }

theorem witness_own_stream : Rules.OwnStream (stream 2 true) sid 0 4 :=
  ⟨by decide +kernel, by decide +kernel, by decide +kernel, by decide +kernel, by decide +kernel, by decide +kernel, fun w h => by
    have e : (getDie (stream 2 true) 0).steps = [] := by decide +kernel
    simp [e] at h, ⟨by decide +kernel, by decide +kernel, by decide +kernel, fun m h => by
      have e : (stream 2 true).net = [] := by decide +kernel
      simp [e] at h⟩⟩

/-- A field of block 4 after the instruction. -/
def block (i : Instr) (s : State) (f : Fld) (v : Nat) : Bool := ready s i && runs i s fun t => scbGet t 0 4 f == v && (me t).pc == nextOf s i

theorem test_streams : allOf [
    (getScb (stream 2 true) 0 4).getLsbD 191, writes (.sstep paged 6) (stream 2 true) 6 2, block (.sstep paged 6) (stream 2 true) F.scHorizon 2,
    block (.smark paged) (stream 2 true) F.scMarkV 1, writes (.scommit paged 6 3 4) (stream 2 true) 6 2, block (.scommit paged 6 3 4) (stream 2 true) F.scCommit 2,
    writes (.sroll paged 6) (stream 2 true) 6 0, block (.sunbind paged) (stream 2 true) F.scState 1, block (.sbind paged 2) (stream 1 false) F.scState 2,
    block (.sprune paged 2) (stream 2 true) F.scState 6, block (.sprune paged 2) (stream 1 false) F.scState 0, block (.sfree paged 2) (stream 4 false) F.scState 0,
    writes (.sstat paged 6 2 4) (stream 1 false) 6 sid, writes (.smig paged 6 2 4) (stream 1 false) 6 2] = true := by decide +kernel

/-! ### Cascades, tasks and futures (R232–R237, R272) -/

/-- Cascade 0 with queue 0 in the scratchpad of cluster 5: 8 entries of 8 bytes, HEAD 0 and TAIL as given; x2 = queue 0, x3 = 0x100, which holds 0x55. -/
def queued (tail : Nat) : State :=
  let q : BitVec 512 := fput F.qdTail (fput F.qdHigh (fput F.qdBase (fput F.qdEsize (fput F.qdLogCap 0 3) 8) (gaSpad 5 0)) 8) tail
  modDie (writeNat (base 48 [(3, 0x100), (5, 1)]) (gaTcm 48 0x100) 8 0x55) 0 fun x =>
    { x with cblk := [(0, fput F.cbQcount (fput F.cbV 0 1) 1)], qdesc := [(0, q)] }

theorem test_stage_queues : allOf [
    queueInvalid 0 (queueDesc (getDie (queued 0) 0) 0) == false, writes (.cenq paged 6 2 3) (queued 0) 6 0,
    runs (.cenq paged 6 2 3) (queued 0) (fun t => readNat t (gaSpad 5 0) 8 == 0x55 && fget F.qdTail (queueDesc (getDie t 0) 0) == 1),
    writes (.cenqNb paged 6 2 3) (queued 8) 6 1, ready (queued 8) (.cenq paged 6 2 3), runs (.cenq paged 6 2 3) (queued 8) (fun t => (me t).begun && (me t).pc == 0),
    writes (.cdeq paged 3 2 5) (queued 3) 3 1, ready (queued 0) (.cdeq paged 3 2 5), stalls (.cdeq paged 3 2 5) (queued 0),
    writes (.cocc paged 6 2) (queued 8) 6 0x100000008, writes (.cocc paged 6 2) (queued 0) 6 0x200000000,
    traps (.cocc paged 6 3) (queued 0) 0x12 (BitVec.ofNat 64 (0x013000000000 + 0x1A0000 + 64 * 0x100)), ready (queued 0) (.cdone paged 6 4)] = true := by decide +kernel

/-- TCB 1 of cluster 0, with STATUS and DEP, ENTRY 0x80 and argument 0 of 9; x2 its handle, x3 = 1. -/
def task (status dep : Nat) (ready : List ReadyTask) : State :=
  let v : BitVec 512 := fput (F.tcbArg 0) (fput F.tcbEntry (fput F.tcbDep (fput F.tcbStatus 0 status) dep) 0x80) 9
  modCluster (writeNat (base 48 [(2, 1), (3, 1)]) (gaSpad 0 0x40) 64 v.toNat) 0 fun q => { q with tcbBase := 0x100000, tcbCount := 4, ready := ready }

theorem witness_task : Rules.Task (task 1 2 []) 0 1 ∧ Rules.handle (task 1 2 []) 1 0 1 :=
  ⟨⟨by decide +kernel, by decide +kernel, by decide +kernel, by decide +kernel⟩, by unfold Rules.handle; decide +kernel⟩

/-- A field of that TCB, and the ready list, after the instruction. -/
def tcbIs (i : Instr) (s : State) (f : Fld) (v : Nat) (l : List Nat) : Bool :=
  ready s i && runs i s fun t => fget f (Rules.tcb t 0 1) == v && (getCluster t 0).ready.map ReadyTask.idx == l

theorem test_tasks : allOf [
    tcbIs (.tspawn paged 2 3) (task 0 0 []) F.tcbStatus 1 [], tcbIs (.tspawn paged 2 4) (task 0 0 []) F.tcbStatus 2 [1], writes (.tdec paged 6 2) (task 1 2 []) 6 1,
    tcbIs (.tdec paged 6 2) (task 1 1 []) F.tcbStatus 2 [1], writes (.tdec paged 6 2) (task 1 0 []) 6 0xFFFFFFFFFFFFFFFF,
    tcbIs (.tnext paged 6 3) (task 2 0 [⟨1, 0⟩]) F.tcbStatus 3 [], runs (.tnext paged 6 3) (task 2 0 [⟨1, 0⟩]) (fun t => (me t).pc == 0x80 && xreg t 0 == 9 && xreg t 6 == 1 && (me t).tret == 4),
    writes (.tnext paged 6 3) (task 0 0 []) 6 0xFFFFFFFFFFFFFFFF, runs (.tnext paged 6 4) (task 0 0 []) (fun t => (me t).mode == .waiting .task),
    writes (.tcancel paged 6 2) (task 1 2 []) 6 1, writes (.tcancel paged 6 2) (task 4 0 []) 6 0,
    runs (.tend paged) (modCtx (task 3 0 []) 48 0 fun c => { c with task := some (0, 1), tret := 0x20 }) (fun t => (me t).pc == 0x20 && fget F.tcbStatus (Rules.tcb t 0 1) == 4),
    traps (.tspawn paged 2 3) (base 48 [(2, 1)]) 0x12 (BitVec.ofNat 64 (Rules.tcbAt State.reset 0 1 % 2 ^ 48))] = true := by decide +kernel

theorem test_futures : allOf [
    traps (.frd paged 6 2) (base 48 [(2, 0x100)]) 0x01 0xFC08, ready (base 48 []) (.fwr paged 2 3),
    runs (.fwr paged 2 3) (base 48 [(2, 0x100), (3, 5)]) (fun t => readNat t (gaTcm 48 0x100) 8 == 5 && fullAt t (gaTcm 48 0x100)),
    runs (.frd paged 6 7) (modCtx (task 3 0 []) 48 0 fun c => { c with task := some (0, 1), x := [(7, 0x100)] })
      (fun t => t.net.length == 1 && fget F.tcbDep (Rules.tcb t 0 1) == 1)] = true := by decide +kernel

/-! ### Messages, links, frames, sets (R141, R144, R229, R282, R321) -/

/-- After an event with operand a. -/
def after (i : Instr) (a : Nat) (s : State) (p : State → Bool) : Bool := runs i { s with argA := a } p

theorem test_messages : allOf [
    runs (.ld plain .d 1 2 0) (writeNat (mapped (2 ^ 18)) (gaSpad 3 0) 8 0x99) (fun t => t.net.all (mayPerform t) && after .accessAtHome 0 t fun u =>
      after .remoteReply 0 u fun v => xreg v 1 == 0x99 && (me v).pc == 2 && v.net.isEmpty),
    runs (.st plain .d 3 2 0) (mapped (2 ^ 18)) (fun t => stalls .combiningIdleFlush { t with argA := 48 } &&
      after .combiningIdleFlush 48 { t with now := 32 } fun u => after .accessAtHome 0 u fun v => readNat v (gaSpad 3 0) 8 == 7 && after .writeAcknowledge 0 v fun w => w.net.isEmpty)] = true := by decide +kernel

/-- Two modules along the last dimension, their ports as LINKSTAT says, and a message of module 0 for the scratchpad of module 1. -/
def linked (up : Word) : State :=
  let s := [0, 1].foldl (fun s m => modMod s m fun x => { x with fabcfg := BitVec.ofNat 64 (2 ^ 13), linkstat := up, rdyPort := 0xFF, power := .on [] }) (away 1)
  match exec (.ld plain .d 1 2 0) (modCtx s 48 1 fun c => { c with pc := 0 }) with
  | .next t => t
  | _ => s

theorem test_hops : allOf [
    portUp (linked 0x0303030303030303) 0 6, (linked 0x0303030303030303).net.length == 1, after .messageHop 0 (linked 0x0303030303030303) (fun t => t.net.all fun m => m.here == 1 && m.inPort == some 7),
    after .messageHop 0 (linked 0) (fun t => t.net.all fun m => m.dst == 0 && match m.body with | .reply _ (some (0x0A, 0x400000)) _ => true | _ => false),
    runs .flitReplay { linked 0 with argA := 0, argB := 2 } (fun t => tget 0 (getMod t 0).ptel 2 == 1)] = true := by decide +kernel

theorem test_frame_zero : runs .frameZero (modDie State.reset 0 fun x => { x with zeroing := [3, 4] }) (fun t => (getDie t 0).zeroing == [4]) = true := by decide +kernel

theorem test_walk_of_unmapped_tenant : runs .translationWalkDone
    { modCtx (machine 48 1 .helper false []) 48 1 fun c => { c with mode := .waiting (.walk 0x400000 none) } with argA := 48, argB := 1 }
    (fun t => (getCtx t 48 1).trapCause == 0x06 && (getCtx t 48 1).trapVal == 0x400000) = true := by decide +kernel

/-- Set 1 of die 0, which block 4 parents and joins for a sum, with two deposits of 1.0 and 2.0. -/
def joined : State :=
  let s := modDie (stream 2 true) 0 fun x =>
    { x with sets := [(1, { opened := true, parent := sid, deposits := [⟨0, 0x3F800000, 0, 0, false⟩, ⟨1, 0x40000000, 0, 0, false⟩] })] }
  match exec (.sjoin paged 6 3 4) (modCtx s 48 0 fun c => { c with x := [(3, 1)] }) with
  | .next t => t
  | _ => s

theorem test_basin_sum : allOf [
    (me joined).mode == .waiting (.reply 0), scbGet joined 0 4 F.scState == 3,
    runs .basinReduce { joined with argA := 0, argB := 1 } (fun t => scbGet t 0 4 F.scState == 3 &&
      after .remoteReply 0 t fun u => scbGet u 0 4 F.scState == 2 && xreg u 6 == 0x40400000 && (me u).pc == 4)] = true := by decide +kernel

theorem test_cascade_interval : runs .balancerEvaluate { modDie (queued 4) 0 fun x => { x with
      cblk := [(0, fput F.cbNstage (fput F.cbIvm1 (fput F.cbQcount (fput F.cbV 0 1) 1) 99) 1)], sdesc := [(0, fput F.sdKind 0 1)] } with argA := 0, argB := 0 }
    (fun t => fget F.cbNextIv (ctlBlock (getDie t 0) 0) == 100 && fget F.sdPress (stageDesc (getDie t 0) 0 0) == 0) = true := by decide +kernel

/-! ### Peal (R212, R334, R336) -/

/-- Arrival entry 7 of die 0: valid, slot 2 of ring 1, NEED 1, whose block has ended or not. -/
def arrived (eob : Nat) : State :=
  modDie (base 48 [(2, 7)]) 0 fun x =>
    { x with arrival := [(7, fput F.arEobw (fput F.arEob (fput F.arSlot (fput F.arRing (fput F.arV 0 1) 1) 2) eob) 0x1234)] }

theorem test_arrivals : allOf [
    writes (.await paged 6 2) (arrived 1) 6 0x1234, runs (.await paged 6 2) (arrived 0) (fun t => (me t).mode == .waiting (.peal 7)),
    traps (.await paged 6 3) (arrived 1) 0x01 0xFC05, writes (.abind paged 6 2 4) (base 48 [(2, 7), (4, 0x10000)]) 6 2] = true := by decide +kernel

/-! ### Core messages, registers, the host, power (R136, R390, R389, R400) -/

/-- Core 48, at firmware level, starts core 7 at 0x80; cluster 0 is READY. -/
def starting : State := modDie (machine 48 0 .base true [(2, 7), (3, 0x80)]) 0 fun x => { x with rdyCl := 1 }

theorem test_start_and_stop : allOf [
    runs (.cstart paged 6 2 3) starting (fun t => after .coreStartMessage 0 t fun u => (getCore u 7).run && (getCtx u 7 0).pc == 0x80 &&
      after .remoteReply 0 u fun v => xreg v 6 == 0 && (me v).pc == 4),
    runs (.cstop paged 6 2) starting (fun t => after .coreStopMessage 0 t fun u => after .remoteReply 0 u fun v => xreg v 6 == 1)] = true := by decide +kernel

/-- Module 0 has power. -/
def lit (s : State) : State := modMod s 0 fun x => { x with power := .on [] }

theorem test_launch_queue : allOf [
    runs .lqtailDoorbell { lit State.reset with argV := 5 } (fun t => (getLq t 0 0).tail == 5), stalls .lqtailDoorbell { State.reset with argV := 5 },
    runs .lqcfgEnWrite { modLq (lit State.reset) 0 0 (fun q => { q with tail := 5 }) with argV := 0x8000000000010003 }
      (fun t => (getLq t 0 0).head == 5 && fget F.lqTen (getLq t 0 0).cfg == 1 && fget F.lqLogSz (getLq t 0 0).cfg == 3)] = true := by decide +kernel

theorem test_translation_invalidate : allOf [
    runs .tbinvWrite { lit (mapped (2 ^ 18)) with argA := 0, argV := 0x8000000000400000 } (fun t => (getCluster t 0).tlb.isEmpty && (getCluster t 0).tbinv.getLsbD 63),
    runs .tbinvWrite { lit (mapped (2 ^ 18)) with argA := 0, argV := 0x8000000000800000 } (fun t => (getCluster t 0).tlb.length == 1)] = true := by decide +kernel

theorem test_module_registers : allOf [
    runs .pcapWrite { lit State.reset with argV := 0x0000177000000000 } (fun t => (getMod t 0).pcap == 5400),
    runs .keyctlWrite { modMod (lit State.reset) 0 (fun x => { x with rdyMod := 4, keywr := 77 }) with argV := 0x8000000000000005 } (fun t => tget 0 (getMod t 0).keys 5 == 77),
    runs .fabcfgWrite { lit State.reset with argV := BitVec.ofNat 64 (2 ^ 13) } (fun t => (getMod t 0).fabcfg == BitVec.ofNat 64 (2 ^ 13)),
    readModReg State.reset 0 0x4430000 == some (BitVec.ofNat 64 (5400 * 2 ^ 32))] = true := by decide +kernel

/-- Module 0 with power, its endpoint READY, and one host access to offset 0x100 of BAR 4. -/
def hosted (write : Bool) : State :=
  modDie (modMod State.reset 0 fun x => { x with power := .on [], rdyMod := 2, booted := some false, hostQ := [⟨4, 0x100, write, if write then [1, 2] else [], if write then 0 else 2⟩] }) 0 fun x =>
    { x with rdy := 15 }

theorem test_host : allOf [
    runs .hostWrite (hosted true) (fun t => readNat t 0x100 2 == 0x0201 && (getMod t 0).hostQ.isEmpty), stalls .hostRead (hosted true),
    runs .hostRead (writeNat (hosted false) 0x100 2 0x0403) (fun t => (getMod t 0).hostReads == [[3, 4]])] = true := by decide +kernel

theorem test_power : allOf [
    runs .powerGood State.reset (fun t => (getMod t 0).booted == none && (getMod t 0).power == .on []), stalls .powerGood (hosted true),
    runs .mainPowerLoss (hosted true) (fun t => (getMod t 0).power == .off && (getMod t 0).hostQ.isEmpty)] = true := by decide +kernel

/-- SHA-256 of "abc", the example of FIPS 180, as a number with the first byte of the digest lowest. -/
theorem test_sha256 : sha256 [0x61, 0x62, 0x63] = 0xAD1500F261FF10B49C7A1796A36103B02322AE5DDE404141EACF018FBF1678BA := by decide +kernel

/-! ### Witnesses for the hardware's steps, clause by clause: of those that move 256 KiB or write a save record, what they ask for -/

/-- A message of core src for a home, with a body, which has arrived at module m. -/
def message (src home m : Nat) (slots : List Nat) (b : Body) : Msg :=
  { id := 0, key := 0, src := src, slots := slots, cls := 0, route := .ordered, home := home, here := m, dst := m, detour := none
    exch := none, listed := false, refused := false, acq := false, branches := [], body := b }

/-- The state with that message alone under way, named by the step's operand. -/
def carrying (s : State) (m : Msg) : State := { s with net := [m], nextId := 1, argA := 0 }

/-- Two modules along X, their ports 0 and 1 as LINKSTAT says, with ring 3 RUNNING along X at both. -/
def portState (up : Word) : State :=
  [0, 1].foldl (fun s m => modMod s m fun x => { x with
    fabcfg := BitVec.ofNat 64 (2 ^ 22), linkstat := up, rdyPort := 0xFF, power := .on []
    ringsOf := [(3, { desc := fput F.prState 0 2 })] }) State.reset

theorem witness_port_changes : allOf [
    !canTrain (portState 2) 0 0, canTrain (portState 0x0202) 0 0, !portUp (portState 0x0202) 0 0,
    runs .portUpChange { portState 0x0202 with argV := 1 } (fun t => portUp t 0 0 && !portUp t 0 1),
    portUp (portState 0x0303) 0 0, (lineOfMods (portState 0x0303) 0 0).contains 1,
    runs .portUpChange (portState 0x0303) (fun t => !portUp t 0 0 && fget F.prState (getRing t 1 3).desc == 3 && tget 0 (getMod t 0).ptel 0 == 2 ^ 48)] = true := by
  decide +kernel

/-- The load of `linked` on the adaptive route. -/
def adaptively : State := { linked 0x0303030303030303 with net := (linked 0x0303030303030303).net.map fun m => { m with route := .adaptive } }

theorem witness_adaptive_hop : allOf [
    productive (dimsOf adaptively 0) 0 1 none == [6], neighbour (dimsOf adaptively 0) 0 6 == some 1,
    after .messageHop 0 adaptively (fun t => t.net.all fun m => m.here == 1 && m.inPort == some 7)] = true := by decide +kernel

/-- Core 48 is in fabric group 0, whose instance 5 has EXPECT and COUNT[0], as has core 48 of module 1; barrier 2 names the instance. -/
def fabricBarrier (expect count : Nat) : State :=
  let ga := gaBarFabric 0 5
  let join (s : State) (g : Nat) := modCore s g fun c => { c with dommem := 0x8000000000000000, barmap := [(2, BitVec.ofNat 64 (2 ^ 63 + 3 * 2 ^ 32 + 5))] }
  { setBar (join (join (portState 0x0303) 48) 131120) ga (fput F.biCnt0 (fput F.biExpect 0 expect) count) with fabSet := [(ga, 0)] }

/-- An arrival by core 48 of module 0. -/
def fabricArrival : State := carrying (fabricBarrier 2 1) (message 48 5 0 [0] (.arrive 2 (gaBarFabric 0 5)))

theorem witness_fabric_barrier : allOf [
    barrierOf (fabricBarrier 2 1) 48 2 == some (3, gaBarFabric 0 5), fabricArrival.net.all (mayPerform fabricArrival),
    runs .barrierArrivalMessage fabricArrival (fun t => getBar t (gaBarFabric 0 5) == fput F.biCnt0 (fput F.biExpect 0 2) 2 && arrnOf t 48 2 == 1 &&
      t.net.all fun m => m.body == .ack (gaBarFabric 0 5) [] false),
    region (gaBarFabric 0 5) == .modWin 0 0x10050, groupModules (fabricBarrier 1 1) 0 == [0, 1],
    (completeBarriers (fabricBarrier 1 1)).net.all fun m => m.branches == [0, 1],
    runs .multicastAdvance (completeBarriers (fabricBarrier 1 1)) (fun t => fget F.biGen (getBar t (phaseCopy 0 (gaBarFabric 0 5))) == 1 &&
      t.net.all fun m => m.here == 1 && m.branches == [1])] = true := by decide +kernel

/-- An arrival of core 48 beyond EXPECT 1 of the cluster's instance 5, presented in clock 0, now in clock 1, with the COUNT given. -/
def surplusArrival (count : Nat) : State := { barrier 1 count 0 with surplus := [⟨48, 0, 2, gaBarCluster 0 5, none, 0⟩], now := 1, argA := 48, argB := 0 }

theorem witness_surplus : allOf [
    runs .barrierSurplusRetry (surplusArrival 0) (fun t => t.surplus.isEmpty && fget F.biCnt0 (getBar t (gaBarCluster 0 5)) == 1 && arrnOf t 48 2 == 1),
    runs .barrierSurplusRetry (surplusArrival 1) (fun t => t == { surplusArrival 1 with surplus := [⟨48, 0, 2, gaBarCluster 0 5, none, 1⟩] })] = true := by
  decide +kernel

/-- A packet of slot 3 of core 48 of module 1 at core 48 of module 0, whose migrant tenant is 0 and whose slots are free, and its way back. -/
def migrant (tenant : Nat) : State :=
  let s := modCtx (modCore (base 48 []) 48 fun c => { c with migTenant := some 0, migImage := 9, frameV := 1, frameX := 1 }) 131120 3 fun c =>
    { c with mode := .waiting .away, kind := .helper }
  carrying s (message 131120 (16 * 48) 0 [3] (.migrate 0x40 [(1, 7)] 5 tenant 9 131120 3 none none 0x400000 0x44))

theorem witness_migration : allOf [
    (migrant 0).net.all fun m => mayPerform (migrant 0) m && m.home / 16 == 48, (getCtx (migrant 0) 48 1).mode == .free,
    runs .migrationArrive (migrant 0) (fun t => t.net.isEmpty && (getCtx t 48 1).pc == 0x40 && (getCtx t 48 1).kind == .migrant 131120 3 9 none && tget 0 (getCtx t 48 1).x 1 == 7),
    !ownsQueue (migrant 1) 131120 3, runs .migrationArrive (migrant 1) (fun t => (getCtx t 131120 3).trapCause == 0x13 && (getCtx t 131120 3).trapVal == 0x400000),
    runs .helperResultReturn (carrying (migrant 0) (message 48 0 1 [] (.result 131120 3 none 77)))
      (fun t => t.net.isEmpty && (getCtx t 131120 3).mode == .ended && (getCtx t 131120 3).result == 77)] = true := by decide +kernel

/-- Core 48 waits for the walk of address 0x400000 by tenant 3, whose root lies at 0x10000 of its module, at an entry of a level. -/
def walking (k : Nat) (next : Option (Nat × Nat)) : State :=
  let s := modCtx (machine 48 k (if k = 0 then .base else .helper) false []) 48 k fun c =>
    { c with mode := .waiting (.walk 0x400000 next), priv := BitVec.ofNat 64 (3 * 2 ^ 16) }
  { modMod s 0 fun x => { x with tenants := [(3, BitVec.ofNat 64 (2 ^ 63 + 0x10000))] } with argA := 48, argB := k }

/-- The entry that the walk reads is e. -/
def withEntry (s : State) (node level e : Nat) : State := writeNat s (walkGa 0 0x400000 node level) 16 e

/-- A readable leaf of 256 KiB at frame 1 of the HBM. -/
def leafEntry : Nat := 0x1F3 + 2 ^ 18

theorem witness_walks : allOf [
    walkRoot (walking 0 none) 0 3 == some 0x10000, !ownsQueue (walking 0 none) 48 0, leafOk (walking 0 none) 0 0 (BitVec.ofNat 128 leafEntry),
    runs .translationWalkDone (withEntry (walking 0 none) 0x10000 3 0x20001) (fun t => (getCtx t 48 0).mode == .waiting (.walk 0x400000 (some (0x20000, 2)))),
    runs .translationWalkDone (withEntry (walking 0 (some (0x20000, 0))) 0x20000 0 leafEntry) (fun t => (getCtx t 48 0).mode == .ready &&
      (getCluster t 0).tlb == [{ tenant := 3, base := 0x400000, size := 2 ^ 18, leaf := BitVec.ofNat 128 leafEntry, peers := [] }]),
    runs .translationWalkDone (walking 0 (some (0x20000, 0))) (fun t => (getCtx t 48 0).trapCause == 0x06 && (getCtx t 48 0).trapVal == 0x400000),
    runs .translationWalkDone (walking 1 none) (fun t => (getCtx t 48 1).trapCause == 0x06)] = true := by decide +kernel

/-- Die 0 with a frame-table entry 7 of a kind and count, in SRAM frame 5, alone on the count walk. -/
def counting (kind cnt : Nat) : State :=
  modDie State.reset 0 fun x => { x with frames := [(7, fput F.frPlace (fput F.frKind (fput F.frCnt 0 cnt) kind) 5)], walk := [7] }

theorem witness_count_walk : allOf [
    runs .countWalk (counting 1 2) (fun t => frGet t 0 7 F.frCnt == 1 && (getDie t 0).walk.isEmpty),
    runs .countWalk (counting 1 1) (fun t => getFrame t 0 7 == 0 && (getDie t 0).zeroing == [5]),
    runs .countWalk (setNodeEntry (counting 2 1) 0 7 63 (fput F.teFid (fput F.teV 0 1) 9)) (fun t => getFrame t 0 7 == 0 && (getDie t 0).walk == [9])] = true := by
  decide +kernel

/-- A frame-table entry of a data frame in SRAM frame n, BUSY or not. -/
def dataEntry (n busy : Nat) : Word := BitVec.ofNat 64 (2 ^ 48 + 2 ^ 44 + busy * 2 ^ 42 + n)

/-- Every SRAM frame of die 0 holds a data frame, of which the first can be evicted; the area of HBM has one frame. -/
def fullPool : State := modDie State.reset 0 fun x =>
  { x with frames := (0, dataEntry 0 0) :: (upFrom 1 6143).map fun n => (n, dataEntry n 1), spCount := 1 }

theorem dataEntry_fields (n busy : Nat) (h : n < 6144) (b : busy < 2) : fget F.frKind (dataEntry n busy) = 1 ∧ fget F.frLoc (dataEntry n busy) = 0 ∧
    fget F.frPlace (dataEntry n busy) = n ∧ fget F.frBusy (dataEntry n busy) = busy := by
  have e : (dataEntry n busy).toNat = 2 ^ 48 + 2 ^ 44 + busy * 2 ^ 42 + n := by
    simp only [dataEntry, BitVec.toNat_ofNat]; omega
  simp only [fget, F.frKind, F.frLoc, F.frPlace, F.frBusy, e]
  omega

/-- The hypotheses of an eviction: no SRAM frame is free, and frame 0 alone can be evicted. -/
theorem witness_eviction : freeFrames (getDie fullPool 0) < 96 ∧ getFrame fullPool 0 0 = dataEntry 0 0 ∧ evictable (dataEntry 0 0) = true ∧
    (∀ o ∈ (getDie fullPool 0).frames, o.1 ≠ 0 → evictable o.2 = true → tget 0 (getDie fullPool 0).age 0 < tget 0 (getDie fullPool 0).age o.1) ∧
    0 < fget ⟨0, 16⟩ (getDie fullPool 0).spCount ∧ 0 ∉ (getDie fullPool 0).spillUsed ∧ fullPool.ue = [] := by
  have d : getDie fullPool 0 = { frames := (0, dataEntry 0 0) :: (upFrom 1 6143).map fun n => (n, dataEntry n 1), spCount := 1 } := rfl
  refine ⟨?_, rfl, by decide +kernel, ?_, by rw [d]; decide +kernel, by rw [d]; simp, rfl⟩
  · have z : (upFrom 0 poolFrames).filter (fun f => !sramUsed (getDie fullPool 0) f) = [] := by
      rw [List.filter_eq_nil_iff]
      intro f hf
      rw [mem_upFrom] at hf
      have hf : f < 6144 := by simpa [poolFrames] using hf.2
      simp only [d, sramUsed, Bool.not_eq_true', Bool.not_eq_false, Bool.or_eq_true, List.any_eq_true]
      refine .inl ?_
      rcases Nat.eq_zero_or_pos f with h | h
      · subst h; exact ⟨(0, dataEntry 0 0), by simp, by decide +kernel⟩
      · have k := dataEntry_fields f 1 hf (by decide)
        exact ⟨(f, dataEntry f 1), by simp [mem_upFrom]; omega, by simp [k]⟩
    rw [freeFrames, z]; decide
  · intro o ho hn he
    rw [d] at ho
    simp only [List.mem_cons, List.mem_map, mem_upFrom] at ho
    rcases ho with rfl | ⟨n, hn', rfl⟩
    · exact absurd rfl hn
    · have k := dataEntry_fields n 1 (by omega) (by decide)
      simp [evictable, k] at he

theorem witness_pool_is_filled : allOf [decide (160 ≤ freeFrames (getDie State.reset 0)),
    runs .spillwayEvict State.reset fun t => (getDie t 0).work.isEmpty && !(getDie t 0).evicting] = true := by decide +kernel

/-- Die 0 with work on frame-table entry 7, of SRAM frame 5 or HBM frame 5. -/
def working (loc : Nat) (w : FrameWork) : State :=
  { modDie State.reset 0 fun x => { x with frames := [(7, fput F.frLoc (dataEntry 5 1) loc)], work := [w], spCount := 9 } with argB := 7 }

theorem witness_frame_moves : Rules.FrameWork (working 0 (.evict 7 0)) (.evict 7 0) ∧ Rules.FrameWork (working 1 (.fetch 7 6143)) (.fetch 7 6143) ∧
    allOf [frGet (working 0 (.evict 7 0)) 0 7 F.frLoc == 0, frGet (working 0 (.evict 7 0)) 0 7 F.frQ == 0, !accessesTo (working 0 (.evict 7 0)) 0 5,
      frGet (working 1 (.fetch 7 6143)) 0 7 F.frLoc == 1] = true :=
  ⟨⟨by decide +kernel, by decide +kernel, by decide +kernel⟩, ⟨by decide +kernel, by decide +kernel, by decide +kernel⟩, by decide +kernel⟩

/-- Block 4 of die 0 with page 63 in entry 12 of two references, by node 10 and its last leaf entry; a copy of the page goes to entry 13. -/
def copyingPage : State :=
  let node (n : Nat) : Word := fput F.frPlace (fput F.frKind (fput F.frCnt 0 1) 2) n
  let s := modDie State.reset 0 fun x =>
    { x with
      scb := [(4, fput F.scRfid 0 10)], work := [.copy 12 13 4 63]
      frames := [(10, node 0), (11, node 1), (12, fput F.frCnt (dataEntry 5 1) 2), (13, dataEntry 6 1)] }
  let s1 := setNodeEntry (setNodeEntry s 0 10 0 (fput F.teFid (fput F.teV 0 1) 11)) 0 11 63 (fput F.teFid (fput F.teV 0 1) 12)
  { s1 with argB := 12 }

theorem witness_frame_copy : Rules.FrameWork copyingPage (.copy 12 13 4 63) ∧
    allOf [pathOf copyingPage 0 4 63 == { die := 0, root := 10, leaf := some 11, frame := some 12 }, frGet copyingPage 0 12 F.frLoc == 0,
      frGet copyingPage 0 12 F.frQ == 0, frGet copyingPage 0 13 F.frQ == 0, frGet copyingPage 0 12 F.frCnt == 2,
      frGet copyingPage 0 11 F.frPlace / 512 != frGet copyingPage 0 13 F.frPlace] = true :=
  ⟨⟨by decide +kernel, by decide +kernel, by decide +kernel⟩, by decide +kernel⟩

/-- A message at the table of a die of module 0, alone under way. -/
def atTable (s : State) (die : Nat) (b : Body) : State := carrying s (message 0 (16 * die) 0 [] b)

theorem witness_at_table (s : State) (die : Nat) (b : Body) : Rules.AtTable (atTable s die b) (message 0 (16 * die) 0 [] b) b := by
  refine ⟨rfl, ?_, rfl⟩
  simp [mayPerform, atTable, carrying, message, before_, deferredWaits]

/-- No block of a die is FREE when every one is taken for a snapshot. -/
theorem witness_snapshot_refused : freeScb (modDie State.reset 1 fun x => { x with incoming := upFrom 0 4096 }) 1 = none := by
  simp only [freeScb, List.find?_eq_none]
  intro n h
  simp [getDie, modDie, h]

/-- SIDs of block 3 of die 0 and of block 0 of die 1. -/
def sid0 : Word := 0x0001000000000003
def sid1 : Word := 0x0001000000010000

/-- Block 3 of die 0 sends its last page, page 0 in entry 12, from BOUND; block 0 of die 1 takes it in entry 12. -/
def sending : State :=
  let node (n : Nat) : Word := fput F.frPlace (fput F.frKind (fput F.frCnt 0 2) 2) n
  let side (s : State) (d : Nat) : State :=
    let s1 := modDie s d fun x => { x with frames := [(10, node 0), (11, node 1), (12, dataEntry 5 0)] }
    setNodeEntry (setNodeEntry s1 d 10 0 (fput F.teFid (fput F.teV 0 1) 11)) d 11 0 (fput F.teFid (fput F.teV 0 1) 12)
  let s := modDie (side (side State.reset 0) 1) 0 fun x =>
    { x with snaps := [⟨sid0, 2⟩], scb := [(3, scbSet 0 [(F.scSid, sid0.toNat), (F.scRfid, 10), (F.scNpg, 1), (F.scState, 5)])] }
  modDie s 1 fun x => { x with incoming := [0], scb := [(0, scbSet 0 [(F.scSid, sid1.toNat), (F.scRfid, 10), (F.scRdie, 1), (F.scNpg, 1)])] }

theorem witness_snapshot : allOf [
    sidDie sid0 == 0, sidDie sid1 == 1, (pathOf sending 0 3 0).frame == some 12, (pathOf sending 0 3 0).die == 0, (pathOf sending 1 0 0).frame == some 12,
    !frameBusy sending 0 12, fget F.scNpg (getScb sending 1 0) == 1, frGet sending 0 10 F.frCnt == 2,
    runs .smigRefuse (atTable sending 0 (.smigRefused sid0)) (fun t => scbGet t 0 3 F.scState == 2 && (getDie t 0).snaps.isEmpty),
    runs .smigComplete (atTable sending 0 (.smigDone sid0 sid1)) (fun t => scbGet t 1 0 F.scState == 1 && scbGet t 0 3 F.scFwd == sid1.toNat &&
      scbGet t 0 3 F.scState == 0 && frGet t 0 10 F.frCnt == 1)] = true := by decide +kernel

theorem length_upFrom (a n : Nat) : (upFrom a n).length = n := by induction n generalizing a <;> simp [upFrom, *]

/-- A die whose frame table is empty has room for a stream of no pages. -/
theorem room_empty (x : Die) (d : Nat) (f : x.frames = []) (w : x.work = []) (z : x.zeroing = []) : room x d 0 1 = .ok := by
  have a : ((upFrom 0 65536).filter (freeFid x)).length = 65536 := by
    rw [List.filter_eq_self.2 fun _ _ => by simp [freeFid, tget, fget, f], length_upFrom]
  have b : ((upFrom 0 poolFrames).filter (zeroedFrame x)).length = 6144 := by
    rw [List.filter_eq_self.2 fun _ _ => by simp [zeroedFrame, sramUsed, f, w, z], length_upFrom, poolFrames]
  have c : freeNodeSlots x = 0 := by simp [freeNodeSlots, nodeFrames, f]
  simp only [room, framesFor, a, b, c]
  rw [if_neg (by decide), if_pos (by decide)]

/-- At reset it takes its block 0 for it, and a node. -/
theorem witness_snapshot_taken : room (getDie State.reset 1) 1 0 1 = .ok ∧ allOf [freeScb State.reset 1 == some 0,
    (takeNode { State.reset with oracle := [0, 65535] } 1).any fun r => r.1 == 65535] = true :=
  ⟨room_empty _ _ rfl rfl rfl, by decide +kernel⟩


/-- Cascade 0 of die 0 over cluster 0, installed or not, next at an interval's end, with one stage of plain triads and one queue of 8 entries in the
scratchpad; MIN 1, INIT 2, MAX 4, and COUNT, GMINL and the units' places as given. -/
def cascaded (v count gminl : Nat) (at_ : Tbl Place) (off : List Nat) : State :=
  let block : BitVec 512 := fput F.cbV (fput F.cbIvm1 (fput F.cbNstage (fput F.cbQcount (fput F.cbMask 0 1) 1) 1) 1023) v
  let q : BitVec 512 := fput F.qdLoop (fput F.qdHigh (fput F.qdBase (fput F.qdEsize (fput F.qdLogCap 0 3) 8) (gaSpad 0 0)) 8) 1
  let st : BitVec 512 := fput F.sdKind (fput F.sdMin (fput F.sdInit (fput F.sdMax (fput F.sdCount (fput F.sdGminl 0 gminl) count) 4) 2) 1) 1
  modDie State.reset 0 fun x => { x with rdyCl := 1, cblk := [(0, block)], sdesc := [(0, st)], qdesc := [(0, q)], place := at_, offered := off, cascStat := 2 ^ 63 }

/-- A removal is asked for. -/
def removing (off : List Nat) : State := modDie (cascaded 1 1 0 [(6, .pool 0), (9, .stage 0 0)] off) 0 fun x => { x with cascCtl := 0x100 }

theorem witness_cascade : allOf [
    (offeredUnits (cascaded 1 0 0 [(9, .pool 0)] [9]) 0 0 (.pool 0) (stageDesc (getDie (cascaded 1 0 0 [] []) 0) 0 0)).head? == some [9],
    runs .balancerEvaluate (cascaded 1 0 0 [(9, .pool 0)] [9]) (fun t => placeOf (getDie t 0) 9 == .stage 0 0 &&
      fget F.sdCount (stageDesc (getDie t 0) 0 0) == 1 && fget F.cbNextIv (ctlBlock (getDie t 0) 0) == 1024),
    runs .strandedToPool (modCluster (cascaded 1 1 16 [(9, .stage 0 0)] [9]) 0 fun x => { x with fmap := [(0, fput F.fmShape 0 3)] })
      (fun t => liveCount t 0 == 15 && placeOf (getDie t 0) 9 == .pool 0),
    installCheck (cascaded 0 0 0 [] []) 0 0 == (0, 0, 0), (placement (cascaded 0 0 0 [] []) 0 0).any (fun l => decide (l.map Prod.fst).Nodup && l.length == 20),
    runs .cascadeInstall (cascaded 0 0 0 [] []) (fun t => (getDie t 0).cascStat == 0 && installed (getDie t 0) 0 && placeOf (getDie t 0) 3 == .stage 0 0 &&
      placeOf (getDie t 0) 6 == .pool 0 && fget F.sdCount (stageDesc (getDie t 0) 0 0) == 2),
    runs .cascadeInstall (cascaded 1 0 0 [] []) (fun t => (getDie t 0).cascStat == 1),
    runs .cascadeRemove (removing [9]) (fun t => (getDie t 0).cascStat == 0 && !installed (getDie t 0) 0 && placeOf (getDie t 0) 6 == .none),
    stalls .cascadeRemove (removing [])] = true := by decide +kernel

/-- Ring 3 along X of modules 0 and 1, of two slots at die 0 of each, in a state. -/
def ringDesc (st : Nat) : BitVec 512 :=
  [(F.prState, st), (F.prMembers, 3), (F.prS, 2), (F.prPf, 8), (F.prRf, 1), (F.prDieMask, 1)].foldl (fun d f => fput f.1 d f.2) 0

/-- Both modules have it in that state, and PEALCTL of module 0 asks for an operation on it. -/
def ringOp (st op : Nat) : State :=
  [0, 1].foldl (fun s m => modMod s m fun x => { x with ringsOf := [(3, { desc := ringDesc st })], pealCtl := BitVec.ofNat 64 (256 * op + 3), pealStat := 2 ^ 63 })
    (portState 0x0303)

/-- The operation's message has visited those modules and has come to module m. -/
def visitedOf (s : State) (op m : Nat) (visited : List Nat) : State :=
  { carrying s (message 0 0 m [] (.peal op 3 0 (getRing s 0 3).desc visited)) with argA := m, nextId := 1 }

theorem witness_peal_operation : allOf [
    (membersOf (ringOp 1 1) 0 (ringDesc 1)).map Prod.snd == [0, 1], memberCheck (ringOp 1 0) 3 0 0 (ringDesc 1) 0 == some 1,
    runs .pealSetup (ringOp 1 0) (fun t => (getMod t 0).pealStat == 1), memberCheck (ringOp 1 1) 3 1 0 (ringDesc 1) 0 == none,
    runs .pealStart (ringOp 1 1) (fun t => t.net.all fun m => m.dst == 1 && m.body == .peal 1 3 0 (ringDesc 1) [0]),
    runs .pealStart (visitedOf (ringOp 1 1) 1 1 [0]) (fun t => t.net.any fun m => m.dst == 0 && m.body == .peal 1 3 0 (ringDesc 1) [0, 1]),
    runs .pealStart (visitedOf (ringOp 1 1) 1 0 [0, 1]) (fun t => (getMod t 0).pealStat == 0 && fget F.prState (getRing t 1 3).desc == 2),
    runs .pealRemove (visitedOf (ringOp 2 2) 2 0 [0, 1]) (fun t => (getMod t 0).pealStat == 0 && fget F.prState (getRing t 1 3).desc == 0),
    memberCheck (modMod (ringOp 0 0) 1 fun x => { x with linkstat := 0 }) 3 0 0 (ringDesc 0) 1 == some 3,
    runs .pealSetup (visitedOf (modMod (ringOp 1 0) 1 fun x => { x with linkstat := 0 }) 0 1 [0])
      (fun t => (getMod t 0).pealStat == 0x10001 && fget F.prState (getRing t 0 3).desc == 0)] = true := by decide +kernel

/-- Ring 3 RUNNING at module 0, with a usable marker of slots 0 and 1, slot 1 in frame-table entry 7, and those forwards. -/
def sender (fwd : List Forward) : State :=
  modDie (modMod (ringOp 2 0) 0 fun x => { x with ringsOf := [(3, { desc := fput F.prSrcN (ringDesc 2) 1, markers := [0, 1], frames := [(0, 1, 7)], forwards := fwd })] }) 0
    fun x => { x with frames := [(7, fput F.frPlace (fput F.frKind 0 3) 5)] }

/-- What a block's start and arrival ask for (each then moves 256 KiB). -/
theorem witness_blocks : (∀ j ∈ [0], (getRing { sender [⟨1, 9⟩] with argB := 3 } 0 3).markers = j :: [1]) ∧
    Machine.sending { sender [⟨1, 9⟩] with argB := 3 } 0 3 = false ∧ allOf [
    fget F.prState (getRing (sender []) 0 3).desc == 2, (getRing (sender []) 0 3).reading.isNone, (sender []).net.isEmpty,
    slotFrame (getRing (sender []) 0 3) 0 1 == some 7, decide ((getRing (sender []) 0 3).nextLocal < fget F.prSrcN (getRing (sender []) 0 3).desc),
    ((getRing (sender []) 0 3).frames.filter fun f => f.2.1 == 1) == [(0, 1, 7)]] = true := by decide +kernel

/-- Entry 7 of die 0 is bound to slot 1 of the ring. -/
def boundSlot : Tbl (BitVec 256) := [(7, fput F.arEob (fput F.arSlot (fput F.arRing (fput F.arV 0 1) 3) 1) 1)]

theorem witness_peal_markers : allOf [
    runs .pealForwardReadDone { modDie (modMod (sender []) 0 fun x => { x with ringsOf := x.ringsOf.map fun r => (r.1, { r.2 with reading := some 1 }) }) 0
        (fun x => { x with arrival := boundSlot }) with argB := 3 }
      (fun t => (getRing t 0 3).reading.isNone && fget F.arEob (arrivalEntry t 0 7) == 0),
    runs .releaseMarkerArrive (carrying (sender []) (message 131072 0 0 [] (.marker 3 0)))
      (fun t => t.net.isEmpty && (getRing t 0 3).markers == [0, 1, 0])] = true := by decide +kernel

/-- A launch record of tag 0x77 on queue 4 of tenant 3: priority p, the cores of a mask in cluster 0 of die 0, the image at 0x10000 for role 0, set-up and save areas. -/
def record (kind p cores setup save : Nat) : List Byte :=
  leBytes 0x77 8 ++ leBytes (kind + 4 * p) 8 ++ leBytes (1 - kind) 8 ++ leBytes cores 8 ++ leBytes 0 16 ++ leBytes (if cores = 0 then 0 else 0x10000) 8 ++ leBytes 0 32 ++
    leBytes setup 8 ++ leBytes save 8 ++ (if kind = 1 then leBytes 0x30000 8 ++ leBytes 1 8 else leBytes 0 16) ++ leBytes 0 8

/-- A list of bytes stands at an address. -/
def stored0 (s : State) (a : Nat) (l : List Byte) : State := writeNat s a l.length (leNat l)

/-- An image of role 0 with ENTRY 0x80, two bytes of code and one byte of TCM data at 0x100, and a set-up block of one barrier at each level. -/
def withImage (s : State) : State :=
  let b : List Byte := leBytes 0x4D4C4F44 4 ++ leBytes 1 2 ++ ([0, 2] : List Byte) ++ leBytes 0x80 2 ++ leBytes 2 2 ++ leBytes 0x200 4 ++ leBytes 0 48 ++
    leBytes 0 4 ++ leBytes 0 4 ++ leBytes 2 4 ++ leBytes 0x60 4 ++ leBytes 1 4 ++ leBytes 0x100 4 ++ leBytes 1 4 ++ leBytes 0x62 4 ++ ([0xAB, 0xCD, 0xEF] : List Byte)
  let u : List Byte := leBytes 4 0x20 ++ (upFrom 0 4).flatMap fun l => leBytes (l + 256 * l + 65536 * 5 + 2 ^ 32 * 7) 16
  stored0 (stored0 s 0x10000 b) 0x20000 u

/-- Launch queue 0 of die 0 holds that record at its head, its cluster READY where asked. -/
def launching (r : List Byte) (rdyCl : BitVec 128) : State :=
  let cfg : Word := fput F.lqEn (fput F.lqTen (fput F.lqLogCq (fput F.lqLogSz 0 4) 4) 3) 1
  let s := modMod (modDie (stored0 (withImage State.reset) 0x40000 r) 0 fun x => { x with rdy := 15, rdyCl := rdyCl }) 0
    fun x => { x with tenants := [(3, 2 ^ 63)], fabcfg := BitVec.ofNat 64 (2 ^ 22), power := .on [] }
  modLq s 0 0 fun x => { x with base := 0x40000, cfg := cfg, tail := 1, cq := 0x5000 }

theorem witness_launch_checks : allOf [
    checkLaunch (launching (record 0 0 1 0 0) 0) 0 (record 0 0 1 0 0) == some (2, 0), checkLaunch (launching (record 0 0 1 0 0) 1) 0 (record 0 0 1 0 0) == none,
    runs .launchTake (launching (record 0 0 1 0 0) 0) (fun t => hostRead t 0x5008 2 == [1, 2] && (getLq t 0 0).head == 1),
    runs .launchTake (launching (record 0 0 1 0 0) 1) (fun t => (launchAt t 0).any fun l => l.clusters == [0] && l.rcd == record 0 0 1 0 0),
    runs .graphStart (launching (record 1 0 0 0 0) 1) (fun t => hostRead t 0x5008 2 == [0, 0]), badGraph (record 1 0 0 0 0) == none,
    runs .graphStart (modLq (launching (record 1 0 0 0 0) 1) 0 0 fun x => { x with cfg := fput F.lqTen x.cfg 0 }) (fun t => hostRead t 0x5008 2 == [1, 10])] = true := by
  decide +kernel

/-- A launch of that record on cluster 0. -/
def aLaunch (r : List Byte) (taken begun : Bool) (order : Nat) : Launch :=
  { rcd := r, tag := 0x77, head := 1, prio := recPrio r, tenant := 3, order := order, taken := taken, begun := begun, clusters := [0], graph := none }

/-- Queue 0 of die 0 has it, waiting or with its core taken; cluster 0 is READY, and is to be prepared where asked. -/
def launched (r : List Byte) (taken begun prepare : Bool) : State :=
  let s := modLq (launching r 1) 0 0 fun x => { x with launch := some (aLaunch r taken begun 1) }
  if prepare then modCluster (modCore s 0 fun c => { c with launch := some 0 }) 0 fun x => { x with prepare := [0] } else s

/-- Beside it, queue 1 has a launch of priority 0 that holds core 0 of the cluster, and a save area at 0x1000000. -/
def contested : State :=
  let s := modLq (launched (record 0 1 1 0 0) false false false) 0 1 fun x => { x with launch := some (aLaunch (record 0 0 1 0 0x1000000) true true 0) }
  modCtx (modCore s 0 fun c => { c with run := true, launch := some 1, trapvec := 0x7800, v := [(1, 5)] }) 0 0 fun c => { c with x := [(2, 9)], pc := 0x40, mode := .running }

theorem witness_take_cores : allOf [
    (waitingLaunches (launched (record 0 0 1 0 0) false false false) 0).find? (canTake (launched (record 0 0 1 0 0) false false false)) == some 0,
    lowerOn (launched (record 0 0 1 0 0) false false false) 0 0 == [],
    runs .takeCores (launched (record 0 0 1 0 0) false false false) (fun t => (getCore t 0).launch == some 0 && (getCluster t 0).prepare == [0]),
    lowerOn contested 0 0 == [1], runs .takeCores contested (fun t => (getCluster t 0).preemptFor == some 0 && (getCore t 0).launch == some 1),
    runs .takeCores (modDie (launched (record 0 0 1 0 0) false false false) 0 fun x => { x with rdyCl := 0 }) (fun t => hostRead t 0x5008 2 == [1, 2])] = true := by
  decide +kernel

/-- What the preparation of a cluster asks for, and its image. -/
theorem witness_image : allOf [Rules.sections (withImage State.reset) 0x10000 == [(0, 0, 2, 0x60), (1, 0x100, 1, 0x62)],
    Rules.loaded (withImage State.reset) 0x10000 1 0x100 == some 0xEF, Rules.loaded (withImage State.reset) 0x10000 0 1 == some 0xCD,
    Rules.setup (withImage State.reset) 0 (record 0 0 1 0x20000 0) == [(0, 5, 7), (1, 5, 7), (2, 5, 7), (3, 5, 7)],
    setupOk (withImage State.reset) 0 (record 0 0 1 0x20000 0), Rules.number (withImage State.reset) 0x20008 8 / 2 ^ 48 % 2 ^ 15 == 0] = true := by decide +kernel

theorem witness_prepare : allOf [
    runs .clusterPrepare (launched (record 0 0 1 0x20000 0) true true true) (fun t => (getCluster t 0).prepare.isEmpty && (getCluster t 0).tenant == 3 &&
      readNat t (gaTcm 0 0x100) 1 == 0xEF && tget 0 (getCore t 0).code 1 == 0xCD && getBar t (gaBarCluster 0 5) == 7 * 2 ^ 32 &&
      (getCore t 0).trapvec == 0x7800 && t.net.any fun m => m.body == .launchStart 0 0x80 false),
    runs .clusterPrepare (launched (record 0 0 1 0x20000 0) true false true) (fun t => ((launchAt t 0).any fun l => l.begun) &&
      getBar t (gaBarDie 0 5) == 7 * 2 ^ 32 && getBar t (gaBarModule 0 5) == 7 * 2 ^ 32 && getBar t (gaBarFabric 0 5) == 7 * 2 ^ 32)] = true := by decide +kernel

theorem witness_retire : allOf [
    runs .launchRetire (launched (record 0 0 1 0 0) true true false) (fun t => hostRead t 0x5000 16 == leBytes 0x77 8 ++ leBytes (2 ^ 32) 8 && (launchAt t 0).isNone),
    stalls .launchRetire { contested with argB := 1 }] = true := by decide +kernel

/-- The cluster is being given up by the lower launch. -/
def givenUp : State := modCluster contested 0 fun x => { x with preemptFor := some 0, saveBase := 0x1000000 }

/-- What a pre-emption asks for (the record that it writes has 64 KiB). -/
theorem witness_preempt : Rules.Idle givenUp 0 ∧ allOf [
    preempting givenUp 0 == some 0, lowerOn givenUp 0 0 == [1], areaFor givenUp 1 0 == 0x1000000, givenUp.saves.isEmpty] = true := by
  refine ⟨⟨by decide +kernel, fun k h => ?_, by decide +kernel, by decide +kernel, by decide +kernel, by decide +kernel, ?_, by decide +kernel⟩, by decide +kernel⟩
  · have c : (getCore givenUp 0).ctx = [(0, { x := [(2, 9)], pc := 0x40, mode := .running })] := by decide +kernel
    simp [getCtx, c, tget, show ¬ 0 = k by omega]
  · have n : givenUp.net = [] := by decide +kernel
    simp [n]

/-- The lower launch's core has stopped, in a cluster that is saved; cluster 0 has a save of its own, of queue 1, and nothing else needs the cluster. -/
def stoppedOne : State := modCore givenUp 0 fun c => { c with run := false }
def savedOne : SavedCluster := ⟨[1], 0, 0x1000000, 3, [(0, 1)], [(0, {})], [], [], 0x100000, 4⟩
def savedAway : State := { modCluster (launching (record 0 0 1 0 0) 1) 0 fun x => { x with tenant := 3 } with saves := [savedOne] }

theorem witness_save_and_resume : stopDone stoppedOne 0 = true ∧ (∀ prio, needed savedAway 0 prio = false) ∧ allOf [
    preempting stoppedOne 0 == some 0, !(getCore stoppedOne 0).saved, nextSave savedAway 0 == some savedOne, launchesOn savedAway 0 == [],
    (getCluster savedAway 0).prepare.isEmpty, (getCore savedAway 0).launch.isNone] = true := by
  refine ⟨by decide +kernel, fun p => ?_, by decide +kernel⟩
  have a : launchesOn savedAway 0 = [] := by decide +kernel
  have b : waitingLaunches savedAway (0 / 2048) = [] := by decide +kernel
  simp [needed, a, b]

/-- A load by that launch of 0x40 of its cluster's scratchpad, which is away: it is performed in the copy. -/
def loadAway : State := carrying { stored0 savedAway (0x1000000 + 0x680040) [0x5A] with cores := [(0, { launch := some 1 })] }
  (message 0 (gaSpad 0 0x40 / 8) 0 [0] (.access (.load 1) (gaSpad 0 0x40) 0 {}))

theorem witness_saved_copy : allOf [redirect loadAway 0 (gaSpad 0 0x40) != gaSpad 0 0x40,
    runs .savedCopyAccess loadAway (fun t => t.net.all fun m => m.body == .reply [0x5A] none {})] = true := by decide +kernel

/-- Module 0 in bring-up, of which the functions listed are left; the step is that of function f. -/
def rising (rdy : Word) (left : List Nat) (f : Nat) : State :=
  { modMod State.reset 0 fun x => { x with power := .on left, rdyMod := rdy } with argB := f }

theorem witness_bring_up : allOf [
    runs .powerGood State.reset (fun t => (getMod t 0).booted.isNone && (getMod t 0).power == .on []), stalls .powerGood (rising 0 [] 0),
    stalls .bringupFunctionReady (rising 0 [1] 1), runs .bringupFunctionReady (rising 0 [0, 1] 0) (fun t => (getMod t 0).rdyMod == 1 && (getMod t 0).power == .on [1]),
    runs .bringupFunctionReady (rising 1 [2] 2) (fun t => (getMod t 0).rdyMod == 3),
    runs .bringupFunctionReady (rising 1 [15] 15) (fun t => (getMod t 0).rdyPort == 128),
    runs .bringupFunctionReady (writeNat (rising 1 [31] 31) (gaFrame 15 8) 8 1) (fun t => (getDie t 15).rdy == 2 && t.mem == []),
    runs .bringupFunctionReady (modDie (rising 1 [48] 48) 0 fun x => { x with frames := [(3, 1)] }) (fun t => (getDie t 0).rdy == 8 && (getDie t 0).frames == []),
    stalls .bringupFunctionReady (rising 1 [64] 64),
    runs .bringupFunctionReady (writeNat (rising 1 [4095] 4095) (gaSpad 2047 8) 8 1) (fun t => (getCluster t 2047).mapGen == 1 && t.mem == [] &&
      (getDie t 15).rdyCl == 2 ^ 127 && (getMod t 0).journalDue.map JournalRec.cl == [2047])] = true := by decide +kernel

/-- A cluster retired before its function ends never turns READY, and its first record carries its stored map, which is empty here. -/
theorem test_retired_before_ready : runs .rdyclRetire { rising 1 [4095] 4095 with argA := 2047 } (fun t => (getMod t 0).journalDue.map JournalRec.retire == [true] &&
    runs .bringupFunctionReady { t with argA := 0 } fun u => (getDie u 15).rdyCl == 0 && (getCluster u 2047).retired &&
      (getMod u 0).journalDue.map JournalRec.retire == [true, true]) = true := by decide +kernel

/-- Power comes to a module that something was done to while it was off; an HBM stack is initialised; a narrow write of FWMBCTL starts nothing. -/
theorem test_fresh_start : allOf [
    runs .powerGood (modDie State.reset 0 fun x => { x with rdy := 15 }) (fun t => (getDie t 0).rdy == 0),
    stalls .patrolScrubVisit { State.reset with argA := gaTcm 48 8, latent := [gaTcm 48 8 / 8] },
    runs .bringupFunctionReady { rising 1 [33] 33 with full := [0x200000000, 7], poison := [0x200000000], latent := [0x200000001], soft := [0x200000002] }
      (fun t => t.full == [7] && t.poison == [] && t.latent == [] && t.soft == [] && (getDie t 1).rdy == 4),
    (fun t => (getMod t 0).fwmbCtl == 5 && (getMod t 0).fwmbStat == 0)
      (writeRegBytes (modMod (lit State.reset) 0 fun x => { x with fwmbCtl := 2 ^ 63 }) (cellsAt (gaModWin 0 0x4305008) [5, 0, 0, 0]))] = true := by decide +kernel

/-- A core of module 1 meets the failed SCB 4 of module 0: the error is counted and posted there. -/
theorem test_far_error : (fun t => (getDie t 0).dtel0 == 2 ^ 32 && t.ueFound == [(0, dieLocator 6 0 4)])
    (answer { State.reset with ue := [(0, dieLocator 6 0 4)] } (message 131072 0 0 [0] (.marker 0 0)) [] (some (0x09, dieLocator 6 0 4)) {}) = true := by decide +kernel

/-- Module 0 runs, with readings to come, at some temperature, flow and step of the cap. -/
def measured (x : Mod → Mod) (oracle : List Nat) : State := { modMod (rising 1 [] 0) 0 x with oracle := oracle }

theorem witness_power_windows : allOf [
    runs .powerWindow (measured (fun x => { x with capSteps := 20, pcapNow := 5400, lowFlow := 1 }) (List.replicate 36 1520)) (fun t =>
      (getMod t 0).pwr == 0 && (getMod t 0).capSteps == 20 && (getMod t 0).lowFlow == 0),
    runs .powerWindow (measured (fun x => { x with capSteps := 0, lowFlow := 1 }) (List.replicate 36 299)) (fun t => (getMod t 0).lowFlow == 2 && (getMod t 0).capSteps == 0),
    runs .thermalShutdown (measured (fun x => { x with lowFlow := 1000, pwr := 5 }) []) (fun t => getMod t 0 == {}),
    stalls .thermalShutdown (measured (fun x => { x with lowFlow := 999 }) []),
    runs .mainPowerLoss (measured (fun x => { x with flash := { seq := 9 } }) []) (fun t => getMod t 0 == { flash := { seq := 9 } })] = true := by decide +kernel

theorem witness_gated : (getDie (modDie (base 48 []) 0 fun x => { x with gated := true }) (dieOf 48)).gated = true := rfl

theorem witness_scrubber : allOf [scrubbed (gaTcm 48 8),
    runs .patrolScrubVisit { rising 1 [] 0 with argA := gaTcm 48 8, latent := [gaTcm 48 8 / 8] } (fun t => t.poison == [gaTcm 48 8 / 8] && t.latent.isEmpty),
    runs .patrolScrubVisit { rising 1 [] 0 with argA := gaTcm 48 8, soft := [gaTcm 48 8 / 8] } (fun t => t.soft.isEmpty && (getDie t 0).dtel0 == 1),
    stalls .patrolScrubVisit { rising 1 [] 0 with argA := gaTcm 48 8 }] = true := by decide +kernel

/-- A change of cluster 9 is to be recorded. -/
theorem witness_journal : allOf [stalls .journalAppend (rising 1 [] 0),
    runs .journalAppend (modMod (rising 1 [] 0) 0 fun x => { x with evqCfg := 2 ^ 63 + 1, evqBase := 0x800, evqTail := 1, journalDue := [{ cl := 9, gen := 4, retire := false, map := [] }] })
      (fun t => (getMod t 0).flash.seq == 1 && (getMod t 0).flash.journal.length == 1 && (getMod t 0).evqTail == 2 && hostRead t 0x82C 4 == leBytes 0x22 4)] = true := by decide +kernel

/-- A request has come for the attested module in that stage. -/
def asked (stage : Nat) (r : List Byte) : State := measured (fun x => { x with spdmStage := stage, spdmIn := [r] }) (List.replicate 96 7)

/-- It answers with a message of that code. -/
def answers (i : Instr) (stage : Nat) (r : List Byte) (code : Byte) : Bool :=
  runs i (asked stage r) fun t => (getMod t 0).spdmIn.isEmpty && (getMod t 0).spdmOut.map (fun o => o.getD 1 0) == [code]

theorem witness_attestation : allOf [
    answers .getVersion 3 [0x10, 0x84, 0, 0] 0x04, answers .getCapabilities 1 [0x13, 0xE1, 0, 0] 0x61, answers .getCapabilities 2 [0x13, 0xE1, 0, 0] 0x7F,
    answers .negotiateAlgorithms 2 [0x13, 0xE3, 0, 0] 0x63, answers .negotiateAlgorithms 1 [0x13, 0xE3, 0, 0] 0x7F, answers .getDigests 3 [0x13, 0x81, 0, 0] 0x01,
    answers .getDigests 2 [0x13, 0x81, 0, 0] 0x7F, answers .getCertificate 3 [0x13, 0x82, 0, 0, 0, 0, 0, 1] 0x02, answers .getCertificate 3 [0x13, 0x82, 1, 0] 0x7F,
    answers .challenge 3 ([0x13, 0x83, 0, 0] ++ List.replicate 40 1) 0x03, answers .getMeasurements 3 [0x13, 0xE0, 0, 0] 0x60, answers .getMeasurements 3 ([0x13, 0xE0, 1, 6] ++ List.replicate 41 1) 0x60,
    answers .spdmUnsupported 0 [0x13, 0xFE, 0, 0] 0x7F] = true := by decide +kernel

theorem witness_begun_barrier : ready (modCtx (barrier 2 1 1) 48 0 fun c => { c with begun := true }) (.barSync plain 2) = true ∧
    runs (.barSync plain 2) (modCtx (barrier 2 1 1) 48 0 fun c => { c with begun := true }) (fun t => (me t).pc == 0 && (me t).begun) = true := by decide +kernel

theorem witness_numbers : allOf [(valueOf fp32 true 1 matches .num false 0 _), valueOf fp16 false 0xFC00 == .inf true,
    valueOf fp16 false 0x7C01 == .nan true, valueOf e4m3 false 0x7F == .nan false,
    roundFP (.num false 449 0) e4m3 .rne true false 0 == (0x7E, { nx := true }), roundFP (.num false 465 0) e4m3 .rne false false 0 == (0x7F, { of := true, nx := true }),
    roundFP (.num true 3 (-25)) fp16 .rne false false 0 == (0x8002, { uf := true, nx := true }), roundFP (.num false 1 (-24)) fp16 .sr false false 0 == (1, {}),
    roundFP (.inf true) e2m1 .rtz false false 0 == (0xF, { nv := true })] = true := by decide +kernel

/-- A command of a ring operation, or of a core alone, that has started. -/
def startedCmd (f : MForm) (e : Elem) (d : List (Fld × Nat)) : MCmd := ⟨f, e, d.foldl (fun b x => fput x.1 b x.2) 0, 0, 0, false, true⟩

/-- Core 2 runs a product in fp32 of M = 1, N = 1 and K = 33 of ones by twos, onto 1.0. -/
def floatProduct : State :=
  let s := modCore (base 2 []) 2 fun c => { c with acc := [(0, 0x3F800000)], cmds := [startedCmd .mop .fp16 [(F.mdM, 1), (F.mdN, 1), (F.mdK, 33), (F.mdB, 0x1000)]] }
  { (upFrom 0 33).foldl (fun s i => writeNat (writeNat s (gaTcm 2 (2 * i)) 2 0x3C00) (gaTcm 2 (0x1000 + 64 * i)) 2 0x4000) s with argA := 2 }

/-- All 16 matrix cores of cluster 0 run a command; core u holds 2 and u + 1 in INT8 as A and as its slab at 0x1000. -/
def ringRun (m : MCmd) : State :=
  { (upFrom 0 16).foldl (fun s u => modCore (writeNat (writeNat s (gaTcm (mcore 0 u) 0) 2 0x3F80) (gaTcm (mcore 0 u) 0x1000) 2 (if u = 9 then 0x3F80 else u + 1)) (mcore 0 u)
      fun c => { c with run := true, cmds := [m] }) State.reset with argA := 2 }

theorem witness_float_matrix : allOf [
    runs .matrixCommandComplete floatProduct (fun t => tget 0 (getCore t 2).acc 0 == 0x42860000 && (getCore t 2).cmds.isEmpty),
    runs .matrixCommandComplete (ringRun (startedCmd .mring .int8 [(F.mdM, 9), (F.mdN, 16), (F.mdK, 1), (F.mdB, 0x1000), (F.mdZ, 1)]))
      (fun t => tget 0 (getCore t 2).acc 15 == 0xFFFFF800 && tget 0 (getCore t 5).acc 0 == 0xFFFFFF80 && (getCore t 8).acc.isEmpty && (getCore t 47).cmds.isEmpty),
    runs .matrixCommandComplete (ringRun (startedCmd .attn .bf16 [(F.mdM, 1), (F.mdN, 1), (F.mdK, 1), (F.mdB, 0x1000), (F.mdVbase, 0x1000), (F.mdTs, 1)]))
      (fun t => tget 0 (getCore t 2).rowMax 0 == 0x3F800000 && (getCore t 2).cmds.isEmpty && (getCore t 5).rowMax.isEmpty)] = true := by decide +kernel

/-- Core 0 runs one element of a command: x1 = 0x200 the payload, 0x300 the list, 0x400 the table or bins, 0x77 the payload's doubleword. -/
def oneOf (kind : XKind) (xa xb : Word) (x : XCmd → XCmd) : State :=
  let put (s : State) (e : Nat × Nat × Nat) : State := writeNat s (gaTcm 0 e.1) e.2.1 e.2.2
  let s := [(0x200, 8, 0x77), (0x300, 4, 1), (0x400, 8, 0x2000001), (0x408, 8, 0x500), (0x410, 8, 0x2000002), (0x418, 8, 0x500)].foldl put (base 0 [])
  let cmd : XCmd := ⟨kind, 1, oneElement, oneElement, 0x400, 1, xa, xb, 0, 0, 0, 0, 0, true, false, none, [], none, none, none⟩
  modCore { s with argA := 0, argB := 0 } 0 fun c => { c with chans := [(0, { next := 2, queue := [x cmd] })] }

/-- The head of channel 0 of core 0 after a piece. -/
def afterPiece (s : State) (p : State → XCmd → Bool) : Bool := runs .enginePiece s fun t => (getChan t 0 0).queue.head?.any (p t)

theorem witness_engine_forms : allOf [
    afterPiece (oneOf .gat 0x300 0x600 id) (fun t x => readNat t (gaTcm 0 0x600) 8 == 0x500 && x.pos == 1),
    afterPiece (oneOf .sct 0x200 0x300 id) (fun t x => readNat t (gaTcm 0 0x408) 8 == 0x77 && x.pos == 1),
    afterPiece (oneOf .fill 0x600 0x99 id) (fun t x => readNat t (gaTcm 0 0x600) 8 == 0x99 && x.bytes == 8),
    afterPiece (oneOf .bins 0x200 0x308 id) (fun t x => x.bumped == some (0, 1) && readNat t (gaTcm 0 0x400) 8 == 0x2000002),
    afterPiece (oneOf .bins 0x200 0x300 id) (fun _ x => x.bumped == some (1, -1)),
    afterPiece (oneOf .bins 0x200 0x308 fun x => { x with bumped := some (0, -1), nb := 1 }) (fun _ x => x.bumped == some (1, -1)),
    afterPiece (oneOf .bins 0x200 0x300 fun x => { x with bumped := some (1, -1) }) (fun _ x => x.pos == 1 && x.bumped == none),
    afterPiece (oneOf .bins 0x200 0x308 fun x => { x with bumped := some (0, 1) }) (fun _ x => x.place == some 0x508),
    afterPiece (oneOf .bins 0x200 0x308 fun x => { x with place := some 0x508 }) (fun t x => readNat t (gaTcm 0 0x508) 8 == 0x77 && x.pos == 1),
    runs .enginePiece (oneOf .copy 0x204 0x600 id) (fun t => (getChan t 0 0).pid == some 1 && (getChan t 0 0).frec == 0x0500000000000000),
    runs .enginePiece (oneOf .fill 0x604 0x99 id) (fun t => (getChan t 0 0).pid == some 1 && (getChan t 0 0).queue.isEmpty),
    runs .enginePiece { oneOf .copy 0x200 0x600 id with poison := [gaTcm 0 0x200 / 8] } (fun t => (getChan t 0 0).frec == 0x0A00000000000000)] = true := by decide +kernel

/-- Module 0 writes an empty bundle to copy A, or waits for its journal. -/
def updating (due : List JournalRec) : State :=
  modMod (rising 1 [] 0) 0 fun x => { x with fwmbStat := 2 ^ 63, journalDue := due }

theorem witness_flash_update : allOf [
    stalls .fwmbUpdate (updating [{ cl := 9, gen := 4, retire := false, map := [] }]), runs .fwmbUpdate (updating []) (fun t => (getMod t 0).fwmbStat == 3),
    runs .registerWrite { updating [] with argA := gaModWin 0 0x4305008, argV := 0x8000000100000200 } (fun t => (getMod t 0).fwmbCtl == 0x100000200 && (getMod t 0).fwmbJob == (0, 0)),
    runs .registerWrite { rising 1 [] 0 with argA := gaModWin 0 0x4305008, argV := 0x8000000100000200 } (fun t => (getMod t 0).fwmbStat == 2 ^ 63)] = true := by decide +kernel

theorem witness_vector_floats : allOf [
    retires (.vabs paged 0 .fp32 4 1) (modCore floats 1 fun c => { c with v := [(1, 0xBF800000)] }) (fun t => laneAt t 4 0 == 0x3F800000),
    retires (.vmin paged 0 .fp32 4 1 2) floats (fun t => laneAt t 4 0 == 0x3F800000), retires (.vmax paged 0 .fp32 4 1 2) floats (fun t => laneAt t 4 0 == 0x40000000),
    retires (.vredsum paged 0 .fp32 5 2) floats (fun t => tget 0 (getCtx t 1 0).x 5 == 0x40000000),
    retires (.vscan both 0 .fp32 4 1) floats (fun t => laneAt t 4 63 == 0x3F800000)] = true := by decide +kernel

/-! ### Witnesses of forms beyond the plain ones -/

theorem witness_csr_values : allOf [
    Rules.csrFixed (machine 48 1 .helper false []) 0x000 == some 0x130, writes (.csrr paged 6 0x004) (base 48 []) 6 3, writes (.csrr paged 6 0x005) (base 48 []) 6 0xC5,
    writes (.csrr paged 6 0x005) (base 2 []) 6 0x31, !Rules.csrNumbers.contains 0x007, traps (.csrr paged 6 0x007) (base 48 []) 0x01 0xFC02,
    traps (.csrs paged 3 0x004) (base 48 []) 0x01 0xFC02] = true := by decide +kernel

/-- The base context waits and slot 1 has become READY: the clock's end lets it run. -/
def idling : State := modCtx (helping .ready) 48 0 fun c => { c with mode := .blockedEvent }

theorem witness_settle : allOf [
    (getCore idling 48).run, !busy (getCore idling 48), (getCore (settle idling 48) 48).slot == 1, (getCtx (clockEnd idling) 48 1).mode == .running,
    (getCore (clockEnd (modCore idling 48 fun c => { c with preempting := true })) 48).slot == 0] = true := by decide +kernel

/-- That page with another leaf. -/
def leafed (f : Nat → Nat) : State :=
  modCluster (mapped (2 ^ 18)) 0 fun q => { q with tlb := q.tlb.map fun e => { e with leaf := BitVec.ofNat 128 (f e.leaf.toNat) } }

theorem witness_page_rights : allOf [
    traps (.st plain .d 3 2 0) (leafed fun e => e - 0x20) 0x07 0x400000, runs (.ld plain .d 1 2 0) (leafed fun e => e - 0x20) (fun t => t.net.length == 1),
    traps (.ld plain .d 1 2 0) (leafed fun e => e - 0x40) 0x07 0x400000, traps (.redAdd paged 2 3) (leafed fun e => e - 0x80) 0x07 0x400000,
    traps (.put paged 3 2 0) (leafed fun e => e - 0x100) 0x07 0x400000, traps (.ld plain .d 1 2 0) (leafed fun e => e + 3 * 2 ^ 96) 0x07 0x400000,
    traps (.ld plain .d 1 2 0) (leafed fun _ => 0x1F3 + 0x013000000000) 0x07 0x400000] = true := by decide +kernel

/-- A bound stream with one page, in entry 12 of SRAM frame 5, by node 10 and leaf node 11; x2 = the state window, x4 its page 1. The frame has `cnt` references
and lies in HBM where `loc` is 1. -/
def paging (fields : List (Fld × Nat)) (cnt loc : Nat) : State :=
  let node (n : Nat) : Word := fput F.frPlace (fput F.frKind (fput F.frCnt 0 1) 2) n
  let b := scbSet (getScb (stream 2 true) 0 4) ([(F.scRfid, 10), (F.scNpg, 1)] ++ fields)
  let s := setScb (modCtx (stream 2 true) 48 0 fun c => { c with x := [(2, 0x7E0000000000), (3, 7), (4, 0x7E0000040000)] }) 0 4 b
  let s1 := modDie s 0 fun x => { x with frames := [(10, node 0), (11, node 1), (12, fput F.frLoc (fput F.frCnt (dataEntry 5 0) cnt) loc)] }
  let leaf : Word := fput F.teFid (fput F.teProv (fput F.teV 0 1) (fget F.scMarkV b)) 12
  setNodeEntry (setNodeEntry s1 0 10 0 (fput F.teFid (fput F.teV 0 1) 11)) 0 11 0 leaf

/-- The block of that stream. -/
def pageBlock : BitVec 2048 := getScb (paging [] 1 0) 0 4

theorem witness_state_window : Rules.Window (paging [] 1 0) 0x7E0000000000 0 0 4 pageBlock ∧ Rules.Usable (paging [] 1 0) pageBlock ∧ allOf [
    pathOf (paging [] 1 0) 0 4 0 == { die := 0, root := 10, leaf := some 11, frame := some 12 }, !frameBusy (paging [] 1 0) 0 12,
    region (frameGa (paging [] 1 0) 0 12 0) == .frame 0 (5 * 2 ^ 18), ready (paging [] 1 0) (.ld plain .d 1 2 0),
    runs (.ld plain .d 1 2 0) (paging [] 1 0) (fun t => t.net.length == 1 && (me t).mode == .waiting (.reply 0)),
    runs (.st plain .d 3 2 0) (paging [] 1 0) (fun t => (getCore t 48).comb.map (fun e => (e.line, e.strm)) == [(gaFrame 0 (5 * 2 ^ 18), sid)] && (me t).pc == 2)] = true := by
  refine ⟨⟨by decide +kernel, by decide +kernel, ⟨by decide +kernel, by decide +kernel, rfl⟩, by decide +kernel⟩,
    ⟨by decide +kernel, fun o k im q h => ?_, by decide +kernel⟩, by decide +kernel⟩
  have e : (me (paging [] 1 0)).kind = .base := by decide +kernel
  simp [e] at h

theorem witness_state_window_traps : allOf [
    traps (.ld plain .d 1 2 0) (paging [(F.scNpg, 0)] 1 0) 0x06 0x7E0000000000, traps (.ld plain .d 1 4 0) (paging [] 1 0) 0x06 0x7E0000040000,
    traps (.st plain .d 3 4 0) (paging [(F.scNpg, 0)] 1 0) 0x06 0x7E0000040000, traps (.ld plain .d 1 2 0) (paging [(F.scState, 6)] 1 0) 0x11 sid,
    traps (.ld plain .d 1 2 0) (modCtx (paging [] 1 0) 48 0 fun c => { c with strm := 0 }) 0x11 0,
    traps (.ldSync paged 1 2 0) (paging [] 1 0) 0x07 0x7E0000000000] = true := by decide +kernel

/-- A die with a free entry and a zeroed frame has room for a page. -/
theorem room_page (x : Die) (d f p : Nat) (hf : f < 65536) (ff : freeFid x f = true) (hp : p < 6144) (zp : zeroedFrame x p = true) : room x d 1 0 = .ok := by
  have a : 0 < ((upFrom 0 65536).filter (freeFid x)).length := List.length_pos_of_mem (List.mem_filter.2 ⟨(mem_upFrom _ _ _).2 (by omega), ff⟩)
  have b : 0 < ((upFrom 0 poolFrames).filter (zeroedFrame x)).length :=
    List.length_pos_of_mem (List.mem_filter.2 ⟨(mem_upFrom _ _ _).2 (by simp only [poolFrames]; omega), zp⟩)
  have m : (0 - freeNodeSlots x + 511) / 512 = 0 := by omega
  simp only [room, framesFor, m]
  rw [if_neg (by omega), if_pos (by omega)]

/-- What an append, a copy and a fetch-back ask for (each then looks through the pool). -/
theorem witness_page_changes : room (getDie (paging [] 2 0) 0) 0 1 0 = .ok ∧ allOf [
    frGet (paging [] 2 0) 0 10 F.frCnt == 1, frGet (paging [] 2 0) 0 11 F.frCnt == 1, frGet (paging [] 2 0) 0 12 F.frCnt == 2, frGet (paging [] 1 1) 0 12 F.frLoc == 1,
    !freeFid (getDie (paging [] 2 0) 0) 11, frGet (paging [] 2 0) 0 11 F.frPlace != frGet (paging [] 2 0) 0 10 F.frPlace, !granted (paging [] 1 0) 0 48 0,
    (pathOf (paging [] 1 0) 0 4 1).leaf == some 11, ready (paging [] 1 0) (.st plain .d 3 4 0), Rules.stores (xreg (paging [] 1 0)) (.st plain .d 3 4 0) != none] = true :=
  ⟨room_page _ _ 65535 6143 (by omega) (by decide +kernel) (by omega) (by decide +kernel), by decide +kernel⟩

/-- That page is provisional. -/
def marked : State := paging [(F.scMarkV, 1)] 1 0

theorem witness_provisional : Rules.OwnStream marked sid 0 4 ∧ Rules.Provisional marked 0 4 (getScb marked 0 4) (fun _ => 11) (fun _ => 12) := by
  refine ⟨⟨by decide +kernel, by decide +kernel, by decide +kernel, by decide +kernel, by decide +kernel, by decide +kernel, fun w h => ?_,
    ⟨by decide +kernel, by decide +kernel, by decide +kernel, fun m h => ?_⟩⟩, by decide +kernel, by decide +kernel, fun p _ h => ?_, by decide +kernel,
    fun p _ _ => ⟨by decide +kernel, by decide +kernel, by decide +kernel, fun q _ _ h => absurd rfl h⟩,
    fun p _ h => ⟨by decide +kernel, by decide +kernel, by decide +kernel, by decide +kernel, fun q _ hq n => ?_⟩, by decide +kernel⟩
  · have e : (getDie marked 0).steps = [] := by decide +kernel
    simp [e] at h
  · have e : marked.net = [] := by decide +kernel
    simp [e] at h
  all_goals have e : fget F.scNpg (getScb marked 0 4) = 1 := by decide +kernel
  · obtain rfl : p = 0 := by omega
    decide +kernel
  · omega

theorem test_provisional : allOf [
    writes (.sroll paged 6) marked 6 1, block (.sroll paged 6) marked F.scNpg 0, block (.sroll paged 6) marked F.scMarkV 1,
    runs (.sroll paged 6) marked (fun t => nodeEntry t 0 11 0 == 0 && getFrame t 0 12 == 0),
    block (.scommit paged 6 3 3) marked F.scNpg 1, block (.scommit paged 6 3 3) marked F.scMarkV 0,
    runs (.scommit paged 6 3 3) marked (fun t => fget F.teProv (nodeEntry t 0 11 0) == 0 && frGet t 0 12 F.frCnt == 1),
    runs (.scommit paged 6 3 5) marked (fun t => scbGet t 0 4 F.scNpg == 0 && getFrame t 0 12 == 0),
    block (.smark paged) marked F.scMarkPg 1, runs (.smark paged) marked (fun t => fget F.teProv (nodeEntry t 0 11 0) == 0)] = true := by decide +kernel

/-- The bound stream may become the parent of set 5, or is one of a set whose slot 7 is taken; x3 names set 5 and slot 7, x5 set 1024. -/
def parent (slots : List Nat) : State :=
  modDie (modCtx marked 48 0 fun c => { c with x := [(2, sid), (3, 7 * 65536 + 5), (5, 1024)] }) 0 fun x =>
    { x with sets := [(5, { opened := true, parent := sid, slots := slots })] }

theorem witness_fork_into_set : allOf [
    freeScb (parent []) 0 == some 0, canCount (parent []) 0 10, ready (parent []) (.sfork paged 6 2 3),
    runs (.sfork paged 6 2 3) (parent []) (fun t => (getSet t 0 5).slots == [7] && (getSet t 0 5).members == [(7, xreg t 6)] && scbGet t 0 0 F.scSset == 5 &&
      scbGet t 0 0 F.scSlot == 7),
    traps (.sfork paged 6 2 3) (parent [7]) 0x11 sid, traps (.sfork paged 6 2 5) (parent []) 0x11 sid] = true := by decide +kernel

theorem witness_migrating_load : allOf [
    migAllowed (modCore (away 1) 48 fun c => { c with migen := 1 }) 48 1 0xC000 (2 ^ 48 + gaSpad 3 0),
    runs (.ld plain .d 1 2 0) (modCore (away 1) 48 fun c => { c with migen := 1 }) (fun t => (getCtx t 48 1).mode == .waiting .away &&
      t.net.all fun m => match m.body with | .migrate 0xC000 _ _ _ _ _ _ _ (some _) _ _ => true | _ => false)] = true := by decide +kernel

/-- Core 48 refuses a packet of slot 3 of core 48 of module 1 that carries a load: it goes on to the load's home. -/
def refusedLoad : State :=
  { migrant 1 with net := (migrant 1).net.map fun m => { m with body := .migrate 0x40 [(1, 7)] 5 1 9 131120 3 none (some (gaSpad 3 0, 8, 0x400000, {})) 0x400000 0x44 } }

theorem witness_refused_load : allOf [
    refusedLoad.net.all (mayPerform refusedLoad), runs .migrationArrive refusedLoad (fun t => (getCtx t 131120 3).mode == .waiting (.reply 0) &&
      t.net.all fun m => m.home == homeKey (gaSpad 3 0) && match m.body with | .access (.load 8) _ _ _ => true | _ => false)] = true := by decide +kernel

/-- The route field of a qualifier: deferred. -/
def deferred (page : Bool) : Pfx := ⟨page, false, some ⟨0, 2, 0, false, false⟩, 0⟩

/-- A member of a group, with so many entries in its exchange buffer; page 0x400000 lies in another cluster's scratchpad. -/
def member (n : Nat) : State :=
  modCore (mapped (2 ^ 18)) 48 fun c =>
    { c with dommem := 0x8003, launch := some 0, xbuf := List.replicate n { slot := 0, ga := gaSpad 3 0, key := 0, va := 0, op := .load 1 } }

theorem witness_deferred : allOf [
    Pfx.route (deferred false) 0 == .deferred, inAnyGroup (member 0) 48,
    runs (.st (deferred false) .d 3 2 0) (member 0) (fun t => (getCore t 48).xbuf.map XEnt.op == [.store (cellsAt (gaSpad 3 0) (leBytes 7 8))] && t.net.isEmpty && (me t).instret == 1),
    runs (.redAdd (deferred true) 2 3) (member 0) (fun t => (getCore t 48).xbuf.map XEnt.op == [.red .add 7]),
    runs (.stFill (deferred true) 3 2 0) (member 0) (fun t => (getCore t 48).xbuf.map XEnt.op == [.fe (.fill 7)]),
    traps (.st (deferred false) .d 3 2 0) (member 512) 0x07 0x400000] = true := by decide +kernel

/-- Both members of a group have a deferred store when the second arrives; the first's was made after its own arrival. -/
theorem witness_exchange : runs (.sphX paged 0) ((fun s => [48, 49].foldl (fun s g => modCore s g fun c =>
      { c with xbuf := [{ slot := 2, ga := gaSpad 3 (8 * g), key := 0, va := 0, op := .store [(gaSpad 3 (8 * g), 1)], hold := if g = 49 then 1 else 0 }] }) s) (grouped [49] false))
    (fun t => (t.net.map fun m => (m.src, m.slots, m.cls)) == [(48, [2], 0)] && (getCore t 48).xbuf.isEmpty && (getCore t 49).xbuf.map XEnt.hold == [0]) = true := by decide +kernel

/-- Core 1 with two instructions queued and a group for the first, four clocks on. -/
def behind (second : Instr) : State :=
  match exec (.vadd both 0 .int32 3 1 2) lanes with
  | .next t => match exec second t with
    | .next u => match exec .vectorLaneGrant { u with argA := 0, argB := 0 } with
      | .next w => { w with now := w.now + 4 }
      | _ => lanes
    | _ => lanes
  | _ => lanes

theorem witness_second_group : allOf [
    (getCore (behind (.vadd both 0 .int32 4 1 2)) 1).flight == 1, wantsGroup (behind (.vadd both 0 .int32 4 1 2)) 1, !wantsGroup (behind (.vadd both 0 .int32 4 3 2)) 1,
    !wantsGroup { behind (.vadd both 0 .int32 4 1 2) with now := 3 } 1] = true := by decide +kernel

theorem witness_flags : allOf [
    retires (.vcmp paged .lt .fp32 2 3 3) floats (fun t => fget F.flags (getCore t 1).fmode == 16), retires (.vmin paged 0 .fp32 4 3 1) floats (fun t => fget F.flags (getCore t 1).fmode == 16),
    retires (.vmin paged 1 .fp32 4 3 1) floats (fun t => fget F.flags (getCore t 1).fmode == 0)] = true := by decide +kernel

/-- A gather or scatter at the head of core 1's queue, xA as given. -/
def indexed (e : Instr) (xa : Word) : State :=
  match exec e (modCtx lanes 1 0 fun c => { c with x := [(2, xa)] }) with
  | .next t => { t with argA := 1 }
  | _ => lanes

theorem witness_indexed : Rules.VectorAccess (indexed (.vldx paged 1 4 2 1) 0x100) ⟨.vldx paged 1 4 2 1, 0, 0x100, 0, false, 1, 1, []⟩ [] ∧
    allOf [Rules.activeLanes (indexed (.vldx paged 1 4 2 1) 0x100) 1 == [0, 1],
      runs .vectorMemoryAccess (indexed (.vldx paged 1 4 2 1) 0x102) (fun t => (getCtx t 1 0).trapCause == 0x05 && (getCtx t 1 0).trapVal == 0x106 && (getCore t 1).vq.isEmpty),
      runs .vectorMemoryAccess (indexed (.vstx paged 1 2 2 1) 0x102) (fun t => (getCtx t 1 0).trapCause == 0x05 && (getCtx t 1 0).trapVal == 0x106)] = true := by
  refine ⟨⟨by decide +kernel, by decide +kernel, ⟨by decide +kernel, by decide +kernel⟩, ⟨by decide +kernel, fun m h => ?_, by decide +kernel, by decide +kernel⟩,
    by decide +kernel⟩, by decide +kernel⟩
  have n : (indexed (.vldx paged 1 4 2 1) 0x100).net = [] := by decide +kernel
  rw [n] at h
  cases h

/-- That M-core with another descriptor at 0x200, in a cluster that entry 7 of its die's arrival table binds. -/
def entering (d : BitVec 256) : State :=
  modDie (writeNat product (gaTcm 2 0x200) 32 d.toNat) 0 fun x => { x with arrival := [(7, fput F.arNcl (fput F.arV 0 1) 1)] }

/-- Scales, B in the last bytes of the TCM, and a slab in the receive slot of an arrival entry from an offset on: 64 rows of K elements, and of 16. -/
def scaledDesc : BitVec 256 := fput F.mdSb (fput F.mdSa (fput F.mdSc productDesc 1) 0x2000) 0x2040
def slotDesc (entry k base_ : Nat) : BitVec 256 :=
  [(F.mdAent, entry), (F.mdBsrc, 1), (F.mdTs, 64), (F.mdM, 2), (F.mdN, 16), (F.mdK, k), (F.mdB, base_)].foldl (fun d e => fput e.1 d e.2) 0

theorem witness_entry_checks : allOf [
    Rules.operands .mop .int8 productDesc == [(0, 128, false), (0x1000, 128, false)],
    Rules.operands .mop .e4m3 scaledDesc == [(0, 128, false), (0x1000, 128, false), (0x2000, 128, false), (0x2040, 64, false)],
    Rules.operands .attn .int8 (slotDesc 7 256 0x40) == [(0, 512, false), (0x40, 0x40000, true), (0, 0x10000, true)],
    runs (.mop both .e4m3 2) (entering scaledDesc) (fun t => (getCore t 2).cmds.length == 1),
    traps (.mop both .int8 2) (entering scaledDesc) 0x01 (firstWord (.mop both .int8 2)), traps (.mop both .int8 2) (entering (productDesc ||| 1)) 0x01 (firstWord (.mop both .int8 2)),
    traps (.mop both .int8 2) (entering (fput F.mdM productDesc 0)) 0x01 (firstWord (.mop both .int8 2)),
    traps (.mring both .int8 2) (entering productDesc) 0x01 (firstWord (.mring both .int8 2)),
    runs (.attn both .int8 2 5) (entering (slotDesc 7 16 0)) (fun t => (getCore t 2).cmds.length == 1),
    traps (.attn both .int8 2 5) (entering (slotDesc 6 16 0)) 0x01 (firstWord (.attn both .int8 2 5)),
    traps (.mop both .int8 2) (entering (fput F.mdB productDesc 0x1020)) 0x05 0x1020, traps (.mop both .int8 2) (entering (fput F.mdB productDesc 0x1EFC0)) 0x07 0x1F000,
    traps (.attn both .int8 2 5) (entering (slotDesc 7 256 0x40)) 0x07 0x40000] = true := by decide +kernel

/-- A drain context at its `dret`, whose row begins 1.0 and 1.00390625; x2 = an address, x4 = 1. -/
def draining (va : Word) : State :=
  modCore (writeNat (machine 2 1 .drain false [(2, va), (4, 1)]) (gaTcm 2 0x1F000) 8 0x3F8080003F800000) 2 fun c =>
    { c with drain := some { rows := 1, row := 1, pc := 0x40, arg := 0, cols := 16, slot := some 1 } }

/-- It stores these two elements and raises these flags. -/
def drains (f : Elem) (v flags : Nat) : Bool :=
  runs (.dret both f 2 4) (draining 0x400) fun t => readNat t (gaTcm 2 0x400) (Rules.width f / 4) == v && fget F.flags (getCore t 2).fmode == flags &&
    (getCtx t 2 1).mode == .free

theorem witness_dret : allOf [
    drains .fp32 0x3F8080003F800000 0, drains .bf16 0x3F803F80 1, drains .fp16 0x3C043C00 0, drains .int8 0x0101 1, drains .e2m1 0x22 1,
    traps (.dret paged .fp32 2 4) (draining 0x404) 0x05 0x404,
    traps (.dret paged .fp32 2 4) { draining 0x400 with poison := [gaTcm 2 0x1F008 / 8] } 0x0A 0x1F008] = true := by decide +kernel

/-- Three elements of 8 bytes, one after another, with FILL as given. -/
def threeElements (fill : Nat) : BitVec 256 := fput F.paFill (fput (F.paS 0) (fput (F.paC 0) oneElement 2) 8) fill

theorem witness_engine_pieces : allOf [
    patTotal (threeElements 1) == 3,
    afterPiece (oneOf .copy 0x200 0x208 fun x => { x with spat := threeElements 0, dpat := threeElements 1 }) (fun t x => x.pos == 3 && x.bytes == 24 &&
      readNat t (gaTcm 0 0x218) 8 == 0x77 && t.full == [gaTcm 0 0x208 / 8, gaTcm 0 0x210 / 8, gaTcm 0 0x218 / 8]),
    afterPiece (oneOf .copy 0x200 0x2F0 fun x => { x with spat := threeElements 0, dpat := threeElements 0 }) (fun t x => x.pos == 2 && t.full.isEmpty),
    afterPiece (oneOf .fill 0x600 0x99 fun x => { x with dpat := threeElements 1 }) (fun t x => x.pos == 3 && readNat t (gaTcm 0 0x610) 8 == 0x99 &&
      t.full.length == 3)] = true := by decide +kernel

theorem witness_migrant_of_a_saved_core : runs .migrationArrive (modCore (migrant 0) 48 fun c => { c with saved := true })
    (fun t => (getCtx t 131120 3).trapCause == 0x13 && (getCtx t 131120 3).trapVal == 0x400000) = true := by decide +kernel

theorem witness_walk_at_queue_head : runs .translationWalkDone
    (modCore (walking 0 (some (0x20000, 0))) 48 fun c => { c with vq := [{ ins := .vld paged 3 2 0, slot := 0, xa := 0x400000, rm := 0, ftz := false, run := 1, reps := 1 }] })
    (fun t => (getCtx t 48 0).trapCause == 0x06 && (getCtx t 48 0).trapVal == 0x400000 && (getCore t 48).vq.isEmpty) = true := by decide +kernel

theorem witness_unpowered : !powered State.reset 0 ∧ stalls .lqtailDoorbell State.reset ∧ stalls .tbinvWrite State.reset ∧ stalls .pcapWrite State.reset ∧
    stalls .registerWrite State.reset ∧ stalls .patrolScrubVisit State.reset := by decide +kernel

theorem witness_fused_corners : allOf [
    fmaVal .rne (.inf false) (.num true 0 0) (.num false 1 0) == (.nan false, true), fmaVal .rne (.inf false) (.num true 1 0) (.inf true) == (.inf true, false),
    fmaVal .rne (.inf false) (.num false 1 0) (.inf true) == (.nan false, true), fmaVal .rne (.num false 1 0) (.num false 1 0) (.nan true) == (.nan false, true)] = true := by
  decide +kernel

/-! ### Ports, decoding and the step (R30, R77, R131) -/

/-- An M-core whose PORTEN is 1, with a word in inbound queue 0, if any. -/
def ported (l : List Word) : State := modCore (base 2 [(3, 5)]) 2 fun c => { c with porten := 1, portmap := 1, port0 := l }

theorem test_ports : allOf [
    runs (.add wide 1 24 3) (ported [7, 8]) (fun t => xreg t 1 == 12 && (getCore t 2).port0 == [8]), stalls (.add wide 1 24 3) (ported []),
    portMode (ported []) 2 0, (portQueue (getCore (coreClockEnd (modCore (ported [7]) 2 fun c => { c with deposit0 := [(1, 9)] }) 2) 2) 0) == [7, 9]] = true := by decide +kernel

/-- The state after one step. -/
def stepped (s : State) (p : State → Bool) : Bool :=
  match step s with
  | .next t => p t
  | _ => false

theorem test_step : allOf [
    stepped (State.reset.withFetchWord 16 0x8002) (fun t => (me t).pc == 2 && (me t).instret == 1),
    stepped (State.reset.withFetchWord 32 0xFC020A98) (fun t => (me t).pc == 4 && (me t).instret == 1),
    stepped (State.reset.withFetchWord 16 0x0000) (fun t => (me t).trapCause == 0x01 && (me t).trapPc == 0),
    (match step { State.reset with sched := [⟨0, .core 60⟩] } with | .fault f => f == .noSuchCore 60 | _ => false)] = true := by decide +kernel

theorem test_table_words : allOf [
    decodeTableWord 16 0x0A98 == some (.add plain 2 4 6), decodeTableWord 32 0xFC020A98 == some (.mul paged 2 4 6), decodeTableWord 16 0 == none] = true := by decide +kernel

/-- The invariant of the canonical memories holds at reset. -/
theorem test_reset_is_canonical : State.reset.wfMem = true := by decide +kernel

/-- A store keeps it. -/
theorem test_store_keeps_canonical : runs (.st plain .d 3 2 1) stored State.wfMem = true := by decide +kernel

end Sys2Proof.Tests
end

/-!
PROOFS. Every step keeps both memories in the canonical form (O60). One predicate, `State.wfMem`, and one lemma for each function of the model that
gives a state: `f_wfMem` says that `f` keeps the predicate. A function that gives a state with something else has it for the state in its result;
`exec` has it for the outcome (`Kept`). The memories change only in `writeByte` and `hostWrite`, in the few that drop bytes by a filter (a frame zeroed,
power, bring-up, the scrub of a cluster, a slot of a ring) and in the copies of a saved cluster; every other lemma only follows the function's branches.
-/
namespace Sys2Proof.Machine

variable {s t : State}

/-! ### States of one memory -/

/-- A state is in the canonical form whose memories are, whatever else it holds. -/
theorem wfMem_mk {cores clusters dies mods mem full poison latent soft memKey bars groups ue ueFound cells rareCells upsets net nextId
    surplus records saves fabSet host launches now draws oracle sched turnKey cur argA argB argV} (hm : Memory.wf mem) (hh : Memory.wf host) :
    State.wfMem ⟨cores, clusters, dies, mods, mem, full, poison, latent, soft, memKey, bars, groups, ue, ueFound, cells, rareCells, upsets, net, nextId,
      surplus, records, saves, fabSet, host, launches, now, draws, oracle, sched, turnKey, cur, argA, argB, argV⟩ :=
  Bool.and_eq_true_iff.2 ⟨hm, hh⟩

/-- A state that takes both memories from another. -/
theorem wfMem_with {cores clusters dies mods full poison latent soft memKey bars groups ue ueFound cells rareCells upsets net nextId
    surplus records saves fabSet launches now draws oracle sched turnKey cur argA argB argV} (h : s.wfMem) :
    State.wfMem ⟨cores, clusters, dies, mods, s.mem, full, poison, latent, soft, memKey, bars, groups, ue, ueFound, cells, rareCells, upsets, net, nextId,
      surplus, records, saves, fabSet, s.host, launches, now, draws, oracle, sched, turnKey, cur, argA, argB, argV⟩ :=
  h

theorem wf_mem (h : s.wfMem) : Memory.wf s.mem := (Bool.and_eq_true_iff.1 h).1
theorem wf_host (h : s.wfMem) : Memory.wf s.host := (Bool.and_eq_true_iff.1 h).2

/-- What holds of both branches holds of the choice. -/
theorem wfMem_ite {α : Type} {P : α → Bool} {p : Prop} [Decidable p] {a b : α} (ha : P a) (hb : P b) : P (if p then a else b) := by
  split <;> assumption

theorem wfMem_elim {α β : Type} {P : β → Bool} {o : Option α} {b : β} {f : α → β} (hb : P b) (hf : ∀ a, P (f a)) :
    P (o.elim b f) := by
  cases o
  · exact hb
  · exact hf _

theorem all_some {α : Type} {P : α → Bool} {a : α} (h : P a) : (some a).all P := h

theorem all_map {α β : Type} {P : α → Bool} {Q : β → Bool} {o : Option α} {f : α → β} (h : o.all P)
    (hf : ∀ a, P a → Q (f a)) : (o.map f).all Q := by
  cases o with
  | none => rfl
  | some a => exact hf a h

theorem all_bind {α β : Type} {P : α → Bool} {Q : β → Bool} {o : Option α} {f : α → Option β} (h : o.all P)
    (hf : ∀ a, P a → (f a).all Q) : (o.bind f).all Q := by
  cases o with
  | none => rfl
  | some a => exact hf a h

theorem of_eq {α : Type} (P : α → Bool) {a b : α} (e : a = b) (h : P a) : P b := e ▸ h

theorem of_fst {α : Type} {r : State × α} {b} (e : r = (t, b)) (h : r.1.wfMem) : t.wfMem := of_eq (fun r => r.1.wfMem) e h

theorem of_snd {α : Type} {r : α × State} {b} (e : r = (b, t)) (h : r.2.wfMem) : t.wfMem := of_eq (fun r => r.2.wfMem) e h

theorem of_some {r : Option State} (e : r = some t) (h : r.all State.wfMem) : t.wfMem := of_eq (Option.all State.wfMem) e h

theorem of_some_snd {α : Type} {r : Option (α × State)} {b} (e : r = some (b, t)) (h : r.all (·.2.wfMem)) : t.wfMem :=
  of_eq (Option.all fun p : α × State => p.2.wfMem) e h

theorem foldl_wfMem {σ α : Type} {P : σ → Bool} {f : σ → α → σ} {l : List α} {b : σ} (h : P b) (hf : ∀ x a, P x → P (f x a)) :
    P (l.foldl f b) :=
  foldl_keeps (fun x => P x) f hf l b h

/-- The state an effect leaves is in the canonical form. -/
def Eff.wfMem : Eff → Bool
  | .done s => s.wfMem
  | .trap _ _ | .stall => true

def Xl.wfMem : Xl → Bool
  | .at s _ _ _ | .wait s _ => s.wfMem
  | .trap _ _ => true

def PageRes.wfMem : PageRes → Bool
  | .at s _ | .wait s _ => s.wfMem
  | .trap _ _ => true

def FeRes.wfMem : FeRes → Bool
  | .reply s _ _ | .trap s _ => s.wfMem
  | .denied | .wait => true

def Places.wfMem : Places → Bool
  | .at s _ | .wait s _ => s.wfMem
  | .trap _ _ => true

def SRes.wfMem : SRes → Bool
  | .ok s _ | .wait s _ | .again s | .joined s => s.wfMem
  | .trap _ _ => true

def Succs.wfMem : Succs → Bool
  | .list s _ _ => s.wfMem
  | .trap _ _ _ | .wait _ _ => true

def Cancel.wfMem : Cancel → Bool
  | .done s _ => s.wfMem
  | .trap _ _ _ | .wait _ _ => true

def VCheck.wfMem : VCheck → Bool
  | .ok s _ | .wait s _ => s.wfMem
  | .trap _ _ => true

def Eng.wfMem : Eng → Bool
  | .ok s _ _ _ _ | .fault s _ | .wait s => s.wfMem

def Elt.wfMem : Elt → Bool
  | .ok s _ _ | .fault s _ | .wait s => s.wfMem

/-- A state that the outcome goes on to is in the canonical form. -/
def Kept (r : Host.Outcome State Fault Refusal) : Prop := ∀ t, r = .next t → t.wfMem

theorem next_kept (h : s.wfMem) : Kept (.next s) := by
  rintro _ ⟨⟩
  exact h

/-! ### Writes of the machine's memory and the host's -/

theorem putCore_wfMem {g c} (h : s.wfMem) : (putCore s g c).wfMem := wfMem_with h

theorem modCore_wfMem {g f} (h : s.wfMem) : (modCore s g f).wfMem := putCore_wfMem h

theorem modCluster_wfMem {q f} (h : s.wfMem) : (modCluster s q f).wfMem := wfMem_with h

theorem modDie_wfMem {d f} (h : s.wfMem) : (modDie s d f).wfMem := wfMem_with h

theorem modMod_wfMem {m f} (h : s.wfMem) : (modMod s m f).wfMem := wfMem_with h

theorem putCtx_wfMem {g k x} (h : s.wfMem) : (putCtx s g k x).wfMem := modCore_wfMem h

theorem modCtx_wfMem {g k f} (h : s.wfMem) : (modCtx s g k f).wfMem := putCtx_wfMem h

theorem draw_wfMem (h : s.wfMem) : (draw s).2.wfMem := by
  unfold draw
  split
  · exact wfMem_with h
  · exact wfMem_with h

theorem writeByte_wfMem {key ga b} (h : s.wfMem) : (writeByte s key ga b).wfMem := by
  rw [writeByte_eq]
  exact wfMem_mk (writeByte_wf s key ga b (wf_mem h)) (wf_host h)

theorem setBitAt_wfMem {base v ga b} (h : s.wfMem) : (setBitAt s base v ga b).wfMem := writeByte_wfMem h

theorem setFull_wfMem {ga b} (h : s.wfMem) : (setFull s ga b).wfMem := by
  unfold setFull
  split
  · exact setBitAt_wfMem h
  · exact wfMem_with h

theorem setPoison_wfMem {ga b} (h : s.wfMem) : (setPoison s ga b).wfMem := by
  unfold setPoison
  split
  · exact setBitAt_wfMem h
  · exact wfMem_with h

theorem overwritten_wfMem {dw} (h : s.wfMem) : (overwritten s dw).wfMem := wfMem_with (setPoison_wfMem h)

theorem writeCells_wfMem {key cells} (h : s.wfMem) : (writeCells s key cells).wfMem :=
  foldl_wfMem (foldl_wfMem h fun _ _ h1 => writeByte_wfMem h1) fun _ _ h1 => overwritten_wfMem h1

theorem writeBytes_wfMem {key ga bs} (h : s.wfMem) : (writeBytes s key ga bs).wfMem :=
  foldl_wfMem (foldl_wfMem h fun _ _ h1 => writeByte_wfMem h1) fun _ _ h1 => overwritten_wfMem h1

theorem writeNat_wfMem {ga n v} (h : s.wfMem) : (writeNat s ga n v).wfMem := writeBytes_wfMem h

theorem hostWrite_wfMem {a bs} (h : s.wfMem) : (hostWrite s a bs).wfMem := wfMem_mk (wf_mem h) (hostWrite_wf s a bs (wf_host h))

theorem postEvent_wfMem {m r type data0 data1} (h : s.wfMem) : (postEvent s m r type data0 data1).wfMem := by
  unfold postEvent
  extract_lets +onlyGivenNames _ _ _ s1 _
  have h1 : s1.wfMem := modMod_wfMem h
  exact wfMem_ite (modMod_wfMem (hostWrite_wfMem h1)) (modMod_wfMem h1)

theorem countUe_wfMem {d} (h : s.wfMem) : (countUe s d).wfMem := modDie_wfMem h

theorem countCe_wfMem {d} (h : s.wfMem) : (countCe s d).wfMem := modDie_wfMem h

theorem correct_wfMem {dw} (h : s.wfMem) : (correct s dw).wfMem := wfMem_ite (countCe_wfMem (wfMem_with h)) h

theorem findError_wfMem {dw by_} (h : s.wfMem) : (findError s dw by_).wfMem :=
  wfMem_ite (postEvent_wfMem (countUe_wfMem (setPoison_wfMem (wfMem_with h)))) h

theorem findErrors_wfMem {ga n} (h : s.wfMem) : (findErrors s ga n).wfMem :=
  foldl_wfMem h fun _ _ h1 => findError_wfMem (correct_wfMem h1)

theorem findWhere_wfMem {p} (h : s.wfMem) : (findWhere s p).wfMem :=
  foldl_wfMem h fun _ _ h1 => findError_wfMem (correct_wfMem h1)

theorem touchFrame_wfMem {ga} (h : s.wfMem) : (touchFrame s ga).wfMem := by
  unfold touchFrame
  split
  · split
    · exact modDie_wfMem h
    · exact h
  · exact h

/-! ### Registers, traps, messages, combining, exchanges and the issue of an instruction -/

theorem pushPort_wfMem {g p w} (h : s.wfMem) : (pushPort s g p w).wfMem := foldl_wfMem h fun _ _ h1 => modCore_wfMem h1

theorem popPort_wfMem {g p} (h : s.wfMem) : (popPort s g p).wfMem := modCore_wfMem h

theorem rewritten_wfMem {m loc} (h : s.wfMem) : (rewritten s m loc).wfMem := wfMem_with h

theorem queueShift_wfMem {kind g n} (h : s.wfMem) : (queueShift s kind g n).wfMem := wfMem_with h

theorem setFrame_wfMem {d fid e} (h : s.wfMem) : (setFrame s d fid e).wfMem := modDie_wfMem h

theorem frPut_wfMem {d fid f v} (h : s.wfMem) : (frPut s d fid f v).wfMem := setFrame_wfMem h

theorem quarantine_wfMem {d fid} (h : s.wfMem) : (quarantine s d fid).wfMem := by
  unfold quarantine
  extract_lets s1 s2 s3
  have h1 : s1.wfMem := frPut_wfMem (frPut_wfMem (frPut_wfMem h))
  have h2 : s2.wfMem := countUe_wfMem (modDie_wfMem h1)
  have h3 : s3.wfMem := wfMem_ite h2 (rewritten_wfMem h2)
  exact postEvent_wfMem h3

theorem mendFrame_wfMem {d fid} (h : s.wfMem) : (mendFrame s d fid).wfMem :=
  wfMem_ite h (wfMem_ite (quarantine_wfMem h) (wfMem_ite h (rewritten_wfMem h)))

theorem reportError_wfMem {m g code val} (h : s.wfMem) : (reportError s m g code val).wfMem :=
  wfMem_ite (wfMem_ite (mendFrame_wfMem h) (postEvent_wfMem (countUe_wfMem (wfMem_ite (rewritten_wfMem h) (wfMem_with h))))) h

theorem setX_wfMem {g k r v} (h : s.wfMem) : (setX s g k r v).wfMem := modCtx_wfMem (rewritten_wfMem h)

theorem writeX_wfMem {g k r v} (h : s.wfMem) : (writeX s g k r v).wfMem := wfMem_ite (pushPort_wfMem h) (setX_wfMem h)

theorem writeXs_wfMem {g k ws} (h : s.wfMem) : (writeXs s g k ws).wfMem := foldl_wfMem h fun _ _ h1 => writeX_wfMem h1

theorem settle_wfMem {g} (h : s.wfMem) : (settle s g).wfMem := by
  unfold settle
  extract_lets +onlyGivenNames _
  refine wfMem_ite ?_ h
  split
  · exact modCore_wfMem h
  · exact h

theorem switchOut_wfMem {g k m} (h : s.wfMem) : (switchOut s g k m).wfMem :=
  wfMem_ite (settle_wfMem (modCtx_wfMem h)) (modCtx_wfMem h)

theorem wake_wfMem {g k} (h : s.wfMem) : (wake s g k).wfMem := modCtx_wfMem h

theorem wakeIf_wfMem {g p} (h : s.wfMem) : (wakeIf s g p).wfMem := foldl_wfMem h fun _ _ h1 => wfMem_ite (wake_wfMem h1) h1

theorem wakeAll_wfMem {p} (h : s.wfMem) : (wakeAll s p).wfMem := foldl_wfMem h fun _ _ h1 => wakeIf_wfMem h1

theorem sendFrom_wfMem {src slots cls route home dst exch body key acq} (h : s.wfMem) :
    (sendFrom s src slots cls route home dst exch body key acq).wfMem :=
  wfMem_with h

theorem multicastFrom_wfMem {m home branches exch body} (h : s.wfMem) : (multicastFrom s m home branches exch body).wfMem :=
  wfMem_with h

theorem dropMsg_wfMem {k} (h : s.wfMem) : (dropMsg s k).wfMem := wfMem_with h

theorem setMsg_wfMem {m} (h : s.wfMem) : (setMsg s m).wfMem := wfMem_with h

theorem sendPart_wfMem {g e cells} (h : s.wfMem) : (sendPart s g e cells).wfMem := sendFrom_wfMem h

theorem flushOldest_wfMem {g} (h : s.wfMem) : (flushOldest s g).wfMem := by
  unfold flushOldest
  split
  · exact h
  · exact foldl_wfMem (modCore_wfMem h) fun _ _ h1 => sendPart_wfMem h1

theorem flushN_wfMem {g n} (h : s.wfMem) : (flushN s g n).wfMem := by
  induction n generalizing s with
  | zero => exact h
  | succ n ih => exact ih (flushOldest_wfMem h)

theorem flushWhile_wfMem {g p} (h : s.wfMem) : (flushWhile s g p).wfMem := flushN_wfMem h

theorem flushScope_wfMem {g scope} (h : s.wfMem) : (flushScope s g scope).wfMem := flushWhile_wfMem h

theorem flushAll_wfMem {g} (h : s.wfMem) : (flushAll s g).wfMem := flushN_wfMem h

theorem releaseThen_wfMem {g k scope next} (h : s.wfMem) (hnext : ∀ t, t.wfMem → (next t).wfMem) :
    (releaseThen s g k scope next).wfMem :=
  wfMem_ite (flushScope_wfMem h) (wfMem_ite rfl (hnext _ h))

/-- An effect that some forms put behind a release. -/
theorem releaseIf_wfMem {p : Prop} [Decidable p] {g k scope next} (h : s.wfMem) (hnext : ∀ t, t.wfMem → (next t).wfMem) :
    ((if p then releaseThen s g k scope else fun f => f s) next).wfMem := by
  split
  · exact releaseThen_wfMem h hnext
  · exact hnext _ h

theorem modGroup_wfMem {key f} (h : s.wfMem) : (modGroup s key f).wfMem := wfMem_with h

theorem sendExchange_wfMem {g exch cls} (h : s.wfMem) : (sendExchange s g exch cls).wfMem :=
  foldl_wfMem (modCore_wfMem h) fun _ _ h1 => sendFrom_wfMem h1

theorem beginIfFull_wfMem {key} (h : s.wfMem) : (beginIfFull s key).wfMem := by
  unfold beginIfFull
  extract_lets +onlyGivenNames _
  refine wfMem_ite ?_ h
  extract_lets +onlyGivenNames s1
  have h1 : s1.wfMem := modGroup_wfMem h
  exact wfMem_ite (foldl_wfMem h1 fun _ _ h2 => sendExchange_wfMem h2) (multicastFrom_wfMem h1)

theorem arriveExchange_wfMem {g level} (h : s.wfMem) : (arriveExchange s g level).wfMem := by
  unfold arriveExchange
  split
  · extract_lets s1
    have h1 : s1.wfMem := modCore_wfMem h
    exact wfMem_ite (beginIfFull_wfMem (modGroup_wfMem h1)) (sendFrom_wfMem h1)
  · exact h

theorem leaveGroups_wfMem {s0 : State} {g} (h : s0.wfMem) : (leaveGroups s0 g).wfMem := by
  unfold leaveGroups
  extract_lets s
  have hs : s.wfMem := wfMem_with h
  refine foldl_wfMem hs fun s level h1 => ?_
  split
  · exact beginIfFull_wfMem (modGroup_wfMem h1)
  · exact h1

theorem joinGroups_wfMem {g} (h : s.wfMem) : (joinGroups s g).wfMem := by
  unfold joinGroups
  refine foldl_wfMem h fun s level h1 => ?_
  split
  · exact wfMem_ite (modGroup_wfMem h1) h1
  · exact h1

theorem resultAway_wfMem {o ok queue v} (h : s.wfMem) : (resultAway s o ok queue v).wfMem := wfMem_with h

theorem discardMigrant_wfMem {g k} (h : s.wfMem) : (discardMigrant s g k).wfMem := by
  unfold discardMigrant
  split
  · extract_lets s1
    have h1 : s1.wfMem := postEvent_wfMem h
    exact wfMem_ite (wakeIf_wfMem (modCtx_wfMem h1)) (resultAway_wfMem h1)
  · exact h

theorem stopCore_wfMem {g} (h : s.wfMem) : (stopCore s g).wfMem := by
  unfold stopCore
  extract_lets +onlyGivenNames s1 s2 s3 s4 s5
  have h1 : s1.wfMem := foldl_wfMem h fun _ _ h1 => wfMem_ite h1 (discardMigrant_wfMem h1)
  have h2 : s2.wfMem := modCore_wfMem h1
  have h3 : s3.wfMem := modCluster_wfMem h2
  have h4 : s4.wfMem := wfMem_with h3
  have h5 : s5.wfMem := sendExchange_wfMem h4
  exact wfMem_ite h5 (leaveGroups_wfMem h5)

theorem tcbPut_wfMem {q idx f v} (h : s.wfMem) : (tcbPut s q idx f v).wfMem := writeNat_wfMem h

theorem haltCore_wfMem {g k code val} (h : s.wfMem) : (haltCore s g k code val).wfMem :=
  postEvent_wfMem (stopCore_wfMem (wfMem_ite (wfMem_with h) h))

theorem enterTrap_wfMem {g k code val pre} (h : s.wfMem) : (enterTrap s g k code val pre).wfMem := by
  unfold enterTrap
  extract_lets _ s1
  have h1 : s1.wfMem := by
    unfold s1
    split
    · exact wfMem_ite h (tcbPut_wfMem (tcbPut_wfMem (tcbPut_wfMem h)))
    · exact h
  exact wfMem_ite (haltCore_wfMem h1) (modCtx_wfMem h1)

theorem takeTrap_wfMem {g k code val} (h : s.wfMem) : (takeTrap s g k code val).wfMem := by
  unfold takeTrap
  refine wfMem_ite h ?_
  split
  · exact enterTrap_wfMem (modCore_wfMem h)
  · exact enterTrap_wfMem h

theorem raiseTrap_wfMem {m g k code val} (h : s.wfMem) : (raiseTrap s m g k code val).wfMem :=
  takeTrap_wfMem (wfMem_ite h (reportError_wfMem h))

theorem returnTrap_wfMem {g k} (h : s.wfMem) : (returnTrap s g k).wfMem := modCtx_wfMem h

theorem issue_wfMem {i body} (h : s.wfMem) (hbody : ∀ t g k, t.wfMem → (body t g k).wfMem) : (issue i s body).wfMem := by
  unfold issue
  extract_lets _ _
  refine wfMem_ite h ?_
  split
  · exact wfMem_ite h (raiseTrap_wfMem (modCore_wfMem h))
  · split
    · exact takeTrap_wfMem h
    · split
      · exact takeTrap_wfMem h
      · refine wfMem_ite h (wfMem_ite h ?_)
        split
        · next t e =>
            exact of_eq Eff.wfMem e (wfMem_elim (hbody _ _ _ h) fun _ => rfl)
        · exact raiseTrap_wfMem h
        · exact h

theorem issue_kept {i body} (h : s.wfMem) (hbody : ∀ t g k, t.wfMem → (body t g k).wfMem) : Kept (.next (issue i s body)) :=
  next_kept (issue_wfMem h hbody)

theorem retireTo_wfMem {g k i ws pc} (h : s.wfMem) : (retireTo s g k i ws pc).wfMem :=
  modCtx_wfMem (writeXs_wfMem (foldl_wfMem h fun _ _ h1 => popPort_wfMem h1))

theorem retire_wfMem {g k i ws} (h : s.wfMem) : (retire s g k i ws).wfMem := retireTo_wfMem h

theorem completeWait_wfMem {g k pops ws next} (h : s.wfMem) : (completeWait s g k pops ws next).wfMem :=
  wake_wfMem (modCtx_wfMem (writeXs_wfMem (foldl_wfMem h fun _ _ h1 => popPort_wfMem h1)))

/-! ### Ports, rings and transfer channels -/

theorem whilePowered_wfMem {t : State} {m} (h : s.wfMem) (h1 : t.wfMem) : (whilePowered s m t).wfMem := wfMem_ite h1 h

theorem setUp_wfMem {m p up} (h : s.wfMem) : (setUp s m p up).wfMem := wfMem_ite h (postEvent_wfMem (modMod_wfMem h))

theorem mirrorSlot_wfMem {d r j f} (h : s.wfMem) : (mirrorSlot s d r j f).wfMem := modDie_wfMem h

theorem wakePeal_wfMem {d e} (h : s.wfMem) : (wakePeal s d e).wfMem := wakeAll_wfMem h

theorem endBlock_wfMem {m r j eobw} (h : s.wfMem) : (endBlock s m r j eobw).wfMem := by
  unfold endBlock
  extract_lets +onlyGivenNames _ s1
  have h1 : s1.wfMem := modMod_wfMem h
  refine foldl_wfMem h1 fun s d h2 => ?_
  extract_lets s2
  have hslot : s2.wfMem := mirrorSlot_wfMem h2
  split
  · exact wakePeal_wfMem hslot
  · exact hslot

theorem faultRing1_wfMem {m r} (h : s.wfMem) : (faultRing1 s m r).wfMem :=
  postEvent_wfMem (foldl_wfMem (foldl_wfMem (wfMem_with (modMod_wfMem h)) fun _ _ h1 => endBlock_wfMem h1) fun _ _ h1 => wakePeal_wfMem h1)

theorem faultRings_wfMem {m p} (h : s.wfMem) : (faultRings s m p).wfMem :=
  foldl_wfMem h fun _ _ h1 => foldl_wfMem h1 fun _ _ h2 => wfMem_ite (faultRing1_wfMem h2) h2

theorem portUpChange_wfMem {m p lanes} (h : s.wfMem) : (portUpChange s m p lanes).wfMem :=
  wfMem_ite h (wfMem_ite (setUp_wfMem h) (faultRings_wfMem (setUp_wfMem h)))

theorem failWaiting_wfMem {m code val dest} (h : s.wfMem) : (failWaiting s m code val dest).wfMem := setMsg_wfMem h

theorem migrationFails_wfMem {o ok va} (h : s.wfMem) : (migrationFails s o ok va).wfMem :=
  wfMem_ite (takeTrap_wfMem (wake_wfMem h)) h

theorem modChan_wfMem {g ch f} (h : s.wfMem) : (modChan s g ch f).wfMem := modCore_wfMem h

theorem unbind_wfMem {g ch x} (h : s.wfMem) : (unbind s g ch x).wfMem := modCore_wfMem h

theorem chanFault_wfMem {g ch code bytes} (h : s.wfMem) : (chanFault s g ch code bytes).wfMem := by
  unfold chanFault
  split
  · exact modChan_wfMem (wfMem_ite (unbind_wfMem h) h)
  · exact h

theorem setXHead_wfMem {g ch f} (h : s.wfMem) : (setXHead s g ch f).wfMem := modChan_wfMem h

theorem failXfer_wfMem {g ch code bytes} (h : s.wfMem) : (failXfer s g ch code bytes).wfMem :=
  wfMem_ite (setXHead_wfMem h) (chanFault_wfMem h)

theorem engineLost_wfMem {m} (h : s.wfMem) : (engineLost s m).wfMem := failXfer_wfMem (wfMem_with h)

/-! ### Frames, tables and the Spillway -/

theorem setScb_wfMem {d i b} (h : s.wfMem) : (setScb s d i b).wfMem := modDie_wfMem h

theorem scbPut_wfMem {d i f v} (h : s.wfMem) : (scbPut s d i f v).wfMem := setScb_wfMem h

theorem pick_wfMem {n p} (h : s.wfMem) : (pick s n p).all (·.2.wfMem) := by
  unfold pick
  exact all_map (P := fun _ => true) (by simp) fun _ _ => draw_wfMem h

theorem takeFid_wfMem {d kind place cnt busy} (h : s.wfMem) : (takeFid s d kind place cnt busy).all (·.2.wfMem) :=
  all_map (pick_wfMem h) fun _ h1 => setFrame_wfMem h1

theorem takeData_wfMem {d cnt busy} (h : s.wfMem) : (takeData s d cnt busy).all (·.2.wfMem) :=
  all_bind (pick_wfMem h) fun _ h1 => takeFid_wfMem h1

theorem setNodeEntry_wfMem {d fid i e} (h : s.wfMem) : (setNodeEntry s d fid i e).wfMem := writeNat_wfMem h

theorem takeNode_wfMem {d} (h : s.wfMem) : (takeNode s d).all (·.2.wfMem) := by
  unfold takeNode
  extract_lets _ slot
  have hslot : slot.all (·.2.wfMem) := by
    unfold slot
    split
    · exact all_map (pick_wfMem h) fun _ h1 => h1
    · exact all_map (P := fun _ => true) (by simp) fun _ _ => draw_wfMem h
  exact all_bind hslot fun _ h1 => all_map (takeFid_wfMem h1) fun _ h2 => writeBytes_wfMem h2

theorem changeCount_wfMem {d fid f} (h : s.wfMem) : (changeCount s d fid f).wfMem :=
  wfMem_ite h (wfMem_ite (quarantine_wfMem h) (frPut_wfMem h))

theorem countUp_wfMem {d fid} (h : s.wfMem) : (countUp s d fid).wfMem := wfMem_ite (modDie_wfMem h) (changeCount_wfMem h)

theorem payOwed_wfMem {d fid} (h : s.wfMem) : (payOwed s d fid).wfMem := by
  unfold payOwed
  exact changeCount_wfMem (modDie_wfMem h)

theorem freeFrame_wfMem {d fid} (h : s.wfMem) : (freeFrame s d fid).wfMem := by
  unfold freeFrame
  extract_lets _ _ s1
  have h1 : s1.wfMem := setFrame_wfMem h
  exact wfMem_ite (wfMem_ite h1 (modDie_wfMem h1)) (wfMem_ite (modDie_wfMem h1) (modDie_wfMem h1))

theorem countDown_wfMem {d fid} (h : s.wfMem) : (countDown s d fid).wfMem := changeCount_wfMem h

theorem entryError_wfMem {d fid i} (h : s.wfMem) : (entryError s d fid i).wfMem := by
  unfold entryError
  extract_lets _ s1 s2
  have h1 : s1.wfMem := findErrors_wfMem h
  have h2 : s2.wfMem := wfMem_ite (countUe_wfMem (wfMem_with h1)) h1
  exact postEvent_wfMem h2

theorem walkFrame_wfMem {d fid} (h : s.wfMem) : (walkFrame s d fid).wfMem := by
  unfold walkFrame
  extract_lets +onlyGivenNames s1
  have h1 : s1.wfMem := countDown_wfMem h
  refine wfMem_ite h1 (wfMem_ite (freeFrame_wfMem ?_) (freeFrame_wfMem h1))
  exact foldl_wfMem h1 fun _ _ h2 => wfMem_ite h2 (wfMem_ite (entryError_wfMem h2) (modDie_wfMem h2))

theorem walkStep_wfMem {d} (h : s.wfMem) : (walkStep s d).wfMem := by
  unfold walkStep
  extract_lets _
  split
  · exact walkFrame_wfMem (modDie_wfMem h)
  · exact h

theorem walkAll_wfMem {d n} (h : s.wfMem) : (walkAll s d n).wfMem := by
  induction n generalizing s with
  | zero => exact h
  | succ n ih => exact wfMem_ite h (ih (walkStep_wfMem h))

theorem walkOut_wfMem {d} (h : s.wfMem) : (walkOut s d).wfMem := walkAll_wfMem h

theorem dropRef_wfMem {d fid} (h : s.wfMem) : (dropRef s d fid).wfMem := modDie_wfMem h

theorem mendPath_wfMem {d i p} (h : s.wfMem) : (mendPath s d i p).wfMem := by
  unfold mendPath
  extract_lets _ s1 s2
  have h1 : s1.wfMem := foldl_wfMem h fun _ _ h1 => mendFrame_wfMem h1
  have h2 : s2.wfMem := findErrors_wfMem h1
  exact wfMem_elim h2 fun _ => findErrors_wfMem h2

theorem copyNode_wfMem {d i fid} (h : s.wfMem) : (copyNode s d i fid).all (·.2.wfMem) := by
  unfold copyNode
  refine all_map (takeNode_wfMem h) fun r hr => ?_
  extract_lets s1 s2 s3
  have h1 : s1.wfMem := writeBytes_wfMem hr
  have h2 : s2.wfMem :=
    foldl_wfMem h1 fun _ _ ht => wfMem_ite ht (wfMem_ite (wfMem_with (entryError_wfMem ht)) (countUp_wfMem ht))
  have h3 : s3.wfMem := countDown_wfMem h2
  exact scbPut_wfMem h3

theorem repoint_wfMem {d node i fid} (h : s.wfMem) : (repoint s d node i fid).wfMem := setNodeEntry_wfMem h

theorem ownRoot_wfMem {d i w} (h : s.wfMem) : (ownRoot s d i w).all (·.2.wfMem) := by
  unfold ownRoot
  split
  · exact all_map (copyNode_wfMem h) fun _ h1 => scbPut_wfMem h1
  · exact h

theorem ownLeaf_wfMem {i p w} (h : s.wfMem) : (ownLeaf s i p w).all (·.2.wfMem) := by
  unfold ownLeaf
  split
  · split
    · exact all_map (copyNode_wfMem h) fun _ h1 => repoint_wfMem h1
    · exact h
  · exact h

theorem ownNodes_wfMem {d i p w} (h : s.wfMem) : (ownNodes s d i p w).all (·.2.wfMem) :=
  all_bind (ownRoot_wfMem h) fun _ h1 => ownLeaf_wfMem h1

theorem beginCopy_wfMem {d i p src} (h : s.wfMem) : (beginCopy s d i p src).all State.wfMem :=
  all_map (takeData_wfMem h) fun _ h1 => modDie_wfMem (frPut_wfMem h1)

theorem beginFetch_wfMem {d i fid} (h : s.wfMem) : (beginFetch s d i fid).all State.wfMem :=
  all_map (pick_wfMem h) fun _ h1 => scbPut_wfMem (modDie_wfMem (frPut_wfMem h1))

theorem fetchFor_wfMem {d i fid} (h : s.wfMem) : (fetchFor s d i fid).wfMem := by
  unfold fetchFor
  split
  · rfl
  · exact h
  · split
    · next e => exact of_some e (beginFetch_wfMem h)
    · exact h

theorem privatePage_wfMem {s0 : State} {d i p off} (h : s0.wfMem) : (privatePage s0 d i p off).wfMem := by
  unfold privatePage
  extract_lets s _
  have hs : s.wfMem := mendPath_wfMem h
  split
  · rfl
  · split
    · rfl
    · refine wfMem_ite hs (wfMem_ite (wfMem_ite (fetchFor_wfMem hs) hs) (wfMem_ite rfl ?_))
      split
      · rfl
      · exact hs
      · split
        · next e => exact of_some e (all_bind (ownNodes_wfMem hs) fun _ h1 => beginCopy_wfMem h1)
        · exact hs

theorem appendPage_wfMem {s0 : State} {d i p off} (h : s0.wfMem) : (appendPage s0 d i p off).wfMem := by
  unfold appendPage
  extract_lets +onlyGivenNames s w
  have hs : s.wfMem := mendPath_wfMem h
  split
  · rfl
  · refine wfMem_ite rfl ?_
    split
    · rfl
    · exact hs
    · extract_lets r
      have hr : r.all (·.1.wfMem) := by
        refine all_bind (ownNodes_wfMem hs) fun r hr => ?_
        extract_lets withLeaf
        have hl : withLeaf.all (·.2.wfMem) := by
          unfold withLeaf
          split
          · exact hr
          · exact all_map (takeNode_wfMem hr) fun _ h1 => setNodeEntry_wfMem h1
        exact all_bind hl fun _ h1 => all_map (takeData_wfMem h1) fun _ h2 => scbPut_wfMem (setNodeEntry_wfMem h2)
      clear_value r
      split
      · exact hr
      · exact hs

theorem readPage_wfMem {s0 : State} {d i p off} (h : s0.wfMem) : (readPage s0 d i p off).wfMem := by
  unfold readPage
  extract_lets s _
  have hs : s.wfMem := mendPath_wfMem h
  split
  · rfl
  · split
    · rfl
    · exact wfMem_ite hs (wfMem_ite (fetchFor_wfMem hs) hs)

theorem statePage_wfMem {strm migrant va use fe} (h : s.wfMem) : (statePage s strm migrant va use fe).wfMem := by
  unfold statePage
  extract_lets +onlyGivenNames _ _ _ _ _ _
  refine wfMem_ite rfl (wfMem_ite rfl (wfMem_ite rfl (wfMem_ite rfl (wfMem_ite rfl ?_))))
  extract_lets fix
  have hfix : ∀ r : PageRes, r.wfMem → (fix r).wfMem := by
    intro r hr
    unfold fix
    split
    · rfl
    · exact hr
  refine wfMem_ite (wfMem_ite rfl (appendPage_wfMem h)) ?_
  split
  · exact hfix _ (readPage_wfMem h)
  · exact hfix _ (privatePage_wfMem h)

theorem wakeFrame_wfMem {d fid} (h : s.wfMem) : (wakeFrame s d fid).wfMem := wakeAll_wfMem h

theorem endWork_wfMem {d fid} (h : s.wfMem) : (endWork s d fid).wfMem :=
  wakeFrame_wfMem (walkOut_wfMem (payOwed_wfMem (frPut_wfMem h)))

theorem moveFrame_wfMem {src dst} (h : s.wfMem) : (moveFrame s src dst).wfMem :=
  foldl_wfMem (writeBytes_wfMem (findErrors_wfMem h)) fun _ _ h1 => wfMem_ite (setPoison_wfMem h1) h1

theorem frameCopyComplete_wfMem {d src} (h : s.wfMem) : (frameCopyComplete s d src).wfMem := by
  unfold frameCopyComplete
  split
  · extract_lets _ s2 s3 s4 s5 _ _ _ _ s6
    have h2 : s2.wfMem := moveFrame_wfMem h
    have h3 : s3.wfMem := countDown_wfMem (frPut_wfMem (changeCount_wfMem h2))
    have h4 : s4.wfMem := by
      unfold s4
      split
      · exact repoint_wfMem h3
      · exact h3
    have h5 : s5.wfMem := scbPut_wfMem h4
    have h6 : s6.wfMem := modDie_wfMem h5
    exact endWork_wfMem h6
  · exact h

theorem useGrant_wfMem {d g k performed} (h : s.wfMem) : (useGrant s d g k performed).wfMem := modDie_wfMem h

theorem frameZero_wfMem {d} (h : s.wfMem) : (frameZero s d).wfMem := by
  unfold frameZero
  split
  · exact h
  · exact wakeAll_wfMem (modDie_wfMem (wfMem_mk (Memory.wf_filter _ _ (wf_mem h)) (wf_host h)))

theorem spillwayEvict_wfMem {d} (h : s.wfMem) : (spillwayEvict s d).wfMem := by
  unfold spillwayEvict
  extract_lets +onlyGivenNames _ _ _
  refine wfMem_ite (modDie_wfMem h) ?_
  extract_lets +onlyGivenNames _ _
  split
  · exact wfMem_ite (mendFrame_wfMem h) (modDie_wfMem (frPut_wfMem h))
  · exact modDie_wfMem h

theorem evictionComplete_wfMem {s0 : State} {d fid} (h : s0.wfMem) : (evictionComplete s0 d fid).wfMem := by
  unfold evictionComplete
  extract_lets +onlyGivenNames s
  have hs : s.wfMem := mendFrame_wfMem h
  split
  · exact wfMem_ite (foldl_wfMem hs fun _ _ h1 => flushWhile_wfMem h1) <|
      wfMem_ite (endWork_wfMem (modDie_wfMem hs)) <|
      endWork_wfMem (modDie_wfMem (frPut_wfMem (frPut_wfMem (moveFrame_wfMem hs))))
  · exact hs

theorem fetchBackComplete_wfMem {d fid} (h : s.wfMem) : (fetchBackComplete s d fid).wfMem := by
  unfold fetchBackComplete
  split
  · exact endWork_wfMem (modDie_wfMem (frPut_wfMem (frPut_wfMem (moveFrame_wfMem h))))
  · exact h

/-! ### Registers of the machine -/

theorem modLq_wfMem {d q f} (h : s.wfMem) : (modLq s d q f).wfMem := modDie_wfMem h

theorem modRing_wfMem {m r f} (h : s.wfMem) : (modRing s m r f).wfMem := modMod_wfMem h

theorem lqtailDoorbell_wfMem {d q v} (h : s.wfMem) : (lqtailDoorbell s d q v).wfMem :=
  wfMem_ite (postEvent_wfMem (modLq_wfMem (modLq_wfMem h))) (modLq_wfMem h)

theorem lqcfgWrite_wfMem {d q v} (h : s.wfMem) : (lqcfgWrite s d q v).wfMem := modLq_wfMem h

theorem spillwayAreaWrite_wfMem {d count v} (h : s.wfMem) : (spillwayAreaWrite s d count v).wfMem := wfMem_ite h (modDie_wfMem h)

theorem fabcfgWrite_wfMem {m v} (h : s.wfMem) : (fabcfgWrite s m v).wfMem := wfMem_ite h (modMod_wfMem h)

theorem linkstatWrite_wfMem {m v} (h : s.wfMem) : (linkstatWrite s m v).wfMem := by
  unfold linkstatWrite
  extract_lets +onlyGivenNames _ s1
  have h1 : s1.wfMem := modMod_wfMem h
  refine foldl_wfMem h1 fun s p h2 => ?_
  refine wfMem_ite ?_ h2
  extract_lets s2
  have h2x : s2.wfMem := portUpChange_wfMem h2
  split
  · exact portUpChange_wfMem h2x
  · exact h2x

theorem stripeWrite_wfMem {m off v} (h : s.wfMem) : (stripeWrite s m off v).wfMem :=
  wfMem_ite (modMod_wfMem h) (wfMem_ite (wfMem_ite h (modMod_wfMem h)) h)

theorem keyctlWrite_wfMem {m v} (h : s.wfMem) : (keyctlWrite s m v).wfMem := wfMem_ite (modMod_wfMem h) h

theorem tbRemove_wfMem {q v} (h : s.wfMem) : (tbRemove s q v).wfMem := modCluster_wfMem h

theorem restartAll_wfMem {p} (h : s.wfMem) : (restartAll s p).wfMem := wfMem_with h

theorem tbinvWrite_wfMem {q v} (h : s.wfMem) : (tbinvWrite s q v).wfMem := by
  unfold tbinvWrite
  extract_lets +onlyGivenNames _ _
  exact wfMem_ite h (wfMem_ite (restartAll_wfMem (tbRemove_wfMem (modCluster_wfMem h))) (modCluster_wfMem h))

theorem tbinvmWrite_wfMem {m v} (h : s.wfMem) : (tbinvmWrite s m v).wfMem :=
  wfMem_ite h (wfMem_ite (restartAll_wfMem (wfMem_with (modMod_wfMem h))) (modMod_wfMem h))

theorem tbinvComplete_wfMem {q} (h : s.wfMem) : (tbinvComplete s q).wfMem := by
  unfold tbinvComplete
  extract_lets +onlyGivenNames _ s0
  have h0 : s0.wfMem := foldl_wfMem h fun _ _ h1 => wfMem_ite h1 (flushAll_wfMem h1)
  refine wfMem_ite h ?_
  extract_lets s1
  have h1 : s1.wfMem := wfMem_ite h0 (modCluster_wfMem h0)
  exact wfMem_ite h1 (modMod_wfMem h1)

theorem pcapWrite_wfMem {m v} (h : s.wfMem) : (pcapWrite s m v).wfMem := modMod_wfMem h

theorem rdyclRetire_wfMem {q} (h : s.wfMem) : (rdyclRetire s q).wfMem := by
  unfold rdyclRetire
  extract_lets _ _ s1 s2 s3
  have h1 : s1.wfMem := modDie_wfMem h
  have h2 : s2.wfMem := modMod_wfMem h1
  have h3 : s3.wfMem := modCluster_wfMem h2
  exact wfMem_ite (postEvent_wfMem h3) h3

theorem cascRegWrite_wfMem {d o v} (h : s.wfMem) : (cascRegWrite s d o v).wfMem :=
  wfMem_ite (wfMem_ite h (modDie_wfMem h)) (wfMem_ite (wfMem_ite h (modDie_wfMem h)) (wfMem_ite h (modDie_wfMem h)))

theorem lqRegWrite_wfMem {d q o v} (h : s.wfMem) : (lqRegWrite s d q o v).wfMem := by
  unfold lqRegWrite
  extract_lets _ _
  split
  · exact wfMem_ite h (modLq_wfMem h)
  · exact lqcfgWrite_wfMem h
  · exact lqtailDoorbell_wfMem h
  · exact wfMem_ite h (modLq_wfMem h)
  · exact modLq_wfMem h
  · exact h

theorem writeDieReg_wfMem {d o v} (h : s.wfMem) : (writeDieReg s d o v).wfMem :=
  wfMem_ite (cascRegWrite_wfMem h) <|
    wfMem_ite (lqRegWrite_wfMem h) <|
    wfMem_ite (modDie_wfMem h) <|
    wfMem_ite (wfMem_ite h (modDie_wfMem h)) <|
    wfMem_ite (spillwayAreaWrite_wfMem h) <|
    wfMem_ite (spillwayAreaWrite_wfMem h) <|
    wfMem_ite (wfMem_ite h (wfMem_ite (modDie_wfMem h) h)) (wfMem_ite (tbinvWrite_wfMem h) h)

theorem writeModReg_wfMem {m o v} (h : s.wfMem) : (writeModReg s m o v).wfMem :=
  wfMem_ite (foldl_wfMem h fun _ _ h1 => rdyclRetire_wfMem h1) <|
    wfMem_ite (fabcfgWrite_wfMem h) <|
    wfMem_ite (linkstatWrite_wfMem h) <|
    wfMem_ite (wfMem_ite h (modRing_wfMem h)) <|
    wfMem_ite (wfMem_ite h (modMod_wfMem h)) <|
    wfMem_ite (stripeWrite_wfMem h) <|
    wfMem_ite (tbinvmWrite_wfMem h) <|
    wfMem_ite (modMod_wfMem h) <|
    wfMem_ite (modMod_wfMem h) <|
    wfMem_ite (modMod_wfMem h) <|
    wfMem_ite (modMod_wfMem h) <|
    wfMem_ite (wfMem_ite h (modMod_wfMem h)) <|
    wfMem_ite (modMod_wfMem h) <|
    wfMem_ite (modMod_wfMem h) <|
    wfMem_ite (modMod_wfMem h) <|
    wfMem_ite (keyctlWrite_wfMem h) (wfMem_ite (modMod_wfMem h) (wfMem_ite (pcapWrite_wfMem h) h))

theorem writeReg_wfMem {ga v} (h : s.wfMem) : (writeReg s ga v).wfMem := by
  unfold writeReg
  split
  · exact writeDieReg_wfMem h
  · exact writeModReg_wfMem h
  · exact h

theorem writeRegBytes_wfMem {cells} (h : s.wfMem) : (writeRegBytes s cells).wfMem := foldl_wfMem h fun _ _ h1 => writeReg_wfMem h1

/-! ### Floating-point flags -/

theorem raise_wfMem {g nf f} (h : s.wfMem) : (raise s g nf f).wfMem := wfMem_ite h (modCore_wfMem h)

/-! ### Translation -/

theorem walkEntry_wfMem {m va node level} (h : s.wfMem) : (walkEntry s m va node level).1.wfMem := findErrors_wfMem h

/-- `walkFrom` over any way to read an entry, which its equations leave folded. -/
def walkWith (entry : State → Nat → Nat → Nat → Nat → State × WalkRes) (s : State) (m va node : Nat) :
    Nat → State × Except Nat (BitVec 128)
  | 0 =>
    match entry s m va node 0 with
    | (t, .leaf e) => (t, .ok e)
    | (t, .fault c) => (t, .error c)
    | (t, .node _) => (t, .error 0x06)
  | level + 1 =>
    match entry s m va node (level + 1) with
    | (t, .leaf e) => (t, .ok e)
    | (t, .fault c) => (t, .error c)
    | (t, .node next) => walkWith entry t m va next level

/-- The walk reads each entry by `walkEntry`; the reader is a variable of `walkWith` so that the kernel never evaluates it. -/
theorem walkFrom_eq_walkWith (s : State) (m va node level : Nat) :
    walkFrom s m va node level = walkWith walkEntry s m va node level := by
  delta walkFrom walkWith walkFrom._f walkWith._f
  generalize walkEntry = entry
  rfl

theorem walkWith_wfMem {entry : State → Nat → Nat → Nat → Nat → State × WalkRes}
    (he : ∀ t m va node level, t.wfMem → (entry t m va node level).1.wfMem) {m va node level} (h : s.wfMem) :
    (walkWith entry s m va node level).1.wfMem := by
  induction level generalizing s node with
  | zero =>
    rw [walkWith]
    split <;> next e => exact of_fst e (he _ _ _ _ _ h)
  | succ level ih =>
    rw [walkWith]
    split
    · next e => exact of_fst e (he _ _ _ _ _ h)
    · next e => exact of_fst e (he _ _ _ _ _ h)
    · next e => exact ih (of_fst e (he _ _ _ _ _ h))

theorem walkFrom_wfMem {m va node level} (h : s.wfMem) : (walkFrom s m va node level).1.wfMem := by
  rw [walkFrom_eq_walkWith]
  exact walkWith_wfMem (fun _ _ _ _ _ => walkEntry_wfMem) h

theorem walk_wfMem {m ten va} (h : s.wfMem) : (walk s m ten va).1.wfMem := by
  unfold walk
  split
  · exact walkFrom_wfMem h
  · exact h

theorem tlbInsert_wfMem {q e} (h : s.wfMem) : (tlbInsert s q e).wfMem :=
  wfMem_ite (modCluster_wfMem h) (modCluster_wfMem (draw_wfMem h))

theorem judgeLeaf_wfMem {w need va n e} (h : s.wfMem) : (judgeLeaf s w need va n e).wfMem := wfMem_ite rfl h

theorem tlbHit_wfMem {q ten va} (h : s.wfMem) : (tlbHit s q ten va).1.wfMem := by
  unfold tlbHit
  split
  · split
    · exact postEvent_wfMem (countUe_wfMem (modCluster_wfMem h))
    · exact h
  · exact h

theorem translate_wfMem {w need va n} (h : s.wfMem) : (translate s w need va n).wfMem := by
  unfold translate
  extract_lets +onlyGivenNames _ _
  refine wfMem_ite rfl (wfMem_ite (wfMem_ite rfl h) (wfMem_ite h (wfMem_ite rfl (wfMem_ite ?_ (wfMem_ite rfl ?_)))))
  · extract_lets _
    split
    · next e => exact touchFrame_wfMem (of_eq PageRes.wfMem e (statePage_wfMem h))
    · next e => exact of_eq PageRes.wfMem e (statePage_wfMem h)
    · rfl
  · split
    · next e => exact judgeLeaf_wfMem (of_fst e (tlbHit_wfMem h))
    · next e => exact of_fst e (tlbHit_wfMem h)

theorem translateNow_wfMem {w need va n} (h : s.wfMem) : (translateNow s w need va n).1.wfMem := by
  unfold translateNow
  split
  · next e =>
    have h1 := of_eq Xl.wfMem e (translate_wfMem h)
    split
    · next e => exact tlbInsert_wfMem (of_fst e (walk_wfMem h1))
    · next e => exact of_fst e (walk_wfMem h1)
  · exact h

theorem translateNow_snd_wfMem {w need va n} (h : s.wfMem) : (translateNow s w need va n).2.wfMem := by
  unfold translateNow
  split
  · next e =>
    have h1 := of_eq Xl.wfMem e (translate_wfMem h)
    split
    · next e => exact judgeLeaf_wfMem (tlbInsert_wfMem (of_fst e (walk_wfMem h1)))
    · rfl
  · exact translate_wfMem h

/-! ### Task control blocks and ready queues -/

theorem findTcb_wfMem {o q idx n} (h : s.wfMem) : (findTcb s o q idx n).wfMem := findErrors_wfMem h

theorem tcbWrite_wfMem {o q idx f v} (h : s.wfMem) : (tcbWrite s o q idx f v).wfMem := writeNat_wfMem h

theorem putReady_wfMem {area l} (h : s.wfMem) : (putReady s area l).wfMem := writeBytes_wfMem h

theorem setReady_wfMem {o q l} (h : s.wfMem) : (setReady s o q l).wfMem := by
  unfold setReady
  split
  · exact wfMem_with (putReady_wfMem h)
  · exact modCluster_wfMem h

theorem makeReady_wfMem {o q idx} (h : s.wfMem) : (makeReady s o q idx).wfMem := setReady_wfMem (tcbWrite_wfMem h)

theorem tdecAt_wfMem {s0 : State} {o q idx} (h : s0.wfMem) : (tdecAt s0 o q idx).2.wfMem := by
  unfold tdecAt
  extract_lets +onlyGivenNames s _
  have hs : s.wfMem := findTcb_wfMem h
  split
  · exact hs
  · exact wfMem_ite (makeReady_wfMem (tcbWrite_wfMem hs)) (tcbWrite_wfMem hs)

theorem giveTask_wfMem {s0 : State} {g k q t d next pops} (h : s0.wfMem) : (giveTask s0 g k q t d next pops).wfMem :=
  modCtx_wfMem (writeXs_wfMem (tcbWrite_wfMem (setReady_wfMem (findTcb_wfMem (foldl_wfMem h fun _ _ h1 => popPort_wfMem h1)))))

theorem markDirty_wfMem {g k} (h : s.wfMem) : (markDirty s g k).wfMem := modCtx_wfMem h

/-! ### Accesses at their home -/

theorem readAt_wfMem {key ga n} (h : s.wfMem) : (readAt s key ga n).1.wfMem := by
  unfold readAt
  split
  · exact h
  · extract_lets s1
    have h1 : s1.wfMem := touchFrame_wfMem (findErrors_wfMem h)
    split
    · exact h1
    · exact h1

theorem writeAt_wfMem {key cells} (h : s.wfMem) : (writeAt s key cells).wfMem := by
  unfold writeAt
  split
  · exact h
  · exact wfMem_ite (writeRegBytes_wfMem h) (writeCells_wfMem (touchFrame_wfMem h))

theorem writeMerged_wfMem {key cells whole} (h : s.wfMem) : (writeMerged s key cells whole).wfMem := by
  unfold writeMerged
  split
  · exact h
  · exact wfMem_ite (writeRegBytes_wfMem h) <|
      foldl_wfMem (foldl_wfMem (touchFrame_wfMem h) fun _ _ h1 => writeByte_wfMem h1) fun _ _ h1 =>
      overwritten_wfMem h1

theorem performAt_wfMem {g key op ga} (h : s.wfMem) : (performAt s g key op ga).1.wfMem := by
  unfold performAt
  extract_lets +onlyGivenNames _ _
  split
  · exact readAt_wfMem h
  · exact writeAt_wfMem h
  · exact writeMerged_wfMem h
  · exact foldl_wfMem (writeAt_wfMem h) fun _ _ h1 => setFull_wfMem h1
  · split
    · next e => exact writeAt_wfMem (of_fst e (readAt_wfMem h))
    · exact readAt_wfMem h
  · split
    · next e => exact writeAt_wfMem (of_fst e (readAt_wfMem h))
    · next e => exact postEvent_wfMem (of_fst e (readAt_wfMem h))
  · exact h

theorem answer_wfMem {m val trap dest} (h : s.wfMem) : (answer s m val trap dest).wfMem :=
  setMsg_wfMem (wfMem_elim h fun _ => reportError_wfMem h)

theorem unitReply_wfMem {m val trap} (h : s.wfMem) : (unitReply s m val trap).wfMem := by
  unfold unitReply
  extract_lets s1
  have h1 : s1.wfMem := dropMsg_wfMem h
  split
  · refine wfMem_ite (setXHead_wfMem h1) ?_
    split
    · split
      · exact modCore_wfMem h1
      · exact h1
    · exact h1
  · exact h1

theorem boundAgain_wfMem {sid} (h : s.wfMem) : (boundAgain s sid).wfMem := wfMem_ite (scbPut_wfMem h) h

theorem remoteReply_wfMem {id} (h : s.wfMem) : (remoteReply s id).wfMem := by
  unfold remoteReply
  split
  · refine wfMem_ite h ?_
    split
    · refine wfMem_ite h ?_
      split
      · exact boundAgain_wfMem (unitReply_wfMem h)
      · split
        · exact wfMem_ite h (takeTrap_wfMem (wake_wfMem (dropMsg_wfMem h)))
        · exact wfMem_ite (boundAgain_wfMem (completeWait_wfMem (dropMsg_wfMem h))) h
    · exact h
  · exact h

theorem writeAcknowledge_wfMem {id} (h : s.wfMem) : (writeAcknowledge s id).wfMem := by
  unfold writeAcknowledge
  split
  · refine wfMem_ite h ?_
    split
    · exact dropMsg_wfMem h
    · exact h
  · exact h

theorem feWrite_wfMem {key ga v} (h : s.wfMem) : (feWrite s key ga v).wfMem := setFull_wfMem (writeAt_wfMem h)

theorem feTry_wfMem {key op ga} (h : s.wfMem) : (feTry s key op ga).wfMem := by
  unfold feTry
  extract_lets _ read
  have hread : ∀ empty, (read empty).wfMem := by
    intro empty
    unfold read
    split
    · next e =>
      have h1 := of_fst e (readAt_wfMem h)
      exact wfMem_ite (setFull_wfMem h1) h1
    · next e => exact of_fst e (readAt_wfMem h)
  refine wfMem_ite rfl ?_
  split
  · exact wfMem_ite (hread _) rfl
  · exact wfMem_ite (hread _) rfl
  · refine wfMem_ite (hread _) ?_
    split <;> next e => exact of_fst e (readAt_wfMem h)
  · exact wfMem_ite rfl (feWrite_wfMem h)
  · exact feWrite_wfMem h
  · exact feWrite_wfMem h
  · exact wfMem_ite (hread _) rfl

theorem wakeWaiter_wfMem {w} (h : s.wfMem) : (wakeWaiter s w).wfMem := by
  unfold wakeWaiter
  extract_lets s1
  have h1 : s1.wfMem := dropMsg_wfMem h
  split
  · split
    · exact setMsg_wfMem h1
    · exact h1
  · split
    · exact tdecAt_wfMem h1
    · exact h1

theorem wakeFuture_wfMem {ga0 ga} (h : s.wfMem) : (wakeFuture s ga0 ga).wfMem := foldl_wfMem h fun _ _ h1 => wakeWaiter_wfMem h1

theorem serve_wfMem {ga0 ga n} (h : s.wfMem) : (serve s ga0 ga n).wfMem := by
  induction n generalizing s with
  | zero => exact h
  | succ n ih =>
    unfold serve
    extract_lets _
    split
    · exact h
    · split
      · split
        · next e => exact ih (answer_wfMem (of_eq FeRes.wfMem e (feTry_wfMem h)))
        · next e => exact ih (answer_wfMem (of_eq FeRes.wfMem e (feTry_wfMem h)))
        · exact ih (answer_wfMem h)
        · exact h
      · exact h

theorem served_wfMem {ga0 ga} (h : s.wfMem) : (served s ga0 ga).wfMem := serve_wfMem h

theorem servedCells_wfMem {g cells} (h : s.wfMem) : (servedCells s g cells).wfMem := foldl_wfMem h fun _ _ h1 => served_wfMem h1

theorem acknowledge_wfMem {m ga} (h : s.wfMem) : (acknowledge s m ga).wfMem := setMsg_wfMem h

theorem windowPlace_wfMem {strm va read} (h : s.wfMem) : (windowPlace s strm va read).wfMem := by
  unfold windowPlace
  extract_lets d i o
  have hr : ((if read then readPage else privatePage) s d i (o / 2 ^ 18) (o % 2 ^ 18)).wfMem := by
    split
    · exact readPage_wfMem h
    · exact privatePage_wfMem h
  refine wfMem_ite rfl ?_
  split
  · rfl
  · exact hr

theorem performHere_wfMem {m op ga dst va dest} (h : s.wfMem) : (performHere s m op ga dst va dest).wfMem := by
  unfold performHere
  refine wfMem_ite (wfMem_ite (answer_wfMem h) (acknowledge_wfMem h)) ?_
  rcases e : performAt s m.src m.key op dst with ⟨s1, r⟩
  have h1 : s1.wfMem := of_fst e (performAt_wfMem h)
  dsimp only
  split
  · exact acknowledge_wfMem h1
  · exact acknowledge_wfMem h1
  · exact acknowledge_wfMem h1
  · exact servedCells_wfMem (acknowledge_wfMem h1)
  · exact answer_wfMem h1
  · exact answer_wfMem h1

theorem performWindow_wfMem {m op ga va dest} (h : s.wfMem) : (performWindow s m op ga va dest).wfMem := by
  unfold performWindow
  split
  · next e => exact performHere_wfMem (of_eq PageRes.wfMem e (windowPlace_wfMem h))
  · next e => exact of_eq PageRes.wfMem e (windowPlace_wfMem h)
  · exact wfMem_ite (answer_wfMem h) (wfMem_ite h (acknowledge_wfMem (reportError_wfMem h)))

theorem accessAtHome_wfMem {k} (h : s.wfMem) : (accessAtHome s k).wfMem := by
  unfold accessAtHome
  split
  · split
    · refine wfMem_ite h (wfMem_ite (performWindow_wfMem h) ?_)
      split
      · exact h
      · exact performHere_wfMem h
    · exact h
  · exact h

theorem enlist_wfMem {m ga} (h : s.wfMem) : (enlist s m ga).wfMem := wfMem_ite (setMsg_wfMem h) (wfMem_with h)

theorem recordFuture_wfMem {m ga dest} (h : s.wfMem) : (recordFuture s m ga dest).wfMem :=
  wfMem_ite (answer_wfMem h) (wfMem_with (answer_wfMem h))

theorem feRequest_wfMem {id} (h : s.wfMem) : (feRequest s id).wfMem := by
  unfold feRequest
  split
  · refine wfMem_ite h ?_
    split
    · extract_lets +onlyGivenNames _
      split
      · next s1 val changed e =>
          have hs1 : s1.wfMem := of_eq FeRes.wfMem e (feTry_wfMem h)
          extract_lets s2
          have h2 : s2.wfMem := by
            unfold s2
            split
            · exact acknowledge_wfMem hs1
            · exact wakeFuture_wfMem (acknowledge_wfMem hs1)
            · exact answer_wfMem hs1
          exact wfMem_ite (served_wfMem h2) h2
      · next e => exact answer_wfMem (of_eq FeRes.wfMem e (feTry_wfMem h))
      · split
        · exact acknowledge_wfMem h
        · exact acknowledge_wfMem h
        · exact answer_wfMem h
      · split
        · exact recordFuture_wfMem h
        · exact enlist_wfMem h
    · exact h
  · exact h

theorem waitFor_wfMem {g id new} (h : s.wfMem) : (waitFor s g id new).wfMem := by
  unfold waitFor
  split
  · exact modCtx_wfMem h
  · exact h

theorem feReissue_wfMem {id} (h : s.wfMem) : (feReissue s id).wfMem := by
  unfold feReissue
  split
  · exact wfMem_ite (wfMem_with (waitFor_wfMem (dropMsg_wfMem h))) h
  · exact h

theorem futureReply_wfMem {id} (h : s.wfMem) : (futureReply s id).wfMem := by
  unfold futureReply
  split
  · refine wfMem_ite h ?_
    split
    · refine wfMem_ite h ?_
      split
      · exact dropMsg_wfMem h
      · extract_lets +onlyGivenNames _ _ _
        split
        · exact wfMem_ite h (takeTrap_wfMem (wake_wfMem (tdecAt_wfMem (dropMsg_wfMem h))))
        · refine wfMem_ite ?_ (wfMem_ite (completeWait_wfMem (tdecAt_wfMem (dropMsg_wfMem h))) h)
          extract_lets s1 s2 s3
          have h1 : s1.wfMem := tcbWrite_wfMem (dropMsg_wfMem h)
          have h2 : s2.wfMem := wfMem_ite (tdecAt_wfMem h1) h1
          have h3 : s3.wfMem := modCtx_wfMem h2
          exact wake_wfMem h3
    · exact h
  · exact h

/-! ### Fetch -/

theorem keepIssued_wfMem {t : State} {g k i} (h1 : t.wfMem) : (keepIssued s t g k i).wfMem := by
  unfold keepIssued
  extract_lets _ _
  split
  · exact h1
  · exact wfMem_ite (modCtx_wfMem h1) h1

/-! ### CSRs, helpers, events, start and stop of cores -/

theorem csrStore_wfMem {g k n v} (h : s.wfMem) : (csrStore s g k n v).wfMem := by
  unfold csrStore
  split
  · exact modCtx_wfMem h
  · exact modCore_wfMem h
  · exact modCtx_wfMem h
  · exact modCore_wfMem h
  · exact modCore_wfMem h
  · exact modCore_wfMem h
  · exact modCore_wfMem h
  · exact modCore_wfMem h
  · exact modCore_wfMem h
  · exact modCtx_wfMem h
  · exact modCtx_wfMem h
  · exact modCtx_wfMem h
  · exact wfMem_ite (modCore_wfMem h) h

theorem execCsrr_kept {p d imm} (h : s.wfMem) : Kept (execCsrr p d imm s) := by
  unfold execCsrr
  refine issue_kept h fun s g k h1 => ?_
  split
  · rfl
  · exact wfMem_ite rfl (retire_wfMem h1)

theorem csrModify_wfMem {g k i n f} (h : s.wfMem) : (csrModify s g k i n f).wfMem := by
  unfold csrModify
  split
  · rfl
  · exact csrStore_wfMem (retireTo_wfMem h)

theorem execHstart_kept {p d a imm} (h : s.wfMem) : Kept (execHstart p d a imm s) := by
  unfold execHstart
  refine issue_kept h fun s g k h1 => ?_
  extract_lets +onlyGivenNames _
  split
  · exact putCtx_wfMem (retireTo_wfMem h1)
  · exact retire_wfMem h1

theorem endHelper_wfMem {g k result} (h : s.wfMem) : (endHelper s g k result).wfMem := by
  unfold endHelper
  exact wakeIf_wfMem (switchOut_wfMem (modCtx_wfMem h))

theorem execHend_kept {p a} (h : s.wfMem) : Kept (execHend p a s) := by
  unfold execHend
  refine issue_kept h fun s g k h1 => ?_
  refine releaseThen_wfMem h1 fun s h2 => ?_
  extract_lets _ _ s1
  have h1x : s1.wfMem := retireTo_wfMem h2
  split
  · exact switchOut_wfMem (sendFrom_wfMem (modCtx_wfMem h1x))
  · exact endHelper_wfMem h1x

theorem eventWake_wfMem {g} (h : s.wfMem) : (eventWake s g).wfMem := wfMem_ite (wakeIf_wfMem (modCore_wfMem h)) h

theorem setEvent_wfMem {g} (h : s.wfMem) : (setEvent s g).wfMem := modCore_wfMem h

theorem coreClockEnd_wfMem {g} (h : s.wfMem) : (coreClockEnd s g).wfMem := eventWake_wfMem (modCore_wfMem h)

theorem execSev_kept {p a} (h : s.wfMem) : Kept (execSev p a s) :=
  issue_kept h fun _ _ _ h1 =>
    wfMem_ite (setEvent_wfMem (retireTo_wfMem h1)) <|
    wfMem_ite (foldl_wfMem (retireTo_wfMem h1) fun _ _ h2 => setEvent_wfMem h2) (retireTo_wfMem h1)

theorem replyWord_wfMem {m v dest} (h : s.wfMem) : (replyWord s m v dest).wfMem := setMsg_wfMem h

theorem waitReply_wfMem {g k} (h : s.wfMem) : (waitReply s g k).wfMem := switchOut_wfMem h

theorem reportTrap_wfMem {g k} (h : s.wfMem) : (reportTrap s g k).wfMem := wfMem_ite (postEvent_wfMem h) h

theorem startCore_wfMem {t xb} (h : s.wfMem) : (startCore s t xb).wfMem := settle_wfMem (joinGroups_wfMem (modCore_wfMem h))

theorem coreStartMessage_wfMem {k} (h : s.wfMem) : (coreStartMessage s k).wfMem := by
  unfold coreStartMessage
  split
  · refine wfMem_ite h ?_
    split
    · exact wfMem_ite (replyWord_wfMem h) (wfMem_ite (replyWord_wfMem h) (startCore_wfMem (replyWord_wfMem h)))
    · exact settle_wfMem (joinGroups_wfMem (modCore_wfMem (dropMsg_wfMem h)))
    · exact h
  · exact h

theorem coreStopMessage_wfMem {k} (h : s.wfMem) : (coreStopMessage s k).wfMem := by
  unfold coreStopMessage
  split
  · refine wfMem_ite h ?_
    split
    · exact wfMem_ite (wfMem_ite (flushAll_wfMem h) (replyWord_wfMem h)) <|
        wfMem_ite (replyWord_wfMem h) <|
        wfMem_ite (setMsg_wfMem (flushAll_wfMem (stopCore_wfMem h))) (replyWord_wfMem h)
    · exact h
  · exact h

theorem execFinv_kept {p a} (h : s.wfMem) : Kept (execFinv p a s) :=
  issue_kept h fun _ _ _ h1 => wfMem_ite (modCore_wfMem (retireTo_wfMem h1)) (retireTo_wfMem h1)

/-! ### Loads, stores, full/empty forms, atomics and migration -/

theorem holdStore_wfMem {g k key adaptive cells strm va} (h : s.wfMem) :
    (holdStore s g k key adaptive cells strm va).all State.wfMem := by
  unfold holdStore
  extract_lets +onlyGivenNames _ _ _
  split
  · exact wfMem_ite rfl (modCore_wfMem h)
  · exact wfMem_ite rfl (modCore_wfMem h)

theorem flushBefore_wfMem {g r ga n} (h : s.wfMem) : (flushBefore s g r ga n).wfMem := flushWhile_wfMem h

theorem flushBeforeV_wfMem {g r ga n} (h : s.wfMem) : (flushBeforeV s g r ga n).wfMem := flushWhile_wfMem h

theorem afterEntries_wfMem {g k hit ga n next} (h : s.wfMem) (hnext : ∀ t, t.wfMem → (next t).wfMem) :
    (afterEntries s g k hit ga n next).wfMem :=
  wfMem_ite (modCtx_wfMem (flushWhile_wfMem h)) (wfMem_ite rfl (hnext _ h))

theorem afterLine_wfMem {g k ga next} (h : s.wfMem) (hnext : ∀ t, t.wfMem → (next t).wfMem) : (afterLine s g k ga next).wfMem :=
  afterEntries_wfMem h fun _ h1 => hnext _ h1

theorem combiningIdleFlush_wfMem {g} (h : s.wfMem) : (combiningIdleFlush s g).wfMem := flushWhile_wfMem h

theorem reach_wfMem {g k need va n next} (h : s.wfMem) (hnext : ∀ t ga key rt, t.wfMem → (next t ga key rt).wfMem) :
    (reach s g k need va n next).wfMem := by
  unfold reach
  refine wfMem_ite rfl ?_
  split
  · rfl
  · next e => exact switchOut_wfMem (of_eq Xl.wfMem e (translate_wfMem h))
  · next t ga key rt e =>
      have ht : t.wfMem := of_eq Xl.wfMem e (translate_wfMem h)
      exact wfMem_ite rfl (wfMem_ite (flushWhile_wfMem ht) (hnext _ _ _ _ ht))

theorem sendAndWait_wfMem {g k i r key ga va op dest} (h : s.wfMem) : (sendAndWait s g k i r key ga va op dest).wfMem :=
  waitReply_wfMem (sendFrom_wfMem h)

theorem granting_wfMem {g k ga performed} (h : s.wfMem) : (granting s g k ga performed).wfMem := by
  unfold granting
  split
  · exact wfMem_ite (useGrant_wfMem h) h
  · exact h

theorem drainedBuffer_wfMem {g next} (h : s.wfMem) (hnext : ∀ t, t.wfMem → (next t).wfMem) : (drainedBuffer s g next).wfMem :=
  wfMem_ite (flushAll_wfMem h) (wfMem_ite rfl (hnext _ h))

theorem sendPacket_wfMem {g k target pc instret load va next key} (h : s.wfMem) :
    (sendPacket s g k target pc instret load va next key).wfMem :=
  switchOut_wfMem (modCtx_wfMem (sendFrom_wfMem h))

theorem migrationArrive_wfMem {id} (h : s.wfMem) : (migrationArrive s id).wfMem := by
  unfold migrationArrive
  split
  · split
    · refine wfMem_ite h ?_
      extract_lets +onlyGivenNames _ _ _
      split
      · extract_lets _ s1 s2
        have h1 : s1.wfMem := dropMsg_wfMem h
        have h2 : s2.wfMem := wfMem_ite h1 (switchOut_wfMem (modCtx_wfMem h1))
        exact putCtx_wfMem h2
      · split
        · exact setMsg_wfMem (modCtx_wfMem h)
        · exact wfMem_ite h (migrationFails_wfMem (dropMsg_wfMem h))
    · exact h
  · exact h

theorem helperResultReturn_wfMem {id} (h : s.wfMem) : (helperResultReturn s id).wfMem := by
  unfold helperResultReturn
  split
  · refine wfMem_ite h ?_
    split
    · exact wfMem_ite (endHelper_wfMem (dropMsg_wfMem h)) (resultAway_wfMem (dropMsg_wfMem h))
    · exact h
  · exact h

theorem memLoad_wfMem {g k i p va n dest} (h : s.wfMem) : (memLoad s g k i p va n dest).wfMem := by
  unfold memLoad
  refine reach_wfMem h fun s ga key rt h1 => ?_
  refine wfMem_ite ?_ ?_
  · split
    · next e => exact retireTo_wfMem (granting_wfMem (of_fst e (performAt_wfMem h1)))
    · next e => exact takeTrap_wfMem (of_fst e (performAt_wfMem h1))
  · split
    · exact retire_wfMem h1
    · exact afterEntries_wfMem h1 fun _ h2 =>
        wfMem_ite (drainedBuffer_wfMem h2 fun _ h3 => sendPacket_wfMem h3) (sendAndWait_wfMem h2)

theorem deferEntry_wfMem {g k i ga key va op} (h : s.wfMem) : (deferEntry s g k i ga key va op).wfMem :=
  wfMem_ite rfl (retireTo_wfMem (modCore_wfMem h))

theorem directWrite_wfMem {g k r key ga va op acq part} (h : s.wfMem) : (directWrite s g k r key ga va op acq part).wfMem :=
  wfMem_ite (performAt_wfMem h) (granting_wfMem (sendFrom_wfMem h))

theorem memStore_wfMem {g k i p va bytes} (h : s.wfMem) : (memStore s g k i p va bytes).wfMem := by
  unfold memStore
  refine reach_wfMem h fun s ga key rt h1 => ?_
  extract_lets _ _
  refine wfMem_ite (deferEntry_wfMem (markDirty_wfMem h1)) <|
    wfMem_ite (retireTo_wfMem (directWrite_wfMem (flushBefore_wfMem (markDirty_wfMem h1)))) (wfMem_ite ?_ ?_)
  · exact releaseThen_wfMem h1 fun _ h2 => wfMem_ite rfl (retireTo_wfMem (directWrite_wfMem (markDirty_wfMem h2)))
  · refine wfMem_ite (retireTo_wfMem (directWrite_wfMem (markDirty_wfMem h1))) ?_
    split
    · next e => exact retireTo_wfMem (of_some e (holdStore_wfMem (granting_wfMem (markDirty_wfMem h1))))
    · exact flushOldest_wfMem h1

theorem memFe_wfMem {g k i p need va op dest} (h : s.wfMem) : (memFe s g k i p need va op dest).wfMem := by
  unfold memFe
  refine reach_wfMem h fun s ga key rt h1 => ?_
  refine releaseIf_wfMem h1 fun s h2 => ?_
  refine afterLine_wfMem h2 fun s h3 => ?_
  refine wfMem_ite ?_ (sendAndWait_wfMem h3)
  split
  · next t val changed e =>
      have ht : t.wfMem := of_eq FeRes.wfMem e (feTry_wfMem h3)
      exact retireTo_wfMem (wfMem_ite (served_wfMem ht) ht)
  · next e => exact takeTrap_wfMem (of_eq FeRes.wfMem e (feTry_wfMem h3))
  · rfl
  · extract_lets t
    have ht : t.wfMem := sendAndWait_wfMem h3
    split
    · exact enlist_wfMem ht
    · rfl

theorem directFill_wfMem {g k r key ga va op} (h : s.wfMem) : (directFill s g k r key ga va op).wfMem := by
  unfold directFill
  refine wfMem_ite ?_ (sendFrom_wfMem h)
  split
  · next t _ _ e =>
      have ht : t.wfMem := of_eq FeRes.wfMem e (feTry_wfMem h)
      refine served_wfMem ?_
      split
      · exact wakeFuture_wfMem ht
      · exact ht
  · exact h

theorem memAmo_wfMem {g k i p va op src cmp d} (h : s.wfMem) : (memAmo s g k i p va op src cmp d).wfMem := by
  unfold memAmo
  refine reach_wfMem h fun s ga key rt h1 => ?_
  refine releaseIf_wfMem h1 fun s h2 => ?_
  refine afterLine_wfMem h2 fun s h3 => ?_
  extract_lets _
  refine wfMem_ite ?_ (granting_wfMem (sendAndWait_wfMem (markDirty_wfMem h3)))
  split
  · next e => exact retireTo_wfMem (granting_wfMem (markDirty_wfMem (of_fst e (performAt_wfMem h3))))
  · next e => exact takeTrap_wfMem (of_fst e (performAt_wfMem h3))

theorem memRed_wfMem {g k i p va op src} (h : s.wfMem) : (memRed s g k i p va op src).wfMem :=
  reach_wfMem h fun _ _ _ _ h1 =>
    wfMem_ite (afterLine_wfMem h1 fun _ h2 => deferEntry_wfMem (markDirty_wfMem h2)) <|
    releaseIf_wfMem h1 fun _ h2 =>
    afterLine_wfMem h2 fun _ h3 => retireTo_wfMem (directWrite_wfMem (flushBefore_wfMem (markDirty_wfMem h3)))

theorem execMig_kept {p a imm} (h : s.wfMem) : Kept (execMig p a imm s) := by
  unfold execMig
  refine issue_kept h fun s g k h1 => ?_
  extract_lets _ _
  split
  · rfl
  · next e => exact switchOut_wfMem (of_eq Xl.wfMem e (translate_wfMem h1))
  · next s ga _ _ e =>
      have hs : s.wfMem := of_eq Xl.wfMem e (translate_wfMem h1)
      exact wfMem_ite (retire_wfMem hs) (wfMem_ite rfl (drainedBuffer_wfMem hs fun _ h2 => sendPacket_wfMem h2))

/-! ### Cascades and their queues -/

theorem setCtl_wfMem {d c f v} (h : s.wfMem) : (setCtl s d c f v).wfMem := modDie_wfMem h

theorem setStage_wfMem {d c st f v} (h : s.wfMem) : (setStage s d c st f v).wfMem := modDie_wfMem h

theorem setQueue_wfMem {d q f v} (h : s.wfMem) : (setQueue s d q f v).wfMem := modDie_wfMem h

theorem strandStage_wfMem {d c st cl} (h : s.wfMem) : (strandStage s d c st cl).wfMem :=
  wfMem_ite h (setStage_wfMem (modDie_wfMem h))

theorem stranded_wfMem {d} (h : s.wfMem) : (stranded s d).wfMem :=
  foldl_wfMem h fun _ _ h1 => foldl_wfMem h1 fun _ _ h2 => foldl_wfMem h2 fun _ _ h3 => strandStage_wfMem h3

theorem moveUnit_wfMem {d c r from_ u} (h : s.wfMem) : (moveUnit s d c r from_ u).wfMem := by
  unfold moveUnit
  extract_lets _ s1 s2 _ s3
  have h1 : s1.wfMem := modDie_wfMem h
  have h2 : s2.wfMem := by
    unfold s2
    split
    · exact setStage_wfMem h1
    · exact h1
  exact setCtl_wfMem (setStage_wfMem (setStage_wfMem h2))

theorem balance_wfMem {d c w n} (h : w.s.wfMem) : (balance d c w n).s.wfMem := by
  induction n generalizing w with
  | zero => exact h
  | succ n ih =>
    unfold balance
    extract_lets +onlyGivenNames _ _
    split
    · exact h
    · extract_lets _ _
      split
      · exact ih h
      · split
        · exact ih (moveUnit_wfMem h)
        · exact ih h

theorem balancerEvaluate_wfMem {d c} (h : s.wfMem) : (balancerEvaluate s d c).wfMem := by
  unfold balancerEvaluate
  extract_lets +onlyGivenNames _ _
  refine wfMem_ite h ?_
  extract_lets +onlyGivenNames s1 s2 s3 _
  have h1 : s1.wfMem := foldl_wfMem h fun _ _ h1 => setStage_wfMem h1
  have h2 : s2.wfMem := balance_wfMem h1
  have h3 : s3.wfMem := setCtl_wfMem h2
  split
  · exact modDie_wfMem h3
  · exact wfMem_ite (setCtl_wfMem h3) (postEvent_wfMem (modDie_wfMem (setCtl_wfMem h3)))

theorem cascEnd_wfMem {d c reason kind index} (h : s.wfMem) : (cascEnd s d c reason kind index).wfMem :=
  postEvent_wfMem (modDie_wfMem h)

theorem cascadeInstall_wfMem {d} (h : s.wfMem) : (cascadeInstall s d).wfMem := by
  unfold cascadeInstall
  split
  · split
    · refine cascEnd_wfMem (modDie_wfMem (setCtl_wfMem (setCtl_wfMem (setCtl_wfMem (setCtl_wfMem ?_)))))
      exact foldl_wfMem h fun _ _ h1 => setStage_wfMem (setStage_wfMem (setStage_wfMem h1))
    · exact cascEnd_wfMem h
  · exact h

theorem cascadeRemove_wfMem {d} (h : s.wfMem) : (cascadeRemove s d).wfMem := by
  unfold cascadeRemove
  extract_lets +onlyGivenNames _
  split
  · exact wfMem_ite (cascEnd_wfMem h) <|
      wfMem_ite h (cascEnd_wfMem (setCtl_wfMem (foldl_wfMem (modDie_wfMem h) fun _ _ h1 => setStage_wfMem h1)))
  · exact h

theorem entryPlaces_wfMem {g k z need first n} (h : s.wfMem) : (entryPlaces s g k z need first n).wfMem := by
  unfold entryPlaces
  extract_lets +onlyGivenNames _ _
  split
  · exact h
  · refine foldl_wfMem h fun r o hr => ?_
    split
    · extract_lets _
      refine wfMem_ite rfl ?_
      split
      · rfl
      · next e => exact of_eq Xl.wfMem e (translate_wfMem hr)
      · next e => exact wfMem_ite (of_eq Xl.wfMem e (translate_wfMem hr)) rfl
    · exact hr

theorem readPlaces_wfMem {g l} (h : s.wfMem) : (readPlaces s g l).1.wfMem := by
  unfold readPlaces
  refine foldl_wfMem (P := fun r : State × _ => r.1.wfMem) h fun r p hr => ?_
  split
  · split <;> next e => exact of_fst e (performAt_wfMem hr)
  · exact hr

theorem writePlaces_wfMem {g l bytes} (h : s.wfMem) : (writePlaces s g l bytes).wfMem :=
  foldl_wfMem h fun _ _ h1 => performAt_wfMem h1

theorem setHeadTail_wfMem {z tail v} (h : s.wfMem) : (setHeadTail s z tail v).wfMem := by
  unfold setHeadTail
  split
  · exact setQueue_wfMem h
  · exact scbPut_wfMem h

theorem countStall_wfMem {z} (h : s.wfMem) : (countStall s z).wfMem := by
  unfold countStall
  split
  · exact setQueue_wfMem h
  · exact h

theorem enqueueForm_wfMem {g k i nb d xa xb} (h : s.wfMem) : (enqueueForm s g k i nb d xa xb).wfMem := by
  unfold enqueueForm
  split
  · rfl
  · split
    · rfl
    · refine releaseThen_wfMem h fun s h1 => ?_
      split
      · rfl
      · refine wfMem_ite ?_ ?_
        · exact wfMem_ite (retire_wfMem (countStall_wfMem h1)) (wfMem_ite rfl (modCtx_wfMem (countStall_wfMem h1)))
        · split
          · rfl
          · next e => exact switchOut_wfMem (of_eq Places.wfMem e (entryPlaces_wfMem h1))
          · next t dst e =>
              have ht : t.wfMem := of_eq Places.wfMem e (entryPlaces_wfMem h1)
              split
              · next e => exact takeTrap_wfMem (of_fst e (readPlaces_wfMem ht))
              · next e =>
                exact retire_wfMem (markDirty_wfMem (setHeadTail_wfMem (writePlaces_wfMem (of_fst e (readPlaces_wfMem ht)))))

theorem execCdeq_kept {p d a b} (h : s.wfMem) : Kept (execCdeq p d a b s) := by
  unfold execCdeq
  refine issue_kept h fun s g k h1 => ?_
  extract_lets +onlyGivenNames _ _
  split
  · rfl
  · split
    · rfl
    · refine wfMem_ite (retire_wfMem h1) (wfMem_ite rfl ?_)
      extract_lets +onlyGivenNames _
      split
      · rfl
      · next e => exact switchOut_wfMem (of_eq Places.wfMem e (entryPlaces_wfMem h1))
      · next t src e =>
          have ht : t.wfMem := of_eq Places.wfMem e (entryPlaces_wfMem h1)
          split
          · next e => exact takeTrap_wfMem (of_fst e (readPlaces_wfMem ht))
          · next e => exact retire_wfMem (setHeadTail_wfMem (writePlaces_wfMem (of_fst e (readPlaces_wfMem ht))))

theorem execCocc_kept {p d a} (h : s.wfMem) : Kept (execCocc p d a s) := by
  unfold execCocc
  refine issue_kept h fun s g k h1 => ?_
  extract_lets +onlyGivenNames _
  split
  · rfl
  · exact retire_wfMem h1
  · exact retire_wfMem (draw_wfMem h1)

theorem execCdone_kept {p d a} (h : s.wfMem) : Kept (execCdone p d a s) :=
  issue_kept h fun _ _ _ h1 =>
    wfMem_ite (retire_wfMem (modCore_wfMem (stranded_wfMem (modDie_wfMem h1)))) <|
    retire_wfMem (stranded_wfMem (modDie_wfMem h1))

theorem boundaryEnd_wfMem {g} (h : s.wfMem) : (boundaryEnd s g).wfMem := by
  unfold boundaryEnd
  split
  · exact wfMem_ite (writeX_wfMem (modCore_wfMem h)) h
  · exact h

/-! ### The transfer engine -/

theorem issueXfer_wfMem {i kind d a b legal} (h : s.wfMem) : (issueXfer i kind d a b legal s).wfMem :=
  issue_wfMem h fun _ _ _ h1 => wfMem_ite rfl (wfMem_ite rfl (retire_wfMem (modChan_wfMem h1)))

theorem execXcfg_kept {p a b} (h : s.wfMem) : Kept (execXcfg p a b s) := by
  unfold execXcfg
  refine issue_kept h fun s g k h1 => ?_
  extract_lets +onlyGivenNames _ _ _ _
  split
  · exact retire_wfMem (modChan_wfMem h1)
  · exact wfMem_ite rfl (retire_wfMem (modChan_wfMem h1))
  · refine wfMem_ite rfl (wfMem_ite rfl ?_)
    split
    · next e => exact takeTrap_wfMem (of_fst e (readAt_wfMem h1))
    · next e => exact wfMem_ite rfl (retire_wfMem (modChan_wfMem (of_fst e (readAt_wfMem h1))))

theorem xferCommandStart_wfMem {g ch} (h : s.wfMem) : (xferCommandStart s g ch).wfMem := by
  unfold xferCommandStart
  split
  · exact wfMem_ite h (wfMem_ite (wfMem_ite h (modChan_wfMem (modCore_wfMem h))) (modChan_wfMem h))
  · exact h

theorem xferCommandComplete_wfMem {g ch} (h : s.wfMem) : (xferCommandComplete s g ch).wfMem := by
  unfold xferCommandComplete
  split
  · exact wfMem_ite (modChan_wfMem (wfMem_ite (unbind_wfMem h) h)) h
  · exact h

theorem engAddr_wfMem {g x need va n} (h : s.wfMem) : (engAddr s g x need va n).wfMem := by
  unfold engAddr
  refine wfMem_ite h ?_
  split
  · next e => exact reportError_wfMem (of_fst e (translateNow_wfMem h))
  · next e => exact of_eq (fun r => r.2.wfMem) e (translateNow_snd_wfMem h)
  · next e => exact of_eq (fun r => r.2.wfMem) e (translateNow_snd_wfMem h)

theorem engSend_wfMem {g ch key route op ga va done} (h : s.wfMem) : (engSend s g ch key route op ga va done).wfMem :=
  sendFrom_wfMem h

theorem engAsk_wfMem {g ch key route ga x va n run} (h : s.wfMem) : (engAsk s g ch key route ga x va n run).wfMem := by
  unfold engAsk
  extract_lets +onlyGivenNames ask
  have hask : ∀ len, (ask len).wfMem := fun _ => setXHead_wfMem (engSend_wfMem h)
  split
  · exact hask _
  · split
    · exact h
    · exact wfMem_ite h (hask _)
    · exact h

theorem engRead_wfMem {g ch x va n run held} (h : s.wfMem) : (engRead s g ch x va n run held).wfMem := by
  unfold engRead
  extract_lets _
  split
  · next e =>
    have ht := of_eq Eng.wfMem e (engAddr_wfMem h)
    refine wfMem_ite ?_ ?_
    · split
      · next e => exact of_fst e (performAt_wfMem ht)
      · next e => exact of_fst e (performAt_wfMem ht)
    · split
      · next e =>
        have hu := of_eq Eng.wfMem e (engAsk_wfMem ht)
        exact hu
      · exact engAsk_wfMem ht
  · exact engAddr_wfMem h

theorem engStore_wfMem {g ch key route fill va done cells} (h : s.wfMem) :
    (engStore s g ch key route fill va done cells).wfMem := by
  unfold engStore
  split
  · exact h
  · extract_lets +onlyGivenNames _
    exact wfMem_ite (wfMem_ite (servedCells_wfMem (performAt_wfMem h)) (performAt_wfMem h)) (engSend_wfMem h)

theorem element_wfMem {g ch x n held} (h : s.wfMem) : (element s g ch x n held).wfMem := by
  unfold element
  extract_lets +onlyGivenNames _ read _
  have hread : ∀ {s va k run next}, s.wfMem → (∀ t l, t.wfMem → (next t l).wfMem) → (read s va k run next).wfMem := by
    intro s va k run next h hnext
    unfold read
    split
    · next e => exact hnext _ _ (of_eq Eng.wfMem e (engRead_wfMem h))
    · next e => exact of_eq Eng.wfMem e (engRead_wfMem h)
    · next e => exact of_eq Eng.wfMem e (engRead_wfMem h)
  split
  · exact hread h fun _ _ h1 => h1
  · exact hread h fun _ _ h1 => hread h1 fun _ _ h2 => h2
  · exact hread h fun _ _ h1 => hread h1 fun _ _ h2 => h2
  · exact h
  · rcases bindTarget g x.xa with ⟨t, r⟩
    dsimp only
    split
    · exact h
    · exact h
  · exact h

theorem gather_wfMem {g ch x stop n} {w : Gather} (h : w.s.wfMem) : (gather g ch x stop w n).s.wfMem := by
  induction n generalizing w with
  | zero => exact h
  | succ n ih =>
    unfold gather
    refine wfMem_ite (P := fun w : Gather => w.s.wfMem) h ?_
    split
    · next e => exact of_eq Elt.wfMem e (element_wfMem h)
    · next e => exact of_eq Elt.wfMem e (element_wfMem h)
    · next e =>
      have ht := of_eq Elt.wfMem e (element_wfMem h)
      refine wfMem_ite (P := fun w : Gather => w.s.wfMem) h ?_
      split
      · next e => exact of_eq Eng.wfMem e (engAddr_wfMem ht)
      · next e => exact wfMem_ite (P := fun w : Gather => w.s.wfMem) (of_eq Eng.wfMem e (engAddr_wfMem ht)) h
      · next e => exact wfMem_ite (P := fun w : Gather => w.s.wfMem) h (ih (of_eq Eng.wfMem e (engAddr_wfMem ht)))

theorem doPiece_wfMem {g ch x stop} (h : s.wfMem) : (doPiece s g ch x stop).wfMem := by
  unfold doPiece
  extract_lets _ _ s1 s2
  have h1 : s1.wfMem := by
    unfold s1
    exact engStore_wfMem (gather_wfMem h)
  have h2 : s2.wfMem := setXHead_wfMem h1
  split
  · exact failXfer_wfMem h2
  · exact h2

theorem binBump_wfMem {g ch x b} (h : s.wfMem) : (binBump s g ch x b).wfMem := by
  unfold binBump
  extract_lets _
  split
  · next t ga key rt _ e =>
      have ht : t.wfMem := of_eq Eng.wfMem e (engAddr_wfMem h)
      refine wfMem_ite ?_ (setXHead_wfMem (engSend_wfMem ht))
      split
      · next e => exact setXHead_wfMem (of_fst e (performAt_wfMem ht))
      · next e => exact failXfer_wfMem (of_fst e (performAt_wfMem ht))
  · next e => exact failXfer_wfMem (of_eq Eng.wfMem e (engAddr_wfMem h))
  · next e => exact of_eq Eng.wfMem e (engAddr_wfMem h)

theorem binDone_wfMem {g ch n} (h : s.wfMem) : (binDone s g ch n).wfMem := setXHead_wfMem h

theorem binAim_wfMem {g ch x b c} (h : s.wfMem) : (binAim s g ch x b c).wfMem := by
  unfold binAim
  refine wfMem_ite (wfMem_ite (binDone_wfMem h) (binBump_wfMem h)) ?_
  split
  · next e => exact setXHead_wfMem (of_eq Eng.wfMem e (engRead_wfMem h))
  · next e => exact failXfer_wfMem (of_eq Eng.wfMem e (engRead_wfMem h))
  · next e => exact of_eq Eng.wfMem e (engRead_wfMem h)

theorem binPut_wfMem {g ch x va} (h : s.wfMem) : (binPut s g ch x va).wfMem := by
  unfold binPut
  split
  · next e => exact failXfer_wfMem (of_eq Eng.wfMem e (engRead_wfMem h))
  · next e => exact of_eq Eng.wfMem e (engRead_wfMem h)
  · next t _ _ _ l e =>
      have ht : t.wfMem := of_eq Eng.wfMem e (engRead_wfMem h)
      split
      · next e => exact binDone_wfMem (engStore_wfMem (of_eq Eng.wfMem e (engAddr_wfMem ht)))
      · next e => exact failXfer_wfMem (of_eq Eng.wfMem e (engAddr_wfMem ht))
      · next e => exact of_eq Eng.wfMem e (engAddr_wfMem ht)

theorem binStep_wfMem {g ch x} (h : s.wfMem) : (binStep s g ch x).wfMem := by
  unfold binStep
  split
  · exact binPut_wfMem h
  · exact binAim_wfMem h
  · exact h
  · extract_lets _
    split
    · next e => exact failXfer_wfMem (of_eq Eng.wfMem e (engRead_wfMem h))
    · next e => exact of_eq Eng.wfMem e (engRead_wfMem h)
    · next e => exact binBump_wfMem (of_eq Eng.wfMem e (engRead_wfMem h))

theorem faultDue_wfMem {g ch f} (h : s.wfMem) : (faultDue s g ch f).wfMem := wfMem_ite h (chanFault_wfMem h)

theorem enginePiece_wfMem {g ch} (h : s.wfMem) : (enginePiece s g ch).wfMem := by
  unfold enginePiece
  split
  · split
    · exact faultDue_wfMem h
    · refine wfMem_ite h ?_
      split
      · exact binStep_wfMem h
      · exact doPiece_wfMem h
  · exact h

/-- The state that the reads of a strip leave, finished or not. -/
def stripState : Except (State × Option Nat) (State × List Lane) → State
  | .ok r => r.1
  | .error r => r.1

theorem stripElems_wfMem {g ch x n k} (h : s.wfMem) : (stripState (stripElems s g ch x n k)).wfMem := by
  induction k generalizing s n with
  | zero => exact h
  | succ k ih =>
    unfold stripElems
    split
    · next e => exact of_eq Eng.wfMem e (engRead_wfMem h)
    · next e => exact of_eq Eng.wfMem e (engRead_wfMem h)
    · next t _ _ _ l e =>
      have ht := ih (n := n + 1) (of_eq Eng.wfMem e (engRead_wfMem h))
      revert ht
      cases stripElems t g ch x (n + 1) k with
      | error r => exact id
      | ok r => exact id

theorem feedStripDeliver_wfMem {g ch} (h : s.wfMem) : (feedStripDeliver s g ch).wfMem := by
  unfold feedStripDeliver
  split
  · next x _ _ =>
    rcases bindTarget g x.xa with ⟨t, r⟩
    dsimp only
    split
    · refine wfMem_ite h (wfMem_ite h ?_)
      split
      · next e => exact modCore_wfMem (setXHead_wfMem (of_eq (fun r => (stripState r).wfMem) e (stripElems_wfMem h)))
      · next e => exact failXfer_wfMem (of_eq (fun r => (stripState r).wfMem) e (stripElems_wfMem h))
      · next e => exact of_eq (fun r => (stripState r).wfMem) e (stripElems_wfMem h)
    · exact h
  · exact h

theorem feedStripWrite_wfMem {g ch} (h : s.wfMem) : (feedStripWrite s g ch).wfMem := by
  unfold feedStripWrite
  split
  · exact wfMem_ite h (wfMem_ite (modCore_wfMem (doPiece_wfMem h)) (doPiece_wfMem h))
  · exact h

theorem cancelChan_wfMem {g ch} (h : s.wfMem) : (cancelChan s g ch).wfMem := by
  unfold cancelChan
  extract_lets _ _ s1
  have h1 : s1.wfMem := by
    unfold s1
    split
    · exact wfMem_ite (unbind_wfMem h) h
    · exact h
  exact modChan_wfMem h1

theorem execXcancel_kept {p d a} (h : s.wfMem) : Kept (execXcancel p d a s) :=
  issue_kept h fun _ _ _ h1 =>
    wfMem_ite (retire_wfMem (modChan_wfMem (wfMem_ite h1 (cancelChan_wfMem h1)))) <|
    wfMem_ite (retire_wfMem (modChan_wfMem (wfMem_ite h1 (cancelChan_wfMem h1)))) <|
    wfMem_ite rfl (modCtx_wfMem (wfMem_ite h1 (cancelChan_wfMem h1)))

/-! ### Streams, basins and migration of streams -/

theorem refsDown_wfMem {sid} (h : s.wfMem) : (refsDown s sid).wfMem :=
  wfMem_ite (wfMem_ite (scbPut_wfMem (scbPut_wfMem h)) (scbPut_wfMem h)) h

theorem modSet_wfMem {d n f} (h : s.wfMem) : (modSet s d n f).wfMem := modDie_wfMem h

theorem leaveSet_wfMem {d i} (h : s.wfMem) : (leaveSet s d i).wfMem := modSet_wfMem h

theorem releaseStream_wfMem {d i} (h : s.wfMem) : (releaseStream s d i).wfMem :=
  wfMem_ite (walkOut_wfMem (dropRef_wfMem (setScb_wfMem h))) (setScb_wfMem h)

theorem pruneStream_wfMem {d i} (h : s.wfMem) : (pruneStream s d i).wfMem := by
  unfold pruneStream
  extract_lets s1
  have h1 : s1.wfMem := refsDown_wfMem (leaveSet_wfMem h)
  exact wfMem_ite (scbPut_wfMem h1) (releaseStream_wfMem h1)

theorem basinPrune_wfMem {sid} (h : s.wfMem) : (basinPrune s sid).wfMem := wfMem_ite (pruneStream_wfMem h) h

theorem ownPages_wfMem {s0 : State} {d i pages next} (h : s0.wfMem) (hnext : ∀ t, t.wfMem → (next t).wfMem) :
    (ownPages s0 d i pages next).wfMem := by
  unfold ownPages
  extract_lets +onlyGivenNames s
  have hs : s.wfMem := foldl_wfMem h fun _ _ h1 => mendPath_wfMem h1
  split
  · rfl
  · refine wfMem_ite rfl ?_
    extract_lets _ _
    split
    · rfl
    · exact hs
    · split
      · next e =>
        refine hnext _ (of_some e (foldl_wfMem (P := Option.all State.wfMem) hs fun _ _ ho => ?_))
        exact all_bind ho fun _ h1 => all_map (ownNodes_wfMem h1) fun _ h2 => h2
      · exact hs

theorem clearProv_wfMem {d i pages} (h : s.wfMem) : (clearProv s d i pages).wfMem := by
  unfold clearProv
  refine foldl_wfMem h fun s p h1 => ?_
  split
  · exact setNodeEntry_wfMem h1
  · exact h1

theorem dropPages_wfMem {d i lo} (h : s.wfMem) : (dropPages s d i lo).wfMem := by
  unfold dropPages
  extract_lets _ s1
  have h1 : s1.wfMem := by
    unfold s1
    refine foldl_wfMem h fun s p h1 => ?_
    split
    · exact dropRef_wfMem (setNodeEntry_wfMem h1)
    · exact h1
  exact walkOut_wfMem (scbPut_wfMem h1)

theorem doFork_wfMem {s0 : State} {d i sid xb} (h : s0.wfMem) : (doFork s0 d i sid xb).wfMem := by
  unfold doFork
  extract_lets +onlyGivenNames _ _ _ s _
  have hs : s.wfMem := mendFrame_wfMem h
  split
  · exact h
  · refine wfMem_ite rfl (wfMem_ite rfl (wfMem_ite rfl (wfMem_ite rfl ?_)))
    extract_lets _ _ _ _ s1 s2 s3
    have h1 : s1.wfMem := countUp_wfMem (setScb_wfMem hs)
    have h2 : s2.wfMem := scbPut_wfMem h1
    have h3 : s3.wfMem := wfMem_ite h2 (modSet_wfMem h2)
    exact h3

theorem doCommit_wfMem {d i xa xb} (h : s.wfMem) : (doCommit s d i xa xb).wfMem :=
  wfMem_ite (setScb_wfMem h) (ownPages_wfMem h fun _ h1 => setScb_wfMem (scbPut_wfMem (clearProv_wfMem (dropPages_wfMem h1))))

theorem doHold_wfMem {s0 : State} {d i g k sid xa xb} (h : s0.wfMem) : (doHold s0 d i g k sid xa xb).wfMem := by
  unfold doHold
  extract_lets +onlyGivenNames _ s _ _
  have hs : s.wfMem := mendPath_wfMem h
  refine wfMem_ite rfl (wfMem_ite ?_ ?_)
  · split
    · rfl
    · rfl
    · next e => exact of_eq PageRes.wfMem e (privatePage_wfMem hs)
    · next t _ e =>
        have ht : t.wfMem := of_eq PageRes.wfMem e (privatePage_wfMem hs)
        split
        · rfl
        · exact wfMem_ite rfl (useGrant_wfMem (frPut_wfMem ht))
  · split
    · rfl
    · split
      · rfl
      · exact wfMem_ite hs (wfMem_ite rfl (frPut_wfMem hs))

theorem sendTable_wfMem {d e cls body} (h : s.wfMem) : (sendTable s d e cls body).wfMem := sendFrom_wfMem h

theorem doSmig_wfMem {d i sid xb} (h : s.wfMem) : (doSmig s d i sid xb).wfMem :=
  wfMem_ite h <|
    ownPages_wfMem h fun _ h1 =>
    sendTable_wfMem (modDie_wfMem (setScb_wfMem (leaveSet_wfMem (scbPut_wfMem (wfMem_ite h1 (dropPages_wfMem h1))))))

theorem doJoin_wfMem {e n moved sid xb msg} (h : s.wfMem) : (doJoin s e n moved sid xb msg).wfMem :=
  wfMem_ite rfl (wfMem_ite rfl (wfMem_ite rfl (scbPut_wfMem (modSet_wfMem h))))

theorem performStep_wfMem {g k d step sid xa xb msg} (h : s.wfMem) : (performStep s g k d step sid xa xb msg).wfMem := by
  unfold performStep
  extract_lets +onlyGivenNames _ setStrm
  have hsetStrm : ∀ s v, s.wfMem → (setStrm s v).wfMem := fun _ _ h1 => modCtx_wfMem h1
  refine wfMem_ite rfl (wfMem_ite rfl (wfMem_ite h (wfMem_ite rfl ?_)))
  split
  · exact doFork_wfMem h
  · exact hsetStrm _ _ (setScb_wfMem h)
  · exact hsetStrm _ _ (wfMem_ite (releaseStream_wfMem (setScb_wfMem h)) (setScb_wfMem h))
  · exact setScb_wfMem h
  · exact ownPages_wfMem h fun _ h1 => setScb_wfMem (clearProv_wfMem h1)
  · exact doCommit_wfMem h
  · exact wfMem_ite h (ownPages_wfMem h fun _ h1 => dropPages_wfMem h1)
  · exact wfMem_ite rfl (wfMem_ite rfl (scbPut_wfMem (modSet_wfMem h)))
  · exact doJoin_wfMem h
  · exact pruneStream_wfMem h
  · exact pruneStream_wfMem h
  · exact doSmig_wfMem h
  · exact h
  · exact doHold_wfMem h

theorem stepWait_wfMem {d i g k} (h : s.wfMem) : (stepWait s d i g k).wfMem := modDie_wfMem h

theorem stepDone_wfMem {d g k} (h : s.wfMem) : (stepDone s d g k).wfMem := wfMem_ite (modDie_wfMem h) h

theorem streamStep_wfMem {g k d step sid xa xb msg} (h : s.wfMem) : (streamStep s g k d step sid xa xb msg).wfMem := by
  unfold streamStep
  extract_lets _
  refine wfMem_ite (stepWait_wfMem h) ?_
  split
  · next e => exact stepDone_wfMem (of_eq SRes.wfMem e (performStep_wfMem h))
  · rfl
  · next e => exact stepWait_wfMem (of_eq SRes.wfMem e (performStep_wfMem h))
  · next e => exact stepWait_wfMem (of_eq SRes.wfMem e (performStep_wfMem h))
  · next e => exact stepDone_wfMem (of_eq SRes.wfMem e (performStep_wfMem h))

theorem farJoin_wfMem {g k e sid xa xb msg} (h : s.wfMem) : (farJoin s g k e sid xa xb msg).wfMem := by
  unfold farJoin
  extract_lets _ _
  refine wfMem_ite (stepWait_wfMem h) (wfMem_ite rfl (wfMem_ite rfl (wfMem_ite rfl ?_)))
  split
  · next e => exact stepDone_wfMem (of_eq SRes.wfMem e (doJoin_wfMem h))
  · exact doJoin_wfMem h

theorem drainState_wfMem {g next} (h : s.wfMem) (hnext : ∀ t, t.wfMem → (next t).wfMem) : (drainState s g next).wfMem :=
  wfMem_ite (flushWhile_wfMem h) (wfMem_ite rfl (hnext _ h))

theorem drainIf_wfMem {p : Prop} [Decidable p] {g next} (h : s.wfMem) (hnext : ∀ t, t.wfMem → (next t).wfMem) :
    ((if p then drainState s g else fun f => f s) next).wfMem := by
  split
  · exact drainState_wfMem h hnext
  · exact hnext _ h

theorem askTable_wfMem {g k i e step regs xa xb strm} (h : s.wfMem) : (askTable s g k i e step regs xa xb strm).wfMem :=
  waitReply_wfMem (sendFrom_wfMem h)

theorem streamForm_wfMem {g k i step regs xa xb} (h : s.wfMem) : (streamForm s g k i step regs xa xb).wfMem := by
  unfold streamForm
  refine drainIf_wfMem h fun s h1 => ?_
  extract_lets +onlyGivenNames _ _ _ _
  refine wfMem_ite rfl (wfMem_ite rfl (wfMem_ite rfl (wfMem_ite rfl (wfMem_ite (askTable_wfMem h1) ?_))))
  split
  · next e => exact retire_wfMem (of_eq SRes.wfMem e (streamStep_wfMem h1))
  · rfl
  · next t w e =>
      have ht : t.wfMem := of_eq SRes.wfMem e (streamStep_wfMem h1)
      exact wfMem_ite (switchOut_wfMem ht) ht
  · next t e =>
      have ht : t.wfMem := of_eq SRes.wfMem e (streamStep_wfMem h1)
      exact wfMem_ite (switchOut_wfMem ht) ht
  · next e => exact wfMem_with (askTable_wfMem (of_eq SRes.wfMem e (streamStep_wfMem h1)))

theorem execSnew_kept {p d a} (h : s.wfMem) : Kept (execSnew p d a s) := by
  unfold execSnew
  refine issue_kept h fun s g k h1 => ?_
  extract_lets +onlyGivenNames _ _
  refine wfMem_ite rfl ?_
  split
  · rfl
  · split
    · next e => exact takeTrap_wfMem (of_fst e (performAt_wfMem h1))
    · next s1 l e =>
        have hs1 : s1.wfMem := of_fst e (performAt_wfMem h1)
        extract_lets +onlyGivenNames _ _ _ _
        refine wfMem_ite rfl ?_
        split
        · exact retire_wfMem hs1
        · split
          · rfl
          · exact hs1
          · split
            · rfl
            · next e => exact retire_wfMem (setScb_wfMem (of_some_snd e (takeNode_wfMem hs1)))

theorem remoteStreamStep_wfMem {id} (h : s.wfMem) : (remoteStreamStep s id).wfMem := by
  unfold remoteStreamStep
  split
  · refine wfMem_ite h ?_
    split
    · extract_lets +onlyGivenNames _ _ _
      split
      · exact dropMsg_wfMem h
      · extract_lets r
        have hr : r.wfMem := wfMem_ite (farJoin_wfMem h) (streamStep_wfMem h)
        clear_value r
        split
        · exact answer_wfMem hr
        · exact answer_wfMem h
        · exact hr
        · exact hr
        · exact setMsg_wfMem hr
    · exact wfMem_ite (dropMsg_wfMem h) (wfMem_ite h (modSet_wfMem (dropMsg_wfMem h)))
    · exact h
  · exact h

theorem finishJoin_wfMem {d n} (h : s.wfMem) : (finishJoin s d n).wfMem := by
  unfold finishJoin
  extract_lets +onlyGivenNames _
  split
  · extract_lets s1 s2
    have h1 : s1.wfMem := modSet_wfMem h
    have h2 : s2.wfMem := refsDown_wfMem h1
    split
    · split
      · exact answer_wfMem h2
      · exact h2
    · exact boundAgain_wfMem h2
  · exact h

theorem basinReduce_wfMem {d n} (h : s.wfMem) : (basinReduce s d n).wfMem := by
  unfold basinReduce
  extract_lets +onlyGivenNames _
  refine wfMem_ite h ?_
  rcases basinResult _ _ _ with ⟨v, w, kept⟩
  dsimp -zeta only
  extract_lets _ s1 _ s2 s3 s4
  have h2 : s2.wfMem := foldl_wfMem (foldl_wfMem h fun _ _ h1 => basinPrune_wfMem h1) fun _ _ h1 => sendTable_wfMem h1
  have h4 : s4.wfMem := by
    refine modSet_wfMem ?_
    unfold s3
    split
    · exact sendTable_wfMem h2
    · exact h2
  exact wfMem_ite (finishJoin_wfMem h4) h4

theorem topologyPrune_wfMem {id} (h : s.wfMem) : (topologyPrune s id).wfMem := by
  unfold topologyPrune
  split
  · split
    · refine wfMem_ite h (wfMem_ite ?_ (setMsg_wfMem (wfMem_ite (postEvent_wfMem h) (basinPrune_wfMem h))))
      extract_lets s1
      have h1 : s1.wfMem := modSet_wfMem (dropMsg_wfMem h)
      exact wfMem_ite (finishJoin_wfMem h1) h1
    · exact h
  · exact h

theorem clearTopo_wfMem {d} (h : s.wfMem) : (clearTopo s d).wfMem := wfMem_with h

theorem topoEnd_wfMem {d reason index} (h : s.wfMem) : (topoEnd s d reason index).wfMem := postEvent_wfMem (modDie_wfMem h)

theorem topoLoad_wfMem {s0 : State} {d} (h : s0.wfMem) : (topoLoad s0 d).wfMem := by
  unfold topoLoad
  extract_lets +onlyGivenNames _
  refine wfMem_ite h ?_
  extract_lets +onlyGivenNames _ _ s _
  have hs : s.wfMem := findWhere_wfMem h
  split
  · exact topoEnd_wfMem hs
  · exact foldl_wfMem (modDie_wfMem (clearTopo_wfMem hs)) fun _ _ h1 => sendTable_wfMem h1

theorem topologyEntryArrive_wfMem {id} (h : s.wfMem) : (topologyEntryArrive s id).wfMem := by
  unfold topologyEntryArrive
  split
  · split
    · refine wfMem_ite h (wfMem_ite ?_ (setMsg_wfMem (modSet_wfMem h)))
      extract_lets _ s1
      have h1 : s1.wfMem := modDie_wfMem (dropMsg_wfMem h)
      exact wfMem_ite (topoEnd_wfMem h1) h1
    · exact h
  · exact h

theorem takePages_wfMem {e root p n} (h : s.wfMem) : (takePages s e root p n).all State.wfMem := by
  induction n generalizing s p with
  | zero => exact h
  | succ n ih =>
    unfold takePages
    extract_lets _ leaf
    have hleaf : leaf.all (·.2.wfMem) := wfMem_ite h (all_map (takeNode_wfMem h) fun _ h1 => setNodeEntry_wfMem h1)
    exact all_bind hleaf fun _ h1 => all_bind (takeData_wfMem h1) fun _ h2 => ih (setNodeEntry_wfMem h2)

theorem passOn_wfMem {m d e cls body} (h : s.wfMem) : (passOn s m d e cls body).wfMem := setMsg_wfMem h

theorem smigRequestArrive_wfMem {id} (h : s.wfMem) : (smigRequestArrive s id).wfMem := by
  unfold smigRequestArrive
  split
  · split
    · refine wfMem_ite h ?_
      extract_lets +onlyGivenNames _ _ refuse
      have hrefuse : refuse.wfMem := passOn_wfMem h
      split
      · exact hrefuse
      · split
        · exact hrefuse
        · exact wfMem_ite hrefuse h
        · split
          · exact h
          · next root t e =>
              have ht : t.wfMem :=
                of_some_snd e (all_bind (takeNode_wfMem h) fun _ h1 => all_map (takePages_wfMem h1) fun _ h2 => h2)
              extract_lets _ _ _ s1
              have h1 : s1.wfMem := modDie_wfMem (setScb_wfMem ht)
              exact wfMem_ite (passOn_wfMem h1) (passOn_wfMem h1)
    · exact h
  · exact h

theorem smigRefuse_wfMem {id} (h : s.wfMem) : (smigRefuse s id).wfMem := by
  unfold smigRefuse
  split
  · split
    · refine wfMem_ite h ?_
      extract_lets +onlyGivenNames _ _
      split
      · exact postEvent_wfMem (modDie_wfMem (setScb_wfMem (dropMsg_wfMem h)))
      · exact dropMsg_wfMem h
    · exact h
  · exact h

theorem snapshotPage_wfMem {s0 : State} {id} (h : s0.wfMem) : (snapshotPage s0 id).wfMem := by
  unfold snapshotPage
  split
  · split
    · refine wfMem_ite h ?_
      extract_lets +onlyGivenNames _ _ s _
      have hs : s.wfMem := mendPath_wfMem (mendPath_wfMem h)
      split
      · refine wfMem_ite hs ?_
        extract_lets s1 stamp s2
        have h1 : s1.wfMem := moveFrame_wfMem hs
        have hstamp : ∀ s d f, s.wfMem → (stamp s d f).wfMem := fun _ _ _ h2 => modDie_wfMem h2
        have h2 : s2.wfMem := hstamp _ _ _ (hstamp _ _ _ h1)
        exact wfMem_ite (passOn_wfMem h2) (passOn_wfMem h2)
      · exact hs
    · exact h
  · exact h

theorem smigComplete_wfMem {id} (h : s.wfMem) : (smigComplete s id).wfMem := by
  unfold smigComplete
  split
  · split
    · exact wfMem_ite h <|
        postEvent_wfMem <|
        postEvent_wfMem <|
        walkOut_wfMem (dropRef_wfMem (modDie_wfMem (setScb_wfMem (modDie_wfMem (scbPut_wfMem (dropMsg_wfMem h))))))
    · exact h
  · exact h

/-! ### Barriers and phases -/

theorem bumpArrn_wfMem {g n} (h : s.wfMem) : (bumpArrn s g n).wfMem := modCore_wfMem h

theorem setBar_wfMem {key b} (h : s.wfMem) : (setBar s key b).wfMem := wfMem_with h

theorem sendPhase_wfMem {ga} (h : s.wfMem) : (sendPhase s ga).wfMem := multicastFrom_wfMem h

theorem deliverAt_wfMem {m body} (h : s.wfMem) : (deliverAt s m body).wfMem := by
  unfold deliverAt
  split
  · exact setBar_wfMem h
  · exact foldl_wfMem h fun _ _ h1 => sendExchange_wfMem h1
  · exact h

theorem arrivalCounted_wfMem {x b} (h : s.wfMem) : (arrivalCounted s x b).wfMem := by
  unfold arrivalCounted
  extract_lets s1
  have h1 : s1.wfMem := bumpArrn_wfMem (setBar_wfMem h)
  split
  · split
    · exact acknowledge_wfMem h1
    · exact h1
  · exact modCtx_wfMem h1

theorem presentAgain_wfMem {x} (h : s.wfMem) : (presentAgain s x).wfMem := by
  unfold presentAgain
  extract_lets +onlyGivenNames _
  split
  · exact arrivalCounted_wfMem (wfMem_with h)
  · exact wfMem_with h
  · extract_lets s1
    have h1 : s1.wfMem := wfMem_with h
    split
    · exact setMsg_wfMem h1
    · exact h1

theorem retrySurplus_wfMem {p} (h : s.wfMem) : (retrySurplus s p).wfMem := foldl_wfMem h fun _ _ h1 => presentAgain_wfMem h1

theorem completeBarriers_wfMem (h : s.wfMem) : (completeBarriers s).wfMem := by
  unfold completeBarriers
  refine foldl_wfMem h fun s e h1 => ?_
  extract_lets t
  have ht : t.wfMem := setBar_wfMem h1
  split
  · exact wfMem_ite (sendPhase_wfMem ht) ht
  · exact ht

theorem barrierArrivalMessage_wfMem {s0 : State} {id} (h : s0.wfMem) : (barrierArrivalMessage s0 id).wfMem := by
  unfold barrierArrivalMessage
  split
  · split
    · refine wfMem_ite h ?_
      extract_lets s _
      have hs : s.wfMem := retrySurplus_wfMem h
      split
      · exact arrivalCounted_wfMem hs
      · exact setMsg_wfMem (wfMem_with hs)
      · exact hs
    · exact wfMem_ite (beginIfFull_wfMem (modGroup_wfMem (dropMsg_wfMem h))) h
    · exact h
  · exact h

theorem barrierSurplusRetry_wfMem {g k} (h : s.wfMem) : (barrierSurplusRetry s g k).wfMem := wfMem_ite (retrySurplus_wfMem h) h

theorem arriveThen_wfMem {s0 : State} {g k n level ga next} (h : s0.wfMem) (hnext : ∀ t, t.wfMem → (next t).wfMem) :
    (arriveThen s0 g k n level ga next).wfMem := by
  unfold arriveThen
  refine wfMem_ite (wfMem_ite rfl (hnext _ h)) (wfMem_ite rfl (wfMem_ite (modCtx_wfMem (sendFrom_wfMem h)) ?_))
  extract_lets s
  have hs : s.wfMem := retrySurplus_wfMem h
  split
  · rfl
  · exact wfMem_with hs
  · exact hnext _ (bumpArrn_wfMem (setBar_wfMem hs))

theorem withBarrier_wfMem {g k n next} (h : s.wfMem) (hnext : ∀ level ga, (next level ga).wfMem) :
    (withBarrier s g k n next).wfMem := by
  unfold withBarrier
  split
  · rfl
  · exact wfMem_ite (raiseTrap_wfMem h) (hnext _ _)

theorem execSphC_kept {p imm} (h : s.wfMem) : Kept (execSphC p imm s) := by
  unfold execSphC
  refine issue_kept h fun s g k h1 => ?_
  extract_lets _
  split
  · rfl
  · exact wfMem_ite rfl (wfMem_ite rfl (modCore_wfMem (retireTo_wfMem h1)))

/-! ### PEAL rings and multicast -/

theorem pealEnd_wfMem {m r coord reason} (h : s.wfMem) : (pealEnd s m r coord reason).wfMem := postEvent_wfMem (modMod_wfMem h)

theorem takeSlot_wfMem {d} (h : s.wfMem) : (takeSlot s d).all (·.2.wfMem) :=
  all_bind (pick_wfMem h) fun _ h1 => takeFid_wfMem (wfMem_mk (Memory.wf_filter _ _ (wf_mem h1)) (wf_host h1))

theorem setUpMember_wfMem {m r own} (h : s.wfMem) : (setUpMember s m r own).wfMem := by
  unfold setUpMember
  refine modRing_wfMem (foldl_wfMem (P := fun w : State × _ => w.1.wfMem) h fun w p hw => ?_)
  split
  · next e => exact of_some_snd e (takeSlot_wfMem hw)
  · exact hw

theorem releaseSlotFrame_wfMem {d fid} (h : s.wfMem) : (releaseSlotFrame s d fid).wfMem :=
  wfMem_ite h (wfMem_ite (quarantine_wfMem h) (freeFrame_wfMem h))

theorem freeMember_wfMem {r x} (h : s.wfMem) : (freeMember r s x).wfMem :=
  modRing_wfMem (foldl_wfMem h fun _ _ h1 => releaseSlotFrame_wfMem h1)

theorem sendBlock_wfMem {m r slot ga eobw lost} (h : s.wfMem) : (sendBlock s m r slot ga eobw lost).wfMem :=
  modRing_wfMem (wfMem_with (sendFrom_wfMem h))

theorem pealBlockStart_wfMem {m r} (h : s.wfMem) : (pealBlockStart s m r).wfMem := by
  unfold pealBlockStart
  extract_lets +onlyGivenNames _
  refine wfMem_ite h ?_
  split
  · extract_lets +onlyGivenNames _
    split
    · extract_lets _ s0 _ s1
      have h0 : s0.wfMem := mendFrame_wfMem h
      have h1 : s1.wfMem := wfMem_ite h0 (findErrors_wfMem h0)
      exact sendBlock_wfMem (modRing_wfMem h1)
    · exact h
  · exact wfMem_ite (sendBlock_wfMem (modRing_wfMem (findErrors_wfMem h))) h
  · exact h

theorem pealFail_wfMem {r op start own visited x reason} (h : s.wfMem) : (pealFail s r op start own visited x reason).wfMem :=
  pealEnd_wfMem (wfMem_ite (foldl_wfMem h fun _ _ h1 => freeMember_wfMem h1) h)

theorem undeliverable_wfMem {m} (h : s.wfMem) : (undeliverable s m).wfMem := by
  unfold undeliverable
  extract_lets s0
  have h0 : s0.wfMem := dropMsg_wfMem h
  split
  · split
    · exact wfMem_ite (engineLost_wfMem h0) h0
    · exact wfMem_ite (engineLost_wfMem h0) h0
    · exact h0
    · exact h0
    · exact h0
    · exact h0
    · exact failWaiting_wfMem h
  · exact failWaiting_wfMem h
  · exact failWaiting_wfMem h
  · exact migrationFails_wfMem h0
  · exact pealFail_wfMem h0
  · exact h0

theorem messageHop_wfMem {k full} (h : s.wfMem) : (messageHop s k full).wfMem := by
  unfold messageHop
  split
  · refine wfMem_ite h ?_
    extract_lets +onlyGivenNames _
    split
    · exact setMsg_wfMem h
    · exact postEvent_wfMem (undeliverable_wfMem h)
  · exact h

theorem pealVisit_wfMem {r op start own visited x} (h : s.wfMem) : (pealVisit s r op start own visited x).wfMem := by
  unfold pealVisit
  split
  · exact pealFail_wfMem h
  · exact sendFrom_wfMem (wfMem_ite (setUpMember_wfMem h) h)

theorem pealDone_wfMem {r op start own visited} (h : s.wfMem) : (pealDone s r op start own visited).wfMem := by
  unfold pealDone
  split
  · exact pealFail_wfMem h
  · split
    · exact pealEnd_wfMem h
    · exact pealEnd_wfMem (foldl_wfMem (foldl_wfMem h fun _ _ h1 => modRing_wfMem h1) fun _ _ h1 => pealBlockStart_wfMem h1)
    · exact pealEnd_wfMem (wfMem_with (foldl_wfMem h fun _ _ h1 => freeMember_wfMem h1))

theorem pealStep_wfMem {op m} (h : s.wfMem) : (pealStep op s m).wfMem := by
  unfold pealStep
  split
  · exact wfMem_ite (pealDone_wfMem (dropMsg_wfMem h)) (pealVisit_wfMem (dropMsg_wfMem h))
  · split
    · exact pealVisit_wfMem h
    · exact h

theorem writePiece_wfMem {ga lo n data bad} (h : s.wfMem) : (writePiece s ga lo n data bad).wfMem :=
  foldl_wfMem (writeBytes_wfMem h) fun _ _ h1 => setPoison_wfMem h1

theorem pealBlockArrive_wfMem {id n0} (h : s.wfMem) : (pealBlockArrive s id n0).wfMem := by
  unfold pealBlockArrive
  split
  · split
    · extract_lets +onlyGivenNames _ _
      refine wfMem_ite (dropMsg_wfMem h) ?_
      extract_lets +onlyGivenNames _ _ _ s1 s2
      have h1 : s1.wfMem := modRing_wfMem h
      have h2 : s2.wfMem := by
        unfold s2
        refine foldl_wfMem h1 fun s f h2 => ?_
        exact mirrorSlot_wfMem (wfMem_ite (mendFrame_wfMem h2) (writePiece_wfMem (mendFrame_wfMem h2)))
      exact wfMem_ite (endBlock_wfMem (dropMsg_wfMem h2)) (setMsg_wfMem h2)
    · exact h
  · exact h

theorem releaseCopy_wfMem {d r j} (h : s.wfMem) : (releaseCopy s d r j).wfMem := by
  unfold releaseCopy
  extract_lets +onlyGivenNames _ s1 s2 _ _
  have h1 : s1.wfMem := mirrorSlot_wfMem h
  have h2 : s2.wfMem := by
    unfold s2
    split
    · exact modDie_wfMem h1
    · exact h1
  exact wfMem_ite (wfMem_with (sendFrom_wfMem (modRing_wfMem h2))) (modRing_wfMem h2)

theorem pealForwardReadDone_wfMem {m r} (h : s.wfMem) : (pealForwardReadDone s m r).wfMem := by
  unfold pealForwardReadDone
  extract_lets +onlyGivenNames _
  split
  · exact wfMem_ite (modRing_wfMem h) (releaseCopy_wfMem (modRing_wfMem h))
  · exact h

theorem releaseMarkerArrive_wfMem {id} (h : s.wfMem) : (releaseMarkerArrive s id).wfMem := by
  unfold releaseMarkerArrive
  split
  · split
    · exact wfMem_ite h (modRing_wfMem (dropMsg_wfMem h))
    · exact h
  · exact h

theorem forwardBranches_wfMem {m hop l} (h : s.wfMem) : (forwardBranches s m hop l).wfMem := by
  unfold forwardBranches
  split
  · exact wfMem_with h
  · exact postEvent_wfMem h

theorem multicastAdvance_wfMem {id} (h : s.wfMem) : (multicastAdvance s id).wfMem := by
  unfold multicastAdvance
  split
  · split
    · refine wfMem_ite h ?_
      extract_lets _ _ s1
      have h1 : s1.wfMem := foldl_wfMem h fun _ _ h1 => forwardBranches_wfMem h1
      exact dropMsg_wfMem (wfMem_ite (deliverAt_wfMem h1) h1)
    · refine wfMem_ite h ?_
      extract_lets _ _ s1
      have h1 : s1.wfMem := foldl_wfMem h fun _ _ h1 => forwardBranches_wfMem h1
      exact dropMsg_wfMem (wfMem_ite (deliverAt_wfMem h1) h1)
    · exact h
  · exact h

theorem setArrival_wfMem {d e v} (h : s.wfMem) : (setArrival s d e v).wfMem := modDie_wfMem h

theorem bindEntry_wfMem {d xa xb} (h : s.wfMem) : (bindEntry s d xa xb).2.wfMem := by
  unfold bindEntry
  extract_lets +onlyGivenNames _ _ _ _ _ _ _
  split
  · exact h
  · split
    · exact h
    · split
      · exact h
      · exact wakePeal_wfMem (modDie_wfMem (setArrival_wfMem h))

theorem withEntry_wfMem {g k i a next} (hnext : ∀ n e, (next n e).wfMem) : (withEntry s g k i a next).wfMem :=
  wfMem_ite rfl (wfMem_ite rfl (wfMem_ite rfl (hnext _ _)))

/-! ### Tasks -/

theorem serveWaiter_wfMem {q} (h : s.wfMem) : (serveWaiter s q).wfMem := by
  unfold serveWaiter
  split
  · split
    · exact wfMem_ite (modCluster_wfMem h) (wfMem_ite (modCtx_wfMem (giveTask_wfMem (modCluster_wfMem h))) h)
    · exact h
  · exact h

theorem serveWaiters_wfMem {q n} (h : s.wfMem) : (serveWaiters s q n).wfMem := by
  induction n generalizing s with
  | zero => exact h
  | succ n ih => exact ih (serveWaiter_wfMem h)

theorem taskReadyDispatch_wfMem {q} (h : s.wfMem) : (taskReadyDispatch s q).wfMem := serveWaiter_wfMem h

theorem execTspawn_kept {p a b} (h : s.wfMem) : Kept (execTspawn p a b s) := by
  unfold execTspawn
  refine issue_kept h fun s g k h1 => wfMem_ite rfl (releaseThen_wfMem h1 fun s h2 => wfMem_ite ?_ rfl)
  exact retireTo_wfMem <| markDirty_wfMem <|
    wfMem_ite (makeReady_wfMem (tcbWrite_wfMem (findTcb_wfMem h2))) (tcbWrite_wfMem (tcbWrite_wfMem (findTcb_wfMem h2)))

theorem execTnext_kept {p d a} (h : s.wfMem) : Kept (execTnext p d a s) := by
  unfold execTnext
  refine issue_kept h fun s g k h1 => ?_
  extract_lets +onlyGivenNames _ _
  split
  · exact giveTask_wfMem h1
  · exact wfMem_ite (retire_wfMem h1) (switchOut_wfMem (modCluster_wfMem h1))

theorem successors_wfMem {g k q idx seen} (h : s.wfMem) : (successors s g k q idx seen).wfMem := by
  unfold successors
  extract_lets +onlyGivenNames _
  refine foldl_wfMem h fun acc i hacc => ?_
  split
  · extract_lets +onlyGivenNames _
    refine wfMem_ite rfl ?_
    split
    · rfl
    · rfl
    · next e =>
      have hs1 := of_eq Xl.wfMem e (translate_wfMem hacc)
      extract_lets +onlyGivenNames _
      split
      · rfl
      · next e => exact wfMem_ite (of_fst e (performAt_wfMem hs1)) rfl
  · exact hacc

theorem foundAll_wfMem {seen} (h : s.wfMem) : (foundAll s seen).wfMem := foldl_wfMem h fun _ _ h1 => findErrors_wfMem h1

theorem waitPage_wfMem {g k va} (h : s.wfMem) : (waitPage s g k va).wfMem := by
  unfold waitPage
  split
  · next e => exact switchOut_wfMem (of_eq Xl.wfMem e (translate_wfMem h))
  · rfl
  · rfl

theorem execTend_kept {p} (h : s.wfMem) : Kept (execTend p s) := by
  unfold execTend
  refine issue_kept h fun s g k h1 => ?_
  extract_lets +onlyGivenNames _
  split
  · rfl
  · refine releaseThen_wfMem h1 fun s h2 => ?_
    split
    · exact raiseTrap_wfMem (foundAll_wfMem h2)
    · exact waitPage_wfMem (foundAll_wfMem h2)
    · next e =>
      exact modCtx_wfMem <|
        retireTo_wfMem <|
        tcbWrite_wfMem <|
        foldl_wfMem (of_eq Succs.wfMem e (successors_wfMem (findTcb_wfMem h2))) fun _ _ h3 => tdecAt_wfMem h3

theorem cancelWalk_wfMem {g k todo n seen fuel} (h : s.wfMem) : (cancelWalk s g k todo n seen fuel).wfMem := by
  induction fuel generalizing s todo n seen with
  | zero => exact h
  | succ fuel ih =>
    cases todo with
    | nil => exact h
    | cons x rest =>
      unfold cancelWalk
      refine wfMem_ite ?_ (ih (findTcb_wfMem h))
      dsimp only
      split
      · rfl
      · rfl
      · next e => exact ih (of_eq Succs.wfMem e (successors_wfMem (setReady_wfMem (tcbWrite_wfMem (findTcb_wfMem h)))))

theorem execTcancel_kept {p d a} (h : s.wfMem) : Kept (execTcancel p d a s) := by
  unfold execTcancel
  refine issue_kept h fun s g k h1 => ?_
  rcases handleOf g (readX s g k a) with ⟨q, idx⟩
  refine wfMem_ite rfl ?_
  split
  · exact raiseTrap_wfMem (foundAll_wfMem h1)
  · exact waitPage_wfMem (foundAll_wfMem h1)
  · next e => exact retire_wfMem (of_eq Cancel.wfMem e (cancelWalk_wfMem h1))

theorem execFrd_kept {p d a} (h : s.wfMem) : Kept (execFrd p d a s) := by
  unfold execFrd
  refine issue_kept h fun s g k h1 => ?_
  extract_lets +onlyGivenNames _ _
  split
  · rfl
  · exact wfMem_ite rfl <|
      reach_wfMem h1 fun _ _ _ _ h2 =>
      afterLine_wfMem h2 fun _ h3 => waitReply_wfMem (sendFrom_wfMem (tcbWrite_wfMem (findTcb_wfMem h3)))

/-! ### The clock -/

theorem evaluateAll_wfMem (h : s.wfMem) : (evaluateAll s).wfMem :=
  foldl_wfMem h fun _ _ h1 => foldl_wfMem h1 fun _ _ h2 => balancerEvaluate_wfMem h2

theorem clockEnd_wfMem (h : s.wfMem) : (clockEnd s).wfMem := by
  unfold clockEnd
  refine foldl_wfMem (wfMem_with (completeBarriers_wfMem (retrySurplus_wfMem (foldl_wfMem (foldl_wfMem ?_ ?_) ?_)))) ?_
  · exact evaluateAll_wfMem h
  · exact fun _ _ h1 => boundaryEnd_wfMem h1
  · exact fun _ _ h1 => coreClockEnd_wfMem h1
  · exact fun _ _ h1 => settle_wfMem h1

theorem clockRise_wfMem (h : s.wfMem) : (clockRise s).wfMem := wfMem_with h

theorem clock_wfMem (h : s.wfMem) : (clock s).wfMem :=
  foldl_wfMem (clockRise_wfMem (clockEnd_wfMem h)) fun _ _ h1 => serveWaiters_wfMem h1

theorem tick_wfMem {n} (h : s.wfMem) : (tick s n).wfMem := by
  induction n generalizing s with
  | zero => exact h
  | succ n ih => exact ih (clock_wfMem h)

theorem takePlace_wfMem {act} (h : s.wfMem) : (takePlace s act).wfMem := wfMem_with h

theorem nextTurn_wfMem (h : s.wfMem) : (nextTurn s).2.wfMem := by
  unfold nextTurn
  split
  · exact wfMem_with h
  · split
    · exact h
    · exact h

/-! ### The vector unit -/

theorem pushEntries_wfMem {g l} (h : s.wfMem) : (pushEntries s g l).wfMem :=
  foldl_wfMem (modCore_wfMem h) fun _ _ h1 => rewritten_wfMem h1

theorem enqueueV_wfMem {i} (h : s.wfMem) : (enqueueV i s).wfMem :=
  issue_wfMem h fun _ _ _ h1 => wfMem_ite rfl (wfMem_ite rfl (retire_wfMem (pushEntries_wfMem h1)))

theorem enqueueMem_wfMem {i} (h : s.wfMem) : (enqueueMem i s).wfMem :=
  issue_wfMem h fun _ _ _ h1 => wfMem_ite rfl (wfMem_ite rfl (pushEntries_wfMem h1))

theorem grantGroup_wfMem {cores grp} (h : s.wfMem) : (grantGroup s cores grp).wfMem := by
  unfold grantGroup
  refine wfMem_ite h ?_
  extract_lets _ _ _ s1
  have h1 : s1.wfMem := foldl_wfMem h fun _ _ h1 => modCore_wfMem h1
  split
  · exact modCore_wfMem h1
  · exact h1

theorem vectorLaneGrant_wfMem {q u} (h : s.wfMem) : (vectorLaneGrant s q u).wfMem :=
  foldl_wfMem h fun _ _ h1 => grantGroup_wfMem h1

theorem goodRegs_wfMem {g i} (h : s.wfMem) : (goodRegs s g i).wfMem := foldl_wfMem h fun _ _ h1 => rewritten_wfMem h1

theorem movedCore_wfMem {g f} (h : s.wfMem) : (movedCore s g f).wfMem := queueShift_wfMem (modCore_wfMem h)

theorem vectorError_wfMem {g e} (h : s.wfMem) : (vectorError s g e).all State.wfMem :=
  wfMem_ite (P := Option.all State.wfMem) (all_some (reportError_wfMem (modCore_wfMem h)))
    (all_map (P := fun _ => true) (by simp) fun _ _ => movedCore_wfMem h)

theorem vectorRetire_wfMem {g} (h : s.wfMem) : (vectorRetire s g).wfMem := by
  unfold vectorRetire
  extract_lets +onlyGivenNames _
  split
  · extract_lets _
    refine wfMem_ite h ?_
    split
    · next e => exact of_some e (vectorError_wfMem h)
    · exact raise_wfMem (writeXs_wfMem (movedCore_wfMem (goodRegs_wfMem h)))
  · exact h

theorem checkPieces_wfMem {g k need n l} (h : s.wfMem) : (checkPieces s g k need n l).wfMem := by
  induction l generalizing s with
  | nil => exact h
  | cons x rest ih =>
    unfold checkPieces
    refine wfMem_ite rfl ?_
    split
    · rfl
    · next e => exact of_eq Xl.wfMem e (translate_wfMem h)
    · next e =>
      have ht := of_eq Xl.wfMem e (translate_wfMem h)
      split
      · next e =>
        have hu := of_eq VCheck.wfMem e (ih ht)
        exact hu
      · exact ih ht

theorem performPiece_wfMem {g k e j p} (h : s.wfMem) : (performPiece s g k e j p).1.wfMem := by
  unfold performPiece
  extract_lets +onlyGivenNames _
  split
  · exact granting_wfMem (directWrite_wfMem (flushBeforeV_wfMem (markDirty_wfMem h)))
  · split
    · next e => exact granting_wfMem (of_fst e (performAt_wfMem h))
    · next e => exact of_fst e (performAt_wfMem h)

theorem sendReads_wfMem {g k e l} (h : s.wfMem) : (sendReads s g k e l).1.wfMem := by
  unfold sendReads
  exact foldl_wfMem (P := fun r : State × VJob => r.1.wfMem) h fun _ _ h1 => sendFrom_wfMem h1

theorem finishMem_wfMem {g e j} (h : s.wfMem) : (finishMem s g e j).wfMem := by
  unfold finishMem
  extract_lets +onlyGivenNames _ _ _ _ back _
  have hback : ∀ s, s.wfMem → (back s).wfMem := fun _ h1 => wfMem_ite (wake_wfMem h1) h1
  split
  · exact raiseTrap_wfMem (hback _ (movedCore_wfMem h))
  · exact wfMem_ite (wake_wfMem (retireTo_wfMem (movedCore_wfMem (goodRegs_wfMem h)))) <|
      retireTo_wfMem (movedCore_wfMem (goodRegs_wfMem h))

theorem stepPieces_wfMem {g e j} (h : s.wfMem) : (stepPieces s g e j).wfMem := by
  unfold stepPieces
  split
  · exact wfMem_ite (finishMem_wfMem h) h
  · next more _ =>
    have hdraw : (if more.isEmpty then (0, s) else draw s).2.wfMem :=
      wfMem_ite (P := fun r : Nat × State => r.2.wfMem) h (draw_wfMem h)
    exact wfMem_ite (finishMem_wfMem (performPiece_wfMem hdraw)) (modCore_wfMem (performPiece_wfMem hdraw))

theorem startPieces_wfMem {g k e l} (h : s.wfMem) : (startPieces s g k e l).wfMem := by
  unfold startPieces
  extract_lets _ _
  refine wfMem_ite (flushWhile_wfMem h) (wfMem_ite h (wfMem_ite ?_ (stepPieces_wfMem h)))
  exact switchOut_wfMem (modCore_wfMem (sendReads_wfMem h))

/-- The entry read is named before the proof splits on it, so that the kernel never evaluates it. -/
theorem translationWalkDone_wfMem {g k} (h : s.wfMem) : (translationWalkDone s g k).wfMem := by
  obtain ⟨entry, hdef⟩ : ∃ f, walkEntry = f := ⟨_, rfl⟩
  have hentry : ∀ m va node level, (entry s m va node level).1.wfMem := fun _ _ _ _ => hdef ▸ walkEntry_wfMem h
  unfold translationWalkDone
  rw [hdef]
  split
  · extract_lets +onlyGivenNames _ _ fail
    have hfail : ∀ t c, t.wfMem → (fail t c).wfMem := by
      intro t c h1
      unfold fail
      exact wfMem_ite h (takeTrap_wfMem (wake_wfMem (wfMem_ite (movedCore_wfMem h1) h1)))
    split
    · exact hfail _ _ h
    · split
      · next e => exact wake_wfMem (tlbInsert_wfMem (of_fst e (hentry _ _ _ _)))
      · next e => exact modCtx_wfMem (of_fst e (hentry _ _ _ _))
      · next e => exact hfail _ _ (of_fst e (hentry _ _ _ _))
  · exact h

theorem vectorMemoryAccess_wfMem {g} (h : s.wfMem) : (vectorMemoryAccess s g).wfMem := by
  unfold vectorMemoryAccess
  extract_lets +onlyGivenNames _
  split
  · extract_lets +onlyGivenNames _ _
    refine wfMem_ite h ?_
    split
    · exact stepPieces_wfMem h
    · split
      · next e => exact of_some e (vectorError_wfMem h)
      · refine wfMem_ite (takeTrap_wfMem (movedCore_wfMem h)) ?_
        split
        · exact raiseTrap_wfMem (movedCore_wfMem h)
        · next e => exact switchOut_wfMem (of_eq VCheck.wfMem e (checkPieces_wfMem h))
        · next e => exact startPieces_wfMem (of_eq VCheck.wfMem e (checkPieces_wfMem h))
  · exact h

theorem captureRun_wfMem {g k l} (h : s.wfMem) : (captureRun s g k l).wfMem := by
  induction l generalizing s with
  | nil => exact h
  | cons i rest ih =>
    exact wfMem_ite h (ih (modCore_wfMem (foldl_wfMem h fun _ _ h1 => popPort_wfMem h1)))

theorem enterRun_wfMem {g k reps pc} (h : s.wfMem) : (enterRun s g k reps pc).wfMem :=
  modCtx_wfMem (modCore_wfMem (pushEntries_wfMem h))

theorem goOnRun_wfMem {g k reps l pc} (h : s.wfMem) : (goOnRun s g k reps l pc).wfMem :=
  wfMem_ite (modCore_wfMem (captureRun_wfMem h)) (enterRun_wfMem (captureRun_wfMem h))

theorem execVrep_kept {p n imm} (h : s.wfMem) : Kept (execVrep p n imm s) := by
  unfold execVrep
  refine issue_kept h fun s g k h1 => ?_
  extract_lets _
  split
  · exact goOnRun_wfMem h1
  · split
    · rfl
    · exact wfMem_ite rfl (goOnRun_wfMem h1)

/-! ### The matrix unit -/

theorem enterCmd_wfMem {g k i c} (h : s.wfMem) : (enterCmd s g k i c).wfMem :=
  wfMem_ite rfl (wfMem_ite (retire_wfMem (modCore_wfMem h)) (retire_wfMem (rewritten_wfMem (modCore_wfMem h))))

theorem afterFault_wfMem {g next} (hnext : next.wfMem) : (afterFault s g next).wfMem := by
  unfold afterFault
  split
  · rfl
  · exact hnext

theorem ownBytes_wfMem {g k xa n next} (h : s.wfMem) (hnext : ∀ t l, t.wfMem → (next t l).wfMem) :
    (ownBytes s g k xa n next).wfMem := by
  unfold ownBytes
  refine wfMem_ite rfl (wfMem_ite rfl ?_)
  split
  · next e => exact takeTrap_wfMem (of_fst e (readAt_wfMem h))
  · next e => exact hnext _ _ (of_fst e (readAt_wfMem h))

theorem issueCmd_wfMem {i form elem a b} (h : s.wfMem) : (issueCmd i form elem a b s).wfMem := by
  unfold issueCmd
  refine issue_wfMem h fun s g k h1 => afterFault_wfMem (ownBytes_wfMem h1 fun t l h2 => ?_)
  dsimp only
  split
  · rfl
  · exact enterCmd_wfMem h2

theorem issueBare_wfMem {i form} (h : s.wfMem) : (issueBare i form s).wfMem :=
  issue_wfMem h fun _ _ _ h1 => afterFault_wfMem (enterCmd_wfMem h1)

theorem faultHead_wfMem {g code val} (h : s.wfMem) : (faultHead s g code val).wfMem := modCore_wfMem h

theorem discardRing_wfMem {g n fault} (h : s.wfMem) : (discardRing s g n fault).wfMem :=
  wfMem_ite (wfMem_with h) (modCore_wfMem h)

theorem discardElsewhere_wfMem {g m fault} (h : s.wfMem) : (discardElsewhere s g m fault).wfMem :=
  wfMem_ite (foldl_wfMem h fun _ _ h1 => discardRing_wfMem h1) h

theorem faultEntry_wfMem {g m} (h : s.wfMem) : (faultEntry s g m).wfMem :=
  discardElsewhere_wfMem (reportError_wfMem (faultHead_wfMem h))

theorem faultRing_wfMem {q code val} (h : s.wfMem) : (faultRing s q code val).wfMem :=
  foldl_wfMem h fun _ _ h1 => faultHead_wfMem h1

theorem setHead_wfMem {g f} (h : s.wfMem) : (setHead s g f).wfMem := modCore_wfMem h

theorem matrixCommandStart_wfMem {g} (h : s.wfMem) : (matrixCommandStart s g).wfMem := by
  unfold matrixCommandStart
  extract_lets +onlyGivenNames _
  split
  · refine wfMem_ite h (wfMem_ite h ?_)
    extract_lets s1
    have h1 : s1.wfMem := wfMem_ite (setHead_wfMem (modCore_wfMem h)) h
    exact wfMem_ite (faultEntry_wfMem h1) (wfMem_ite h1 (wfMem_ite (faultHead_wfMem h1) (setHead_wfMem h1)))
  · exact h

theorem ringOperationStart_wfMem {q} (h : s.wfMem) : (ringOperationStart s q).wfMem := by
  unfold ringOperationStart
  split
  · exact h
  · extract_lets +onlyGivenNames _
    refine wfMem_ite h ?_
    extract_lets +onlyGivenNames _
    split
    · exact faultEntry_wfMem h
    · exact wfMem_ite (faultRing_wfMem h) <|
        wfMem_ite (faultRing_wfMem h) <|
        wfMem_ite (foldl_wfMem h fun _ _ h1 => setHead_wfMem h1) <|
        wfMem_ite (wfMem_ite (faultRing_wfMem h) h) (wfMem_ite h (foldl_wfMem h fun _ _ h1 => setHead_wfMem h1))

theorem residueEvents_wfMem {q blocks count opc} (h : s.wfMem) : (residueEvents s q blocks count opc).wfMem :=
  foldl_wfMem h fun _ _ h1 => postEvent_wfMem (modDie_wfMem h1)

theorem spendUpsets_wfMem {t : State} {g m rows} (h : t.wfMem) : (spendUpsets s t g m rows).wfMem := wfMem_with h

theorem findAcc_wfMem {g} (h : s.wfMem) : (findAcc s g).wfMem :=
  wfMem_ite h (foldl_wfMem (modCore_wfMem h) fun _ _ h1 => countUe_wfMem h1)

theorem findBank_wfMem {g m} (h : s.wfMem) : (findBank s g m).wfMem := wfMem_ite h (findAcc_wfMem h)

theorem finishMop_wfMem {g m} (h : s.wfMem) : (finishMop s g m).wfMem := by
  unfold finishMop
  extract_lets +onlyGivenNames _ _ _ _ s1
  have h1 : s1.wfMem := foldl_wfMem (findBank_wfMem h) fun _ _ h1 => findErrors_wfMem h1
  split
  · exact faultHead_wfMem h1
  · extract_lets +onlyGivenNames s2
    have h2 : s2.wfMem := spendUpsets_wfMem h1
    exact wfMem_ite (faultHead_wfMem (residueEvents_wfMem h2)) (modCore_wfMem h2)

theorem finishRing_wfMem {s0 : State} {q l} (h : s0.wfMem) : (finishRing s0 q l).wfMem := by
  unfold finishRing
  extract_lets +onlyGivenNames _ s
  have hs : s.wfMem := wfMem_elim h fun _ => mendFrame_wfMem h
  split
  · exact faultRing_wfMem hs
  · extract_lets +onlyGivenNames _ _ _ s1
    have h1 : s1.wfMem := foldl_wfMem (foldl_wfMem hs fun _ _ h1 => findBank_wfMem h1) fun _ _ h1 => findErrors_wfMem h1
    split
    · exact faultRing_wfMem h1
    · extract_lets +onlyGivenNames clean
      have hclean : clean.wfMem := foldl_wfMem h1 fun _ _ h2 => spendUpsets_wfMem h2
      split
      · exact faultRing_wfMem (residueEvents_wfMem hclean)
      · exact foldl_wfMem hclean fun _ _ h2 => modCore_wfMem h2

theorem finishCmd_wfMem {g} (h : s.wfMem) : (finishCmd s g).wfMem := by
  unfold finishCmd
  split
  · refine wfMem_ite h ?_
    split
    · exact modCore_wfMem h
    · exact modCore_wfMem h
    · exact finishMop_wfMem h
    · split
      · exact wfMem_ite (finishRing_wfMem h) h
      · exact h
  · exact h

theorem exchangeBank_wfMem {g} (h : s.wfMem) : (exchangeBank s g).wfMem := by
  unfold exchangeBank
  split
  · exact queueShift_wfMem (modCore_wfMem h)
  · exact h

theorem countPeal_wfMem {q m} (h : s.wfMem) : (countPeal s q m).wfMem := wfMem_ite h (wakeAll_wfMem (modDie_wfMem h))

theorem exchangeBanks_wfMem {g} (h : s.wfMem) : (exchangeBanks s g).wfMem := by
  unfold exchangeBanks
  extract_lets _ _
  split
  · exact wfMem_ite (wfMem_ite (countPeal_wfMem (foldl_wfMem h fun _ _ h1 => exchangeBank_wfMem h1)) h) <|
      wfMem_ite (exchangeBank_wfMem h) h
  · exact h

theorem matrixCommandComplete_wfMem {g} (h : s.wfMem) : (matrixCommandComplete s g).wfMem :=
  exchangeBanks_wfMem (finishCmd_wfMem h)

theorem discardHeld_wfMem {g fault} (h : s.wfMem) : (discardHeld s g fault).wfMem :=
  wfMem_elim (modCore_wfMem h) fun _ => discardElsewhere_wfMem (modCore_wfMem h)

theorem matrixWait_wfMem {g k} (h : s.wfMem) : (matrixWait s g k).wfMem := wfMem_ite (switchOut_wfMem h) rfl

theorem transferGate_wfMem {g k i ch id} (h : s.wfMem) : (transferGate s g k i ch id).wfMem :=
  wfMem_ite rfl <|
    wfMem_ite (takeTrap_wfMem (discardHeld_wfMem h)) (wfMem_ite (wfMem_ite rfl (retire_wfMem (modCore_wfMem h))) rfl)

theorem drainRowDispatch_wfMem {g} (h : s.wfMem) : (drainRowDispatch s g).wfMem := by
  unfold drainRowDispatch
  extract_lets +onlyGivenNames _
  split
  · split
    · exact wfMem_ite h <|
        putCtx_wfMem <|
        modCore_wfMem <|
        foldl_wfMem (writeBytes_wfMem (findAcc_wfMem h)) fun _ _ h1 => wfMem_ite (setPoison_wfMem h1) h1
    · exact h
  · exact h

theorem endRow_wfMem {g k} (h : s.wfMem) : (endRow s g k).wfMem := switchOut_wfMem (modCtx_wfMem (modCore_wfMem h))

theorem storeWide_wfMem {g k va bytes next} (h : s.wfMem) (hnext : ∀ t, t.wfMem → (next t).wfMem) :
    (storeWide s g k va bytes next).wfMem := by
  unfold storeWide
  extract_lets +onlyGivenNames _
  split
  · rfl
  · next e => exact switchOut_wfMem (of_eq VCheck.wfMem e (checkPieces_wfMem h))
  · next e =>
    exact wfMem_ite rfl <|
      wfMem_ite (flushWhile_wfMem h) <|
      wfMem_ite rfl <|
      hnext _ <|
      foldl_wfMem (of_eq VCheck.wfMem e (checkPieces_wfMem h)) fun _ _ h1 => granting_wfMem (directWrite_wfMem h1)

theorem execDret_kept {p f a b} (h : s.wfMem) : Kept (execDret p f a b s) := by
  unfold execDret
  refine issue_kept h fun s g k h1 => ?_
  extract_lets +onlyGivenNames _
  refine wfMem_ite rfl (wfMem_ite (endRow_wfMem h1) (wfMem_ite rfl ?_))
  extract_lets +onlyGivenNames _
  split
  · next e => exact takeTrap_wfMem (of_fst e (readAt_wfMem h1))
  · next e =>
    exact storeWide_wfMem (of_fst e (readAt_wfMem h1)) fun _ h2 => endRow_wfMem (raise_wfMem (modCore_wfMem h2))

theorem mtestSweepStart_wfMem {q} (h : s.wfMem) : (mtestSweepStart s q).wfMem := by
  unfold mtestSweepStart
  split
  · exact wfMem_ite (modCluster_wfMem h) h
  · exact h

theorem mtestSweepEnd_wfMem {q} (h : s.wfMem) : (mtestSweepEnd s q).wfMem := by
  unfold mtestSweepEnd
  split
  · extract_lets +onlyGivenNames _ _
    refine wfMem_ite h ?_
    extract_lets +onlyGivenNames s1 s2
    have h1 : s1.wfMem := modCluster_wfMem (wfMem_with h)
    have h2 : s2.wfMem := modDie_wfMem h1
    exact wfMem_ite (completeWait_wfMem h2) h2
  · exact h

theorem execMremap_kept {p d a} (h : s.wfMem) : Kept (execMremap p d a s) := by
  unfold execMremap
  refine issue_kept h fun s g k h1 => ?_
  extract_lets +onlyGivenNames _ _
  refine wfMem_ite rfl ?_
  refine ownBytes_wfMem h1 fun s1 l h2 => ?_
  extract_lets +onlyGivenNames _
  split
  · exact retire_wfMem h2
  · split
    · exact retire_wfMem h2
    · exact modCluster_wfMem h2

theorem putMap_wfMem {q map} (h : s.wfMem) : (putMap s q map).wfMem := postEvent_wfMem (modCluster_wfMem h)

theorem installMap_wfMem {q map} (h : s.wfMem) : (installMap s q map).wfMem := modMod_wfMem (putMap_wfMem h)

theorem faultMapInstall_wfMem {q} (h : s.wfMem) : (faultMapInstall s q).wfMem := by
  unfold faultMapInstall
  split
  · refine wfMem_ite h ?_
    extract_lets +onlyGivenNames _ _
    refine wfMem_ite h ?_
    extract_lets s1 s2 s3
    have h1 : s1.wfMem := modCluster_wfMem h
    have h2 : s2.wfMem := wfMem_ite h1 (stranded_wfMem (installMap_wfMem h1))
    have h3 : s3.wfMem := writeXs_wfMem (foldl_wfMem h2 fun _ _ h3 => popPort_wfMem h3)
    exact modCtx_wfMem h3
  · exact h

/-! ### Saved cores -/

theorem putRecord_wfMem {area g c} (h : s.wfMem) : (putRecord s area g c).wfMem := foldl_wfMem h fun _ _ h1 => writeBytes_wfMem h1

/-! ### Launches, preemption and resumption -/

theorem putLaunch_wfMem {q l} (h : s.wfMem) : (putLaunch s q l).wfMem := modLq_wfMem h

theorem completeLaunch_wfMem {q tag head status code node runs amount} (h : s.wfMem) :
    (completeLaunch s q tag head status code node runs amount).wfMem :=
  modMod_wfMem (modLq_wfMem (hostWrite_wfMem h))

theorem findRecord_wfMem {q r} (h : s.wfMem) : (findRecord s q r).wfMem := findWhere_wfMem h

theorem findContents_wfMem {q r} (h : s.wfMem) : (findContents s q r).wfMem := findWhere_wfMem h

theorem acceptLaunch_wfMem {q r tag head prio g} (h : s.wfMem) : (acceptLaunch s q r tag head prio g).wfMem :=
  putLaunch_wfMem (wfMem_with h)

theorem walkGraph_wfMem {s0 : State} {q tag head prio g n} (h : s0.wfMem) : (walkGraph s0 q tag head prio g n).wfMem := by
  induction n generalizing s0 g with
  | zero => exact h
  | succ n ih =>
    unfold walkGraph
    extract_lets +onlyGivenNames s fault go a w addr nxt alt
    have hs : s.wfMem := findWhere_wfMem h
    have hfault : ∀ s r g, s.wfMem → (fault s r g).wfMem := fun _ _ _ h1 => completeLaunch_wfMem h1
    have hgo : ∀ s n iter, s.wfMem → (go s n iter).wfMem := fun _ _ _ h1 => wfMem_ite (hfault _ _ _ h1) (ih h1)
    refine wfMem_ite (hfault _ _ _ h) ?_
    split
    · exact completeLaunch_wfMem hs
    · extract_lets r t
      have ht : t.wfMem := findRecord_wfMem (findWhere_wfMem hs)
      refine wfMem_ite (hfault _ _ _ ht) ?_
      split
      · exact completeLaunch_wfMem ht
      · exact acceptLaunch_wfMem ht
    · exact wfMem_ite (hfault _ _ _ hs) (hgo _ _ _ (wfMem_ite hs (findWhere_wfMem hs)))
    · exact wfMem_ite (hgo _ _ _ hs) (hgo _ _ _ hs)
    · exact hfault _ _ _ hs

theorem launchTake_wfMem {d q} (h : s.wfMem) : (launchTake s d q).wfMem := by
  unfold launchTake
  extract_lets +onlyGivenNames _
  refine wfMem_ite h ?_
  extract_lets _ _ s1
  have h1 : s1.wfMem := findRecord_wfMem (findWhere_wfMem (modLq_wfMem h))
  split
  · exact completeLaunch_wfMem h1
  · exact acceptLaunch_wfMem h1

theorem graphStart_wfMem {d q} (h : s.wfMem) : (graphStart s d q).wfMem := by
  unfold graphStart
  extract_lets +onlyGivenNames _
  refine wfMem_ite h ?_
  extract_lets _ _ _ s1
  have h1 : s1.wfMem := findWhere_wfMem (modLq_wfMem h)
  split
  · exact completeLaunch_wfMem h1
  · exact completeLaunch_wfMem h1
  · exact walkGraph_wfMem h1

theorem giveCluster_wfMem {q c targets} (h : s.wfMem) : (giveCluster s q c targets).wfMem :=
  modCluster_wfMem (foldl_wfMem h fun _ _ h1 => modCore_wfMem h1)

theorem takeCores_wfMem {d q} (h : s.wfMem) : (takeCores s d q).wfMem := by
  unfold takeCores
  extract_lets +onlyGivenNames _
  split
  · split
    · exact completeLaunch_wfMem h
    · refine wfMem_ite ?_ h
      extract_lets s1 _
      have h1 : s1.wfMem := putLaunch_wfMem h
      refine foldl_wfMem h1 fun t c h2 => ?_
      split
      · exact giveCluster_wfMem h2
      · exact modCluster_wfMem h2
  · exact h

theorem scrubCluster_wfMem {c} (h : s.wfMem) : (scrubCluster s c).wfMem :=
  modCluster_wfMem (wfMem_mk (Memory.wf_filter _ _ (wf_mem h)) (wf_host h))

theorem coreErrors_wfMem {g p} (h : s.wfMem) : (coreErrors s g p).wfMem := wfMem_with h

theorem freshCode_wfMem {g} (h : s.wfMem) : (freshCode s g).wfMem := coreErrors_wfMem h

theorem freshMigrant_wfMem {g secs} (h : s.wfMem) : (freshMigrant s g secs).wfMem := coreErrors_wfMem h

theorem setInstance_wfMem {ga expect} (h : s.wfMem) : (setInstance s ga expect).wfMem := setBar_wfMem h

theorem beginLaunch_wfMem {q r} (h : s.wfMem) : (beginLaunch s q r).wfMem := by
  unfold beginLaunch
  extract_lets +onlyGivenNames _ _ _ _ _ _ s1 _ groups _ mig
  have h1 : s1.wfMem := by
    unfold s1
    refine foldl_wfMem h fun s b h1 => ?_
    split
    · exact foldl_wfMem h1 fun _ _ h2 => setInstance_wfMem h2
    · exact setInstance_wfMem h1
    · exact wfMem_ite (setInstance_wfMem (wfMem_with h1)) h1
    · exact h1
  have hgroups : ∀ s, s.wfMem → (groups s).wfMem := fun _ h2 =>
    foldl_wfMem h2 fun _ _ h3 =>
    wfMem_ite h3 <|
    wfMem_ite (wfMem_ite (beginIfFull_wfMem (modGroup_wfMem h3)) (modGroup_wfMem h3)) <|
    foldl_wfMem h3 fun _ _ h4 => modGroup_wfMem h4
  have hmig : ∀ s, s.wfMem → (mig s).wfMem := fun _ h2 =>
    wfMem_ite h2 (foldl_wfMem h2 fun _ _ h3 => modCore_wfMem (freshMigrant_wfMem h3))
  exact hmig _ (hgroups _ h1)

theorem sendStart_wfMem {q g entry restore} (h : s.wfMem) : (sendStart s q g entry restore).wfMem := sendFrom_wfMem h

theorem loadSection_wfMem {img y dst} (h : s.wfMem) : (loadSection s img y dst).wfMem :=
  foldl_wfMem (writeBytes_wfMem h) fun _ _ h1 => setPoison_wfMem h1

theorem loadData_wfMem {q c r targets} (h : s.wfMem) : (loadData s q c r targets).wfMem :=
  foldl_wfMem (foldl_wfMem h fun _ _ h1 => foldl_wfMem h1 fun _ _ h2 => loadSection_wfMem h2) fun _ _ h1 =>
    foldl_wfMem h1 fun _ _ h2 => loadSection_wfMem h2

theorem clusterPrepare_wfMem {s0 : State} {c} (h : s0.wfMem) : (clusterPrepare s0 c).wfMem := by
  unfold clusterPrepare
  split
  · split
    · extract_lets +onlyGivenNames _ s _ _ _ s1 s2 s3 s4 s5
      have hs : s.wfMem := findContents_wfMem (findRecord_wfMem h)
      have h1 : s1.wfMem := wfMem_ite (scrubCluster_wfMem hs) hs
      have h2 : s2.wfMem := modCluster_wfMem h1
      have h3 : s3.wfMem := wfMem_ite h2 (beginLaunch_wfMem (putLaunch_wfMem h2))
      have h4 : s4.wfMem := foldl_wfMem h3 fun _ _ h4 => wfMem_ite (setInstance_wfMem h4) h4
      have h5 : s5.wfMem := loadData_wfMem h4
      exact foldl_wfMem h5 fun _ _ h6 => sendStart_wfMem (putCore_wfMem (freshCode_wfMem h6))
    · exact modCluster_wfMem h
  · exact h

theorem flushLaunch_wfMem {q} (h : s.wfMem) : (flushLaunch s q).wfMem :=
  foldl_wfMem h fun _ _ h1 => wfMem_ite h1 (flushAll_wfMem h1)

theorem retireGroups_wfMem {q} (h : s.wfMem) : (retireGroups s q).wfMem := wfMem_with h

theorem launchRetire_wfMem {s0 : State} {d q} (h : s0.wfMem) : (launchRetire s0 d q).wfMem := by
  unfold launchRetire
  extract_lets +onlyGivenNames _
  split
  · extract_lets +onlyGivenNames s
    have hs : s.wfMem := flushLaunch_wfMem h
    refine wfMem_ite hs ?_
    extract_lets +onlyGivenNames s1
    have h1 : s1.wfMem := retireGroups_wfMem (wfMem_with hs)
    split
    · exact completeLaunch_wfMem h1
    · exact walkGraph_wfMem h1
  · exact h

theorem withdraw_wfMem {s0 : State} {g k} (h : s0.wfMem) : (withdraw s0 g k).wfMem := by
  unfold withdraw
  extract_lets s ready _
  have hs : s.wfMem := wfMem_with h
  have hready : ∀ s, s.wfMem → (ready s).wfMem := fun _ h1 => modCtx_wfMem h1
  split
  · exact wfMem_ite (hready _ (dropMsg_wfMem hs)) hs
  · exact hready _ (modCluster_wfMem hs)
  · exact hready _ hs
  · exact wfMem_ite (hready _ (modCluster_wfMem hs)) hs
  · exact hs

theorem discardRunning_wfMem {g} (h : s.wfMem) : (discardRunning s g).wfMem := by
  unfold discardRunning
  extract_lets stop
  have hstop : ∀ s g, s.wfMem → (stop s g).wfMem := fun _ _ h1 => modCore_wfMem h1
  split
  · exact wfMem_ite h (wfMem_ite (foldl_wfMem h fun _ _ h1 => wfMem_ite (hstop _ _ h1) h1) (hstop _ _ h))
  · exact h

theorem writeRecord_wfMem {s0 : State} {g} (h : s0.wfMem) : (writeRecord s0 g).wfMem := by
  unfold writeRecord
  extract_lets s c _ r _ rest s1
  have h1 : s1.wfMem := putRecord_wfMem (flushAll_wfMem h)
  clear_value s1 r rest
  have h2 : (putCore s1 g rest).wfMem := putCore_wfMem h1
  exact enterTrap_wfMem (wfMem_with h2)

theorem preemptCore_wfMem {g} (h : s.wfMem) : (preemptCore s g).wfMem := by
  unfold preemptCore
  split
  · extract_lets +onlyGivenNames _
    refine wfMem_ite h ?_
    extract_lets +onlyGivenNames s1 s2
    have h1 : s1.wfMem := modCore_wfMem h
    have h2 : s2.wfMem := discardRunning_wfMem (foldl_wfMem h1 fun _ _ h2 => withdraw_wfMem h2)
    exact wfMem_ite (writeRecord_wfMem h2) h2
  · exact h

theorem copyOut_wfMem {s0 : State} {c area} (h : s0.wfMem) : (copyOut s0 c area).wfMem := by
  unfold copyOut
  extract_lets s _ _ _ _
  have hs : s.wfMem := findWhere_wfMem h
  exact wfMem_mk (Memory.wf_foldl (fun e => e) _ _ (Memory.wf_filter _ _ (wf_mem hs))) (wf_host hs)

theorem putLists_wfMem {c copy area} (h : s.wfMem) : (putLists s c copy area).wfMem := writeBytes_wfMem h

theorem putRecords_wfMem {area cores} (h : s.wfMem) : (putRecords s area cores).wfMem :=
  foldl_wfMem h fun _ _ h1 => putRecord_wfMem h1

theorem copyRoutine_wfMem {src dst cores} (h : s.wfMem) : (copyRoutine s src dst cores).wfMem :=
  wfMem_ite h (foldl_wfMem h fun _ _ h1 => writeBytes_wfMem h1)

theorem clusterSave_wfMem {s0 : State} {c} (h : s0.wfMem) : (clusterSave s0 c).wfMem := by
  unfold clusterSave
  split
  · extract_lets +onlyGivenNames _ _ s
    have hs : s.wfMem := foldl_wfMem h fun _ _ h1 => wfMem_ite h1 (flushAll_wfMem h1)
    refine wfMem_ite hs ?_
    extract_lets +onlyGivenNames _ _ _ _ _ save s1 s2 s3
    have h1 : s1.wfMem := by
      unfold s1
      cases save with
      | none => exact hs
      | some v =>
        refine foldl_wfMem (wfMem_with (foldl_wfMem hs fun _ _ h1 => ?_)) fun _ _ h1 => putLists_wfMem h1
        exact copyRoutine_wfMem (putRecords_wfMem (putReady_wfMem (copyOut_wfMem h1)))
    have h2 : s2.wfMem := foldl_wfMem h1 fun _ _ h2 => modCore_wfMem h2
    have h3 : s3.wfMem := wfMem_with h2
    exact giveCluster_wfMem h3
  · exact h

theorem savedCopyAccess_wfMem {id} (h : s.wfMem) : (savedCopyAccess s id).wfMem := by
  unfold savedCopyAccess
  split
  · split
    · exact wfMem_ite h (wfMem_elim (feRequest_wfMem h) fun _ => putLists_wfMem (feRequest_wfMem h))
    · exact wfMem_ite h (accessAtHome_wfMem h)
    · exact h
  · exact h

theorem copyIn_wfMem {s0 : State} {c area} (h : s0.wfMem) : (copyIn s0 c area).wfMem := by
  unfold copyIn
  extract_lets s _ _ _ _ _
  have hs : s.wfMem := findWhere_wfMem h
  exact wfMem_mk (Memory.wf_foldl (fun e => e) _ _ (Memory.wf_filter _ _ (wf_mem hs))) (wf_host hs)

theorem launchResume_wfMem {c} (h : s.wfMem) : (launchResume s c).wfMem := by
  unfold launchResume
  split
  · extract_lets +onlyGivenNames _ _
    refine wfMem_ite h ?_
    extract_lets +onlyGivenNames s1 s2 s3 s4 s5
    have h1 : s1.wfMem := wfMem_ite h (scrubCluster_wfMem h)
    have h2 : s2.wfMem := copyIn_wfMem (wfMem_with h1)
    have h3 : s3.wfMem := modCluster_wfMem h2
    have h4 : s4.wfMem := foldl_wfMem h3 fun _ _ h4 => modCore_wfMem h4
    have h5 : s5.wfMem := foldl_wfMem h4 fun _ _ h5 => wfMem_ite (putCore_wfMem h5) (sendStart_wfMem (putCore_wfMem h5))
    refine foldl_wfMem h5 fun s r h6 => ?_
    refine foldl_wfMem h6 fun s level h7 => ?_
    split
    · exact beginIfFull_wfMem h7
    · exact h7
  · exact h

/-! ### The host and SPDM -/

theorem hostEvent_wfMem {m ga read} (h : s.wfMem) : (hostEvent s m ga read).wfMem := postEvent_wfMem h

theorem hostStore_wfMem {m} (h : s.wfMem) : (hostStore s m).wfMem := by
  unfold hostStore
  split
  · extract_lets +onlyGivenNames _
    refine wfMem_ite h ?_
    extract_lets s1 _ _ s2 s3
    have h1 : s1.wfMem := modMod_wfMem h
    have h2 : s2.wfMem := writeRegBytes_wfMem h1
    have h3 : s3.wfMem := writeCells_wfMem h2
    split
    · exact hostEvent_wfMem h3
    · exact h3
  · exact h

theorem hostLoad_wfMem {m} (h : s.wfMem) : (hostLoad s m).wfMem := by
  unfold hostLoad
  split
  · extract_lets +onlyGivenNames _
    refine wfMem_ite h ?_
    extract_lets s1 s2
    have h1 : s1.wfMem := findErrors_wfMem (modMod_wfMem h)
    have h2 : s2.wfMem := modMod_wfMem h1
    split
    · exact hostEvent_wfMem h2
    · exact h2
  · exact h

theorem trapimgInstall_wfMem {s0 : State} {m} (h : s0.wfMem) : (trapimgInstall s0 m).wfMem :=
  wfMem_ite h (postEvent_wfMem (modMod_wfMem (findWhere_wfMem h)))

theorem fwmbUpdate_wfMem {m fails} (h : s.wfMem) : (fwmbUpdate s m fails).wfMem := wfMem_ite h (modMod_wfMem h)

theorem spdmAnswer_wfMem {m out f} (h : s.wfMem) : (spdmAnswer s m out f).wfMem := modMod_wfMem h

theorem spdmError_wfMem {m err data} (h : s.wfMem) : (spdmError s m err data).wfMem := spdmAnswer_wfMem h

theorem deviceSign_wfMem {m context transcript} (h : s.wfMem) : (deviceSign s m context transcript).2.wfMem := draw_wfMem h

theorem drawBytes_wfMem {n} (h : s.wfMem) : (drawBytes s n).2.wfMem := draw_wfMem h

theorem getVersion_wfMem {m} (h : s.wfMem) : (getVersion s m).wfMem := by
  unfold getVersion
  split
  · exact spdmAnswer_wfMem h
  · exact h

theorem getCapabilities_wfMem {m} (h : s.wfMem) : (getCapabilities s m).wfMem := by
  unfold getCapabilities
  split
  · refine wfMem_ite (spdmError_wfMem h) ?_
    split
    next e =>
      have h1 := of_snd e (drawBytes_wfMem h)
      split
      next e => exact spdmAnswer_wfMem (of_snd e (drawBytes_wfMem h1))
  · exact h

theorem negotiateAlgorithms_wfMem {m} (h : s.wfMem) : (negotiateAlgorithms s m).wfMem := by
  unfold negotiateAlgorithms
  split
  · exact wfMem_ite (spdmError_wfMem h) (spdmAnswer_wfMem h)
  · exact h

theorem getDigests_wfMem {m} (h : s.wfMem) : (getDigests s m).wfMem := by
  unfold getDigests
  split
  · exact wfMem_ite (spdmError_wfMem h) (spdmAnswer_wfMem h)
  · exact h

theorem getCertificate_wfMem {m} (h : s.wfMem) : (getCertificate s m).wfMem := by
  unfold getCertificate
  split
  · exact wfMem_ite (spdmError_wfMem h) (wfMem_ite (spdmError_wfMem h) (spdmAnswer_wfMem h))
  · exact h

theorem challenge_wfMem {m} (h : s.wfMem) : (challenge s m).wfMem := by
  unfold challenge
  split
  · refine wfMem_ite (spdmError_wfMem h) (wfMem_ite (spdmError_wfMem h) ?_)
    extract_lets +onlyGivenNames _
    split
    next e =>
      have h1 := of_snd e (drawBytes_wfMem h)
      extract_lets +onlyGivenNames _ _ _ _
      split
      next e => exact spdmAnswer_wfMem (of_snd e (deviceSign_wfMem h1))
  · exact h

theorem getMeasurements_wfMem {m} (h : s.wfMem) : (getMeasurements s m).wfMem := by
  unfold getMeasurements
  split
  · extract_lets +onlyGivenNames _ _
    refine wfMem_ite (spdmError_wfMem h) (wfMem_ite (spdmError_wfMem h) ?_)
    extract_lets +onlyGivenNames _
    split
    next e =>
      have h1 := of_snd e (drawBytes_wfMem h)
      extract_lets +onlyGivenNames _ _ _
      refine wfMem_ite ?_ (spdmAnswer_wfMem h1)
      split
      next e => exact spdmAnswer_wfMem (of_snd e (deviceSign_wfMem h1))
  · exact h

theorem spdmUnsupported_wfMem {m} (h : s.wfMem) : (spdmUnsupported s m).wfMem := by
  unfold spdmUnsupported
  extract_lets _
  split
  · exact wfMem_ite (spdmError_wfMem h) h
  · exact h

/-! ### Power, bring-up and patrol -/

theorem emptied_wfMem {m x} (h : s.wfMem) : (emptied s m x).wfMem := wfMem_mk (Memory.wf_filter _ _ (wf_mem h)) (wf_host h)

theorem powerOff_wfMem {m} (h : s.wfMem) : (powerOff s m).wfMem :=
  foldl_wfMem (foldl_wfMem (emptied_wfMem h) fun _ _ h1 => undeliverable_wfMem h1) fun _ _ h1 => portUpChange_wfMem h1

theorem powerGood_wfMem {m} (h : s.wfMem) : (powerGood s m).wfMem := wfMem_ite h (emptied_wfMem h)

theorem journalAppend_wfMem {m} (h : s.wfMem) : (journalAppend s m).wfMem := by
  unfold journalAppend
  extract_lets +onlyGivenNames _
  split
  · exact wfMem_ite h (wfMem_ite (modMod_wfMem h) (postEvent_wfMem (modMod_wfMem h)))
  · exact h

theorem readyEvent_wfMem {m off bit} (h : s.wfMem) : (readyEvent s m off bit).wfMem := postEvent_wfMem h

theorem setRdyMod_wfMem {m bit} (h : s.wfMem) : (setRdyMod s m bit).wfMem := readyEvent_wfMem (modMod_wfMem h)

theorem setRdyPort_wfMem {m p} (h : s.wfMem) : (setRdyPort s m p).wfMem := readyEvent_wfMem (modMod_wfMem h)

theorem setRdyDie_wfMem {d bit} (h : s.wfMem) : (setRdyDie s d bit).wfMem := readyEvent_wfMem (modDie_wfMem h)

theorem setRdyCl_wfMem {q} (h : s.wfMem) : (setRdyCl s q).wfMem := readyEvent_wfMem (modDie_wfMem h)

theorem zeroMemory_wfMem {mine} (h : s.wfMem) : (zeroMemory s mine).wfMem :=
  wfMem_mk (Memory.wf_filter _ _ (wf_mem h)) (wf_host h)

theorem zeroFrames_wfMem {d} (h : s.wfMem) : (zeroFrames s d).wfMem := zeroMemory_wfMem h

theorem clearTables_wfMem {d} (h : s.wfMem) : (clearTables s d).wfMem := modDie_wfMem h

theorem initHbm_wfMem {d} (h : s.wfMem) : (initHbm s d).wfMem := wfMem_with h

theorem zeroCluster_wfMem {q} (h : s.wfMem) : (zeroCluster s q).wfMem := wfMem_with (zeroMemory_wfMem h)

theorem bringUpCluster_wfMem {q} (h : s.wfMem) : (bringUpCluster s q).wfMem := by
  unfold bringUpCluster
  extract_lets +onlyGivenNames _ _ s1 s2 _ s3
  have h1 : s1.wfMem := installMap_wfMem (modCluster_wfMem (zeroCluster_wfMem h))
  have h2 : s2.wfMem := modDie_wfMem (wfMem_with h1)
  have h3 : s3.wfMem := wfMem_ite h2 (installMap_wfMem h2)
  exact wfMem_ite h3 (setRdyCl_wfMem h3)

theorem bringupReady_wfMem {m f} (h : s.wfMem) : (bringupReady s m f).wfMem := by
  unfold bringupReady
  split
  · refine wfMem_ite h ?_
    extract_lets +onlyGivenNames _ s1
    have h1 : s1.wfMem := modMod_wfMem h
    exact wfMem_ite (setRdyMod_wfMem h1) <|
      wfMem_ite (setRdyMod_wfMem h1) <|
      wfMem_ite (setRdyMod_wfMem h1) <|
      wfMem_ite (setRdyPort_wfMem h1) <|
      wfMem_ite (setRdyDie_wfMem (zeroFrames_wfMem h1)) <|
      wfMem_ite (setRdyDie_wfMem (initHbm_wfMem h1)) <|
      wfMem_ite (setRdyDie_wfMem (clearTables_wfMem h1)) (wfMem_ite (setRdyDie_wfMem h1) (bringUpCluster_wfMem h1))
  · exact h

theorem patrolVisit_wfMem {ga loc} (h : s.wfMem) : (patrolVisit s ga loc).wfMem :=
  wfMem_ite (countCe_wfMem h) (wfMem_ite (findError_wfMem (correct_wfMem h)) h)

theorem powerWindow_wfMem {m} (h : s.wfMem) : (powerWindow s m).wfMem := by
  unfold powerWindow
  refine wfMem_ite h ?_
  extract_lets s1
  have h1 : s1.wfMem := foldl_wfMem h fun _ _ h1 => modDie_wfMem (draw_wfMem (draw_wfMem h1))
  split
  next e =>
    have h2 := of_snd e (draw_wfMem h1)
    split
    next e =>
      have h3 := of_snd e (draw_wfMem h2)
      split
      next e =>
        have h4 := of_snd e (draw_wfMem h3)
        split
        next e => exact modMod_wfMem (of_snd e (draw_wfMem h4))

/-! ### Branches -/

theorem branch_wfMem {g k i taken disp} (h : s.wfMem) : (branch s g k i taken disp).wfMem := retireTo_wfMem h

/-! ### Every instruction -/

theorem execStFill_kept {p d a imm} (h : s.wfMem) : Kept (execStFill p d a imm s) :=
  issue_kept h fun _ _ _ h1 =>
    reach_wfMem h1 fun _ _ _ _ h2 =>
    wfMem_ite (afterLine_wfMem h2 fun _ h3 => deferEntry_wfMem (markDirty_wfMem h3)) <|
    releaseIf_wfMem h2 fun _ h3 =>
    afterLine_wfMem h3 fun _ h4 => retireTo_wfMem (directFill_wfMem (flushBefore_wfMem (markDirty_wfMem h4)))

theorem execFence_kept {p imm} (h : s.wfMem) : Kept (execFence p imm s) :=
  issue_kept h fun _ _ _ h1 =>
    wfMem_ite (retire_wfMem (flushScope_wfMem h1)) (releaseThen_wfMem h1 fun _ h2 => retire_wfMem h2)

theorem execFenceRt_kept {p imm} (h : s.wfMem) : Kept (execFenceRt p imm s) :=
  issue_kept h fun _ _ _ h1 => wfMem_ite (flushWhile_wfMem h1) (wfMem_ite rfl (retire_wfMem h1))

theorem execFenceEng_kept {p imm} (h : s.wfMem) : Kept (execFenceEng p imm s) :=
  issue_kept h fun _ _ _ h1 => releaseThen_wfMem h1 fun _ h2 => retire_wfMem h2

theorem execBarArv_kept {p imm} (h : s.wfMem) : Kept (execBarArv p imm s) :=
  issue_kept h fun _ _ _ h1 =>
    withBarrier_wfMem h1 fun _ _ => releaseIf_wfMem h1 fun _ h2 => arriveThen_wfMem h2 fun _ h3 => retire_wfMem h3

theorem execBarWait_kept {p imm} (h : s.wfMem) : Kept (execBarWait p imm s) :=
  issue_kept h fun _ _ _ h1 => withBarrier_wfMem h1 fun _ _ => wfMem_ite (retire_wfMem h1) rfl

theorem execBarSync_kept {p imm} (h : s.wfMem) : Kept (execBarSync p imm s) :=
  issue_kept h fun _ _ _ h1 =>
    withBarrier_wfMem h1 fun _ _ =>
    releaseIf_wfMem h1 fun _ h2 => arriveThen_wfMem h2 fun _ h3 => wfMem_ite (retire_wfMem h3) (modCtx_wfMem h3)

theorem execBarPhase_kept {p d imm} (h : s.wfMem) : Kept (execBarPhase p d imm s) :=
  issue_kept h fun _ _ _ h1 => withBarrier_wfMem h1 fun _ _ => retire_wfMem h1

theorem execSphX_kept {p imm} (h : s.wfMem) : Kept (execSphX p imm s) :=
  issue_kept h fun _ _ _ h1 =>
    wfMem_ite rfl (releaseThen_wfMem h1 fun _ h2 => arriveExchange_wfMem (modCore_wfMem (retireTo_wfMem h2)))

theorem execHjoin_kept {p d a} (h : s.wfMem) : Kept (execHjoin p d a s) :=
  issue_kept h fun _ _ _ h1 =>
    wfMem_ite (retire_wfMem h1) (wfMem_ite (modCtx_wfMem (retireTo_wfMem h1)) (switchOut_wfMem h1))

theorem execYield_kept {p} (h : s.wfMem) : Kept (execYield p s) :=
  issue_kept h fun _ _ _ h1 => switchOut_wfMem (retireTo_wfMem h1)

theorem execEret_kept {p} (h : s.wfMem) : Kept (execEret p s) :=
  issue_kept h fun _ _ _ h1 => returnTrap_wfMem (retireTo_wfMem h1)

theorem execWfe_kept {p} (h : s.wfMem) : Kept (execWfe p s) :=
  issue_kept h fun _ _ _ h1 => wfMem_ite (modCore_wfMem (retireTo_wfMem h1)) (switchOut_wfMem h1)

theorem execCstart_kept {p d a b} (h : s.wfMem) : Kept (execCstart p d a b s) :=
  issue_kept h fun _ _ _ h1 => releaseThen_wfMem h1 fun _ h2 => waitReply_wfMem (sendFrom_wfMem h2)

theorem execCstop_kept {p d a} (h : s.wfMem) : Kept (execCstop p d a s) :=
  issue_kept h fun _ _ _ h1 =>
    wfMem_ite (stopCore_wfMem (reportTrap_wfMem (retireTo_wfMem h1))) <|
    releaseThen_wfMem h1 fun _ h2 => waitReply_wfMem (sendFrom_wfMem h2)

theorem execRng_kept {p d a} (h : s.wfMem) : Kept (execRng p d a s) :=
  issue_kept h fun _ _ _ h1 => modCore_wfMem (retireTo_wfMem h1)

theorem execMwait_kept {p a b} (h : s.wfMem) : Kept (execMwait p a b s) :=
  issue_kept h fun _ _ _ h1 =>
    wfMem_ite (wfMem_ite rfl (wfMem_ite (afterFault_wfMem (retire_wfMem h1)) (matrixWait_wfMem h1))) <|
    afterFault_wfMem (transferGate_wfMem h1)

theorem execMdrain_kept {p a b} (h : s.wfMem) : Kept (execMdrain p a b s) :=
  issue_kept h fun _ _ _ h1 =>
    wfMem_ite (matrixWait_wfMem h1) (afterFault_wfMem (wfMem_ite rfl (retire_wfMem (wfMem_ite h1 (modCore_wfMem h1)))))

theorem execMtest_kept {p d a b} (h : s.wfMem) : Kept (execMtest p d a b s) :=
  issue_kept h fun _ _ _ h1 => switchOut_wfMem (modCluster_wfMem h1)

theorem execAbind_kept {p d a b} (h : s.wfMem) : Kept (execAbind p d a b s) :=
  issue_kept h fun _ _ _ h1 => wfMem_ite rfl (retire_wfMem (bindEntry_wfMem h1))

theorem execAwait_kept {p d a} (h : s.wfMem) : Kept (execAwait p d a s) :=
  issue_kept h fun _ _ _ h1 => withEntry_wfMem fun _ _ => wfMem_ite (retire_wfMem h1) (switchOut_wfMem h1)

theorem execAret_kept {p a b} (h : s.wfMem) : Kept (execAret p a b s) :=
  issue_kept h fun _ _ _ h1 =>
    withEntry_wfMem fun _ _ =>
    wfMem_ite (switchOut_wfMem h1) <|
    wfMem_ite (retire_wfMem (modRing_wfMem h1)) (retire_wfMem (wfMem_ite h1 (releaseCopy_wfMem h1)))

theorem execXwait_kept {p a b} (h : s.wfMem) : Kept (execXwait p a b s) :=
  issue_kept h fun _ _ _ h1 => wfMem_ite rfl (wfMem_ite (retire_wfMem h1) rfl)

theorem execTdec_kept {p d a} (h : s.wfMem) : Kept (execTdec p d a s) :=
  issue_kept h fun _ _ _ h1 => wfMem_ite rfl (releaseThen_wfMem h1 fun _ h2 => retire_wfMem (tdecAt_wfMem h2))

theorem execFwr_kept {p a b} (h : s.wfMem) : Kept (execFwr p a b s) :=
  issue_kept h fun _ _ _ h1 =>
    reach_wfMem h1 fun _ _ _ _ h2 =>
    releaseIf_wfMem h2 fun _ h3 => afterLine_wfMem h3 fun _ h4 => retireTo_wfMem (directFill_wfMem h4)

theorem execUndefinedEncoding_kept {why} (h : s.wfMem) : Kept (execUndefinedEncoding why s) :=
  next_kept (wfMem_ite h (raiseTrap_wfMem h))

theorem execFlitReplay_kept (h : s.wfMem) : Kept (execFlitReplay s) :=
  next_kept (whilePowered_wfMem h (wfMem_ite (modMod_wfMem h) h))

theorem execRegisterWrite_kept (h : s.wfMem) : Kept (execRegisterWrite s) :=
  next_kept (whilePowered_wfMem h (wfMem_ite (writeReg_wfMem h) h))

theorem exec_kept {i} (h : s.wfMem) : Kept (exec i s) := by
  cases i with
  | add | sub | and | or | xor | sll | srl | sra | slt | sltu | seq | mov | addi | li | nop | mul | mulh | mulhu | div | divu | rem | remu |
  min | max | minu | maxu | clz | ctz | popc | ror | sel | bfx | bfi | mgeom | mfmap | xid =>
    exact issue_kept h fun _ _ _ h1 => retire_wfMem h1
  | ld | ldp => exact issue_kept h fun _ _ _ h1 => memLoad_wfMem h1
  | st | stp => exact issue_kept h fun _ _ _ h1 => memStore_wfMem h1
  | bz | bnz | blt | bge | bltu | bgeu => exact issue_kept h fun _ _ _ h1 => branch_wfMem h1
  | j | jal | jr | jalr => exact issue_kept h fun _ _ _ h1 => retireTo_wfMem h1
  | ldSync | take | put | tryt => exact issue_kept h fun _ _ _ h1 => memFe_wfMem h1
  | stFill => exact execStFill_kept h
  | amoAdd | amoMin | amoMax | amoMinu | amoMaxu | amoAnd | amoOr | amoXor | amoSwap | amoCas | bump =>
    exact issue_kept h fun _ _ _ h1 => memAmo_wfMem h1
  | redAdd | redMin | redMax | redFadd => exact issue_kept h fun _ _ _ h1 => memRed_wfMem h1
  | fence => exact execFence_kept h
  | fenceRt => exact execFenceRt_kept h
  | fenceEng => exact execFenceEng_kept h
  | barArv => exact execBarArv_kept h
  | barWait => exact execBarWait_kept h
  | barSync => exact execBarSync_kept h
  | barPhase => exact execBarPhase_kept h
  | sphX => exact execSphX_kept h
  | sphC => exact execSphC_kept h
  | mig => exact execMig_kept h
  | hstart => exact execHstart_kept h
  | hend => exact execHend_kept h
  | hjoin => exact execHjoin_kept h
  | yield => exact execYield_kept h
  | csrr => exact execCsrr_kept h
  | csrw | csrs | csrc => exact issue_kept h fun _ _ _ h1 => csrModify_wfMem h1
  | trap | brk => exact issue_kept h fun _ _ _ _ => rfl
  | eret => exact execEret_kept h
  | wfe => exact execWfe_kept h
  | sev => exact execSev_kept h
  | cstart => exact execCstart_kept h
  | cstop => exact execCstop_kept h
  | finv => exact execFinv_kept h
  | rng => exact execRng_kept h
  | vld | vst | vldx | vstx => exact next_kept (enqueueMem_wfMem h)
  | vmov | vabs | vneg | vbcast | vadd | vsub | vmul | vfma | vfms | vfnma | vmin | vmax | vand | vor | vxor | vshl | vshr | vcmp | vsel |
  vredsum | vredmax | vredmin | vargmax | vscan | vtopk | vperm | vmskAnd | vmskOr | vmskXor | vmskNot | vmskFromx | vmskTox | vseed | vrand
  | cvt2 | cvt8 | cvt4 | cvtu | cvtiI32 | cvtiF32 | qscale | qz | vexp2 | vlog2 | vrcp | vrsqrt | vtanh | vsig =>
    exact next_kept (enqueueV_wfMem h)
  | vrep => exact execVrep_kept h
  | mzero | aini => exact next_kept (issueBare_wfMem h)
  | mring | mop | attn => exact next_kept (issueCmd_wfMem h)
  | mwait => exact execMwait_kept h
  | mdrain => exact execMdrain_kept h
  | dret => exact execDret_kept h
  | mtest => exact execMtest_kept h
  | mremap => exact execMremap_kept h
  | abind => exact execAbind_kept h
  | await => exact execAwait_kept h
  | aret => exact execAret_kept h
  | xcfg => exact execXcfg_kept h
  | xcopy | xgat | xsct | xbins | xfill | xbindIn | xbindOut => exact next_kept (issueXfer_wfMem h)
  | xwait => exact execXwait_kept h
  | xcancel => exact execXcancel_kept h
  | snew => exact execSnew_kept h
  | sfork | sbind | sunbind | sstep | smark | scommit | sroll | sret | sjoin | sprune | sfree | smig | sstat | shold =>
    exact issue_kept h fun _ _ _ h1 => streamForm_wfMem h1
  | cenq | cenqNb => exact issue_kept h fun _ _ _ h1 => enqueueForm_wfMem h1
  | cdeq => exact execCdeq_kept h
  | cdone => exact execCdone_kept h
  | cocc => exact execCocc_kept h
  | tspawn => exact execTspawn_kept h
  | tdec => exact execTdec_kept h
  | tnext => exact execTnext_kept h
  | tend => exact execTend_kept h
  | tcancel => exact execTcancel_kept h
  | frd => exact execFrd_kept h
  | fwr => exact execFwr_kept h
  | undefinedEncoding => exact execUndefinedEncoding_kept h
  | barrierSurplusRetry => exact next_kept (barrierSurplusRetry_wfMem h)
  | barrierArrivalMessage => exact next_kept (barrierArrivalMessage_wfMem h)
  | accessAtHome => exact next_kept (accessAtHome_wfMem h)
  | remoteReply => exact next_kept (remoteReply_wfMem h)
  | writeAcknowledge => exact next_kept (writeAcknowledge_wfMem h)
  | feRequest => exact next_kept (feRequest_wfMem h)
  | feReissue => exact next_kept (feReissue_wfMem h)
  | combiningIdleFlush => exact next_kept (combiningIdleFlush_wfMem h)
  | translationWalkDone => exact next_kept (translationWalkDone_wfMem h)
  | migrationArrive => exact next_kept (migrationArrive_wfMem h)
  | helperResultReturn => exact next_kept (helperResultReturn_wfMem h)
  | vectorLaneGrant => exact next_kept (vectorLaneGrant_wfMem h)
  | vectorRetire => exact next_kept (vectorRetire_wfMem h)
  | vectorMemoryAccess => exact next_kept (vectorMemoryAccess_wfMem h)
  | matrixCommandStart => exact next_kept (matrixCommandStart_wfMem h)
  | ringOperationStart => exact next_kept (ringOperationStart_wfMem h)
  | matrixCommandComplete => exact next_kept (matrixCommandComplete_wfMem h)
  | drainRowDispatch => exact next_kept (drainRowDispatch_wfMem h)
  | mtestSweepStart => exact next_kept (mtestSweepStart_wfMem h)
  | mtestSweepEnd => exact next_kept (mtestSweepEnd_wfMem h)
  | faultMapInstall => exact next_kept (faultMapInstall_wfMem h)
  | xferCommandStart => exact next_kept (xferCommandStart_wfMem h)
  | enginePiece => exact next_kept (enginePiece_wfMem h)
  | xferCommandComplete => exact next_kept (xferCommandComplete_wfMem h)
  | feedStripDeliver => exact next_kept (feedStripDeliver_wfMem h)
  | feedStripWrite => exact next_kept (feedStripWrite_wfMem h)
  | frameCopyComplete => exact next_kept (frameCopyComplete_wfMem h)
  | frameZero => exact next_kept (frameZero_wfMem h)
  | spillwayEvict => exact next_kept (spillwayEvict_wfMem h)
  | evictionComplete => exact next_kept (evictionComplete_wfMem h)
  | fetchBackComplete => exact next_kept (fetchBackComplete_wfMem h)
  | countWalk => exact next_kept (walkStep_wfMem h)
  | basinReduce => exact next_kept (basinReduce_wfMem h)
  | topologyPrune => exact next_kept (topologyPrune_wfMem h)
  | remoteStreamStep => exact next_kept (remoteStreamStep_wfMem h)
  | smigRequestArrive => exact next_kept (smigRequestArrive_wfMem h)
  | smigRefuse => exact next_kept (smigRefuse_wfMem h)
  | snapshotPage => exact next_kept (snapshotPage_wfMem h)
  | smigComplete => exact next_kept (smigComplete_wfMem h)
  | balancerEvaluate => exact next_kept (balancerEvaluate_wfMem h)
  | strandedToPool => exact next_kept (stranded_wfMem h)
  | cascadeInstall => exact next_kept (cascadeInstall_wfMem h)
  | cascadeRemove => exact next_kept (cascadeRemove_wfMem h)
  | taskReadyDispatch => exact next_kept (taskReadyDispatch_wfMem h)
  | futureReply => exact next_kept (futureReply_wfMem h)
  | topoLoad => exact next_kept (topoLoad_wfMem h)
  | pealSetup | pealStart | pealRemove => exact next_kept (pealStep_wfMem h)
  | pealBlockStart => exact next_kept (pealBlockStart_wfMem h)
  | pealBlockArrive => exact next_kept (pealBlockArrive_wfMem h)
  | pealForwardReadDone => exact next_kept (pealForwardReadDone_wfMem h)
  | releaseMarkerArrive => exact next_kept (releaseMarkerArrive_wfMem h)
  | portUpChange => exact next_kept (portUpChange_wfMem h)
  | flitReplay => exact execFlitReplay_kept h
  | messageHop => exact next_kept (messageHop_wfMem h)
  | multicastAdvance => exact next_kept (multicastAdvance_wfMem h)
  | hostWrite => exact next_kept (hostStore_wfMem h)
  | hostRead => exact next_kept (hostLoad_wfMem h)
  | lqtailDoorbell => exact next_kept (whilePowered_wfMem h (lqtailDoorbell_wfMem h))
  | lqcfgEnWrite => exact next_kept (whilePowered_wfMem h (lqcfgWrite_wfMem h))
  | launchTake => exact next_kept (launchTake_wfMem h)
  | takeCores => exact next_kept (takeCores_wfMem h)
  | clusterPrepare => exact next_kept (clusterPrepare_wfMem h)
  | coreStartMessage => exact next_kept (coreStartMessage_wfMem h)
  | coreStopMessage => exact next_kept (coreStopMessage_wfMem h)
  | launchRetire => exact next_kept (launchRetire_wfMem h)
  | graphStart => exact next_kept (graphStart_wfMem h)
  | preempt => exact next_kept (preemptCore_wfMem h)
  | clusterSave => exact next_kept (clusterSave_wfMem h)
  | savedCopyAccess => exact next_kept (savedCopyAccess_wfMem h)
  | launchResume => exact next_kept (launchResume_wfMem h)
  | tbinvWrite => exact next_kept (whilePowered_wfMem h (tbinvWrite_wfMem h))
  | tbinvmWrite => exact next_kept (whilePowered_wfMem h (tbinvmWrite_wfMem h))
  | tbinvComplete => exact next_kept (tbinvComplete_wfMem h)
  | spillwayAreaWrite => exact next_kept (whilePowered_wfMem h (spillwayAreaWrite_wfMem h))
  | fabcfgWrite => exact next_kept (whilePowered_wfMem h (fabcfgWrite_wfMem h))
  | linkstatEnWrite => exact next_kept (whilePowered_wfMem h (linkstatWrite_wfMem h))
  | stripeSetWrite => exact next_kept (whilePowered_wfMem h (stripeWrite_wfMem h))
  | trapimgInstall => exact next_kept (trapimgInstall_wfMem h)
  | keyctlWrite => exact next_kept (whilePowered_wfMem h (keyctlWrite_wfMem h))
  | rdyclRetire => exact next_kept (whilePowered_wfMem h (rdyclRetire_wfMem h))
  | pcapWrite => exact next_kept (whilePowered_wfMem h (pcapWrite_wfMem h))
  | fwmbUpdate => exact next_kept (fwmbUpdate_wfMem h)
  | registerWrite => exact execRegisterWrite_kept h
  | powerGood => exact next_kept (powerGood_wfMem h)
  | bringupFunctionReady => exact next_kept (bringupReady_wfMem h)
  | powerWindow => exact next_kept (powerWindow_wfMem h)
  | thermalShutdown | mainPowerLoss => exact next_kept (wfMem_ite (powerOff_wfMem h) h)
  | patrolScrubVisit => exact next_kept (whilePowered_wfMem h (patrolVisit_wfMem h))
  | journalAppend => exact next_kept (journalAppend_wfMem h)
  | getVersion => exact next_kept (getVersion_wfMem h)
  | getCapabilities => exact next_kept (getCapabilities_wfMem h)
  | negotiateAlgorithms => exact next_kept (negotiateAlgorithms_wfMem h)
  | getDigests => exact next_kept (getDigests_wfMem h)
  | getCertificate => exact next_kept (getCertificate_wfMem h)
  | challenge => exact next_kept (challenge_wfMem h)
  | getMeasurements => exact next_kept (getMeasurements_wfMem h)
  | spdmUnsupported => exact next_kept (spdmUnsupported_wfMem h)
  | topologyEntryArrive => exact next_kept (topologyEntryArrive_wfMem h)

/-! ### A step -/

theorem stepCore_kept {g} (h : s.wfMem) : Kept (stepCore g s) := by
  unfold stepCore
  split
  · rintro _ ⟨⟩
  · extract_lets t k
    have ht : t.wfMem := wfMem_with h
    split
    · split
      · next e => exact next_kept (keepIssued_wfMem (exec_kept ht _ e))
      · exact exec_kept ht
    · exact next_kept ht

theorem step_kept (h : s.wfMem) : Kept (step s) := by
  unfold step
  rcases e : nextTurn s with ⟨turn, s1⟩
  have h2 : (takePlace (tick s1 turn.dt) turn.act).wfMem := takePlace_wfMem (tick_wfMem (of_snd e (nextTurn_wfMem h)))
  dsimp only
  split
  · exact stepCore_kept h2
  · exact exec_kept (wfMem_with h2)

end Sys2Proof.Machine

namespace Sys2Proof.Machine

/-- Settles O60: every function of the model that gives a state keeps both memories in the canonical form, so a step does. -/
theorem stepKeepsMemoryCanonical : Obligations.StepKeepsMemoryCanonical := by
  unfold Obligations.StepKeepsMemoryCanonical
  exact fun _ _ h => step_kept h _

end Sys2Proof.Machine


/-!
PROOFS. Which trap an instruction takes before its own effect (O6): `issue` on a form of the opcode map makes the checks of R27 in their order, and
the first that fails is the trap taken. `takeTrap_trapped` says once what taking a trap comes to.
-/
namespace Sys2Proof.Machine

/-! ### Forms and traps -/

/-- Every form of the opcode map issues: its meaning is what `issue` makes of the form's own effect. -/
theorem exec_eq_issue (s : State) {i : Instr} {h : Shape} (hi : i.shape = some h) :
    ∃ body, exec i s = .next (issue i s body) := by
  cases i <;> cases hi <;> exact ⟨_, rfl⟩

/-- A cause below 2^8 makes up TRAPCAUSE by itself, with PRE clear (R45). -/
theorem trapCause_of_code {code : Nat} (h : code < 256) : fput F.tcPre (fput F.tcCode 0#64 code) 0 = BitVec.ofNat 64 code := by
  apply BitVec.eq_of_toNat_eq
  simp [fput, fget, F.tcPre, F.tcCode, Nat.mod_eq_of_lt h]
  omega

/-- Where a trap can be taken at once, taking it enters the handler and does nothing else (R28, R133). -/
theorem takeTrap_trapped {s : State} (h : canTrap s = true) {code : Nat} (hc : code < 256) (val : Word) :
    Trapped s (takeTrap s s.cur (slotOf s) code val) code val := by
  simp only [canTrap, Bool.and_eq_true, Bool.or_eq_true, Bool.not_eq_true', beq_iff_eq, bne_iff_ne, Option.isNone_iff_eq_none] at h
  obtain ⟨⟨⟨hl, ht⟩, hq⟩, hm⟩ := h
  have hf : (if slotOf s = 0 then (getCore s s.cur).mfault else none) = none := by
    split
    · next h0 => exact hm.resolve_left (not_not_intro h0)
    · rfl
  have hlvl : fget F.lvl (getCtx s s.cur (slotOf s)).priv = 0 := hl
  have htask : (getCtx s s.cur (slotOf s)).task = none := ht
  have he : takeTrap s s.cur (slotOf s) code val = modCtx s s.cur (slotOf s) fun x =>
      { x with
        trapPc := x.pc.zeroExtend 64
        trapCause := BitVec.ofNat 64 code
        trapVal := val
        priv := fput F.lvl (fput F.plvl x.priv (fget F.lvl x.priv)) 1
        pc := BitVec.ofNat 16 (64 * fget F.tvBase (getCore s s.cur).trapvec + 32 * code)
        task := none, begunSaved := false, begun := false } := by
    simp [takeTrap, hq, hf, enterTrap, htask, hlvl, trapCause_of_code hc]
  rw [he]
  refine ⟨⟨⟨fun g hg => ?_, ?_, fun j hj => ?_⟩, ?_⟩, rfl⟩
  · rw [getCore_modCtx, if_neg hg]
  · rw [getCore_modCtx, if_pos rfl]
  · rw [getCtx_modCtx, if_neg fun hk => hj (by simp [hk.2])]
  · rw [getCtx_modCtx_self]
    simp [me, htask]

/-- A check after decoding that fails raises its trap before anything else of the instruction happens (R27). -/
theorem issue_trapped {s : State} {i : Instr} (hi : issuing s = true) (hv : pendingVector s s.cur (slotOf s) = none) (ht : canTrap s = true)
    {code : Nat} {val : Word} (hc : issueCheck s s.cur (slotOf s) i = some (code, val)) (hcode : code < 256) (body : State → Nat → Nat → Eff) :
    Trapped s (issue i s body) code val := by
  have he : issue i s body = takeTrap s s.cur (slotOf s) code val := by
    unfold slotOf at *
    simp [issue, hi, hv, hc]
  exact he ▸ takeTrap_trapped ht hcode val

/-! ### The checks of R27, one after another -/

section
variable {s : State} {i : Instr} {h : Shape} {g k : Nat}

theorem issueCheck_absent (hs : i.shape = some h) (hd : decodesOp (roleOf g) ((getCtx s g k).kind == .drain) h.page h.op = false) :
    issueCheck s g k i = some (causeEXT, BitVec.ofNat 64 h.page) := by
  simp [issueCheck, hs, hd]

theorem issueCheck_notPermitted (hs : i.shape = some h) (hd : decodesOp (roleOf g) ((getCtx s g k).kind == .drain) h.page h.op = true)
    (hp : permitted (getCtx s g k).kind i = false) : issueCheck s g k i = some (causeILL, firstWord i) := by
  simp [issueCheck, hs, hd, hp]

theorem issueCheck_highReg (hs : i.shape = some h) (hd : decodesOp (roleOf g) ((getCtx s g k).kind == .drain) h.page h.op = true)
    (hp : permitted (getCtx s g k).kind i = true) (hk : k ≠ 0) {r : Reg} (hr : highReg i = some r) :
    issueCheck s g k i = some (causeHREGS, r.zeroExtend 64) := by
  simp [issueCheck, hs, hd, hp, hk, hr]

theorem issueCheck_firmware (hs : i.shape = some h) (hd : decodesOp (roleOf g) ((getCtx s g k).kind == .drain) h.page h.op = true)
    (hp : permitted (getCtx s g k).kind i = true) (hr : k = 0 ∨ highReg i = none) (hl : fget F.lvl (getCtx s g k).priv = 0) {v : Word}
    (hn : needsFirmware i = some v) : issueCheck s g k i = some (causePRIV, v) := by
  have hr' : (if k = 0 then none else highReg i) = none := by
    split
    · rfl
    · next hk => exact hr.resolve_left hk
  simp [issueCheck, hs, hd, hp, hr', hl, hn]
end

theorem needsFirmware_of_privileged {i : Instr} (h : privileged i = true) : needsFirmware i = some 0 := by
  cases i <;> cases h <;> rfl

theorem lvl_of_canTrap {s : State} (h : canTrap s = true) : fget F.lvl (me s).priv = 0 := by
  simp only [canTrap, Bool.and_eq_true, beq_iff_eq] at h
  exact h.1.1.1

/-- The CSR forms lie on page 2, which every context decodes (R93, R97). -/
theorem shape_of_csrForm {i : Instr} {p : Pfx} {d : Reg} {n : Nat}
    (hi : i = .csrr p d n ∨ i = .csrw p d n ∨ i = .csrs p d n ∨ i = .csrc p d n) :
    ∃ h, i.shape = some h ∧ (∀ role drain, decodesOp role drain h.page h.op = true) ∧
      (0x020 ≤ n → n ≤ 0x023 → needsFirmware i = some (BitVec.ofNat 64 n)) := by
  rcases hi with rfl | rfl | rfl | rfl <;>
    exact ⟨_, rfl, fun _ _ => rfl, fun h1 h2 => by simp [needsFirmware, csrFirmware, h1, h2]⟩

/-- Settles O6: `issueCheck` makes the checks in the order of R27, and its first failure is the trap that `issue` takes. -/
theorem checksAfterDecodingComeInOrder : Obligations.ChecksAfterDecodingComeInOrder := by
  unfold Obligations.ChecksAfterDecodingComeInOrder
  intro s i h hs hi hv ht
  obtain ⟨body, he⟩ := exec_eq_issue s hs
  have trap {code : Nat} {val : Word} (hc : issueCheck s s.cur (slotOf s) i = some (code, val)) (hcode : code < 256) :
      ∃ t, exec i s = .next t ∧ Trapped s t code val := ⟨_, he, issue_trapped hi hv ht hc hcode body⟩
  refine ⟨fun hd => ?_, fun hd hp => ?_, fun hd hp r hk hr => ?_, fun hd hp hr hpr => ?_, fun p d n hcsr h1 h2 hp hr => ?_⟩
  · exact trap (issueCheck_absent hs hd) (by decide)
  · exact trap (issueCheck_notPermitted hs hd hp) (by decide)
  · exact trap (issueCheck_highReg hs hd hp hk hr) (by decide)
  · exact trap (issueCheck_firmware hs hd hp hr (lvl_of_canTrap ht) (needsFirmware_of_privileged hpr)) (by decide)
  · obtain ⟨h', hs', hd, hn⟩ := shape_of_csrForm hcsr
    exact trap (issueCheck_firmware hs' (hd _ _) hp hr (lvl_of_canTrap ht) (hn h1 h2)) (by decide)

end Sys2Proof.Machine


/-!
PROOFS. Clocks leave RUN of every core alone and raise CYCLE of the running ones (O59). One predicate, `SameBeat b s`: RUN and CYCLE of every core of
`s` are as in `b`; and one lemma `f_beat` for each function that the end of a clock is made of.
-/
namespace Sys2Proof.Machine

/-- RUN and CYCLE of every core are those of another state. -/
def SameBeat (b s : State) : Prop := ∀ g, (getCore s g).run = (getCore b g).run ∧ (getCore s g).cycle = (getCore b g).cycle

variable {b s : State}

theorem SameBeat.refl (s : State) : SameBeat s s := fun _ => ⟨rfl, rfl⟩

/-- A state with the same cores. -/
theorem SameBeat.of_cores (h : SameBeat b s) {t : State} (e : t.cores = s.cores) : SameBeat b t := fun g => by
  have : getCore t g = getCore s g := by unfold getCore; rw [e]
  rw [this]
  exact h g

theorem SameBeat.foldl {α : Type} {f : State → α → State} (hf : ∀ s a, SameBeat b s → SameBeat b (f s a)) (l : List α) (h : SameBeat b s) :
    SameBeat b (l.foldl f s) := foldl_keeps (SameBeat b) f hf l s h

theorem modCore_beat {g : Nat} {f : Core → Core} (hf : ∀ c, (f c).run = c.run ∧ (f c).cycle = c.cycle) (h : SameBeat b s) :
    SameBeat b (modCore s g f) := fun j => by
  rw [getCore_modCore]
  split
  · next e => subst e; rw [(hf _).1, (hf _).2]; exact h j
  · exact h j

theorem modCtx_beat {g k : Nat} {f : Ctx → Ctx} (h : SameBeat b s) : SameBeat b (modCtx s g k f) := modCore_beat (fun _ => ⟨rfl, rfl⟩) h

theorem wakeIf_beat {g : Nat} {p : Mode → Bool} (h : SameBeat b s) : SameBeat b (wakeIf s g p) :=
  .foldl (fun t k ht => by split; exacts [modCtx_beat ht, ht]) _ h

theorem settle_beat {g : Nat} (h : SameBeat b s) : SameBeat b (settle s g) := by
  rcases settle_cases s g with e | ⟨_, _, _, e⟩ <;> rw [e]
  · exact h
  · exact modCore_beat (fun _ => ⟨rfl, rfl⟩) h

/-! ### Registers and ports -/

theorem pushPort_beat {g p : Nat} {w : Word} (h : SameBeat b s) : SameBeat b (pushPort s g p w) :=
  .foldl (fun _ _ ht => modCore_beat (fun c => by unfold setDeposits; split <;> exact ⟨rfl, rfl⟩) ht) _ h

theorem popPort_beat {g p : Nat} (h : SameBeat b s) : SameBeat b (popPort s g p) :=
  modCore_beat (fun c => by unfold setPortQueue; split <;> exact ⟨rfl, rfl⟩) h

theorem writeX_beat {g k : Nat} {r : Reg} {v : Word} (h : SameBeat b s) : SameBeat b (writeX s g k r v) := by
  unfold writeX
  split
  · exact pushPort_beat h
  · exact modCtx_beat (h.of_cores rfl)

theorem writeXs_beat {g k : Nat} {ws : List (Reg × Word)} (h : SameBeat b s) : SameBeat b (writeXs s g k ws) :=
  .foldl (fun _ _ ht => writeX_beat ht) _ h

/-! ### What changes no core -/

@[simp] theorem postEvent_cores (s : State) (m : Nat) (r : Source) (ty d0 d1 : Nat) : (postEvent s m r ty d0 d1).cores = s.cores := by
  unfold postEvent
  dsimp only
  split <;> rfl

@[simp] theorem writeByte_cores (s : State) (key : BitVec 512) (a : Nat) (v : Byte) : (writeByte s key a v).cores = s.cores := by
  rw [writeByte_eq]

@[simp] theorem setPoison_cores (s : State) (a : Nat) (p : Bool) : (setPoison s a p).cores = s.cores := by
  unfold setPoison
  split
  · exact writeByte_cores ..
  · rfl

theorem overwritten_cores (s : State) (dw : Nat) : (overwritten s dw).cores = s.cores := setPoison_cores s (8 * dw) false

/-- A fold of functions that leave the cores alone leaves them alone. -/
theorem foldl_cores {α : Type} {f : State → α → State} (hf : ∀ s a, (f s a).cores = s.cores) (l : List α) (s : State) :
    (l.foldl f s).cores = s.cores :=
  foldl_keeps (fun t : State => t.cores = s.cores) f (fun _ _ ht => (hf _ _).trans ht) l s rfl

@[simp] theorem writeBytes_cores (s : State) (key : BitVec 512) (a : Nat) (bs : List Byte) : (writeBytes s key a bs).cores = s.cores :=
  (foldl_cores overwritten_cores _ _).trans (foldl_cores (fun t (c : Host.Cell) => writeByte_cores t key c.1 c.2) _ s)

@[simp] theorem findErrors_cores (s : State) (a n : Nat) : (findErrors s a n).cores = s.cores := by
  refine foldl_cores (fun t dw => ?_) _ s
  have hc : (correct t dw).cores = t.cores := by unfold correct; split <;> rfl
  unfold findError
  split
  · rw [postEvent_cores]
    exact (setPoison_cores ..).trans hc
  · exact hc

theorem putReady_cores (s : State) (area : Nat) (l : List ReadyTask) : (putReady s area l).cores = s.cores := by
  unfold putReady
  exact writeBytes_cores ..

theorem withSaves_cores (s : State) (l : List SavedCluster) : ({ s with saves := l } : State).cores = s.cores := rfl

@[simp] theorem setReady_cores (s : State) (o : Option Nat) (q : Nat) (l : List ReadyTask) : (setReady s o q l).cores = s.cores := by
  unfold setReady
  split
  · exact (withSaves_cores _ _).trans (putReady_cores ..)
  · rfl

@[simp] theorem tcbWrite_cores (s : State) (o : Option Nat) (q idx : Nat) (f : Fld) (v : Nat) : (tcbWrite s o q idx f v).cores = s.cores := by
  unfold tcbWrite writeNat
  exact writeBytes_cores ..

/-! ### Balancer -/

theorem moveUnit_cores (s : State) (d c r : Nat) (from_ : Option Nat) (u : List Nat) : (moveUnit s d c r from_ u).cores = s.cores := by
  unfold moveUnit
  cases from_ <;> rfl

theorem balance_cores (d c : Nat) (n : Nat) (w : Balance) : (balance d c w n).s.cores = w.s.cores := by
  induction n generalizing w with
  | zero => rfl
  | succ n ih =>
    unfold balance
    dsimp only
    split
    · rfl
    · split
      · exact ih _
      · split
        · exact (ih _).trans (moveUnit_cores ..)
        · exact ih _

theorem balancerEvaluate_cores (s : State) (d c : Nat) : (balancerEvaluate s d c).cores = s.cores := by
  have h1 (l : List Nat) (p : Nat → Nat) :
      (balance d c { s := l.foldl (fun s st => setStage s d c st F.sdPress (p st)) s, used := [] } 33).s.cores = s.cores :=
    (balance_cores ..).trans (foldl_cores (fun t st => (rfl : (setStage t d c st F.sdPress (p st)).cores = t.cores)) l s)
  unfold balancerEvaluate
  dsimp only
  split
  · rfl
  · split
    · exact h1 _ _
    · split
      · exact h1 _ _
      · exact (postEvent_cores ..).trans (h1 _ _)

theorem evaluateAll_cores (s : State) : (evaluateAll s).cores = s.cores :=
  foldl_cores (fun t _ => foldl_cores (fun _ _ => balancerEvaluate_cores ..) _ t) _ s

/-! ### The end of a clock -/

theorem boundaryEnd_beat {g : Nat} (h : SameBeat b s) : SameBeat b (boundaryEnd s g) := by
  unfold boundaryEnd
  split
  · split
    · exact writeX_beat (modCore_beat (fun _ => ⟨rfl, rfl⟩) h)
    · exact h
  · exact h

theorem eventWake_beat {g : Nat} (h : SameBeat b s) : SameBeat b (eventWake s g) := by
  unfold eventWake
  dsimp only
  split
  · exact wakeIf_beat (modCore_beat (fun _ => ⟨rfl, rfl⟩) h)
  · exact h

theorem coreClockEnd_beat {g : Nat} (h : SameBeat b s) : SameBeat b (coreClockEnd s g) :=
  eventWake_beat (modCore_beat (fun _ => ⟨rfl, rfl⟩) h)

theorem arrivalCounted_beat {x : Surplus} {v : BitVec 128} (h : SameBeat b s) : SameBeat b (arrivalCounted s x v) := by
  have h1 : SameBeat b (bumpArrn (setBar s x.inst v) x.core x.name) := modCore_beat (fun _ => ⟨rfl, rfl⟩) (h.of_cores rfl)
  unfold arrivalCounted
  dsimp only
  split
  · split
    · exact h1.of_cores rfl
    · exact h1
  · exact modCtx_beat h1

theorem presentAgain_beat {x : Surplus} (h : SameBeat b s) : SameBeat b (presentAgain s x) := by
  unfold presentAgain
  dsimp only
  split
  · exact arrivalCounted_beat (h.of_cores rfl)
  · exact h.of_cores rfl
  · split <;> exact h.of_cores rfl

theorem completeBarriers_cores (s : State) : (completeBarriers s).cores = s.cores := by
  refine foldl_cores (fun t e => ?_) _ s
  dsimp only
  split
  · split <;> rfl
  · rfl

theorem clockEnd_beat (h : SameBeat b s) : SameBeat b (clockEnd s) := by
  unfold clockEnd
  dsimp only
  refine .foldl (fun _ _ ht => settle_beat ht) _ (SameBeat.of_cores ?_ rfl)
  refine SameBeat.of_cores ?_ (completeBarriers_cores _)
  refine .foldl (fun _ _ ht => presentAgain_beat ht) _ ?_
  refine .foldl (fun _ _ ht => coreClockEnd_beat ht) _ ?_
  exact .foldl (fun _ _ ht => boundaryEnd_beat ht) _ (h.of_cores (evaluateAll_cores s))

/-! ### Waiting contexts receive their tasks -/

theorem giveTask_beat {g k q : Nat} {t : ReadyTask} {d : Reg} {next : Code} {pops : List Nat} (h : SameBeat b s) :
    SameBeat b (giveTask s g k q t d next pops) := by
  have h1 : SameBeat b (pops.foldl (fun s p => popPort s g p) s) := .foldl (fun _ _ ht => popPort_beat ht) _ h
  exact modCtx_beat (writeXs_beat (h1.of_cores ((tcbWrite_cores ..).trans ((setReady_cores ..).trans (findErrors_cores ..)))))

theorem serveWaiter_beat {q : Nat} (h : SameBeat b s) : SameBeat b (serveWaiter s q) := by
  unfold serveWaiter
  split
  · split
    · split
      · exact h.of_cores rfl
      · split
        · exact modCtx_beat (giveTask_beat (h.of_cores rfl))
        · exact h
    · exact h
  · exact h

theorem serveWaiters_beat {q : Nat} (n : Nat) (h : SameBeat b s) : SameBeat b (serveWaiters s q n) := by
  induction n generalizing s with
  | zero => exact h
  | succ n ih => exact ih (serveWaiter_beat h)

/-! ### A clock, and clocks -/

theorem tget_map {α : Type} (d : α) (f : α → α) (hd : f d = d) (t : Tbl α) (k : Nat) : tget d (t.map fun e => (e.1, f e.2)) k = f (tget d t k) := by
  induction t with
  | nil => exact hd.symm
  | cons e rest ih =>
    rw [List.map_cons, tget, ih]
    exact (apply_ite f _ _ _).symm

/-- A running core counts a clock (R46). -/
theorem getCore_clockRise (s : State) (g : Nat) :
    getCore (clockRise s) g = if (getCore s g).run then { getCore s g with cycle := (getCore s g).cycle + 1 } else getCore s g :=
  tget_map ({} : Core) (fun c => if c.run then { c with cycle := c.cycle + 1 } else c) rfl s.cores g

theorem clock_counts (s : State) (g : Nat) : (getCore (clock s) g).run = (getCore s g).run ∧
    (getCore (clock s) g).cycle = (getCore s g).cycle + if (getCore s g).run then 1 else 0 := by
  have hb : SameBeat (clockRise (clockEnd s)) (clock s) := .foldl (fun _ _ ht => serveWaiters_beat _ ht) _ (.refl _)
  obtain ⟨hr, hc⟩ := clockEnd_beat (SameBeat.refl s) g
  rw [(hb g).1, (hb g).2, getCore_clockRise, ← hr, ← hc]
  split <;> simp_all

/-- CYCLE of a running core counts the clocks that pass; a core that does not run counts none (R46). -/
theorem tick_counts (n : Nat) (s : State) (g : Nat) : (getCore (tick s n) g).run = (getCore s g).run ∧
    (getCore (tick s n) g).cycle = (getCore s g).cycle + if (getCore s g).run then BitVec.ofNat 64 n else 0 := by
  induction n generalizing s with
  | zero => simp [tick]
  | succ n ih =>
    obtain ⟨hr, hc⟩ := clock_counts s g
    obtain ⟨hr', hc'⟩ := ih (clock s)
    rw [tick, hr', hc', hr, hc]
    refine ⟨rfl, ?_⟩
    split
    · rw [BitVec.add_assoc, BitVec.add_comm 1, ← BitVec.ofNat_add_ofNat]
      rfl
    · simp

end Sys2Proof.Machine


/-!
PROOFS. The decoder reads back what the encoder wrote (used for O59): the words of a well-formed instruction decode to it, whatever follows.
`candidate_of_fits`: the form that a chain can name is the one whose layout the chain has; `Shape.raw_fits`: the chain of a well-formed layout has it;
`decodeFrom_words`: the walk of R74 over the words of a chain gives the chain.
-/
namespace Sys2Proof

/-! ### Codes of the variants (R91) -/

theorem LdSz.ofCode_code {z : LdSz} {v : BitVec 3} (h : some v = z.code) : LdSz.ofCode v = some z := by
  cases z <;> cases h <;> rfl
theorem StSz.ofCode_code {z : StSz} {v : BitVec 3} (h : some v = z.code) : StSz.ofCode v = some z := by
  cases z <;> cases h <;> rfl
theorem ShKind.ofCode_code {z : ShKind} {v : BitVec 3} (h : some v = z.code) : ShKind.ofCode v = some z := by
  cases z <;> cases h <;> rfl
theorem CmpP.ofCode_code (z : CmpP) : CmpP.ofCode z.code = z := by cases z <;> rfl

/-- The code of a variant within an offer names the variant again. -/
theorem Elem.atCode_codeIn {offer : List (Option Elem)} {e : Elem} {v : BitVec 3} (hl : offer.length ≤ 8) (h : some v = Elem.codeIn offer e) :
    Elem.atCode offer v = some e := by
  obtain ⟨n, hn, rfl⟩ := Option.map_eq_some_iff.1 h.symm
  obtain ⟨hlt, he, -⟩ := List.findIdx?_eq_some_iff_getElem.1 hn
  have : (BitVec.ofNat 3 n).toNat = n := by simp; omega
  simpa [Elem.atCode, this, hlt] using he

theorem elT_back {e : Elem} {v : BitVec 3} (h : some v = e.elT) : Elem.elTOf v = some e := Elem.atCode_codeIn (by decide) h
theorem elF_back {e : Elem} {v : BitVec 3} (h : some v = e.elF) : Elem.elFOf v = some e := Elem.atCode_codeIn (by decide) h
theorem elAt_back {e : Elem} {v : BitVec 3} (h : some v = e.elAt) : Elem.elAtOf v = some e := Elem.atCode_codeIn (by decide) h
theorem elTk_back {e : Elem} {v : BitVec 3} (h : some v = e.elTk) : Elem.elTkOf v = some e := Elem.atCode_codeIn (by decide) h
theorem elC2_back {e : Elem} {v : BitVec 3} (h : some v = e.elC2) : Elem.elC2Of v = some e := Elem.atCode_codeIn (by decide) h
theorem elC8_back {e : Elem} {v : BitVec 3} (h : some v = e.elC8) : Elem.elC8Of v = some e := Elem.atCode_codeIn (by decide) h
theorem elC4_back {e : Elem} {v : BitVec 3} (h : some v = e.elC4) : Elem.elC4Of v = some e := Elem.atCode_codeIn (by decide) h
theorem elCu_back {e : Elem} {v : BitVec 3} (h : some v = e.elCu) : Elem.elCuOf v = some e := Elem.atCode_codeIn (by decide) h
theorem elQ_back {e : Elem} {v : BitVec 3} (h : some v = e.elQ) : Elem.elQOf v = some e := Elem.atCode_codeIn (by decide) h

theorem bind_of_some {α β : Type} {o : Option α} {a : α} (h : o = some a) (f : α → β) : (o.bind fun x => some (f x)) = some (f a) := by
  rw [h]
  rfl

/-! ### A layout and its chain -/

/-- What the walk of a chain knows of a layout: the fields of the base word and the payloads as the format gives them (R65–R67, R71). -/
structure Raw.Fits (r : Raw) (h : Shape) : Prop where
  page : r.page.toNat = h.page
  op : r.op.toNat = h.op
  pfx : r.pfx = h.pfx
  fmt : opFmt h.page h.op = some h.fmt
  d : match h.fmt with | .n11 => True | _ => r.d = h.d.num
  a : match h.fmt with | .a3 | .ai => r.a = h.a.num | _ => True
  b : match h.fmt with | .a3 => r.b = h.b.num | _ => True
  minor : match h.fmt with | .a3 => r.minor = h.minor | _ => True
  var : some r.v = h.var
  imm : match h.imm with
    | .none => True
    | .signed v => r.immInt h.fmt.width = v
    | .unsigned v _ _ | .field v => r.immNat h.fmt.width = v

/-- The form that a chain can name is the one whose layout the chain has (R94–R100). -/
theorem candidate_of_fits {i : Instr} {h : Shape} (hs : i.shape = some h) {r : Raw} (hr : r.Fits h) : candidate r = some i := by
  obtain ⟨hpage, hop, hpfx, hfmt, hd, ha, hb, hm, hv, hi⟩ := hr
  unfold candidate
  rw [hpage, hop, hpfx]
  dsimp only
  rw [hfmt, Option.map_some, Option.getD_some]
  generalize r.d = d, r.a = a, r.b = b, r.minor = m, r.v = v, r.immInt h.fmt.width = si, r.immNat h.fmt.width = ui at *
  clear hpage hop hpfx hfmt
  cases i <;> cases hs <;> cases hd <;> cases ha <;> cases hb <;> cases hm <;> cases hi
  case ld => exact bind_of_some (LdSz.ofCode_code hv) _
  case st => exact bind_of_some (StSz.ofCode_code hv) _
  case vabs | vneg | vadd | vsub | vmul | vmin | vmax | vredsum | vredmax | vredmin | vargmax | vscan => exact bind_of_some (elT_back hv) _
  case vcmp k _ _ _ _ => cases k <;> exact bind_of_some (elT_back hv) _
  case vshr => exact bind_of_some (ShKind.ofCode_code hv) _
  case vtopk => exact bind_of_some (elTk_back hv) _
  case cvt2 => exact bind_of_some (elC2_back hv) _
  case cvt8 => exact bind_of_some (elC8_back hv) _
  case cvt4 => exact bind_of_some (elC4_back hv) _
  case cvtu => exact bind_of_some (elCu_back hv) _
  case qscale | qz => exact bind_of_some (elQ_back hv) _
  case mring | mop | dret => exact bind_of_some (elF_back hv) _
  case attn => exact bind_of_some (elAt_back hv) _
  case vmskAnd | vmskOr | vmskXor | vmskNot | vmskFromx | vmskTox => cases hv; rfl
  all_goals rfl

/-! ### The chain of a layout (R65, R66) -/

open BitVec (extractLsb'_append_eq_of_le extractLsb'_append_eq_left extractLsb'_append_eq_right)

theorem opFmt_of_shape {i : Instr} {h : Shape} (hs : i.shape = some h) : opFmt h.page h.op = some h.fmt := by
  cases i <;> cases hs <;> rfl

theorem op_lt_of_shape {i : Instr} {h : Shape} (hs : i.shape = some h) : h.op < 31 := by
  cases i <;> cases hs <;> exact Nat.lt_of_sub_eq_succ rfl

/-! ### Registers (R66, R71) -/

/-- The high and low bits of a register number make it up. -/
theorem reg_append (r : Reg) : (r.extractLsb' 3 2 ++ r.extractLsb' 0 3 : BitVec 5) = r :=
  BitVec.extractLsb'_append_extractLsb' (w := 2) (len := 3)

/-- A register number below 8 has no high bits. -/
theorem reg_high_of_lt {r : Reg} (h : r.toNat < 8) : r.extractLsb' 3 2 = 0 := by
  apply BitVec.eq_of_toNat_eq
  simp [Nat.shiftRight_eq_div_pow]
  omega

/-- The fields of a REG payload. -/
theorem regPayload_fields : ∀ (d a b : BitVec 2) (v : BitVec 3),
    let p : BitVec 9 := d ++ a ++ b ++ v
    p.extractLsb' 7 2 = d ∧ p.extractLsb' 5 2 = a ∧ p.extractLsb' 3 2 = b ∧ p.extractLsb' 0 3 = v := by decide

/-- A QUAL payload gives its fields again (R72). -/
theorem Qual.ofPayload_payload (q : Qual) : Qual.ofPayload q.payload = q := by
  obtain ⟨o, rt, rd, sat, nf⟩ := q
  revert o rt rd sat nf
  decide

section
variable {h : Shape}

theorem Shape.raw_reg (hr : h.regOk = true) : (h.raw.reg.getD 0).extractLsb' 7 2 = h.d.num.extractLsb' 3 2 ∧
    (h.raw.reg.getD 0).extractLsb' 5 2 = h.a.num.extractLsb' 3 2 ∧ (h.raw.reg.getD 0).extractLsb' 3 2 = h.b.num.extractLsb' 3 2 ∧
    (h.raw.reg.getD 0).extractLsb' 0 3 = h.var.getD 0 := by
  by_cases hp : h.pfx.reg = true
  · simpa only [Shape.raw, hp, if_true, Option.getD_some] using regPayload_fields _ _ _ _
  · simp only [Shape.regOk, hp, Bool.false_or, Bool.and_eq_true, decide_eq_true_eq, beq_iff_eq] at hr
    obtain ⟨⟨⟨hd, ha⟩, hb⟩, hv⟩ := hr
    simp [Shape.raw, hp, reg_high_of_lt hd, reg_high_of_lt ha, reg_high_of_lt hb, hv]

theorem Shape.raw_d (hr : h.regOk = true) (hf : h.fmt ≠ .n11) : h.raw.d = h.d.num := by
  have hl : h.low.extractLsb' 8 3 = h.d.num.extractLsb' 0 3 := by
    unfold Shape.low
    cases hfm : h.fmt with
    | a3 => exact (extractLsb'_append_eq_of_le (by decide)).trans ((extractLsb'_append_eq_of_le (by decide)).trans extractLsb'_append_eq_left)
    | ai => exact (extractLsb'_append_eq_of_le (by decide)).trans extractLsb'_append_eq_left
    | i8 | b8 => exact extractLsb'_append_eq_left
    | n11 => exact absurd hfm hf
  unfold Raw.d Raw.regNum
  rw [(Shape.raw_reg hr).1]
  exact (congrArg _ hl).trans (reg_append _)

theorem Shape.raw_a (hr : h.regOk = true) (hf : h.fmt = .a3 ∨ h.fmt = .ai) : h.raw.a = h.a.num := by
  have hl : h.low.extractLsb' 5 3 = h.a.num.extractLsb' 0 3 := by
    unfold Shape.low
    rcases hf with hf | hf <;> rw [hf]
    · exact (extractLsb'_append_eq_of_le (by decide)).trans ((extractLsb'_append_eq_of_le (by decide)).trans extractLsb'_append_eq_right)
    · exact (extractLsb'_append_eq_of_le (by decide)).trans extractLsb'_append_eq_right
  unfold Raw.a Raw.regNum
  rw [(Shape.raw_reg hr).2.1]
  exact (congrArg _ hl).trans (reg_append _)

theorem Shape.raw_b (hr : h.regOk = true) (hf : h.fmt = .a3) : h.raw.b = h.b.num := by
  have hl : h.low.extractLsb' 2 3 = h.b.num.extractLsb' 0 3 := by
    unfold Shape.low
    rw [hf]
    exact (extractLsb'_append_eq_of_le (by decide)).trans extractLsb'_append_eq_right
  unfold Raw.b Raw.regNum
  rw [(Shape.raw_reg hr).2.2.1]
  exact (congrArg _ hl).trans (reg_append _)

theorem Shape.raw_minor (hf : h.fmt = .a3) : h.raw.minor = h.minor := by
  unfold Raw.minor Shape.raw Shape.low
  rw [hf]
  exact extractLsb'_append_eq_right

theorem Shape.raw_v (hr : h.regOk = true) (hv : h.varOk = true) : some h.raw.v = h.var := by
  obtain ⟨v, hv⟩ := Option.isSome_iff_exists.1 hv
  rw [Raw.v, (Shape.raw_reg hr).2.2.2, hv]
  rfl

theorem immPayloads_length (n w k : Nat) : (immPayloads n w k).length = k := by
  induction k with
  | zero => rfl
  | succ k ih => rw [immPayloads, List.length_cons, ih]

theorem Shape.raw_pfx : h.raw.pfx = h.pfx := by
  rcases hp : h.pfx with ⟨page, reg, qual, imms⟩
  have hq : (qual.map Qual.payload).map Qual.ofPayload = qual := by cases qual <;> simp [Qual.ofPayload_payload]
  simp only [Raw.pfx, Shape.raw, hp, immPayloads_length, hq]
  cases reg <;> rfl

/-! ### Immediates (R67) -/

/-- The payloads of an immediate, read most significant first, are its bits above the field of the base word. -/
theorem foldl_immPayloads (n w k acc : Nat) :
    (immPayloads n w k).foldl (fun acc p => acc * 512 + p.toNat) acc = acc * 2 ^ (9 * k) + n / 2 ^ w % 2 ^ (9 * k) := by
  induction k generalizing acc with
  | zero => simp [immPayloads, Nat.mod_one]
  | succ k ih =>
    rw [immPayloads, List.foldl_cons, ih]
    have h1 : n / 2 ^ (w + 9 * k) = n / 2 ^ w / 2 ^ (9 * k) := by rw [pow_add, Nat.div_div_eq_div_mul]
    have h2 : 2 ^ (9 * (k + 1)) = 2 ^ (9 * k) * 512 := by rw [Nat.mul_succ, pow_add]; norm_num
    rw [BitVec.toNat_ofNat, h1, h2, Nat.mod_mul]
    ring

theorem toNat_append_mod {v w : Nat} (x : BitVec v) (n : Nat) : (x ++ BitVec.ofNat w n).toNat % 2 ^ w = n % 2 ^ w := by
  have : (x ++ BitVec.ofNat w n).extractLsb' 0 w = BitVec.ofNat w n := extractLsb'_append_eq_right
  have := congrArg BitVec.toNat this
  simpa using this

theorem Shape.low_mod : h.low.toNat % 2 ^ h.fmt.width = h.immBits % 2 ^ h.fmt.width := by
  unfold Shape.low
  cases h.fmt with
  | a3 => exact (Nat.mod_one _).trans (Nat.mod_one _).symm
  | ai | i8 | b8 => exact toNat_append_mod _ _
  | n11 => simp [Fmt.width]

/-- The payloads and the field of the base word make up the immediate. -/
theorem Shape.raw_immNat (hi : h.immBits < 2 ^ h.immWidth) : h.raw.immNat h.fmt.width = h.immBits := by
  unfold Raw.immNat Shape.raw
  dsimp only
  rw [foldl_immPayloads, Shape.low_mod, Nat.zero_mul, Nat.zero_add, Nat.mul_comm, Nat.mod_eq_of_lt]
  · exact Nat.div_add_mod _ _
  · rw [Nat.div_lt_iff_lt_mul (by positivity), ← pow_add, Nat.add_comm]
    exact hi

/-- A signed immediate that fits its width is read back from its bits. -/
theorem Shape.raw_immInt {v : Int} (hi : h.imm = .signed v) (hw : 0 < h.immWidth) (h1 : -(2 ^ (h.immWidth - 1) : Int) ≤ v)
    (h2 : v < (2 ^ (h.immWidth - 1) : Int)) : h.raw.immInt h.fmt.width = v := by
  have hpow : (2 : Int) ^ h.immWidth = 2 * 2 ^ (h.immWidth - 1) := by rw [← pow_succ', Nat.sub_add_cancel hw]
  have hbits : (h.immBits : Int) = v % 2 ^ h.immWidth := by
    unfold Shape.immBits
    rw [hi]
    exact Int.toNat_of_nonneg (Int.emod_nonneg _ (by positivity))
  have hlt : h.immBits < 2 ^ h.immWidth := by
    have := Int.emod_lt_of_pos v (b := 2 ^ h.immWidth) (by positivity)
    rw [← hbits] at this
    exact_mod_cast this
  have hlen : h.fmt.width + 9 * h.raw.imms.length = h.immWidth := by
    rw [Shape.raw, immPayloads_length, Shape.immWidth]
  unfold Raw.immInt
  dsimp only
  rw [Shape.raw_immNat hlt, hlen]
  have hcond : 2 * h.immBits < 2 ^ h.immWidth ↔ 2 * (v % 2 ^ h.immWidth) < 2 ^ h.immWidth := by rw [← hbits]; exact_mod_cast Iff.rfl
  rw [hbits, if_congr hcond rfl rfl, hpow]
  generalize (2 : Int) ^ (h.immWidth - 1) = m at *
  rcases Int.lt_or_le v 0 with hneg | hpos
  · have : v % (2 * m) = v + 2 * m := by rw [← Int.add_emod_right, Int.emod_eq_of_lt (by omega) (by omega)]
    rw [this, if_neg (by omega)]
    omega
  · rw [Int.emod_eq_of_lt hpos (by omega), if_pos (by omega)]

theorem Shape.immBits_of_fits {v : Nat} (hi : h.immBits = v) (hv : v < 2 ^ h.immWidth) : h.raw.immNat h.fmt.width = v := by
  rw [Shape.raw_immNat (hi ▸ hv), hi]

theorem Shape.raw_imm (hi : h.immOk = true) : match h.imm with
    | .none => True
    | .signed v => h.raw.immInt h.fmt.width = v
    | .unsigned v _ _ | .field v => h.raw.immNat h.fmt.width = v := by
  cases hm : h.imm with
  | none => trivial
  | signed v =>
    simp only [Shape.immOk, hm, Bool.and_eq_true, decide_eq_true_eq, bne_iff_ne] at hi
    obtain ⟨⟨hf, h1⟩, h2⟩ := hi
    refine Shape.raw_immInt hm ?_ h1 h2
    unfold Shape.immWidth
    cases hfm : h.fmt <;> simp_all [Fmt.width]
  | unsigned v lo hi' =>
    simp only [Shape.immOk, hm, Bool.and_eq_true, decide_eq_true_eq] at hi
    exact Shape.immBits_of_fits (by rw [Shape.immBits, hm]) hi.1.1.2
  | field v =>
    simp only [Shape.immOk, hm, Bool.and_eq_true, decide_eq_true_eq] at hi
    exact Shape.immBits_of_fits (by rw [Shape.immBits, hm]) hi.1.1.2
end 

/-! ### Prefix words (R64, R69, R74) -/

/-- A prefix word of a kind with a payload: 0 IMM, 1 REG, 2 PAGE, 3 QUAL (R69). -/
structure Code.IsPrefix {v : Nat} (w : Code) (k : Nat) (p : BitVec v) : Prop where
  pfx : w.isPfx = true
  kind : (w.bits 9 2).toNat = k
  bits : ∀ lo len, lo + len ≤ 9 → w.bits lo len = p.extractLsb' lo len

theorem Code.toNat_bits (w : Code) (lo len : Nat) : (w.bits lo len).toNat = w.toNat / 2 ^ lo % 2 ^ len := by
  rw [Code.bits, BitVec.extractLsb'_toNat, Nat.shiftRight_eq_div_pow]

/-- A number below 2^lo × 2^len × …, raised by a multiple of that, keeps its low bits. -/
theorem low_bits_of_add {lo len a : Nat} (hl : lo + len ≤ 9) (k : Nat) : (a + 512 * k) / 2 ^ lo % 2 ^ len = a / 2 ^ lo % 2 ^ len := by
  have h512 : 2 ^ lo * (2 ^ len * 2 ^ (9 - lo - len)) = 512 := by
    rw [← pow_add, ← pow_add, show lo + (len + (9 - lo - len)) = 9 by omega]; rfl
  rw [← h512, Nat.mul_assoc, Nat.add_mul_div_left _ _ (by positivity), Nat.mul_assoc, Nat.add_mul_mod_self_left]

theorem isPrefix_of_kind {k v : Nat} (hk : k < 4) (hv : v ≤ 9) (p : BitVec v) :
    Code.IsPrefix (BitVec.ofNat 16 (0xF800 + 512 * k) ||| p.zeroExtend 16) k p := by
  have hp : p.toNat < 2 ^ 9 := lt_of_lt_of_le p.isLt (Nat.pow_le_pow_right (by decide) hv)
  have hw : (BitVec.ofNat 16 (0xF800 + 512 * k) ||| p.zeroExtend 16 : Code).toNat = p.toNat + 512 * (124 + k) := by
    have h1 : p.toNat % 2 ^ 16 = p.toNat := Nat.mod_eq_of_lt (by omega)
    have h2 : (0xF800 + 512 * k) % 2 ^ 16 = 2 ^ 9 * (124 + k) := by omega
    rw [BitVec.toNat_or, BitVec.toNat_setWidth, BitVec.toNat_ofNat, h1, h2, ← Nat.two_pow_add_eq_or_of_lt hp]
    exact (by omega)
  generalize (BitVec.ofNat 16 (0xF800 + 512 * k) ||| p.zeroExtend 16 : Code) = w at hw
  refine ⟨?_, ?_, fun lo len hl => ?_⟩
  · rw [Code.isPfx, beq_iff_eq]
    apply BitVec.eq_of_toNat_eq
    rw [Code.toNat_bits, hw]
    simp
    omega
  · rw [Code.toNat_bits, hw]
    omega
  · apply BitVec.eq_of_toNat_eq
    rw [Code.toNat_bits, hw, BitVec.extractLsb'_toNat, Nat.shiftRight_eq_div_pow, low_bits_of_add hl]

/-! ### The walk over a chain (R74) -/

section
variable {first : Code} {c : Chain} {ws : List Code} {w : Code}

/-- A PAGE prefix comes first. -/
theorem Chain.push_page {p : BitVec 4} (h : w.IsPrefix 2 p) (hr : c.rank = 0) :
    c.push w = some { c with pos := c.pos + 1, rank := 1, hasPage := true, page := p } := by
  have h0 : w.bits 4 5 = 0 := by
    rw [h.bits 4 5 (by decide)]
    apply BitVec.eq_of_toNat_eq
    simp [Nat.shiftRight_eq_div_pow, Nat.div_eq_of_lt p.isLt]
  have hp : w.bits 0 4 = p := (h.bits 0 4 (by decide)).trans BitVec.extractLsb'_eq_self
  simp [Chain.push, h.kind, h0, hp, hr]

/-- A REG prefix follows at most a PAGE prefix. -/
theorem Chain.push_reg {p : BitVec 9} (h : w.IsPrefix 1 p) (hr : c.rank < 2) :
    c.push w = some { c with pos := c.pos + 1, rank := 2, reg := some p, regPos := c.pos } := by
  have hp : w.bits 0 9 = p := (h.bits 0 9 (by decide)).trans BitVec.extractLsb'_eq_self
  simp [Chain.push, h.kind, hp, hr]

/-- The route and rounding fields of a QUAL payload hold no reserved value (R72, R74). -/
def qualSound (p : BitVec 9) : Prop := p.extractLsb' 5 2 ≠ 3 ∧ p.extractLsb' 2 3 ≠ 7

/-- A QUAL prefix follows at most a PAGE and a REG prefix. -/
theorem Chain.push_qual {p : BitVec 9} (h : w.IsPrefix 3 p) (hq : qualSound p) (hr : c.rank < 3) :
    c.push w = some { c with pos := c.pos + 1, rank := 3, qual := some p } := by
  have hp : w.bits 0 9 = p := (h.bits 0 9 (by decide)).trans BitVec.extractLsb'_eq_self
  have h1 : w.bits 5 2 ≠ 3 := h.bits 5 2 (by decide) ▸ hq.1
  have h2 : w.bits 2 3 ≠ 7 := h.bits 2 3 (by decide) ▸ hq.2
  simp_all [Chain.push, h.kind]

/-- IMM prefixes come last. -/
theorem Chain.push_imm {p : BitVec 9} (h : w.IsPrefix 0 p) :
    c.push w = some { c with pos := c.pos + 1, rank := 4, imms := c.imms ++ [p] } := by
  have hp : w.bits 0 9 = p := (h.bits 0 9 (by decide)).trans BitVec.extractLsb'_eq_self
  simp [Chain.push, h.kind, hp]

theorem decodeFrom_push {v k : Nat} {p : BitVec v} {c' : Chain} (h : w.IsPrefix k p) (hp : c.pos < 4) (hc : c.push w = some c') :
    decodeFrom first c (w :: ws) = decodeFrom first c' ws := by
  rw [decodeFrom, if_pos h.pfx, if_neg (by omega), hc]

theorem decodeFrom_page {o : Bool} {p : BitVec 4} (hp : o = false → p = c.page) (hr : c.rank = 0) (hn : c.pos < 4) (hc : c.hasPage = false) :
    ∃ rank ≤ 1, ∀ ws, decodeFrom first c ((if o then [(0xFC00 : Code) ||| p.zeroExtend 16] else []) ++ ws) =
      decodeFrom first { c with rank := rank, pos := c.pos + o.toNat, hasPage := o, page := p } ws := by
  cases o with
  | false =>
    obtain ⟨rank, pos, hasPage, page, reg, regPos, qual, imms⟩ := c
    cases hr; cases hc; cases hp rfl
    exact ⟨0, by decide, fun _ => rfl⟩
  | true =>
    have h : ((0xFC00 : Code) ||| p.zeroExtend 16).IsPrefix 2 p := isPrefix_of_kind (k := 2) (by decide) (by decide) p
    exact ⟨1, le_refl 1, fun _ => decodeFrom_push h hn (Chain.push_page h hr)⟩

theorem decodeFrom_reg {o : Option (BitVec 9)} (hr : c.rank < 2) (hn : c.pos < 4) (hc : c.reg = none) :
    ∃ rank ≤ 2, ∃ regPos, ∀ ws, decodeFrom first c ((match o with | some p => [(0xFA00 : Code) ||| p.zeroExtend 16] | none => []) ++ ws) =
      decodeFrom first { c with rank := rank, pos := c.pos + o.isSome.toNat, reg := o, regPos := regPos } ws := by
  cases o with
  | none =>
    obtain ⟨rank, pos, hasPage, page, reg, regPos, qual, imms⟩ := c
    cases hc
    exact ⟨rank, by simp only at hr; omega, regPos, fun _ => rfl⟩
  | some p =>
    have h : ((0xFA00 : Code) ||| p.zeroExtend 16).IsPrefix 1 p := isPrefix_of_kind (k := 1) (by decide) (by decide) p
    exact ⟨2, le_refl 2, c.pos, fun _ => decodeFrom_push h hn (Chain.push_reg h hr)⟩

theorem decodeFrom_qual {o : Option (BitVec 9)} (hq : ∀ q ∈ o, qualSound q) (hr : c.rank < 3) (hn : c.pos < 4) (hc : c.qual = none) :
    ∃ rank, ∀ ws, decodeFrom first c ((match o with | some p => [(0xFE00 : Code) ||| p.zeroExtend 16] | none => []) ++ ws) =
      decodeFrom first { c with rank := rank, pos := c.pos + o.isSome.toNat, qual := o } ws := by
  cases o with
  | none =>
    obtain ⟨rank, pos, hasPage, page, reg, regPos, qual, imms⟩ := c
    cases hc
    exact ⟨rank, fun _ => rfl⟩
  | some p =>
    have h : ((0xFE00 : Code) ||| p.zeroExtend 16).IsPrefix 3 p := isPrefix_of_kind (k := 3) (by decide) (by decide) p
    exact ⟨3, fun _ => decodeFrom_push h hn (Chain.push_qual h (hq p rfl) hr)⟩

theorem decodeFrom_imms (l : List (BitVec 9)) (hn : c.pos + l.length ≤ 4) :
    ∃ rank, ∀ ws, decodeFrom first c (l.map (fun p => (0xF800 : Code) ||| p.zeroExtend 16) ++ ws) =
      decodeFrom first { c with rank := rank, pos := c.pos + l.length, imms := c.imms ++ l } ws := by
  induction l generalizing c with
  | nil => exact ⟨c.rank, fun _ => by simp⟩
  | cons p l ih =>
    rw [List.length_cons] at hn
    obtain ⟨rank, hi⟩ := ih (c := { c with pos := c.pos + 1, rank := 4, imms := c.imms ++ [p] }) (by simp only; omega)
    have h : ((0xF800 : Code) ||| p.zeroExtend 16).IsPrefix 0 p := isPrefix_of_kind (k := 0) (by decide) (by decide) p
    refine ⟨rank, fun ws => (decodeFrom_push h (by omega) (Chain.push_imm h)).trans ((hi ws).trans ?_)⟩
    simp [Nat.add_assoc, Nat.add_comm 1]

end

/-- The number of prefixes of a chain. -/
def Raw.prefixes (r : Raw) : Nat := r.hasPage.toNat + r.reg.isSome.toNat + r.qual.isSome.toNat + r.imms.length

theorem Raw.words_length (r : Raw) : r.words.length = r.prefixes + 1 := by
  obtain ⟨hasPage, page, reg, qual, imms, op, low⟩ := r
  cases hasPage <;> cases reg <;> cases qual <;> simp [Raw.words, Raw.prefixes] <;> omega

/-- The walk over the words of a chain of at most four prefixes comes to its base word with what the prefixes say. -/
theorem decodeFrom_words (first : Code) (r : Raw) (rest : List Code) (hn : r.prefixes ≤ 4) (hp : r.hasPage = false → r.page = 0)
    (hq : ∀ q ∈ r.qual, qualSound q) : ∃ rank regPos, decodeFrom first Chain.start (r.words ++ rest) =
      decodeFrom first { rank := rank, pos := r.prefixes, hasPage := r.hasPage, page := r.page, reg := r.reg, regPos := regPos, qual := r.qual, imms := r.imms }
        ((r.op ++ r.low : Code) :: rest) := by
  obtain ⟨hasPage, page, reg, qual, imms, op, low⟩ := r
  simp only [Raw.prefixes] at hn ⊢
  have hb1 := hasPage.toNat_le
  have hb2 := reg.isSome.toNat_le
  obtain ⟨r1, hr1, h1⟩ := decodeFrom_page (first := first) (c := Chain.start) hp rfl (by decide) rfl
  obtain ⟨r2, hr2, p2, h2⟩ := decodeFrom_reg (first := first) (o := reg)
    (c := { Chain.start with rank := r1, pos := hasPage.toNat, hasPage := hasPage, page := page }) (by simp only; omega) (by simp only; omega) rfl
  obtain ⟨r3, h3⟩ := decodeFrom_qual (first := first) (o := qual)
    (c := { Chain.start with rank := r2, pos := hasPage.toNat + reg.isSome.toNat, hasPage := hasPage, page := page, reg := reg, regPos := p2 })
    hq (by simp only; omega) (by simp only; omega) rfl
  obtain ⟨r4, h4⟩ := decodeFrom_imms (first := first) (l := imms)
    (c := { Chain.start with rank := r3, pos := hasPage.toNat + reg.isSome.toNat + qual.isSome.toNat, hasPage := hasPage, page := page, reg := reg, regPos := p2, qual := qual })
    (by simp only; omega)
  refine ⟨r4, p2, ?_⟩
  simp only [Raw.words, List.append_assoc]
  rw [h1, show Chain.start.pos + hasPage.toNat = hasPage.toNat from Nat.zero_add _]
  exact (h2 _).trans ((h3 _).trans (h4 _))

/-! ### Well-formed layouts -/

section
variable {i : Instr} {h : Shape}

/-- The parts of well-formedness that decoding rests on. -/
theorem Shape.wf_parts (hw : h.wf = true) : h.chainOk = true ∧ h.pageOk = true ∧ h.regOk = true ∧ h.fmtOk = true ∧ h.varOk = true ∧ h.immOk = true ∧
    h.qualOk = true := by
  simp only [Shape.wf, Bool.and_eq_true] at hw
  obtain ⟨⟨⟨⟨⟨⟨⟨hc, hp⟩, hr⟩, -⟩, hf⟩, hv⟩, hi⟩, hq⟩ := hw
  exact ⟨hc, hp, hr, hf, hv, hi, hq⟩

theorem Shape.page_lt (hp : h.pageOk = true) : h.page < 9 := by
  simp only [Shape.pageOk, Bool.and_eq_true, decide_eq_true_eq] at hp
  exact hp.1

/-- The chain of a well-formed layout fits the layout. -/
theorem Shape.raw_fits (hs : i.shape = some h) (hw : h.wf = true) : h.raw.Fits h := by
  obtain ⟨-, hp, hr, -, hv, hi, -⟩ := Shape.wf_parts hw
  have h1 := Shape.page_lt hp
  have h2 := op_lt_of_shape hs
  refine ⟨?_, ?_, Shape.raw_pfx, opFmt_of_shape hs, ?_, ?_, ?_, ?_, Shape.raw_v hr hv, Shape.raw_imm hi⟩
  · exact (BitVec.toNat_ofNat ..).trans (Nat.mod_eq_of_lt (by omega))
  · exact (BitVec.toNat_ofNat ..).trans (Nat.mod_eq_of_lt (by omega))
  · split
    · trivial
    · next hf => exact Shape.raw_d hr hf
  · split
    · next hf => exact Shape.raw_a hr (.inl hf)
    · next hf => exact Shape.raw_a hr (.inr hf)
    · trivial
  · split
    · next hf => exact Shape.raw_b hr hf
    · trivial
  · split
    · next hf => exact Shape.raw_minor hf
    · trivial

theorem ofRaw_raw (hs : i.shape = some h) (hw : h.wf = true) : ofRaw h.raw = some i := by
  simp [ofRaw, candidate_of_fits hs (Shape.raw_fits hs hw), hs, hw]

theorem Shape.raw_prefixes (hc : h.chainOk = true) : h.raw.prefixes ≤ 4 := by
  have hr : h.raw.reg.isSome = h.pfx.reg := congrArg Pfx.reg Shape.raw_pfx
  have hq : h.raw.qual.isSome = h.pfx.qual.isSome := by simp [Shape.raw]
  have hi : h.raw.imms.length = h.pfx.imms := immPayloads_length _ _ _
  rw [Raw.prefixes, hr, hq, hi]
  exact of_decide_eq_true hc

theorem Shape.raw_page (hp : h.pageOk = true) (hn : h.raw.hasPage = false) : h.raw.page = 0 := by
  have hn : h.pfx.page = false := hn
  simp only [Shape.pageOk, Bool.and_eq_true, hn, Bool.or_false, beq_iff_eq] at hp
  rw [Shape.raw, hp.2]
  rfl

theorem qualSound_payload : ∀ (o rt : BitVec 2) (rd : BitVec 3) (sat nf : Bool), rt ≠ 3 → rd ≠ 7 → qualSound (Qual.payload ⟨o, rt, rd, sat, nf⟩) := by
  unfold qualSound
  decide

/-- A qualifier that a form accepts holds no reserved value. -/
theorem Shape.raw_qual (hq : h.qualOk = true) : ∀ q ∈ h.raw.qual, qualSound q := by
  rintro q hqm
  obtain ⟨⟨o, rt, rd, sat, nf⟩, hpq, rfl⟩ := Option.map_eq_some_iff.1 hqm
  simp only [Shape.qualOk, hpq, Bool.and_eq_true] at hq
  obtain ⟨⟨⟨⟨⟨-, hrt⟩, hrd⟩, -⟩, -⟩, -⟩ := hq
  refine qualSound_payload o rt rd sat nf ?_ ?_
  · rintro rfl
    cases hu : h.use.route <;> rw [hu] at hrt <;> exact absurd hrt (by decide)
  · rintro rfl
    split at hrd <;> exact absurd hrd (by decide)

/-- A format without immediates has no IMM prefix (R74). -/
theorem Shape.raw_imms (hi : h.immOk = true) (hf : h.fmt = .a3) : h.raw.imms = [] := by
  have : h.pfx.imms = 0 := by
    unfold Shape.immOk at hi
    split at hi <;> simp_all
  exact List.eq_nil_of_length_eq_zero ((immPayloads_length _ _ _).trans this)

theorem regBitsFit_payload : ∀ (d a b : BitVec 2) (v : BitVec 3),
    let p : BitVec 9 := d ++ a ++ b ++ v
    regBitsFit .a3 p = true ∧ (b = 0 → regBitsFit .ai p = true) ∧ (a = 0 → b = 0 → regBitsFit .i8 p = true ∧ regBitsFit .b8 p = true) ∧
      (d = 0 → a = 0 → b = 0 → regBitsFit .n11 p = true) := by decide

/-- The high register bits that a format lacks are zero (R71). -/
theorem Shape.raw_regBits (hf : h.fmtOk = true) : h.raw.reg.all (regBitsFit h.fmt) = true := by
  unfold Shape.raw
  split
  · obtain ⟨h1, h2, h3, h4⟩ := regBitsFit_payload (h.d.num.extractLsb' 3 2) (h.a.num.extractLsb' 3 2) (h.b.num.extractLsb' 3 2) (h.var.getD 0)
    have hz {o : Opd} (ho : o = .fixed 0) : o.num.extractLsb' 3 2 = 0 := by rw [ho]; rfl
    unfold Shape.fmtOk at hf
    cases hfm : h.fmt <;> simp only [hfm, Bool.and_eq_true, beq_iff_eq] at hf
    case a3 => exact h1
    case ai => exact h2 (hz hf)
    case i8 => exact (h3 (hz hf.1) (hz hf.2)).1
    case b8 => exact (h3 (hz hf.1) (hz hf.2)).2
    case n11 => exact h4 (hz hf.1.1) (hz hf.1.2) (hz hf.2)
  · rfl

/-- The base word is no prefix word. -/
theorem isPfx_base {op : BitVec 5} (low : BitVec 11) (h : op.toNat < 31) : Code.isPfx (op ++ low : BitVec 16) = false := by
  have hb : Code.bits (op ++ low : BitVec 16) 11 5 = op := BitVec.extractLsb'_append_eq_left
  rw [Code.isPfx, hb, beq_eq_false_iff_ne]
  rintro rfl
  exact absurd h (by decide)

/-- The words of a well-formed instruction decode to it, whatever follows (R64–R74). -/
theorem decode_encode {ws : List Code} (hw : i.wf = true) (he : encode i = some ws) (rest : List Code) :
    decodeWords (ws ++ rest) = .ok i ws.length := by
  obtain ⟨h, hs, rfl⟩ := Option.map_eq_some_iff.1 he
  have hw : h.wf = true := by simpa [Instr.wf, hs] using hw
  obtain ⟨hc, hp, -, hf, -, hi, hq⟩ := Shape.wf_parts hw
  have hfit := Shape.raw_fits hs hw
  have hop : h.raw.op.toNat < 31 := hfit.op ▸ op_lt_of_shape hs
  obtain ⟨rank, regPos, hd⟩ := decodeFrom_words ((h.raw.words ++ rest).headD 0) h.raw rest (Shape.raw_prefixes hc) (Shape.raw_page hp) (Shape.raw_qual hq)
  have h1 : Code.bits (h.raw.op ++ h.raw.low : BitVec 16) 11 5 = h.raw.op := BitVec.extractLsb'_append_eq_left
  have h2 : Code.bits (h.raw.op ++ h.raw.low : BitVec 16) 0 11 = h.raw.low := BitVec.extractLsb'_append_eq_right
  have h3 : (h.fmt == .a3 && !h.raw.imms.isEmpty) = false := by
    by_cases hfm : h.fmt = .a3
    · simp [Shape.raw_imms hi hfm]
    · simp [hfm]
  rw [decodeWords, hd, decodeFrom, isPfx_base _ hop, if_neg (by decide), decodeBase, Raw.words_length]
  simp [h1, h2, hfit.page, hfit.op, hfit.fmt, h3, Shape.raw_regBits hf, ofRaw_raw hs hw]

/-- The words of a well-formed instruction: prefix words, at most four, and a base word. -/
theorem encode_split {ws : List Code} (hw : i.wf = true) (he : encode i = some ws) :
    ∃ ps base, ws = ps ++ [base] ∧ ps.length ≤ 4 ∧ (∀ p ∈ ps, p.isPfx = true) ∧ base.isPfx = false := by
  obtain ⟨h, hs, rfl⟩ := Option.map_eq_some_iff.1 he
  have hw : h.wf = true := by simpa [Instr.wf, hs] using hw
  have hl := (Raw.words_length h.raw).trans_le (Nat.succ_le_succ (Shape.raw_prefixes (Shape.wf_parts hw).1))
  have hop : h.raw.op.toNat < 31 := (Shape.raw_fits hs hw).op ▸ op_lt_of_shape hs
  refine ⟨_, _, rfl, ?_, fun p hp => ?_, isPfx_base _ hop⟩
  · simp only [Raw.words, List.length_append, List.length_cons, List.length_nil] at hl ⊢
    omega
  · simp only [List.mem_append, List.mem_map] at hp
    rcases hp with ((hp | hp) | hp) | ⟨q, -, rfl⟩
    · split at hp
      · rw [List.mem_singleton.1 hp]; exact (isPrefix_of_kind (k := 2) (by decide) (by decide) _).pfx
      · exact absurd hp List.not_mem_nil
    · split at hp
      · rw [List.mem_singleton.1 hp]; exact (isPrefix_of_kind (k := 1) (by decide) (by decide) _).pfx
      · exact absurd hp List.not_mem_nil
    · split at hp
      · rw [List.mem_singleton.1 hp]; exact (isPrefix_of_kind (k := 3) (by decide) (by decide) _).pfx
      · exact absurd hp List.not_mem_nil
    · exact (isPrefix_of_kind (k := 0) (by decide) (by decide) _).pfx
end

end Sys2Proof


/-!
PROOFS. A step runs the decoded instruction (O59): `fetchedAt_words`, what is fetched where the words of a well-formed instruction lie;
`stepCore_next`, what a core's turn makes of the instruction's outcome.
-/
namespace Sys2Proof.Machine

/-! ### Fetching (R27, R64, R76) -/

/-- The words at an offset are present and these. -/
def WordsAt (g : Nat) (c : Core) (o : Nat) (ws : List Code) : Prop :=
  ∀ j w, ws[j]? = some w → wordPresent g c (o + 2 * j) = true ∧ codeWord c (o + 2 * j) = w

/-- The extent of prefix words and a base word is those words. -/
theorem extent_words {s : State} {g o n : Nat} {ps : List Code} {base : Code} (hp : ∀ p ∈ ps, p.isPfx = true) (hb : base.isPfx = false)
    (hw : WordsAt g (getCore s g) o (ps ++ [base])) (hn : ps.length < n) : extent s g o n = .ok (ps ++ [base]) := by
  induction ps generalizing o n with
  | nil =>
    obtain ⟨n, rfl⟩ := Nat.exists_eq_add_of_lt hn
    obtain ⟨h1, h2⟩ := hw 0 base rfl
    have h1 : wordPresent g (getCore s g) o = true := h1
    have h2 : codeWord (getCore s g) o = base := h2
    simp [extent, h1, h2, hb]
  | cons p ps ih =>
    obtain ⟨n, rfl⟩ := Nat.exists_eq_add_of_lt hn
    obtain ⟨h1, h2⟩ := hw 0 p rfl
    have h1 : wordPresent g (getCore s g) o = true := h1
    have h2 : codeWord (getCore s g) o = p := h2
    have hrest : extent s g (o + 2) (ps.length + 1 + n) = .ok (ps ++ [base]) := by
      refine ih (fun q hq => hp q (List.mem_cons_of_mem p hq)) (fun j w hj => ?_) (by omega)
      have := hw (j + 1) w hj
      rwa [show o + 2 * (j + 1) = o + 2 + 2 * j by omega] at this
    simp [extent, h1, h2, hp p List.mem_cons_self, hrest, Except.map]

/-- Where the words of a well-formed instruction lie, present and without errors, the instruction is fetched. -/
theorem fetchedAt_words {s : State} {g pc : Nat} {i : Instr} {ws : List Code} (hw : i.wf = true) (he : encode i = some ws)
    (hp : WordsAt g (getCore s g) pc ws) (hb : ∀ j < ws.length, isBad s (modOf g) (locator 3 g (pc / 2 + j)) = false) : fetchedAt s g pc = i := by
  obtain ⟨ps, base, rfl, hl, hpfx, hbase⟩ := encode_split hw he
  have hfind : (upFrom 0 (ps.length + 1)).find? (fun j => isBad s (modOf g) (locator 3 g (pc / 2 + j))) = none := by
    refine List.find?_eq_none.2 fun j hj => ?_
    rw [mem_upFrom] at hj
    simp [hb j (by simp; omega)]
  have hd : decodeWords (ps ++ [base]) = .ok i (ps ++ [base]).length := by simpa using decode_encode hw he []
  simp [fetchedAt, extent_words hpfx hbase hp (Nat.lt_succ_of_le hl), hfind, hd]

/-- An instruction that has issued and waits is not fetched again (R77). -/
theorem fetched_held {s : State} {g k : Nat} {i : Instr} (h : (getCtx s g k).held = some ((getCtx s g k).pc, (getCtx s g k).instret, i)) :
    fetched s g k = i := by
  simp [fetched, h]

theorem fetched_fresh {s : State} {g k : Nat} (h : (getCtx s g k).held = none) : fetched s g k = fetchedAt s g (getCtx s g k).pc.toNat := by
  simp [fetched, h]

/-! ### A core's turn -/

/-- An instruction that has been evaluated stays issued, or not. -/
theorem keepIssued_cases (s t : State) (g k : Nat) (i : Instr) :
    ∃ h, keepIssued s t g k i = t ∨ keepIssued s t g k i = modCtx t g k fun c => { c with held := some h } := by
  have h0 : Code × Word × Instr := ((getCtx s g k).pc, 0, i)
  unfold keepIssued
  dsimp only
  split
  · exact ⟨h0, .inl rfl⟩
  · split
    · exact ⟨_, .inr rfl⟩
    · exact ⟨h0, .inl rfl⟩

/-- One that has retired does not. -/
theorem keepIssued_retired {s t : State} {g k : Nat} {i : Instr} (h : (getCtx t g k).instret ≠ (getCtx s g k).instret) : keepIssued s t g k i = t := by
  unfold keepIssued
  dsimp only
  split
  · rfl
  · exact if_neg fun hk => h hk.2.1

section
variable {s t : State} {g k : Nat} {i : Instr}

/-- The turn of a core that issues runs the instruction that its context evaluates. -/
theorem stepCore_issuing (he : coreExists g = true) (ht : t = { s with cur := g }) (hk : k = (getCore t g).slot) (hi : issuing t = true)
    (hf : fetched t g k = i) : stepCore g s = match exec i t with
      | .next v => .next (keepIssued t v g k i)
      | r => r := by
  unfold stepCore
  dsimp only
  rewrite [← ht, ← hk, hf, he, hi]
  cases exec i t <;> rfl

theorem stepCore_idle (he : coreExists g = true) (ht : t = { s with cur := g }) (hi : issuing t = false) : stepCore g s = .next t := by
  subst ht
  simp [stepCore, he, hi]

theorem stepCore_absent (he : coreExists g = false) : stepCore g s = .fault (.noSuchCore g) := by simp [stepCore, he]
end

/-! ### Whose turn it is -/

theorem inOrder_act (s : State) (t : Turn) : (inOrder s t).act = t.act := by
  have hd {p : Prop} [Decidable p] : (if p then { t with dt := 1 } else t).act = t.act := by split <;> rfl
  unfold inOrder
  dsimp only
  split
  · exact hd
  · exact hd

/-- A turn waits for the next clock at most. -/
theorem inOrder_dt (s : State) (t : Turn) : t.dt ≤ (inOrder s t).dt ∧ (inOrder s t).dt ≤ t.dt + 1 := by
  have hd {p : Prop} [Decidable p] (h : p → t.dt = 0) : t.dt ≤ (if p then { t with dt := 1 } else t).dt ∧
      (if p then { t with dt := 1 } else t).dt ≤ t.dt + 1 := by
    split
    · next hp => rw [h hp]; exact ⟨Nat.zero_le _, le_refl _⟩
    · exact ⟨le_refl _, Nat.le_succ _⟩
  unfold inOrder
  dsimp only
  split
  · exact hd fun h => h.1
  · exact hd fun h => h.1

/-- A step takes the turn at the head of the schedule. -/
theorem step_scheduled {s u : State} {turn : Turn} {rest : List Turn} (hs : s.sched = turn :: rest)
    (hu : u = takePlace (tick { s with sched := rest } (inOrder s turn).dt) turn.act) :
    step s = match turn.act with
      | .core g => stepCore g u
      | .event i a b v => exec i { u with argA := a, argB := b, argV := v } := by
  have hn : nextTurn s = (inOrder s turn, { s with sched := rest }) := by
    unfold nextTurn
    rw [hs]
  unfold step
  rw [hn]
  dsimp only
  rewrite [inOrder_act, ← hu]
  cases turn.act <;> rfl

/-- Settles O59: a step takes the turn at the head of the schedule; a core's turn runs what `fetched` gives, which is the well-formed instruction whose
words lie at the pc or the one that has issued. -/
theorem stepRunsTheDecodedInstruction : Obligations.StepRunsTheDecodedInstruction := by
  unfold Obligations.StepRunsTheDecodedInstruction
  intro s u t turn rest dt hs hdt hu
  have hstep : step s = match turn.act with
      | .core g => stepCore g u
      | .event i a b v => exec i { u with argA := a, argB := b, argV := v } := by
    exact step_scheduled hs (hdt ▸ hu)
  refine ⟨hdt ▸ inOrder_dt s turn, fun h => hu ▸ (tick_counts dt { s with sched := rest } h).2, fun g k hact he ht hk => ⟨?_, fun hi => ?_⟩,
    fun i a b v hact => ?_, fun g hact he => ?_⟩
  · intro i pc hi hpc hcase
    have hf : fetched t g k = i := by
      rcases hcase with ⟨hheld, hw, ws, henc, hwords⟩ | hheld
      · rw [fetched_fresh hheld, ← hpc]
        refine fetchedAt_words hw henc (fun j w hj => ⟨(hwords j w hj).1, (hwords j w hj).2.1⟩) fun j hj => ?_
        exact (hwords j ws[j] (List.getElem?_eq_getElem hj)).2.2
      · exact fetched_held (hpc ▸ hheld)
    rw [hstep, hact]
    simp only [stepCore_issuing he ht hk hi hf]
    refine ⟨fun v hv hne => ?_, fun v hv => ?_, fun f hv => ?_, fun r hv => ?_⟩ <;> rw [hv]
    · exact congrArg _ (keepIssued_retired hne)
    · obtain ⟨h, hkeep⟩ := keepIssued_cases t v g k i
      exact ⟨_, h, rfl, hkeep⟩
  · rw [hstep, hact]
    exact stepCore_idle he ht hi
  · rw [hstep, hact]
  · rw [hstep, hact]
    exact stepCore_absent he

end Sys2Proof.Machine


/-!
PROOFS. Two statements about every state that fail at a core index which no cluster has (O13, O55): indices run from 0 to 51 (R5), and neither statement asks
that the core be one of them. From 52 to 63 the module physical map has no TCM (R48), and the fan-out of R42 can name the core itself.
-/
namespace Sys2Proof.Machine

/-- A form of page 0 without prefixes. -/
def bare : Pfx := ⟨false, false, none, 0⟩

/-- Core index 63 runs its base context with x2 = 0x100, and the doubleword at TCM offset 0x100 is poisoned. -/
def poisonedStray : State :=
  { State.reset with
    cores := [(63, { run := true, ctx := [(0, { mode := .running, x := [(2, 0x100)] })] })], cur := 63, poison := [gaTcm 63 0x100 / 8] }

/-- A load of that doubleword is one that the statement calls local: nothing holds it back. -/
theorem poisonedStray_local : Rules.Local poisonedStray (.ld bare .d 1 2 0) 0x100 8 (gaTcm 63 0x100) where
  ready := by decide +kernel
  access := by decide +kernel
  aligned := by decide +kernel
  home := .inl (by decide +kernel)
  onPart := ⟨by decide +kernel, fun _ _ _ => rfl⟩
  free := by decide +kernel
  line := by decide +kernel

/-- Its address is in a hole of the physical map (R48), so the load leaves as a message and no trap is taken. -/
theorem poisonedStray_sends :
    (match exec (.ld bare .d 1 2 0) poisonedStray with
      | .next t => (getCtx t 63 0).trapCause == 0
      | _ => false) = true := by decide +kernel

/-- Refutes O13: the clause on poison names no existing core; at core index 63, which has no TCM, the load of a poisoned doubleword is sent instead. -/
theorem not_failingAccessesTrap : ¬ Obligations.FailingAccessesTrap := by
  unfold Obligations.FailingAccessesTrap
  intro h
  obtain ⟨_, _, _, _, hpoison⟩ := h poisonedStray (.ld bare .d 1 2 0) 0x100 8 (by decide +kernel) (by decide +kernel) (by decide +kernel) (by decide +kernel)
  obtain ⟨t, ht, htrap⟩ := hpoison (gaTcm 63 0x100) poisonedStray_local (by unfold Rules.mayWrite; decide +kernel) (.inl (by decide +kernel))
    (fun _ _ _ => ⟨List.not_mem_nil, List.not_mem_nil⟩) (gaTcm 63 0x100 / 8) List.mem_cons_self (le_refl _) (by decide +kernel)
    (fun lower h1 h2 => by omega)
  have hs := poisonedStray_sends
  have hc : getCtx t 63 0 = _ := htrap.entered.ctx
  rw [ht] at hs
  simp only [hc] at hs
  exact absurd hs (by decide)

/-- Core index 52 runs its base context with port registers on and a fan-out whose only destination, bit 4, is core index 52 itself. -/
def fanToSelf : State :=
  { State.reset with
    cores := [(52, { run := true, porten := 1, portmap := fput F.fansel (fput F.p1 0 3) 16, ctx := [(0, { mode := .running })] })], cur := 52 }

/-- A result for x27 is deposited at the core that sends it. -/
theorem fanToSelf_deposits :
    (match exec (.li bare 27 5) fanToSelf with
      | .next t => (getCore t 52).deposit1 == [(52, 5)]
      | _ => false) = true := by decide +kernel

/-- Refutes O55: a sender's own deposits are said to stay as they were; at core index 52, which no cluster has, the fan-out of R42 reaches the sender. -/
theorem not_portRegistersPopAndPush : ¬ Obligations.PortRegistersPopAndPush := by
  unfold Obligations.PortRegistersPopAndPush
  intro h
  obtain ⟨_, hrun⟩ := h
  obtain ⟨hdone, _⟩ := hrun fanToSelf (.li bare 27 5) 27 5 (fun _ => 0) (by decide +kernel) (by decide +kernel) (by decide +kernel) (by decide +kernel)
    (.inl (by decide +kernel))
  obtain ⟨t, _, ht, -, -, -, -, -, -, hcore, -, -⟩ := hdone (by decide +kernel) (by decide +kernel) (by decide +kernel) (by decide +kernel)
    (by decide +kernel) (by decide +kernel)
  have hs := fanToSelf_deposits
  have hd : (getCore t 52).deposit1 = [] := (congrArg Core.deposit1 hcore).trans (show (getCore fanToSelf 52).deposit1 = [] by decide +kernel)
  rw [ht] at hs
  simp only [hd] at hs
  exact absurd hs (by decide)

end Sys2Proof.Machine


/-!
PROOFS. Fields of words, rising sets, bytes in memory and frame-table entries: what reading them back gives (R21, R58, R59). One rule for each operation.
-/
namespace Sys2Proof.Machine

/-! ### Fields (R21) -/

section
variable {n : Nat} {f g : Fld}

/-- A field written: what lies above it, the value, and what lies below it. -/
theorem toNat_fput (h : f.lo + f.len ≤ n) (x : BitVec n) (v : Nat) :
    (fput f x v).toNat = x.toNat / 2 ^ (f.lo + f.len) * 2 ^ (f.lo + f.len) + (v % 2 ^ f.len * 2 ^ f.lo + x.toNat % 2 ^ f.lo) := by
  have hv : v % 2 ^ f.len < 2 ^ f.len := Nat.mod_lt _ (Nat.two_pow_pos _)
  have hlow : x.toNat % 2 ^ f.lo < 2 ^ f.lo := Nat.mod_lt _ (Nat.two_pow_pos _)
  have hlow' : v % 2 ^ f.len * 2 ^ f.lo + x.toNat % 2 ^ f.lo < 2 ^ (f.lo + f.len) := by
    calc v % 2 ^ f.len * 2 ^ f.lo + x.toNat % 2 ^ f.lo < (v % 2 ^ f.len + 1) * 2 ^ f.lo := by rw [Nat.add_mul]; omega
      _ ≤ 2 ^ f.len * 2 ^ f.lo := Nat.mul_le_mul_right _ hv
      _ = 2 ^ (f.lo + f.len) := by rw [Nat.pow_add, Nat.mul_comm]
  have hx : x.toNat = x.toNat / 2 ^ (f.lo + f.len) * 2 ^ (f.lo + f.len) + (fget f x * 2 ^ f.lo + x.toNat % 2 ^ f.lo) := by
    have h1 := Nat.div_add_mod' x.toNat (2 ^ f.lo)
    have h2 := Nat.div_add_mod' (x.toNat / 2 ^ f.lo) (2 ^ f.len)
    rw [Nat.div_div_eq_div_mul, ← Nat.pow_add] at h2
    conv_lhs => rw [← h1, ← h2]
    rw [Nat.add_mul, Nat.mul_assoc, ← Nat.pow_add, Nat.add_comm f.len f.lo, Nat.add_assoc]
    rfl
  have htop : x.toNat / 2 ^ (f.lo + f.len) * 2 ^ (f.lo + f.len) + 2 ^ (f.lo + f.len) ≤ 2 ^ n := by
    have hd : x.toNat / 2 ^ (f.lo + f.len) < 2 ^ (n - (f.lo + f.len)) := by
      rw [Nat.div_lt_iff_lt_mul (Nat.two_pow_pos _), ← Nat.pow_add, Nat.sub_add_cancel h]
      exact x.isLt
    calc _ = (x.toNat / 2 ^ (f.lo + f.len) + 1) * 2 ^ (f.lo + f.len) := by rw [Nat.add_mul, Nat.one_mul]
      _ ≤ 2 ^ (n - (f.lo + f.len)) * 2 ^ (f.lo + f.len) := Nat.mul_le_mul_right _ hd
      _ = 2 ^ n := by rw [← Nat.pow_add, Nat.sub_add_cancel h]
  rw [fput, BitVec.toNat_ofNat, Nat.mod_eq_of_lt (by omega)]
  omega

/-- A field reads back what was written, modulo its width. -/
theorem fget_fput (h : f.lo + f.len ≤ n) (x : BitVec n) (v : Nat) : fget f (fput f x v) = v % 2 ^ f.len := by
  have hlow : x.toNat % 2 ^ f.lo < 2 ^ f.lo := Nat.mod_lt _ (Nat.two_pow_pos _)
  have he : (fput f x v).toNat = (x.toNat / 2 ^ (f.lo + f.len) * 2 ^ f.len + v % 2 ^ f.len) * 2 ^ f.lo + x.toNat % 2 ^ f.lo := by
    rw [toNat_fput h, Nat.add_mul, Nat.mul_assoc, ← Nat.pow_add, Nat.add_comm f.len f.lo, Nat.add_assoc]
  rw [fget, he, Nat.add_comm, Nat.add_mul_div_right _ _ (Nat.two_pow_pos _), Nat.div_eq_of_lt hlow, Nat.zero_add, Nat.mul_add_mod', Nat.mod_mod]

/-- No other field changes. -/
theorem fget_fput_of_disjoint (h : f.lo + f.len ≤ n) (hd : g.lo + g.len ≤ f.lo ∨ f.lo + f.len ≤ g.lo) (x : BitVec n) (v : Nat) :
    fget g (fput f x v) = fget g x := by
  have hsplit : f.lo + f.len ≤ g.lo → (y : Nat) → y / 2 ^ g.lo = y / 2 ^ (f.lo + f.len) / 2 ^ (g.lo - (f.lo + f.len)) := fun hg y => by
    rw [Nat.div_div_eq_div_mul, ← Nat.pow_add, Nat.add_sub_cancel' hg]
  have hlow : v % 2 ^ f.len * 2 ^ f.lo + x.toNat % 2 ^ f.lo < 2 ^ (f.lo + f.len) := by
    have hv : v % 2 ^ f.len < 2 ^ f.len := Nat.mod_lt _ (Nat.two_pow_pos _)
    have hm : x.toNat % 2 ^ f.lo < 2 ^ f.lo := Nat.mod_lt _ (Nat.two_pow_pos _)
    calc v % 2 ^ f.len * 2 ^ f.lo + x.toNat % 2 ^ f.lo < (v % 2 ^ f.len + 1) * 2 ^ f.lo := by rw [Nat.add_mul]; omega
      _ ≤ 2 ^ f.len * 2 ^ f.lo := Nat.mul_le_mul_right _ hv
      _ = 2 ^ (f.lo + f.len) := by rw [Nat.pow_add, Nat.mul_comm]
  rcases hd with hg | hg
  · have hm : (fput f x v).toNat % 2 ^ f.lo = x.toNat % 2 ^ f.lo := by
      rw [toNat_fput h, Nat.pow_add, ← Nat.mul_assoc, Nat.mul_right_comm, ← Nat.add_assoc, ← Nat.add_mul, Nat.mul_add_mod', Nat.mod_mod]
    have hf (y : Nat) : y / 2 ^ g.lo % 2 ^ g.len = y % 2 ^ f.lo % 2 ^ (g.lo + g.len) / 2 ^ g.lo := by
      rw [Nat.mod_mod_of_dvd _ (Nat.pow_dvd_pow 2 hg), Nat.pow_add, Nat.mod_mul_right_div_self]
    rw [fget, fget, hf, hf, hm]
  · have hq : (fput f x v).toNat / 2 ^ (f.lo + f.len) = x.toNat / 2 ^ (f.lo + f.len) := by
      rw [toNat_fput h, Nat.add_comm, Nat.add_mul_div_right _ _ (Nat.two_pow_pos _), Nat.div_eq_of_lt hlow, Nat.zero_add]
    rw [fget, fget, hsplit hg, hsplit hg, hq]

/-- A field written with what it holds. -/
theorem fput_fget (x : BitVec n) : fput f x (fget f x) = x := by
  have hle : fget f x * 2 ^ f.lo ≤ x.toNat := (Nat.mul_le_mul_right _ (Nat.mod_le _ _)).trans (Nat.div_mul_le_self _ _)
  have hm : fget f x % 2 ^ f.len = fget f x := Nat.mod_mod _ _
  rw [fput, hm, Nat.sub_add_cancel hle, BitVec.ofNat_toNat, BitVec.setWidth_eq]

theorem fget_lt (x : BitVec n) : fget f x < 2 ^ f.len := Nat.mod_lt _ (Nat.two_pow_pos _)
end

/-! ### Rising sets -/

theorem mem_sadd (k x : Nat) (l : List Nat) : x ∈ sadd k l ↔ x ∈ l ∨ x = k := by
  induction l with
  | nil => simp [sadd]
  | cons a rest ih =>
    unfold sadd
    split
    · simp only [List.mem_cons]; tauto
    · split
      · next h => subst h; simp only [List.mem_cons]; tauto
      · simp only [List.mem_cons, ih]; tauto

theorem mem_sdel (k x : Nat) (l : List Nat) : x ∈ sdel k l ↔ x ∈ l ∧ x ≠ k := by simp [sdel]

theorem upFrom_eq_range' (a n : Nat) : upFrom a n = List.range' a n := by
  induction n generalizing a with
  | zero => rfl
  | succ n ih => rw [upFrom, ih, List.range'_succ]

/-! ### Bytes in memory -/

/-- Bytes written one after another, under the material of key index 0. -/
theorem readByte_foldl_writeByte (bs : List Byte) (s : State) (ga x : Nat) :
    readByte ((cellsAt ga bs).foldl (fun s c => writeByte s 0 c.1 c.2) s) 0 x =
      if ga ≤ x ∧ x < ga + bs.length then bs.getD (x - ga) 0 else readByte s 0 x := by
  induction bs generalizing s ga with
  | nil => rw [if_neg (by simp)]; rfl
  | cons b rest ih =>
    rw [cellsAt, List.foldl_cons, ih, readByte_writeByte]
    by_cases hx : x = ga
    · subst hx
      rw [if_neg (by omega), if_pos rfl, if_pos (by simp)]
      simp
    · by_cases hin : ga ≤ x ∧ x < ga + (b :: rest).length
      · have : x - ga = x - (ga + 1) + 1 := by omega
        rw [if_pos hin, if_pos (by simp at hin; omega), this, List.getD_cons_succ]
      · rw [if_neg hin, if_neg (by simp at hin; omega), if_neg hx]

/-- What a write of bytes leaves where no launch is saved away and no doubleword has an error: bytes and key marks, and nothing else. -/
structure Clean (s : State) : Prop where
  poison : s.poison = []
  latent : s.latent = []
  soft : s.soft = []
  saves : s.saves = []

theorem areaOf_clean {s : State} (h : Clean s) (ga : Nat) : areaOf s ga = none := by simp [areaOf, h.saves]

theorem poisonAt_clean {s : State} (h : Clean s) (ga : Nat) : poisonAt s ga = false := by simp [poisonAt, areaOf_clean h, h.poison]

theorem overwritten_clean {s : State} (h : Clean s) (dw : Nat) : overwritten s dw = s := by
  have hp : setPoison s (8 * dw) false = s := by
    have : sdel (8 * dw / 8) s.poison = s.poison := by simp [h.poison, sdel]
    simp only [setPoison, areaOf_clean h, Bool.false_eq_true, if_false, this]
  have hl : sdel dw s.latent = s.latent := by simp [h.latent, sdel]
  have hs : sdel dw s.soft = s.soft := by simp [h.soft, sdel]
  simp only [overwritten, hp, hl, hs]

/-- Nothing but bytes and key marks differs. -/
def OnlyBytes (s t : State) : Prop := t = { s with mem := t.mem, memKey := t.memKey }

theorem OnlyBytes.clean {s t : State} (h : OnlyBytes s t) (hs : Clean s) : Clean t := by
  rw [h]
  exact ⟨hs.poison, hs.latent, hs.soft, hs.saves⟩

theorem OnlyBytes.trans {s t u : State} (h : OnlyBytes s t) (h' : OnlyBytes t u) : OnlyBytes s u := by
  unfold OnlyBytes at *
  rw [h', h]

theorem OnlyBytes.getDie {s t : State} (h : OnlyBytes s t) (d : Nat) : getDie t d = getDie s d := by
  rw [h]
  rfl

theorem OnlyBytes.ue {s t : State} (h : OnlyBytes s t) : t.ue = s.ue := by rw [h]

theorem writeByte_onlyBytes (s : State) (key : BitVec 512) (ga : Nat) (b : Byte) : OnlyBytes s (writeByte s key ga b) := by
  simp only [OnlyBytes, writeByte, rekey]
  split <;> rfl

theorem foldl_writeByte_onlyBytes (l : List Host.Cell) (s : State) : OnlyBytes s (l.foldl (fun s c => writeByte s 0 c.1 c.2) s) :=
  foldl_keeps (OnlyBytes s) _ (fun _ c h => h.trans (writeByte_onlyBytes _ 0 c.1 c.2)) l s rfl

theorem foldl_same {σ α : Type} {f : σ → α → σ} {s : σ} (h : ∀ a, f s a = s) (l : List α) : l.foldl f s = s := by
  induction l with
  | nil => rfl
  | cons a l ih => rw [List.foldl_cons, h, ih]

theorem writeBytes_clean {s : State} (h : Clean s) (ga : Nat) (bs : List Byte) :
    writeBytes s 0 ga bs = (cellsAt ga bs).foldl (fun s c => writeByte s 0 c.1 c.2) s :=
  foldl_same (overwritten_clean ((foldl_writeByte_onlyBytes _ s).clean h)) _

theorem writeBytes_onlyBytes {s : State} (h : Clean s) (ga : Nat) (bs : List Byte) : OnlyBytes s (writeBytes s 0 ga bs) := by
  rw [writeBytes_clean h]
  exact foldl_writeByte_onlyBytes _ s

/-- The bytes written read back, and no others change. -/
theorem readByte_writeBytes {s : State} (h : Clean s) (ga : Nat) (bs : List Byte) (x : Nat) :
    readByte (writeBytes s 0 ga bs) 0 x = if ga ≤ x ∧ x < ga + bs.length then bs.getD (x - ga) 0 else readByte s 0 x := by
  rw [writeBytes_clean h]
  exact readByte_foldl_writeByte bs s ga x

theorem readBytes_getD (s : State) (key : BitVec 512) (ga n i : Nat) (hi : i < n) : (readBytes s key ga n).getD i 0 = readByte s key (ga + i) := by
  simp [readBytes, upFrom_eq_range', List.getD_eq_getElem?_getD, hi]

theorem readBytes_length (s : State) (key : BitVec 512) (ga n : Nat) : (readBytes s key ga n).length = n := by
  simp [readBytes, upFrom_eq_range']

/-- Bytes read back are those written. -/
theorem readBytes_writeBytes {s : State} (h : Clean s) (ga : Nat) (bs : List Byte) : readBytes (writeBytes s 0 ga bs) 0 ga bs.length = bs := by
  refine List.ext_getElem (readBytes_length _ _ _ _) fun i h1 h2 => ?_
  have := readBytes_getD (writeBytes s 0 ga bs) 0 ga bs.length i h2
  rw [readByte_writeBytes h, if_pos (by omega), Nat.add_sub_cancel_left, List.getD_eq_getElem _ _ h1, List.getD_eq_getElem _ _ h2] at this
  exact this

theorem readNat_writeNat {s : State} (h : Clean s) (ga n v : Nat) : readNat (writeNat s ga n v) ga n = v % 256 ^ n := by
  have := readBytes_writeBytes h ga (leBytes v n)
  rw [leBytes_length] at this
  rw [readNat, writeNat, this, leNat_leBytes]

theorem readByte_writeNat_of_outside {s : State} (h : Clean s) {ga n v x : Nat} (hx : x < ga ∨ ga + n ≤ x) :
    readByte (writeNat s ga n v) 0 x = readByte s 0 x := by
  rw [writeNat, readByte_writeBytes h, leBytes_length, if_neg (by omega)]

/-- What bytes read as depends on bytes and key marks alone. -/
theorem readByte_of_mem {s t : State} (hm : t.mem = s.mem) (hk : t.memKey = s.memKey) (key : BitVec 512) (x : Nat) :
    readByte t key x = readByte s key x :=
  readByte_congr s t key x (by rw [hk]) fun y _ => by rw [rawByte, rawByte, hm]

theorem readNat_of_mem {s t : State} (hm : t.mem = s.mem) (hk : t.memKey = s.memKey) (ga n : Nat) : readNat t ga n = readNat s ga n := by
  have : readByte t 0 = readByte s 0 := funext fun x => readByte_of_mem hm hk 0 x
  rw [readNat, readNat, readBytes, readBytes, this]

/-- The number that bytes hold (R21), as the statements write it. -/
theorem readNat_eq_number (s : State) (ga n : Nat) : readNat s ga n = Rules.number s ga n := by
  have hnum (l : List Byte) : leNat l = ((List.range l.length).map fun i => (l.getD i 0).toNat * 256 ^ i).sum := by
    induction l with
    | nil => rfl
    | cons b l ih =>
      rw [leNat, ih, List.length_cons, List.range_succ_eq_map, List.map_cons, List.map_map, List.sum_cons, ← List.sum_map_mul_left]
      simp [Function.comp_def, pow_succ]
      refine congrArg List.sum (List.map_congr_left fun i _ => ?_)
      ring
  rw [readNat, hnum, readBytes_length, Rules.number]
  refine congrArg List.sum (List.map_congr_left fun i hi => ?_)
  rw [readBytes_getD _ _ _ _ _ (List.mem_range.1 hi)]

end Sys2Proof.Machine


/-!
PROOFS. The frame table of a die (R58, R224, R230, R281–R286): what the count walk, the zeroing of a frame, an eviction, a fetch-back and a copy leave.
-/
namespace Sys2Proof.Machine

/-! ### Frame-table entries (R58) -/

section
variable (s : State) (d fid j : Nat) (f g : Fld) (v : Nat) (e : Word)

theorem getFrame_setFrame : getFrame (setFrame s d fid e) d j = if j = fid then e else getFrame s d j := by
  simp [getFrame, setFrame, tget_tset]

theorem getFrame_frPut : getFrame (frPut s d fid f v) d j = if j = fid then fput f (getFrame s d fid) v else getFrame s d j :=
  getFrame_setFrame s d fid j _

theorem frGet_frPut_of_ne (h : j ≠ fid) : frGet (frPut s d fid f v) d j g = frGet s d j g := by
  rw [frGet, getFrame_frPut, if_neg h, frGet]

theorem frGet_frPut_same (h : f.lo + f.len ≤ 64) : frGet (frPut s d fid f v) d fid f = v % 2 ^ f.len := by
  rw [frGet, getFrame_frPut, if_pos rfl, fget_fput h]

theorem frGet_frPut_field (h : f.lo + f.len ≤ 64) (hd : g.lo + g.len ≤ f.lo ∨ f.lo + f.len ≤ g.lo) :
    frGet (frPut s d fid f v) d j g = frGet s d j g := by
  rw [frGet, getFrame_frPut]
  split
  · next hj => subst hj; exact fget_fput_of_disjoint h hd _ _
  · rfl

theorem getFrame_modDie (F : Die → Die) (h : ∀ x, (F x).frames = x.frames) : getFrame (modDie s d F) d j = getFrame s d j := by
  simp [getFrame, h]

/-- The die with another entry. -/
theorem getDie_frPut : getDie (frPut s d fid f v) d = { getDie s d with frames := (getDie (frPut s d fid f v) d).frames } := by
  simp [frPut, setFrame]
end

/-! ### Without errors of structures (R288, R411) -/

section
variable {s : State} (h : s.ue = [])
include h

theorem isBad_of_none (m : Nat) (l : Word) : isBad s m l = false := by simp [isBad, h]
theorem hurtFrame_of_none (d fid : Nat) : hurtFrame s d fid = false := isBad_of_none h _ _
theorem badFrame_of_none (d fid : Nat) : badFrame s d fid = false := by simp [badFrame, hurtFrame_of_none h]
theorem mendFrame_of_none (d fid : Nat) : mendFrame s d fid = s := by simp [mendFrame, hurtFrame_of_none h]
theorem badScb_of_none (d i : Nat) : badScb s d i = false := isBad_of_none h _ _

theorem badEntry_of_none (hl : s.latent = []) (hp : s.poison = []) (d fid i : Nat) : badEntry s d fid i = false := by
  simp [badEntry, isBad_of_none h, hl, hp]

theorem changeCount_of_none {d fid : Nat} (hq : frGet s d fid F.frQ = 0) (change : Nat → Nat) :
    changeCount s d fid change = frPut s d fid F.frCnt (change (frGet s d fid F.frCnt)) := by
  simp [changeCount, quarantined, hq, hurtFrame_of_none h]
end

/-! ### The count walk (R230) -/

/-- The first frame on the walk's list is not BUSY: it is the one that the walk passes. -/
theorem walkStep_head {s : State} {d f : Nat} {rest : List Nat} (hw : (getDie s d).walk = f :: rest) (hb : frGet s d f F.frBusy = 0) :
    walkStep s d = walkFrame (modDie s d fun x => { x with walk := x.walk.eraseIdx 0 }) d f := by
  have hi : (f :: rest).findIdx? (fun fid => !frameBusy s d fid) = some 0 := by simp [List.findIdx?_cons, frameBusy, hb]
  simp [walkStep, hw, hi]

/-- A frame whose count the walk lowers. -/
theorem countDown_of_none {s : State} (h : s.ue = []) {d fid : Nat} (hq : frGet s d fid F.frQ = 0) :
    countDown s d fid = frPut s d fid F.frCnt (frGet s d fid F.frCnt - 1) := changeCount_of_none h hq _

section
variable {s : State} {d f : Nat} (h : s.ue = []) (hq : frGet s d f F.frQ = 0)
include h hq

/-- A count above 1 falls, and that is all (R230). -/
theorem walkFrame_counted (hc : 2 ≤ frGet s d f F.frCnt) : walkFrame s d f = frPut s d f F.frCnt (frGet s d f F.frCnt - 1) := by
  have hlt : frGet s d f F.frCnt < 2 ^ 16 := fget_lt _
  have hn : frGet (frPut s d f F.frCnt (frGet s d f F.frCnt - 1)) d f F.frCnt ≠ 0 := by
    rw [frGet_frPut_same _ _ _ _ _ (by decide)]
    show (frGet s d f F.frCnt - 1) % 2 ^ 16 ≠ 0
    omega
  unfold walkFrame
  rw [countDown_of_none h hq]
  exact if_pos (.inl hn)

/-- What the walk makes of a frame at its last reference, before it frees it. -/
theorem walkFrame_last (hc : frGet s d f F.frCnt = 1) :
    frGet (frPut s d f F.frCnt 0) d f F.frCnt = 0 ∧ quarantined (frPut s d f F.frCnt 0) d f = false ∧ countDown s d f = frPut s d f F.frCnt 0 := by
  refine ⟨frGet_frPut_same _ _ _ _ _ (by decide), ?_, by rw [countDown_of_none h hq, hc]⟩
  rw [quarantined, frGet_frPut_field _ _ _ _ _ _ _ (by decide) (by decide), hq]
  rfl

/-- A data frame at its last reference is freed (R230). -/
theorem walkFrame_data (hc : frGet s d f F.frCnt = 1) (hk : frGet s d f F.frKind = 1) :
    walkFrame s d f = freeFrame (frPut s d f F.frCnt 0) d f := by
  obtain ⟨h0, hq0, hd⟩ := walkFrame_last h hq hc
  have hk' : frGet (frPut s d f F.frCnt 0) d f F.frKind ≠ 2 := by
    rw [frGet_frPut_field _ _ _ _ _ _ _ (by decide) (by decide), hk]; decide
  unfold walkFrame
  rw [hd, if_neg (by simp [h0, hq0]), if_neg hk']

end

/-- A node's entry depends on the bytes and on where the node lies. -/
theorem nodeEntry_congr {s t : State} {d f : Nat} (hm : t.mem = s.mem) (hk : t.memKey = s.memKey)
    (hp : frGet t d f F.frPlace = frGet s d f F.frPlace) (i : Nat) : nodeEntry t d f i = nodeEntry s d f i := by
  have hg : nodeGa t d f i = nodeGa s d f i := by rw [nodeGa, nodeGa, hp]
  rw [nodeEntry, nodeEntry, hg, readNat_of_mem hm hk]

/-- The child that an entry of a node gives a count to. -/
def childOf (s : State) (d f i : Nat) : Option Nat := if fget F.teV (nodeEntry s d f i) = 1 then some (fget F.teFid (nodeEntry s d f i)) else none

/-- One entry of a node whose counts are passed off to its children. -/
def passOff (d f : Nat) (s : State) (i : Nat) : State :=
  let e := nodeEntry s d f i
  if fget F.teV e = 0 then s
  else if badEntry s d f i then entryError s d f i
  else modDie s d fun x => { x with walk := x.walk ++ [fget F.teFid e] }

/-- Passing off counts adds children to the walk's list, and does nothing else. -/
structure PassedOff (s t : State) (d : Nat) (l : List Nat) : Prop where
  rest : t = { s with dies := t.dies }
  die : getDie t d = { getDie s d with walk := (getDie s d).walk ++ l }

theorem passOff_none {s : State} (h : s.ue = []) (hl : s.latent = []) (hp : s.poison = []) (d f i : Nat) :
    PassedOff s (passOff d f s i) d (childOf s d f i).toList := by
  have h1 : fget F.teV (nodeEntry s d f i) < 2 := fget_lt _
  unfold passOff childOf
  dsimp only
  split
  · next h0 => rw [if_neg (by omega)]; exact ⟨rfl, by simp⟩
  · rw [if_neg (by simp [badEntry_of_none h hl hp]), if_pos (by omega)]
    exact ⟨rfl, by simp⟩

theorem childOf_congr {s t : State} {d f : Nat} {l : List Nat} (h : PassedOff s t d l) : childOf t d f = childOf s d f := by
  have hp : frGet t d f F.frPlace = frGet s d f F.frPlace := by rw [frGet, frGet, getFrame, getFrame, h.die]
  have hm : t.mem = s.mem ∧ t.memKey = s.memKey := by rw [h.rest]; exact ⟨rfl, rfl⟩
  funext i
  rw [childOf, childOf, nodeEntry_congr hm.1 hm.2 hp]

theorem foldl_passOff {s : State} (h : s.ue = []) (hl : s.latent = []) (hp : s.poison = []) (d f : Nat) (l : List Nat) :
    PassedOff s (l.foldl (passOff d f) s) d (l.filterMap (childOf s d f)) := by
  induction l generalizing s with
  | nil => exact ⟨rfl, by simp⟩
  | cons i l ih =>
    have h1 := passOff_none h hl hp d f i
    have h2 : (passOff d f s i).ue = [] ∧ (passOff d f s i).latent = [] ∧ (passOff d f s i).poison = [] := by
      rw [h1.rest]; exact ⟨h, hl, hp⟩
    have h3 := ih h2.1 h2.2.1 h2.2.2
    rw [childOf_congr h1] at h3
    refine ⟨?_, ?_⟩
    · rw [List.foldl_cons, h3.rest, h1.rest]
    · rw [List.foldl_cons, h3.die, h1.die]
      cases hc : childOf s d f i <;> simp [hc]

/-- A node at its last reference passes one count off to each child and is freed (R230). -/
theorem walkFrame_node {s : State} {d f : Nat} (h : s.ue = []) (hq : frGet s d f F.frQ = 0) (hc : frGet s d f F.frCnt = 1)
    (hk : frGet s d f F.frKind = 2) :
    walkFrame s d f = freeFrame ((upFrom 0 64).foldl (passOff d f) (frPut s d f F.frCnt 0)) d f := by
  obtain ⟨h0, hq0, hd⟩ := walkFrame_last h hq hc
  have hk' : frGet (frPut s d f F.frCnt 0) d f F.frKind = 2 := by
    rw [frGet_frPut_field _ _ _ _ _ _ _ (by decide) (by decide), hk]
  unfold walkFrame
  rw [hd, if_neg (by simp [h0, hq0]), if_pos hk']
  rfl

/-- A node that is freed leaves its entry. -/
theorem freeFrame_node {s : State} {d f : Nat} (hk : frGet s d f F.frKind = 2) :
    getFrame (freeFrame s d f) d f = 0 ∧ (getDie (freeFrame s d f) d).walk = (getDie s d).walk := by
  have hk : fget F.frKind (getFrame s d f) = 2 := hk
  unfold freeFrame
  dsimp only
  rw [if_pos hk]
  split <;> simp [getFrame, setFrame]

/-- A data frame in SRAM that is freed leaves its entry, and its place is to be zeroed (R282). -/
theorem freeFrame_sram {s : State} {d f : Nat} (hk : frGet s d f F.frKind = 1) (hl : frGet s d f F.frLoc = 0) :
    freeFrame s d f = modDie (setFrame s d f 0) d fun x => { x with zeroing := sadd (frGet s d f F.frPlace) x.zeroing, age := tdel x.age f } := by
  have hk : fget F.frKind (getFrame s d f) ≠ 2 := by rw [show fget F.frKind (getFrame s d f) = 1 from hk]; decide
  have hl : fget F.frLoc (getFrame s d f) ≠ 1 := by rw [show fget F.frLoc (getFrame s d f) = 0 from hl]; decide
  unfold freeFrame
  dsimp only
  rw [if_neg hk, if_neg hl]
  rfl

/-- The first frame f has left the walk's list, the walk is to pass it, and nothing else has changed. -/
structure Popped (s u : State) (f : Nat) (rest : List Nat) : Prop where
  passes : exec .countWalk s = .next (walkFrame u s.argA f)
  frames : ∀ j, getFrame u s.argA j = getFrame s s.argA j
  walk : (getDie u s.argA).walk = rest
  zeroing : (getDie u s.argA).zeroing = (getDie s s.argA).zeroing
  rest : u = { s with dies := u.dies }

theorem countWalk_pops {s : State} {f : Nat} {rest : List Nat} (hw : (getDie s s.argA).walk = f :: rest) (hb : frGet s s.argA f F.frBusy = 0) :
    ∃ u, Popped s u f rest := by
  refine ⟨modDie s s.argA fun x => { x with walk := x.walk.eraseIdx 0 }, ?_, fun j => getFrame_modDie s _ j _ fun _ => rfl, by simp [hw], by simp, rfl⟩
  show Host.Outcome.next (walkStep s s.argA) = _
  rw [walkStep_head hw hb]

section
variable {s u : State} {f : Nat} {rest : List Nat} (hu : Popped s u f rest)
include hu

theorem Popped.frGet (j : Nat) (g : Fld) : frGet u s.argA j g = frGet s s.argA j g := by rw [Machine.frGet, hu.frames, Machine.frGet]

theorem Popped.outside : u.mem = s.mem ∧ u.memKey = s.memKey ∧ u.latent = s.latent ∧ u.poison = s.poison ∧ u.ue = s.ue := by
  rw [hu.rest]
  exact ⟨rfl, rfl, rfl, rfl, rfl⟩

variable (hq : Machine.frGet s s.argA f F.frQ = 0) (h : s.ue = [])
include hq h

/-- A frame with more than one reference loses one (R230). -/
theorem Popped.counts (hc : 2 ≤ Machine.frGet s s.argA f F.frCnt) :
    (getDie (walkFrame u s.argA f) s.argA).walk = rest ∧ (walkFrame u s.argA f).mem = s.mem ∧
      getFrame (walkFrame u s.argA f) s.argA f = fput F.frCnt (getFrame s s.argA f) (Machine.frGet s s.argA f F.frCnt - 1) ∧
      ∀ e, e ≠ f → getFrame (walkFrame u s.argA f) s.argA e = getFrame s s.argA e := by
  obtain ⟨hmem, -, -, -, hue⟩ := hu.outside
  rw [walkFrame_counted (hue.trans h) (by rw [hu.frGet, hq]) (by rw [hu.frGet]; exact hc)]
  refine ⟨by rw [getDie_frPut]; exact hu.walk, hmem, by rw [getFrame_frPut, if_pos rfl, hu.frames, hu.frGet], fun e he => ?_⟩
  rw [getFrame_frPut, if_neg he, hu.frames]

variable (hc : Machine.frGet s s.argA f F.frCnt = 1)
include hc

/-- A data frame in SRAM at its last reference is freed, and its place is to be zeroed (R230, R282). -/
theorem Popped.frees (hk : Machine.frGet s s.argA f F.frKind = 1) (hl : Machine.frGet s s.argA f F.frLoc = 0) :
    (getDie (walkFrame u s.argA f) s.argA).walk = rest ∧ getFrame (walkFrame u s.argA f) s.argA f = 0 ∧
      (∀ e, e ≠ f → getFrame (walkFrame u s.argA f) s.argA e = getFrame s s.argA e) ∧ (walkFrame u s.argA f).mem = s.mem ∧
      ∀ p, p ∈ (getDie (walkFrame u s.argA f) s.argA).zeroing ↔ p ∈ (getDie s s.argA).zeroing ∨ p = Machine.frGet s s.argA f F.frPlace := by
  obtain ⟨hmem, -, -, -, hue⟩ := hu.outside
  have hput (g : Fld) (hg : g.lo + g.len ≤ F.frCnt.lo ∨ F.frCnt.lo + F.frCnt.len ≤ g.lo) :
      Machine.frGet (frPut u s.argA f F.frCnt 0) s.argA f g = Machine.frGet s s.argA f g := by
    rw [frGet_frPut_field _ _ _ _ _ _ _ (by decide) hg, hu.frGet]
  rw [walkFrame_data (hue.trans h) (by rw [hu.frGet, hq]) (by rw [hu.frGet, hc]) (by rw [hu.frGet, hk]),
    freeFrame_sram (by rw [hput _ (by decide), hk]) (by rw [hput _ (by decide), hl]), hput _ (by decide)]
  refine ⟨by simp [setFrame, frPut, hu.walk], ?_, fun e he => ?_, hmem, fun p => ?_⟩
  · rw [getFrame_modDie _ _ _ _ (by simp), getFrame_setFrame, if_pos rfl]
  · rw [getFrame_modDie _ _ _ _ (by simp), getFrame_setFrame, if_neg he, getFrame_frPut, if_neg he, hu.frames]
  · simp [setFrame, frPut, hu.zeroing, mem_sadd]

/-- A node at its last reference is freed, and passes a count off to each child (R230). -/
theorem Popped.passesOff (hk : Machine.frGet s s.argA f F.frKind = 2) (hl : s.latent = []) (hp : s.poison = []) :
    getFrame (walkFrame u s.argA f) s.argA f = 0 ∧
      (getDie (walkFrame u s.argA f) s.argA).walk = rest ++ (List.range 64).filterMap (childOf s s.argA f) := by
  obtain ⟨hmem, hkey, hlat, hpoi, hue⟩ := hu.outside
  have hput (g : Fld) (hg : g.lo + g.len ≤ F.frCnt.lo ∨ F.frCnt.lo + F.frCnt.len ≤ g.lo) :
      Machine.frGet (frPut u s.argA f F.frCnt 0) s.argA f g = Machine.frGet s s.argA f g := by
    rw [frGet_frPut_field _ _ _ _ _ _ _ (by decide) hg, hu.frGet]
  have hpass := foldl_passOff (s := frPut u s.argA f F.frCnt 0) (hue.trans h) (hlat.trans hl) (hpoi.trans hp) s.argA f (upFrom 0 64)
  have hkind : Machine.frGet ((upFrom 0 64).foldl (passOff s.argA f) (frPut u s.argA f F.frCnt 0)) s.argA f F.frKind = 2 := by
    rw [Machine.frGet, getFrame, hpass.die]
    exact (hput _ (by decide)).trans hk
  have hchild : childOf (frPut u s.argA f F.frCnt 0) s.argA f = childOf s s.argA f := by
    funext i
    rw [childOf, childOf, nodeEntry_congr (s := s) (t := frPut u s.argA f F.frCnt 0) hmem hkey (hput _ (by decide))]
  obtain ⟨hf0, hw0⟩ := freeFrame_node hkind
  rw [walkFrame_node (hue.trans h) (by rw [hu.frGet, hq]) (by rw [hu.frGet, hc]) (by rw [hu.frGet, hk])]
  refine ⟨hf0, ?_⟩
  rw [hw0, hpass.die, getDie_frPut, hchild, upFrom_eq_range', ← List.range_eq_range']
  exact congrArg (· ++ _) hu.walk
end

end Sys2Proof.Machine


/-!
PROOFS. The work of a die on its frames (R227, R282, R285, R286): zeroing, eviction, fetch-back and copy.
-/
namespace Sys2Proof.Machine

/-! ### Waking -/

/-- Nothing but cores differs. -/
def OnlyCores (s t : State) : Prop := t = { s with cores := t.cores }

theorem OnlyCores.trans {s t u : State} (h : OnlyCores s t) (h' : OnlyCores t u) : OnlyCores s u := by
  unfold OnlyCores at *
  rw [h', h]

theorem wakeIf_onlyCores (s : State) (g : Nat) (p : Mode → Bool) : OnlyCores s (wakeIf s g p) := by
  refine foldl_keeps (OnlyCores s) _ (fun t k h => ?_) (upFrom 0 11) s rfl
  split
  · exact h.trans rfl
  · exact h

theorem wakeAll_onlyCores (s : State) (p : Nat → Mode → Bool) : OnlyCores s (wakeAll s p) :=
  foldl_keeps (OnlyCores s) _ (fun _ e h => h.trans (wakeIf_onlyCores _ e.1 (p e.1))) s.cores s rfl

/-! ### Zeroing (R282) -/

/-- The frame at the head of the list is zeroed: no byte, poison or error is left in it, and nothing else changes. -/
theorem frameZero_head {s : State} {f : Nat} {rest : List Nat} (h : (getDie s s.argA).zeroing = f :: rest) {lo hi : Nat}
    (hlo : lo = gaFrame s.argA (f * 2 ^ 18)) (hhi : hi = lo + 2 ^ 18) :
    ∃ t, exec .frameZero s = .next t ∧ (getDie t s.argA).zeroing = rest ∧ t.full = s.full ∧
      t.mem = s.mem.filter (fun c => !(decide (lo ≤ c.1) && decide (c.1 < hi))) ∧
      t.poison = s.poison.filter (fun w => !(decide (lo ≤ 8 * w) && decide (8 * w < hi))) ∧
      t.latent = s.latent.filter (fun w => !(decide (lo ≤ 8 * w) && decide (8 * w < hi))) ∧
      t.soft = s.soft.filter (fun w => !(decide (lo ≤ 8 * w) && decide (8 * w < hi))) := by
  refine ⟨frameZero s s.argA, rfl, ?_⟩
  unfold frameZero
  rw [h]
  dsimp only
  rw [wakeAll_onlyCores, ← hlo, ← hhi]
  exact ⟨by simp [getDie, modDie], rfl, rfl, rfl, rfl, rfl⟩

theorem mem_filter_outside (lo hi dw : Nat) (l : List Nat) :
    dw ∈ l.filter (fun w => !(decide (lo ≤ 8 * w) && decide (8 * w < hi))) ↔ dw ∈ l ∧ ¬ (lo ≤ 8 * dw ∧ 8 * dw < hi) := by
  rw [List.mem_filter, ← Bool.decide_and, Bool.not_eq_true', decide_eq_false_iff_not]

/-- What a byte holds once those of a range are gone. -/
theorem tget_filter_outside (lo hi a : Nat) (m : List Host.Cell) :
    tget 0 (m.filter fun c => !(decide (lo ≤ c.1) && decide (c.1 < hi))) a = if lo ≤ a ∧ a < hi then 0 else tget 0 m a := by
  rw [tget_filter (0 : Byte) (fun k => !(decide (lo ≤ k) && decide (k < hi)))]
  by_cases h : lo ≤ a ∧ a < hi
  · simp [h]
  · rw [if_neg h, if_pos (by rwa [← Bool.decide_and, Bool.not_eq_true', decide_eq_false_iff_not])]

/-! ### The end of a frame's work (R224, R297) -/

/-- Frames and counts owed apart, the die stays as it is; so does everything but dies and cores. -/
structure FramesOnly (s t : State) (d : Nat) : Prop where
  rest : t = { s with cores := t.cores, dies := t.dies }
  die : getDie t d = { getDie s d with frames := (getDie t d).frames, owed := (getDie t d).owed }

theorem FramesOnly.trans {s t u : State} {d : Nat} (h : FramesOnly s t d) (h' : FramesOnly t u d) : FramesOnly s u d := by
  refine ⟨?_, ?_⟩
  · rw [h'.rest, h.rest]
  · rw [h'.die, h.die]

theorem FramesOnly.memory {s t : State} {d : Nat} (h : FramesOnly s t d) : t.mem = s.mem ∧ t.memKey = s.memKey := by
  rw [h.rest]
  exact ⟨rfl, rfl⟩

theorem FramesOnly.ue {s t : State} {d : Nat} (h : FramesOnly s t d) : t.ue = s.ue := by rw [h.rest]

theorem FramesOnly.clean {s t : State} {d : Nat} (h : FramesOnly s t d) (hs : Clean s) : Clean t := by
  rw [h.rest]
  exact ⟨hs.poison, hs.latent, hs.soft, hs.saves⟩

theorem frPut_framesOnly (s : State) (d fid : Nat) (f : Fld) (v : Nat) : FramesOnly s (frPut s d fid f v) d :=
  ⟨rfl, by simp [frPut, setFrame]⟩

theorem OnlyCores.framesOnly {s t : State} (h : OnlyCores s t) (d : Nat) : FramesOnly s t d :=
  ⟨by rw [h], by rw [h]; rfl⟩

theorem walkAll_of_nil {s : State} {d : Nat} (h : (getDie s d).walk = []) (n : Nat) : walkAll s d n = s := by
  cases n with
  | zero => rfl
  | succ n => simp [walkAll, h]

theorem payOwed_of_nil {s : State} {d fid : Nat} (h : (getDie s d).owed = []) (hue : s.ue = []) :
    FramesOnly s (payOwed s d fid) d ∧ ∀ j, getFrame (payOwed s d fid) d j = getFrame s d j := by
  obtain ⟨u, hu⟩ : ∃ u, u = modDie s d fun x => { x with owed := x.owed.filter (· != fid) } := ⟨_, rfl⟩
  have hp : payOwed s d fid = changeCount u d fid (· + 0) := by simp [payOwed, h, hu]
  have hs : FramesOnly s u d := hu ▸ ⟨rfl, by simp⟩
  have hfr (j : Nat) : getFrame u d j = getFrame s d j := by rw [hu]; exact getFrame_modDie s d j _ fun _ => rfl
  have hue : u.ue = [] := by rw [hu]; exact hue
  rw [hp]
  unfold changeCount
  split
  · exact ⟨hs, hfr⟩
  · rw [if_neg (by simp [hurtFrame_of_none hue])]
    refine ⟨hs.trans (frPut_framesOnly _ _ _ _ _), fun j => ?_⟩
    rw [getFrame_frPut]
    split
    · next hj => subst hj; exact (fput_fget _).trans (hfr j)
    · exact hfr j

/-- A frame's work ends: BUSY falls, where nothing waits for it and no count is owed. -/
theorem endWork_quiet {s : State} {d : Nat} (fid : Nat) (hw : (getDie s d).walk = []) (ho : (getDie s d).owed = []) (hue : s.ue = []) :
    FramesOnly s (endWork s d fid) d ∧
      ∀ j, getFrame (endWork s d fid) d j = if j = fid then fput F.frBusy (getFrame s d fid) 0 else getFrame s d j := by
  have h1 := frPut_framesOnly s d fid F.frBusy 0
  have hx : (getDie (frPut s d fid F.frBusy 0) d).owed = [] ∧ (getDie (frPut s d fid F.frBusy 0) d).walk = [] := by
    rw [getDie_frPut]; exact ⟨ho, hw⟩
  obtain ⟨h2, hf2⟩ := payOwed_of_nil (fid := fid) hx.1 (show (frPut s d fid F.frBusy 0).ue = [] by rw [h1.rest]; exact hue)
  have hw2 : (getDie (payOwed (frPut s d fid F.frBusy 0) d fid) d).walk = [] := by rw [h2.die]; exact hx.2
  have he : endWork s d fid = wakeFrame (payOwed (frPut s d fid F.frBusy 0) d fid) d fid := by
    rw [endWork, walkOut, walkAll_of_nil hw2]
  have h3 := wakeAll_onlyCores (payOwed (frPut s d fid F.frBusy 0) d fid) fun _ m => m == .waiting (.frame d fid)
  refine ⟨he ▸ (h1.trans h2).trans (h3.framesOnly d), fun j => ?_⟩
  rw [he, ← getFrame_frPut, ← hf2]
  unfold wakeFrame
  rw [h3]
  rfl

/-! ### Moving the bytes of a frame (R285, R286) -/

/-- The bytes of a frame are moved to where they shall lie, and nothing but bytes differs. -/
theorem moveFrame_clean {s : State} (h : Clean s) (src dst : Nat) :
    OnlyBytes s (moveFrame s src dst) ∧
      ∀ x, readByte (moveFrame s src dst) 0 x = if dst ≤ x ∧ x < dst + 2 ^ 18 then readByte s 0 (src + (x - dst)) else readByte s 0 x := by
  have hw := writeBytes_onlyBytes h dst (readBytes s 0 src (2 ^ 18))
  have he : moveFrame s src dst = writeBytes s 0 dst (readBytes s 0 src (2 ^ 18)) := by
    rw [moveFrame, findErrors_of_none s src _ h.latent h.soft]
    exact foldl_same (fun j => if_neg (by rw [poisonAt_clean (hw.clean h)]; decide)) _
  refine ⟨he ▸ hw, fun x => ?_⟩
  rw [he, readByte_writeBytes h, readBytes_length]
  split
  · next hx => exact readBytes_getD _ _ _ _ _ (by omega)
  · rfl

end Sys2Proof.Machine


/-!
PROOFS. Evictions, fetch-backs and copies of frames (R227, R285, R286): which frame an eviction takes, and what each move leaves.
-/
namespace Sys2Proof.Machine

/-! ### Which frame an eviction takes (R285) -/

/-- Of two frames with their age stamps the older, the first where neither is. -/
def older (b : Option (Nat × Nat)) (c : Nat × Nat) : Option (Nat × Nat) :=
  match b with
  | none => some c
  | some a => if c.1 < a.1 then some c else b

/-- A stamp that lies below those of all other frames is found, whatever was found before. -/
theorem foldl_older {a fid : Nat} (l : List (Nat × Nat)) (b : Option (Nat × Nat)) (hl : ∀ c ∈ l, c = (a, fid) ∨ a < c.1)
    (hb : ∀ c ∈ b, c = (a, fid) ∨ a < c.1) (hin : (a, fid) ∈ l ∨ b = some (a, fid)) : l.foldl older b = some (a, fid) := by
  induction l generalizing b with
  | nil => exact hin.resolve_left List.not_mem_nil
  | cons c l ih =>
    have hc := hl c List.mem_cons_self
    have hold : older b c = some c ∧ b ≠ some (a, fid) ∨ older b c = b ∧ (c = (a, fid) → b = some (a, fid)) := by
      cases b with
      | none => exact .inl ⟨rfl, by simp⟩
      | some y =>
        have hy := hb y rfl
        by_cases h : c.1 < y.1
        · refine .inl ⟨if_pos h, fun he => ?_⟩
          cases he
          rcases hc with rfl | hc
          · exact lt_irrefl _ h
          · exact lt_asymm h hc
        · refine .inr ⟨if_neg h, fun he => ?_⟩
          subst he
          rcases hy with rfl | hy
          · rfl
          · exact absurd hy h
    refine ih _ (fun x hx => hl x (List.mem_cons_of_mem c hx)) ?_ ?_
    · rcases hold with ⟨ho, -⟩ | ⟨ho, -⟩ <;> rw [ho]
      · rintro x ⟨⟩; exact hc
      · exact hb
    · rcases hin with hin | hin
      · rcases List.mem_cons.1 hin with he | hin
        · rcases hold with ⟨ho, -⟩ | ⟨ho, h2⟩
          · exact .inr (by rw [ho, he])
          · exact .inr (by rw [ho, h2 he.symm])
        · exact .inl hin
      · rcases hold with ⟨-, h2⟩ | ⟨ho, -⟩
        · exact absurd hin h2
        · exact .inr (by rw [ho, hin])

/-- The frame that an eviction takes, with its stamp, and the HBM frame that it goes to. -/
def oldestFrame (x : Die) : Option (Nat × Nat) := ((x.frames.filter fun e => evictable e.2).map fun e => (tget 0 x.age e.1, e.1)).foldl older none
def lowestPlace (x : Die) : Option Nat := (upFrom 0 (fget ⟨0, 16⟩ x.spCount)).find? fun h => !x.spillUsed.contains h

theorem oldestFrame_of_least {x : Die} {fid : Nat} {e : Word} (hin : (fid, e) ∈ x.frames) (he : evictable e = true)
    (hleast : ∀ o ∈ x.frames, o.1 ≠ fid → evictable o.2 = true → tget 0 x.age fid < tget 0 x.age o.1) :
    oldestFrame x = some (tget 0 x.age fid, fid) := by
  refine foldl_older _ _ (fun c hc => ?_) (fun c hc => by cases hc) (.inl ?_)
  · obtain ⟨o, ho, rfl⟩ := List.mem_map.1 hc
    obtain ⟨ho, hev⟩ := List.mem_filter.1 ho
    by_cases hf : o.1 = fid
    · exact .inl (by rw [hf])
    · exact .inr (hleast o ho hf hev)
  · exact List.mem_map.2 ⟨(fid, e), List.mem_filter.2 ⟨hin, he⟩, rfl⟩

/-- The first number that passes a test. -/
theorem find?_upFrom {p : Nat → Bool} {a n h : Nat} (ha : a ≤ h) (hn : h < a + n) (hp : p h = true) (hlow : ∀ j, a ≤ j → j < h → p j = false) :
    (upFrom a n).find? p = some h := by
  induction n generalizing a with
  | zero => omega
  | succ n ih =>
    rw [upFrom, List.find?_cons]
    by_cases he : a = h
    · rw [he, hp]
    · rw [hlow a (le_refl _) (by omega)]
      exact ih (by omega) (by omega) fun j hj => hlow j (by omega)

theorem lowestPlace_of_least {x : Die} {h : Nat} (hn : h < fget ⟨0, 16⟩ x.spCount) (hh : h ∉ x.spillUsed) (hlow : ∀ j, j < h → j ∈ x.spillUsed) :
    lowestPlace x = some h :=
  find?_upFrom (Nat.zero_le _) (by omega) (by simpa using hh) fun j _ hj => by simpa using hlow j hj

/-- The Spillway is at work: below 96 free frames, or until 160 are free again. -/
def spilling (x : Die) : Prop := freeFrames x < 96 ∨ x.evicting = true ∧ freeFrames x < 160

/-- What a die has more once an eviction is under way. -/
def evictBegun (fid h : Nat) (x : Die) : Die := { x with evicting := true, spillUsed := sadd h x.spillUsed, work := x.work ++ [.evict fid h] }

theorem spillwayEvict_begins {s : State} {d a fid h : Nat} (hon : spilling (getDie s d)) (hf : oldestFrame (getDie s d) = some (a, fid))
    (hp : lowestPlace (getDie s d) = some h) (hue : s.ue = []) :
    spillwayEvict s d = modDie (frPut s d fid F.frBusy 1) d (evictBegun fid h) := by
  have hon' : (!(decide (freeFrames (getDie s d) < 96) || ((getDie s d).evicting && decide (freeFrames (getDie s d) < 160)))) = false := by
    simp only [Bool.not_eq_false', Bool.or_eq_true, Bool.and_eq_true, decide_eq_true_eq]
    exact hon
  unfold spillwayEvict
  dsimp only
  rw [hon', if_neg Bool.false_ne_true]
  split
  · next b p fid' h' hb hh =>
    have h1 := hb.symm.trans hf
    have h2 := hh.symm.trans hp
    cases h1
    cases h2
    rw [hurtFrame_of_none hue, if_neg Bool.false_ne_true]
    rfl
  · next hno => exact (hno _ _ _ hf hp).elim

theorem spillwayEvict_rests {s : State} {d : Nat} (h : 160 ≤ freeFrames (getDie s d)) :
    spillwayEvict s d = modDie s d fun x => { x with evicting := false } := by
  have hoff : (!(decide (freeFrames (getDie s d) < 96) || ((getDie s d).evicting && decide (freeFrames (getDie s d) < 160)))) = true := by
    simp; omega
  unfold spillwayEvict
  dsimp only
  rw [hoff, if_pos rfl]

/-- The Spillway begins to evict the frame used longest ago, to the lowest free frame of the area (R285). -/
theorem spillwayEvict_takes {s : State} {fid h : Nat} {e : Word} (hon : spilling (getDie s s.argA)) (hin : (fid, e) ∈ (getDie s s.argA).frames)
    (he : getFrame s s.argA fid = e) (hev : evictable e = true)
    (hleast : ∀ o ∈ (getDie s s.argA).frames, o.1 ≠ fid → evictable o.2 = true → tget 0 (getDie s s.argA).age fid < tget 0 (getDie s s.argA).age o.1)
    (hh : h < fget ⟨0, 16⟩ (getDie s s.argA).spCount) (hfree : h ∉ (getDie s s.argA).spillUsed)
    (hlow : ∀ j, j < h → j ∈ (getDie s s.argA).spillUsed) (hue : s.ue = []) :
    ∃ t, exec .spillwayEvict s = .next t ∧ getFrame t s.argA fid = fput F.frBusy e 1 ∧
      (∀ o, o ≠ fid → getFrame t s.argA o = getFrame s s.argA o) ∧
      (getDie t s.argA).work = (getDie s s.argA).work ++ [.evict fid h] ∧ h ∈ (getDie t s.argA).spillUsed ∧ (getDie t s.argA).evicting = true ∧
      t.mem = s.mem := by
  have hfr (o : Nat) : getFrame (modDie (frPut s s.argA fid F.frBusy 1) s.argA (evictBegun fid h)) s.argA o =
      if o = fid then fput F.frBusy e 1 else getFrame s s.argA o := by
    rw [getFrame_modDie (F := evictBegun fid h) _ _ _ fun _ => rfl, getFrame_frPut, he]
  refine ⟨modDie (frPut s s.argA fid F.frBusy 1) s.argA (evictBegun fid h),
    congrArg Host.Outcome.next (spillwayEvict_begins hon (oldestFrame_of_least hin hev hleast) (lowestPlace_of_least hh hfree hlow) hue),
    ?_, ?_, ?_, ?_, ?_, rfl⟩
  · rw [hfr, if_pos rfl]
  · intro o ho
    rw [hfr, if_neg ho]
  · rw [getDie_modDie_self, evictBegun, getDie_frPut]
  · rw [getDie_modDie_self, evictBegun, getDie_frPut]
    exact (mem_sadd _ _ _).2 (.inr rfl)
  · rw [getDie_modDie_self, evictBegun]

theorem spillwayEvict_stops {s : State} (h : 160 ≤ freeFrames (getDie s s.argA)) :
    ∃ t, exec .spillwayEvict s = .next t ∧ (getDie t s.argA).work = (getDie s s.argA).work ∧ (getDie t s.argA).evicting = false ∧ t.mem = s.mem :=
  ⟨_, congrArg Host.Outcome.next (spillwayEvict_rests h), by rw [getDie_modDie_self], by rw [getDie_modDie_self], rfl⟩

/-! ### Moves between SRAM and HBM (R285, R286) -/

/-- The die's work stands alone, on frames without error (as `Rules.FrameWork` says). -/
theorem FrameWork.clean {s : State} {w : FrameWork} (h : Rules.FrameWork s w) : Clean s := by
  obtain ⟨hp, hl, hs, hv, -⟩ := h.sound
  exact ⟨hp, hl, hs, hv⟩

theorem FrameWork.ue {s : State} {w : FrameWork} (h : Rules.FrameWork s w) : s.ue = [] := h.sound.2.2.2.2

/-- What a move that ends leaves: the entry with its new place, the die with its work done, and the bytes as the move left them. -/
structure Moved (s s1 t : State) (d fid loc place : Nat) (change : Die → Die) : Prop where
  frame : getFrame t d fid = fput F.frBusy (fput F.frPlace (fput F.frLoc (getFrame s d fid) loc) place) 0
  die : ∃ fr, getDie t d = { change { getDie s d with frames := fr } with frames := (getDie t d).frames, owed := (getDie t d).owed }
  mem : t.mem = s1.mem ∧ t.memKey = s1.memKey

theorem endWork_moved {s s1 : State} (hb : OnlyBytes s s1) {d : Nat} (hw : (getDie s d).walk = []) (ho : (getDie s d).owed = []) (hue : s.ue = [])
    (fid loc place : Nat) (change : Die → Die)
    (hc : ∀ x, (change x).frames = x.frames ∧ (change x).walk = x.walk ∧ (change x).owed = x.owed) :
    Moved s s1 (endWork (modDie (frPut (frPut s1 d fid F.frLoc loc) d fid F.frPlace place) d change) d fid) d fid loc place change := by
  obtain ⟨u, hu⟩ : ∃ u, u = frPut (frPut s1 d fid F.frLoc loc) d fid F.frPlace place := ⟨_, rfl⟩
  have hf : FramesOnly s1 u d := hu ▸ (frPut_framesOnly _ _ _ _ _).trans (frPut_framesOnly _ _ _ _ _)
  have hd := hb.getDie d
  have hfr : getFrame u d fid = fput F.frPlace (fput F.frLoc (getFrame s d fid) loc) place := by
    rw [hu, getFrame_frPut, if_pos rfl, getFrame_frPut, if_pos rfl, getFrame, hd, ← getFrame]
  have hdu : getDie u d = { getDie s d with frames := (getDie u d).frames } := by
    rw [hu, getDie_frPut, getDie_frPut, hd]
  have hue' : u.ue = [] := by rw [hf.ue, hb.ue, hue]
  rw [← hu]
  clear hu
  obtain ⟨h1, h2, h3⟩ := hc (getDie u d)
  have hw' : (getDie (modDie u d change) d).walk = [] := by rw [getDie_modDie_self, h2, hdu]; exact hw
  have ho' : (getDie (modDie u d change) d).owed = [] := by rw [getDie_modDie_self, h3, hdu]; exact ho
  obtain ⟨hq, hqf⟩ := endWork_quiet fid hw' ho' hue'
  refine ⟨?_, ⟨(getDie u d).frames, ?_⟩, ?_⟩
  · rw [hqf, if_pos rfl, getFrame_modDie _ _ _ _ fun x => (hc x).1, hfr]
  · rw [← hdu, ← getDie_modDie_self u d change]
    exact hq.die
  · rw [hq.memory.1, hq.memory.2]
    exact hf.memory

/-- What an eviction changes of its die as it ends. -/
def evicted (fid f : Nat) (x : Die) : Die :=
  { x with zeroing := sadd f x.zeroing, work := x.work.filter fun w => match w with | .evict a _ => a != fid | _ => true }

theorem evictionComplete_moves {s : State} {d fid h : Nat} (hwork : (getDie s d).work = [.evict fid h]) (hue : s.ue = [])
    (hq : frGet s d fid F.frQ = 0) (hacc : accessesTo s d (frGet s d fid F.frPlace) = false) :
    evictionComplete s d fid = endWork (modDie (frPut (frPut (moveFrame s (frameGa s d fid 0)
      (gaHbm d ((getDie s d).spBase.toNat % 2 ^ 36 + h * 2 ^ 18))) d fid F.frLoc 1) d fid F.frPlace h) d
        (evicted fid (frGet s d fid F.frPlace))) d fid := by
  have hqq : quarantined s d fid = false := by simp [quarantined, hq]
  unfold evictionComplete
  rw [mendFrame_of_none hue]
  dsimp only
  rw [hwork, List.findSome?_cons]
  dsimp only
  rw [if_pos rfl]
  dsimp only
  rw [hacc, hqq, if_neg Bool.false_ne_true, if_neg Bool.false_ne_true]
  rfl

/-- What a fetch-back changes of its die as it ends. -/
def fetchedBack (now fid h : Nat) (x : Die) : Die :=
  { x with
    spillUsed := sdel h x.spillUsed, age := tset 0 x.age fid (now / 1024)
    work := x.work.filter fun w => match w with | .fetch a _ => a != fid | _ => true }

theorem fetchBackComplete_moves {s : State} {d fid h : Nat} (hwork : (getDie s d).work = [.fetch fid h]) (hl : frGet s d fid F.frLoc = 1) :
    fetchBackComplete s d fid = endWork (modDie (frPut (frPut (moveFrame s
      (gaHbm d ((getDie s d).spBase.toNat % 2 ^ 36 + frGet s d fid F.frPlace * 2 ^ 18 + 0)) (gaFrame d (h * 2 ^ 18))) d fid F.frLoc 0) d fid
        F.frPlace h) d (fetchedBack s.now fid (frGet s d fid F.frPlace))) d fid := by
  unfold fetchBackComplete
  rw [hwork, List.findSome?_cons]
  dsimp only
  rw [if_pos rfl]
  dsimp only
  rw [contentGa, hl, if_neg (by decide)]
  rfl

/-- Global addresses within a die's frames and its HBM go by their offsets. -/
theorem gaFrame_add (d a o : Nat) : gaFrame d (a + o) = gaFrame d a + o := by simp only [gaFrame]; omega
theorem gaHbm_add (d a o : Nat) : gaHbm d (a + o) = gaHbm d a + o := by simp only [gaHbm]; omega

/-- Bytes that a move has brought to their new place. -/
theorem Moved.bytes {s t : State} {d fid loc place src dst : Nat} {change : Die → Die} (h : Moved s (moveFrame s src dst) t d fid loc place change)
    (hs : Clean s) {o : Nat} (ho : o < 2 ^ 18) : readByte t 0 (dst + o) = readByte s 0 (src + o) := by
  rw [readByte_of_mem h.mem.1 h.mem.2, (moveFrame_clean hs src dst).2, if_pos (by omega), Nat.add_sub_cancel_left]

theorem evictionComplete_done {s : State} {h p : Nat} (hw : Rules.FrameWork s (.evict s.argB h)) (hp : p = frGet s s.argA s.argB F.frPlace)
    (hq : frGet s s.argA s.argB F.frQ = 0) (hacc : accessesTo s s.argA p = false) :
    ∃ t, exec .evictionComplete s = .next t ∧ (getDie t s.argA).work = [] ∧
      getFrame t s.argA s.argB = fput F.frBusy (fput F.frPlace (fput F.frLoc (getFrame s s.argA s.argB) 1) h) 0 ∧ p ∈ (getDie t s.argA).zeroing ∧
      ∀ o, o < 2 ^ 18 → readByte t 0 (gaHbm s.argA ((getDie s s.argA).spBase.toNat % 2 ^ 36 + h * 2 ^ 18 + o)) =
        readByte s 0 (gaFrame s.argA (p * 2 ^ 18 + o)) := by
  subst hp
  have hm := endWork_moved (moveFrame_clean (FrameWork.clean hw) (frameGa s s.argA s.argB 0)
    (gaHbm s.argA ((getDie s s.argA).spBase.toNat % 2 ^ 36 + h * 2 ^ 18))).1 hw.walk.1 hw.walk.2 (FrameWork.ue hw) s.argB 1 h
      (evicted s.argB (frGet s s.argA s.argB F.frPlace)) fun _ => ⟨rfl, rfl, rfl⟩
  rw [← evictionComplete_moves hw.work (FrameWork.ue hw) hq hacc] at hm
  obtain ⟨fr, hd⟩ := hm.die
  refine ⟨_, rfl, ?_, hm.frame, ?_, fun o ho => ?_⟩
  · rw [hd]
    simp [evicted, hw.work]
  · rw [hd]
    simp [evicted, mem_sadd]
  · rw [gaHbm_add, hm.bytes (FrameWork.clean hw) ho, frameGa, gaFrame_add, gaFrame_add, Nat.add_zero]

theorem fetchBackComplete_done {s : State} {h p : Nat} (hw : Rules.FrameWork s (.fetch s.argB h)) (hp : p = frGet s s.argA s.argB F.frPlace)
    (hl : frGet s s.argA s.argB F.frLoc = 1) :
    ∃ t, exec .fetchBackComplete s = .next t ∧ (getDie t s.argA).work = [] ∧
      getFrame t s.argA s.argB = fput F.frBusy (fput F.frPlace (fput F.frLoc (getFrame s s.argA s.argB) 0) h) 0 ∧ p ∉ (getDie t s.argA).spillUsed ∧
      ∀ o, o < 2 ^ 18 → readByte t 0 (gaFrame s.argA (h * 2 ^ 18 + o)) =
        readByte s 0 (gaHbm s.argA ((getDie s s.argA).spBase.toNat % 2 ^ 36 + p * 2 ^ 18 + o)) := by
  subst hp
  have hm := endWork_moved (moveFrame_clean (FrameWork.clean hw) (gaHbm s.argA ((getDie s s.argA).spBase.toNat % 2 ^ 36 +
    frGet s s.argA s.argB F.frPlace * 2 ^ 18 + 0)) (gaFrame s.argA (h * 2 ^ 18))).1 hw.walk.1 hw.walk.2 (FrameWork.ue hw) s.argB 0 h
      (fetchedBack s.now s.argB (frGet s s.argA s.argB F.frPlace)) fun _ => ⟨rfl, rfl, rfl⟩
  rw [← fetchBackComplete_moves hw.work hl] at hm
  obtain ⟨fr, hd⟩ := hm.die
  refine ⟨_, rfl, ?_, hm.frame, ?_, fun o ho => ?_⟩
  · rw [hd]
    simp [fetchedBack, hw.work]
  · rw [hd]
    simp [fetchedBack, mem_sdel]
  · rw [gaFrame_add, hm.bytes (FrameWork.clean hw) ho, Nat.add_zero, ← gaHbm_add]

/-! ### The copy of a shared frame (R227) -/

/-- The counts of a copy and its original once the copy is complete. -/
def counted (s : State) (d src dst : Nat) : State :=
  frPut (frPut (frPut s d dst F.frCnt 1) d dst F.frBusy 0) d src F.frCnt (frGet s d src F.frCnt - 1)

theorem counted_eq {s : State} {d src dst : Nat} (hue : s.ue = []) (hne : src ≠ dst) (hqs : frGet s d src F.frQ = 0) (hqd : frGet s d dst F.frQ = 0) :
    countDown (frPut (changeCount s d dst fun _ => 1) d dst F.frBusy 0) d src = counted s d src dst := by
  have hget (g : Fld) : frGet (frPut (frPut s d dst F.frCnt 1) d dst F.frBusy 0) d src g = frGet s d src g := by
    rw [frGet_frPut_of_ne _ _ _ _ _ _ _ hne, frGet_frPut_of_ne _ _ _ _ _ _ _ hne]
  rw [changeCount_of_none hue hqd, countDown_of_none (by simp [frPut, setFrame, hue]) (by rw [hget, hqs]), hget]
  rfl

theorem getFrame_counted {s : State} {d src dst : Nat} (hne : src ≠ dst) :
    getFrame (counted s d src dst) d src = fput F.frCnt (getFrame s d src) (frGet s d src F.frCnt - 1) ∧
      getFrame (counted s d src dst) d dst = fput F.frBusy (fput F.frCnt (getFrame s d dst) 1) 0 ∧
      ∀ j, j ≠ src → j ≠ dst → getFrame (counted s d src dst) d j = getFrame s d j := by
  refine ⟨?_, ?_, fun j h1 h2 => ?_⟩
  · rw [counted, getFrame_frPut, if_pos rfl, getFrame_frPut, if_neg hne, getFrame_frPut, if_neg hne]
  · rw [counted, getFrame_frPut, if_neg hne.symm, getFrame_frPut, if_pos rfl, getFrame_frPut, if_pos rfl]
  · rw [counted, getFrame_frPut, if_neg h1, getFrame_frPut, if_neg h2, getFrame_frPut, if_neg h2]

theorem counted_framesOnly (s : State) (d src dst : Nat) : FramesOnly s (counted s d src dst) d :=
  ((frPut_framesOnly _ _ _ _ _).trans (frPut_framesOnly _ _ _ _ _)).trans (frPut_framesOnly _ _ _ _ _)

theorem getDie_counted (s : State) (d src dst : Nat) :
    getDie (counted s d src dst) d = { getDie s d with frames := (getDie (counted s d src dst) d).frames } := by
  rw [counted, getDie_frPut, getDie_frPut, getDie_frPut]

/-- A copy that ends: the bytes move, the counts change, the leaf names the copy, and the frame's work ends. -/
theorem frameCopyComplete_moves {s : State} {d src dst i page leaf : Nat} (hw : (getDie s d).work = [.copy src dst i page])
    (hleaf : (pathOf s d i page).leaf = some leaf) (hl : frGet s d src F.frLoc = 0) (hne : src ≠ dst) (hue : s.ue = []) (hs : Clean s)
    (hqs : frGet s d src F.frQ = 0) (hqd : frGet s d dst F.frQ = 0) :
    ∃ (copies : Nat) (age : Die → Tbl Nat) (work : Die → List FrameWork), frameCopyComplete s d src =
      endWork (modDie (scbPut (repoint (counted (moveFrame s (frameGa s d src 0) (frameGa s d dst 0)) d src dst) d leaf (page % 64) dst) d i F.scCopies
        copies) d fun x => { x with age := age x, work := work x }) d src := by
  obtain ⟨u, hu⟩ : ∃ u, u = moveFrame s (frameGa s d src 0) (frameGa s d dst 0) := ⟨_, rfl⟩
  have hb : OnlyBytes s u := hu ▸ (moveFrame_clean hs _ _).1
  have hget (j : Nat) (g : Fld) : frGet u d j g = frGet s d j g := by rw [hb]; rfl
  have hc := counted_eq (s := u) (d := d) (by rw [hb]; exact hue) hne (by rw [hget, hqs]) (by rw [hget, hqd])
  unfold frameCopyComplete
  rw [hw, List.findSome?_cons]
  dsimp only
  rw [if_pos rfl]
  dsimp only
  rw [contentGa, if_pos hl, ← hu, hc, hleaf]
  exact ⟨_, _, _, rfl⟩

/-- A node that lies in another frame has no byte of a data frame. -/
theorem nodeGa_outside {s : State} {d leaf i place o : Nat} (hi : i < 64) (h : frGet s d leaf F.frPlace / 512 ≠ place) (ho : o < 2 ^ 18) :
    gaFrame d (place * 2 ^ 18 + o) < nodeGa s d leaf i ∨ nodeGa s d leaf i + 8 ≤ gaFrame d (place * 2 ^ 18 + o) := by
  have hm : frGet s d leaf F.frPlace % 512 < 512 := Nat.mod_lt _ (by decide)
  simp only [nodeGa, gaFrame]
  omega

theorem setNodeEntry_onlyBytes {s : State} (hs : Clean s) (d node i : Nat) (e : Word) : OnlyBytes s (setNodeEntry s d node i e) :=
  writeBytes_onlyBytes hs _ _

theorem nodeEntry_setNodeEntry {s t : State} (hs : Clean s) {d node i : Nat} {e : Word} (hm : t.mem = (setNodeEntry s d node i e).mem)
    (hk : t.memKey = (setNodeEntry s d node i e).memKey) (hp : frGet t d node F.frPlace = frGet s d node F.frPlace) : nodeEntry t d node i = e := by
  have hg : nodeGa t d node i = nodeGa s d node i := by rw [nodeGa, nodeGa, hp]
  have he : e.toNat % 256 ^ 8 = e.toNat := Nat.mod_eq_of_lt e.isLt
  rw [nodeEntry, hg, readNat_of_mem hm hk, setNodeEntry, readNat_writeNat hs, he, BitVec.ofNat_toNat, BitVec.setWidth_eq]

/-- A leaf that names another frame: its entry, and the bytes elsewhere. -/
theorem repoint_clean {s : State} (hs : Clean s) (d node i fid : Nat) :
    OnlyBytes s (repoint s d node i fid) ∧
      (∀ t : State, t.mem = (repoint s d node i fid).mem → t.memKey = (repoint s d node i fid).memKey →
        frGet t d node F.frPlace = frGet s d node F.frPlace → fget F.teFid (nodeEntry t d node i) = fid % 2 ^ 16) ∧
      ∀ x, x < nodeGa s d node i ∨ nodeGa s d node i + 8 ≤ x → readByte (repoint s d node i fid) 0 x = readByte s 0 x := by
  refine ⟨setNodeEntry_onlyBytes hs _ _ _ _, fun t hm hk hp => ?_, fun x hx => readByte_writeNat_of_outside hs hx⟩
  rw [nodeEntry_setNodeEntry hs hm hk hp, fget_fput (by decide)]
  rfl

/-- A stream's block and a die's stamps and work apart, nothing differs. -/
theorem afterCopy (s : State) (d i : Nat) (f : Fld) (v : Nat) {change : Die → Die}
    (hc : ∀ x, (change x).frames = x.frames ∧ (change x).walk = x.walk ∧ (change x).owed = x.owed) :
    (∀ j, getFrame (modDie (scbPut s d i f v) d change) d j = getFrame s d j) ∧
      (getDie (modDie (scbPut s d i f v) d change) d).walk = (getDie s d).walk ∧
      (getDie (modDie (scbPut s d i f v) d change) d).owed = (getDie s d).owed ∧
      (modDie (scbPut s d i f v) d change).mem = s.mem ∧ (modDie (scbPut s d i f v) d change).memKey = s.memKey ∧
      (modDie (scbPut s d i f v) d change).ue = s.ue := by
  refine ⟨fun j => ?_, ?_, ?_, rfl, rfl, rfl⟩
  · rw [getFrame_modDie _ _ _ _ fun x => (hc x).1]
    exact getFrame_modDie _ _ _ _ fun _ => rfl
  · rw [getDie_modDie_self, (hc _).2.1, scbPut, setScb, getDie_modDie_self]
  · rw [getDie_modDie_self, (hc _).2.2, scbPut, setScb, getDie_modDie_self]

/-- From the move of the bytes to the end of the work: what a copy leaves. -/
theorem copyEnds {s s2 : State} {d src dst i leaf e copies : Nat} (hb : OnlyBytes s s2) (hs : Clean s) (hue : s.ue = [])
    (hw : (getDie s d).walk = []) (ho : (getDie s d).owed = []) (hne : src ≠ dst) (hls : leaf ≠ src) (hld : leaf ≠ dst) {change : Die → Die}
    (hc : ∀ x, (change x).frames = x.frames ∧ (change x).walk = x.walk ∧ (change x).owed = x.owed) {t : State}
    (ht : t = endWork (modDie (scbPut (repoint (counted s2 d src dst) d leaf e dst) d i F.scCopies copies) d change) d src) :
    getFrame t d dst = fput F.frBusy (fput F.frCnt (getFrame s d dst) 1) 0 ∧
      getFrame t d src = fput F.frBusy (fput F.frCnt (getFrame s d src) (frGet s d src F.frCnt - 1)) 0 ∧
      fget F.teFid (nodeEntry t d leaf e) = dst % 2 ^ 16 ∧
      ∀ x, x < nodeGa s d leaf e ∨ nodeGa s d leaf e + 8 ≤ x → readByte t 0 x = readByte s2 0 x := by
  have hdie := hb.getDie d
  have hfr (j : Nat) : getFrame s2 d j = getFrame s d j := by rw [getFrame, hdie, ← getFrame]
  have hs2 := hb.clean hs
  obtain ⟨hcs, hcd, hcj⟩ := getFrame_counted (s := s2) (d := d) hne
  have hcf := counted_framesOnly s2 d src dst
  have hcd' := getDie_counted s2 d src dst
  generalize counted s2 d src dst = u at hcs hcd hcj hcf hcd' ht
  have hu := hcf.clean hs2
  have huw : (getDie u d).walk = [] ∧ (getDie u d).owed = [] := by
    rw [hcd', hdie]; exact ⟨hw, ho⟩
  obtain ⟨hvb, hentry, hbytes⟩ := repoint_clean hu d leaf e dst
  generalize repoint u d leaf e dst = v at hvb hentry hbytes ht
  have hvd := hvb.getDie d
  have hvf (j : Nat) : getFrame v d j = getFrame u d j := by rw [getFrame, hvd, ← getFrame]
  have hvu : v.ue = [] := by rw [hvb.ue, hcf.ue, hb.ue, hue]
  obtain ⟨hwf, hww, hwo, hwm, hwk, hwu⟩ := afterCopy v d i F.scCopies copies hc
  generalize modDie (scbPut v d i F.scCopies copies) d change = w at hwf hww hwo hwm hwk hwu ht
  obtain ⟨hq, hqf⟩ := endWork_quiet src (hww.trans (by rw [hvd]; exact huw.1)) (hwo.trans (by rw [hvd]; exact huw.2)) (hwu.trans hvu)
  have htf (j : Nat) (hj : j ≠ src) : getFrame t d j = getFrame u d j := by rw [ht, hqf, if_neg hj, hwf, hvf]
  have htm : t.mem = v.mem ∧ t.memKey = v.memKey := by rw [ht, hq.memory.1, hq.memory.2, hwm, hwk]; exact ⟨rfl, rfl⟩
  have hga : nodeGa u d leaf e = nodeGa s d leaf e := by rw [nodeGa, nodeGa, frGet, frGet, hcj leaf hls hld, hfr]
  refine ⟨?_, ?_, hentry t htm.1 htm.2 (by rw [frGet, frGet, htf leaf hls]), fun x hx => ?_⟩
  · rw [htf dst hne.symm, hcd, hfr]
  · rw [ht, hqf, if_pos rfl, hwf, hvf, hcs, frGet, hfr, ← frGet]
  · rw [readByte_of_mem htm.1 htm.2, hbytes x (by rw [hga]; exact hx), readByte_of_mem hcf.memory.1 hcf.memory.2]

/-- A copy that ends holds the page's bytes, has count 1, and takes its place in the leaf; its original loses a count (R227). -/
theorem frameCopyComplete_done {s : State} {d src dst i page leaf : Nat} (hA : d = s.argA) (hB : src = s.argB)
    (hw : Rules.FrameWork s (.copy src dst i page)) (hleaf : (pathOf s d i page).leaf = some leaf) (hne : src ≠ dst) (hdst : dst < 65536)
    (hls : leaf ≠ src) (hld : leaf ≠ dst) (hl : frGet s d src F.frLoc = 0) (hqs : frGet s d src F.frQ = 0) (hqd : frGet s d dst F.frQ = 0)
    (hplace : frGet s d leaf F.frPlace / 512 ≠ frGet s d dst F.frPlace) :
    ∃ t, exec .frameCopyComplete s = .next t ∧ frGet t d dst F.frCnt = 1 ∧ frGet t d dst F.frBusy = 0 ∧ frGet t d src F.frBusy = 0 ∧
      frGet t d src F.frCnt = frGet s d src F.frCnt - 1 ∧ fget F.teFid (nodeEntry t d leaf (page % 64)) = dst ∧
      ∀ o, o < 2 ^ 18 → readByte t 0 (frameGa s d dst o) = readByte s 0 (frameGa s d src o) := by
  have hue := FrameWork.ue hw
  have hs := FrameWork.clean hw
  have hcnt : frGet s d src F.frCnt < 2 ^ 16 := fget_lt _
  obtain ⟨copies, age, work, he⟩ := frameCopyComplete_moves (hA ▸ hw.work) hleaf hl hne hue hs hqs hqd
  obtain ⟨hmove, hbytes⟩ := moveFrame_clean hs (frameGa s d src 0) (frameGa s d dst 0)
  obtain ⟨hfd, hfs, hent, hout⟩ := copyEnds (leaf := leaf) (e := page % 64) hmove hs hue (hA ▸ hw.walk.1) (hA ▸ hw.walk.2) hne hls hld
    (change := fun x => { x with age := age x, work := work x }) (fun _ => ⟨rfl, rfl, rfl⟩) he
  refine ⟨frameCopyComplete s d src, by rw [hA, hB]; rfl, ?_, ?_, ?_, ?_, hent.trans (Nat.mod_eq_of_lt hdst), fun o ho => ?_⟩
  · rw [frGet, hfd, fget_fput_of_disjoint (by decide) (by decide), fget_fput (by decide)]
    rfl
  · rw [frGet, hfd, fget_fput (by decide)]
    rfl
  · rw [frGet, hfs, fget_fput (by decide)]
    rfl
  · rw [frGet, hfs, fget_fput_of_disjoint (by decide) (by decide), fget_fput (by decide)]
    exact Nat.mod_eq_of_lt (by show _ < 2 ^ 16; omega)
  · have h0 (j : Nat) : frameGa s d j o = frameGa s d j 0 + o := by rw [frameGa, frameGa, Nat.add_zero, gaFrame_add]
    rw [hout (frameGa s d dst o) (nodeGa_outside (Nat.mod_lt _ (by decide)) hplace ho), h0, h0, hbytes, if_pos (by omega), Nat.add_sub_cancel_left]

end Sys2Proof.Machine


/-!
PROOFS. One entry of a translation walk (R54, R430): a leaf fills the cluster's buffer, a pointer leads on, and anything else raises XLAT, with a vector memory
form at the queue head gone from the queue (R164, R165).
-/
namespace Sys2Proof.Machine

/-! ### The entry read -/

theorem poisoned_clean {s : State} (h : Clean s) (ga n : Nat) : poisoned s ga n = none := by
  have : (dwords ga n).find? (fun dw => poisonAt s (8 * dw)) = none := List.find?_eq_none.2 fun dw _ => by simp [poisonAt_clean h]
  rw [poisoned, this]
  rfl

section
variable {s : State} {m va node level : Nat} {e : BitVec 128} (h : Clean s) (he : e = BitVec.ofNat 128 (Rules.number s (walkGa m va node level) 16))
include h he

theorem walkEntry_leaf (hv : fget F.lfV e = 1) (hl : fget F.lfL e = 1) (ho : leafOk s m level e = true) :
    walkEntry s m va node level = (s, .leaf e) := by
  unfold walkEntry
  dsimp only
  rw [findErrors_of_none s _ _ h.latent h.soft, poisoned_clean h, readNat_eq_number, ← he]
  simp [hv, hl, ho]

theorem walkEntry_node {n : Nat} (hv : fget F.lfV e = 1) (hl : fget F.lfL e = 0) (hp : pointerTo level e = some n) :
    walkEntry s m va node level = (s, .node n) := by
  unfold walkEntry
  dsimp only
  rw [findErrors_of_none s _ _ h.latent h.soft, poisoned_clean h, readNat_eq_number, ← he]
  simp [hv, hl, hp]

theorem walkEntry_invalid (hv : fget F.lfV e = 0) : walkEntry s m va node level = (s, .fault causeXLAT) := by
  unfold walkEntry
  dsimp only
  rw [findErrors_of_none s _ _ h.latent h.soft, poisoned_clean h, readNat_eq_number, ← he]
  simp [hv, causeXLAT]
end

/-! ### The step -/

/-- A walk that fails in t: the form at the queue head goes, and its context traps once it owns nothing in the queue; until then nothing happens. -/
def walkFailed (s : State) (g k : Nat) (va : Word) (t : State) (c : Nat) : State :=
  if ownsQueue (if atVmem t g k then movedCore t g advanceQueue else t) g k then s
  else takeTrap (wake (if atVmem t g k then movedCore t g advanceQueue else t) g k) g k c va

/-- What the walk of a context comes to with the entry read. -/
def walkOn (s : State) (g k : Nat) (va : Word) (level : Nat) (t : State) : WalkRes → State
  | .leaf e => wake (tlbInsert t (clusterOf g) (tlbEntry t (modOf g) (fget F.ten (getCtx s g k).priv) va.toNat e)) g k
  | .node n => modCtx t g k fun x => { x with mode := .waiting (.walk va (some (n, level - 1))) }
  | .fault c => walkFailed s g k va t c

section
variable {s : State} {g k : Nat} {va : Word} {next : Option (Nat × Nat)} (hm : (getCtx s g k).mode = .waiting (.walk va next))
include hm

theorem translationWalkDone_noRoot (hn : next = none) (hr : walkRoot s (modOf g) (fget F.ten (getCtx s g k).priv) = none) :
    translationWalkDone s g k = walkFailed s g k va s causeXLAT := by
  subst hn
  simp only [translationWalkDone, hm, hr, walkFailed, Option.map_none, Option.or_none]

/-- Where a walk stands: at the node that it was led to, or at the root (R51). The reader of the entry is taken as an unknown function, so that it is not
evaluated. -/
theorem translationWalkDone_entry {node level : Nat} {t : State} {r : WalkRes}
    (hn : next = some (node, level) ∨ next = none ∧ walkRoot s (modOf g) (fget F.ten (getCtx s g k).priv) = some node ∧ level = 3)
    (hw : walkEntry s (modOf g) va.toNat node level = (t, r)) :
    translationWalkDone s g k = walkOn s g k va level t r := by
  have hor : next.or ((walkRoot s (modOf g) (fget F.ten (getCtx s g k).priv)).map fun r => (r, 3)) = some (node, level) := by
    rcases hn with rfl | ⟨rfl, hr, rfl⟩
    · rfl
    · rw [hr]; rfl
  obtain ⟨read, hread⟩ : ∃ read, walkEntry = read := ⟨_, rfl⟩
  unfold translationWalkDone
  rw [hread] at hw ⊢
  cases r with
  | leaf e => simp only [hm, hor, hw, walkOn]
  | node n => simp only [hm, hor, hw, walkOn]
  | fault c => simp only [hm, hor, hw, walkOn, walkFailed]
end

/-! ### The trap of a walk that fails (R27, R165) -/

/-- A trap of a user context that runs no task enters its handler. -/
theorem takeTrap_user {s : State} {g k : Nat} (hq : ownsQueue s g k = false) (hf : k = 0 → (getCore s g).mfault = none)
    (hl : fget F.lvl (getCtx s g k).priv = 0) (ht : (getCtx s g k).task = none) {code : Nat} (hc : code < 256) (val : Word) :
    takeTrap s g k code val = modCtx s g k fun x =>
      { x with
        trapPc := x.pc.zeroExtend 64, trapCause := BitVec.ofNat 64 code, trapVal := val
        priv := fput F.lvl (fput F.plvl x.priv (fget F.lvl x.priv)) 1
        pc := BitVec.ofNat 16 (64 * fget F.tvBase (getCore s g).trapvec + 32 * code), task := none, begunSaved := false, begun := false } := by
  have hf : (if k = 0 then (getCore s g).mfault else none) = none := by
    split
    · next h0 => exact hf h0
    · rfl
  simp [takeTrap, hq, hf, enterTrap, ht, hl, trapCause_of_code hc]

/-- The queue of a context that owns at most the form at its head, which is a memory form and goes. -/
def QueueWithout (s : State) (g k : Nat) (vq : List VqEntry) : Prop :=
  (∀ e ∈ vq, e.slot ≠ k) ∧ ((getCore s g).vq = vq ∨ (getCore s g).vpos = 0 ∧
    ∃ e, (getCore s g).vq = e :: vq ∧ e.slot = k ∧ e.run = 1 ∧ e.reps = 1 ∧
      ∃ p mk d a b imm, e.ins ∈ [Instr.vld p d a imm, .vst p d a imm, .vldx p mk d a b, .vstx p mk d a b])

theorem isVmem_of_mem {i : Instr} (h : ∃ p mk d a b imm, i ∈ [Instr.vld p d a imm, .vst p d a imm, .vldx p mk d a b, .vstx p mk d a b]) :
    isVmem i = true := by
  obtain ⟨p, mk, d, a, b, imm, h⟩ := h
  simp only [List.mem_cons, List.not_mem_nil, or_false] at h
  rcases h with rfl | rfl | rfl | rfl <;> rfl

/-- Once that form has gone, the context owns nothing in the queue, and nothing else has changed. -/
theorem headGone {s : State} {g k : Nat} {vq : List VqEntry} (h : QueueWithout s g k vq) {u : State}
    (hu : u = if atVmem s g k then movedCore s g advanceQueue else s) :
    ownsQueue u g k = false ∧ (getCore u g).vq = vq ∧ getCtx u g k = getCtx s g k ∧ (getCore u g).mfault = (getCore s g).mfault ∧ u.mem = s.mem := by
  obtain ⟨hfree, hq | ⟨hpos, e, hq, hslot, hrun, hreps, hins⟩⟩ := h
  · have hat : atVmem s g k = false := by
      unfold atVmem
      rw [hq]
      cases vq with
      | nil => rfl
      | cons e vq => simp [hfree e List.mem_cons_self]
    rw [hat, if_neg Bool.false_ne_true] at hu
    subst hu
    exact ⟨by rw [ownsQueue, hq]; simpa using hfree, hq, rfl, rfl, rfl⟩
  · have hat : atVmem s g k = true := by simp [atVmem, hq, hslot, isVmem_of_mem hins]
    rw [hat, if_pos rfl] at hu
    have hmove : queueMove (getCore s g).vq (getCore s g).vpos = (vq, 0) := by simp [queueMove, hq, hpos, hrun, hreps]
    have hcore : getCore u g = { advanceQueue (getCore s g) with vq := vq } := by
      rw [hu]
      show getCore (modCore s g advanceQueue) g = _
      rw [getCore_modCore_self, advanceQueue, hmove]
    have hv : (getCore u g).vq = vq := by rw [hcore]
    refine ⟨by rw [ownsQueue, hv]; simpa using hfree, hv, ?_, by rw [hcore]; rfl, by rw [hu]; rfl⟩
    rw [getCtx, hcore]
    rfl

/-- A walk that fails raises XLAT with its address, and the context is READY at its handler. -/
theorem walkFailed_traps {s : State} {g k : Nat} (va : Word) {vq : List VqEntry} (h : QueueWithout s g k vq)
    (hf : k = 0 → (getCore s g).mfault = none) (hl : fget F.lvl (getCtx s g k).priv = 0) (ht : (getCtx s g k).task = none) :
    (walkFailed s g k va s causeXLAT).mem = s.mem ∧ (getCtx (walkFailed s g k va s causeXLAT) g k).trapCause = 0x06 ∧
      (getCtx (walkFailed s g k va s causeXLAT) g k).trapVal = va ∧ (getCore (walkFailed s g k va s causeXLAT) g).vq = vq ∧
      (getCtx (walkFailed s g k va s causeXLAT) g k).mode ∈ [Mode.ready, .running] := by
  obtain ⟨hq, hv, hc, hmf, hm⟩ := headGone h rfl
  unfold walkFailed
  generalize (if atVmem s g k then movedCore s g advanceQueue else s) = u at *
  have hctx : getCtx (wake u g k) g k = { getCtx s g k with mode := .ready } := by rw [wake, getCtx_modCtx_self, hc]
  have hcore : getCore (wake u g k) g = { getCore u g with ctx := (getCore (wake u g k) g).ctx } := by rw [wake, getCore_modCtx, if_pos rfl]
  have hqw : ownsQueue (wake u g k) g k = false := by rw [ownsQueue, hcore]; exact hq
  rw [hq, if_neg Bool.false_ne_true, takeTrap_user hqw (fun h0 => by rw [hcore]; exact hmf.trans (hf h0)) (by rw [hctx]; exact hl) (by rw [hctx]; exact ht)
    (by decide)]
  refine ⟨by simpa [wake] using hm, ?_, ?_, ?_, ?_⟩
  · rw [getCtx_modCtx_self]; rfl
  · rw [getCtx_modCtx_self]
  · rw [getCore_modCtx, if_pos rfl, hcore]
    exact hv
  · rw [getCtx_modCtx_self, hctx]
    exact List.mem_cons_self

/-- A step of a walk that fails is such a trap. -/
theorem traps_of_walkFailed {s : State} {g k : Nat} {va : Word} (hg : g = s.argA) (hk : k = s.argB)
    (h : translationWalkDone s g k = walkFailed s g k va s causeXLAT) (vq : List VqEntry) (hfree : ∀ e ∈ vq, e.slot ≠ k)
    (hq : (getCore s g).vq = vq ∨ (getCore s g).vpos = 0 ∧ ∃ e, (getCore s g).vq = e :: vq ∧ e.slot = k ∧ e.run = 1 ∧ e.reps = 1 ∧
      ∃ p mk d a b imm, e.ins ∈ [Instr.vld p d a imm, .vst p d a imm, .vldx p mk d a b, .vstx p mk d a b])
    (hf : k = 0 → (getCore s g).mfault = none) (hl : fget F.lvl (getCtx s g k).priv = 0) (ht : (getCtx s g k).task = none) :
    ∃ t, exec .translationWalkDone s = .next t ∧ t.mem = s.mem ∧ (getCtx t g k).trapCause = 0x06 ∧ (getCtx t g k).trapVal = va ∧
      (getCore t g).vq = vq ∧ (getCtx t g k).mode ∈ [Mode.ready, .running] :=
  ⟨walkFailed s g k va s causeXLAT, by rw [← h, hg, hk]; rfl, walkFailed_traps va ⟨hfree, hq⟩ hf hl ht⟩

/-! ### The step's outcomes -/

section
variable {s : State} {g k node level ten : Nat} {va : Word} {next : Option (Nat × Nat)} {e : BitVec 128} (hg : g = s.argA) (hk : k = s.argB)
  (hm : (getCtx s g k).mode = .waiting (.walk va next)) (ht : ten = fget F.ten (getCtx s g k).priv)
  (hn : next = some (node, level) ∨ next = none ∧ walkRoot s (modOf g) ten = some node ∧ level = 3) (hs : Clean s)
  (he : e = BitVec.ofNat 128 (Rules.number s (walkGa (modOf g) va.toNat node level) 16))
include hg hk hm ht hn hs he

/-- A leaf fills the cluster's buffer, and the context is READY to go on (R54). -/
theorem walk_leaf {size : Nat} (hv : fget F.lfV e = 1) (hl : fget F.lfL e = 1) (ho : leafOk s (modOf g) level e = true)
    (hsize : size = pageSize (fget F.lfSz e)) (hroom : (getCluster s (clusterOf g)).tlb.length < 1024) :
    ∃ t, exec .translationWalkDone s = .next t ∧ t.mem = s.mem ∧ (getCtx t g k).mode ∈ [Mode.ready, .running] ∧
      (getCtx t g k).pc = (getCtx s g k).pc ∧
      (getCluster t (clusterOf g)).tlb = (getCluster s (clusterOf g)).tlb ++
        [{ tenant := ten, base := va.toNat / size * size, size := size, leaf := e
           peers := if fget F.lfSt e = 1 then stripePeers s (modOf g) (fget F.lfHome e) else [] }] := by
  have hstep := translationWalkDone_entry hm (ht ▸ hn) (walkEntry_leaf hs he hv hl ho)
  rw [walkOn, ← ht] at hstep
  have hins : tlbInsert s (clusterOf g) (tlbEntry s (modOf g) ten va.toNat e) =
      modCluster s (clusterOf g) fun x => { x with tlb := (getCluster s (clusterOf g)).tlb ++ [tlbEntry s (modOf g) ten va.toNat e] } := if_pos hroom
  refine ⟨translationWalkDone s g k, by rw [hg, hk]; rfl, ?_⟩
  rw [hstep, hins, wake, getCtx_modCtx_self, hsize]
  exact ⟨rfl, List.mem_cons_self, rfl, by simp [tlbEntry]⟩

/-- A pointer leads to the next node (R51, R53). -/
theorem walk_pointer {n : Nat} (hv : fget F.lfV e = 1) (hl : fget F.lfL e = 0) (hp : pointerTo level e = some n) :
    ∃ t, exec .translationWalkDone s = .next t ∧ t = { s with cores := t.cores } ∧ (∀ h, h ≠ g → getCore t h = getCore s h) ∧
      getCtx t g k = { getCtx s g k with mode := .waiting (.walk va (some (n, level - 1))) } := by
  have hstep := translationWalkDone_entry hm (ht ▸ hn) (walkEntry_node hs he hv hl hp)
  rw [walkOn] at hstep
  refine ⟨translationWalkDone s g k, by rw [hg, hk]; rfl, ?_⟩
  rw [hstep]
  exact ⟨rfl, fun h hh => by rw [getCore_modCtx, if_neg hh], getCtx_modCtx_self ..⟩

omit hg hk in
/-- An entry that is not valid ends the walk (R54). -/
theorem walk_invalid (hv : fget F.lfV e = 0) : translationWalkDone s g k = walkFailed s g k va s causeXLAT :=
  translationWalkDone_entry hm (ht ▸ hn) (walkEntry_invalid hs he hv)
end

end Sys2Proof.Machine


/-!
PROOFS. Space for the pages of a stream (R58, R227, R282): which frame and entry the hardware takes, and the entry of a leaf that names it.
-/
namespace Sys2Proof.Machine

/-! ### The hardware's choice -/

/-- Nothing but the free values differs. -/
def OnlyDraws (s t : State) : Prop := t = { s with oracle := t.oracle, draws := t.draws }

theorem draw_onlyDraws (s : State) : OnlyDraws s (draw s).2 := by
  unfold draw
  split <;> rfl

theorem OnlyDraws.trans {s t u : State} (h : OnlyDraws s t) (h' : OnlyDraws t u) : OnlyDraws s u := by
  unfold OnlyDraws at *
  rw [h', h]

theorem OnlyDraws.getDie {s t : State} (h : OnlyDraws s t) (d : Nat) : getDie t d = getDie s d := by
  rw [h]
  rfl

/-- A number that passes the test is picked wherever there is one. -/
theorem pick_of_mem {s : State} {n x : Nat} {p : Nat → Bool} (hx : x < n) (hp : p x = true) :
    ∃ v t, pick s n p = some (v, t) ∧ v < n ∧ p v = true ∧ OnlyDraws s t := by
  have hn : 0 < n := by omega
  have hd := draw_onlyDraws s
  unfold pick
  generalize draw s = r at hd
  obtain ⟨v, t⟩ := r
  dsimp only
  cases hf : (upFrom 0 n).find? fun i => p ((v + i) % n) with
  | some i => exact ⟨_, _, rfl, Nat.mod_lt _ hn, List.find?_some (p := fun i => p ((v + i) % n)) hf, hd⟩
  | none =>
    have hlt : v % n < n := Nat.mod_lt _ hn
    have hall := List.find?_eq_none.1 hf ((n - v % n + x) % n) ((mem_upFrom _ _ _).2 ⟨Nat.zero_le _, by have := Nat.mod_lt (n - v % n + x) hn; omega⟩)
    have hmod : (v + (n - v % n + x) % n) % n = x := by
      rw [Nat.add_mod_mod, Nat.add_mod, Nat.add_mod_mod]
      have : v % n + (n - v % n + x) = n + x := by omega
      rw [this, Nat.add_mod_left, Nat.mod_eq_of_lt hx]
    rw [hmod] at hall
    exact absurd hp hall

/-! ### Room for a data frame (R282, R287) -/

theorem room_ok {x : Die} {d : Nat} (h : room x d 1 0 = .ok) :
    (∃ f, f < 65536 ∧ freeFid x f = true) ∧ ∃ p, p < poolFrames ∧ zeroedFrame x p = true := by
  have hmem (n : Nat) (q : Nat → Bool) (hlen : 0 < ((upFrom 0 n).filter q).length) : ∃ f, f < n ∧ q f = true := by
    obtain ⟨f, hf⟩ := List.exists_mem_of_length_pos hlen
    obtain ⟨hf, hq⟩ := List.mem_filter.1 hf
    exact ⟨f, by have := (mem_upFrom _ _ _).1 hf; omega, hq⟩
  have hneed : 1 ≤ framesFor x 1 0 := by unfold framesFor; omega
  unfold room at h
  dsimp only at h
  split at h
  · cases h
  · next hfid =>
    split at h
    · next hz => exact ⟨hmem _ _ (by omega), hmem _ _ (by omega)⟩
    · split at h
      · cases h
      · split at h <;> cases h

/-- The entry of a data frame in SRAM that has been taken. -/
def takenEntry (place cnt busy : Nat) : Word := fput F.frBusy (fput F.frPlace (fput F.frKind (fput F.frCnt (0 : Word) cnt) 1) place) busy

theorem takenEntry_fields {place cnt busy : Nat} (hp : place < poolFrames) (hc : cnt < 2) (hb : busy < 2) :
    fget F.frKind (takenEntry place cnt busy) = 1 ∧ fget F.frCnt (takenEntry place cnt busy) = cnt ∧
      fget F.frPlace (takenEntry place cnt busy) = place ∧ fget F.frBusy (takenEntry place cnt busy) = busy := by
  have hp : place < 2 ^ 32 := lt_trans hp (by decide)
  unfold takenEntry
  refine ⟨?_, ?_, ?_, ?_⟩
  · rw [fget_fput_of_disjoint (by decide) (by decide), fget_fput_of_disjoint (by decide) (by decide), fget_fput (by decide)]
    rfl
  · rw [fget_fput_of_disjoint (by decide) (by decide), fget_fput_of_disjoint (by decide) (by decide),
      fget_fput_of_disjoint (by decide) (by decide), fget_fput (by decide)]
    exact Nat.mod_eq_of_lt (lt_trans hc (by decide))
  · rw [fget_fput_of_disjoint (by decide) (by decide), fget_fput (by decide)]
    exact Nat.mod_eq_of_lt hp
  · rw [fget_fput (by decide)]
    exact Nat.mod_eq_of_lt hb

/-- A zeroed frame of the pool and a free entry that have been taken, and nothing else but the free values. -/
structure Taken (s t : State) (d cnt busy f place : Nat) : Prop where
  free : freeFid (getDie s d) f = true
  zeroed : zeroedFrame (getDie s d) place = true
  inPool : place < poolFrames
  inTable : f < 65536
  state : ∃ u, OnlyDraws s u ∧ t = setFrame u d f (takenEntry place cnt busy)

theorem takeData_of_room {s : State} {d : Nat} (h : room (getDie s d) d 1 0 = .ok) (cnt busy : Nat) :
    ∃ f place t, takeData s d cnt busy = some (f, t) ∧ Taken s t d cnt busy f place := by
  obtain ⟨⟨f0, hf0, hff⟩, p0, hp0, hpz⟩ := room_ok h
  obtain ⟨place, u, hpick, hpl, hz, hu⟩ := pick_of_mem (s := s) hp0 hpz
  obtain ⟨f, v, hpick2, hfl, hfree, hv⟩ := pick_of_mem (s := u) (p := freeFid (getDie u d)) hf0 (by rw [hu.getDie]; exact hff)
  rw [hu.getDie] at hfree
  refine ⟨f, place, setFrame v d f (takenEntry place cnt busy), ?_, hfree, hz, hpl, hfl, v, hu.trans hv, rfl⟩
  rw [takeData, hpick, Option.bind_some, takeFid, hpick2]
  rfl

section
variable {s t : State} {d cnt busy f place : Nat} (h : Taken s t d cnt busy f place)
include h

theorem Taken.rest : t = { s with dies := t.dies, oracle := t.oracle, draws := t.draws } := by
  obtain ⟨u, hu, rfl⟩ := h.state
  rw [hu]
  rfl

theorem Taken.getFrame (j : Nat) : getFrame t d j = if j = f then takenEntry place cnt busy else getFrame s d j := by
  obtain ⟨u, hu, rfl⟩ := h.state
  rw [getFrame_setFrame, Machine.getFrame, hu.getDie, ← Machine.getFrame]

theorem Taken.frGet_of_ne {j : Nat} (hj : j ≠ f) (g : Fld) : frGet t d j g = frGet s d j g := by
  rw [frGet, h.getFrame, if_neg hj, frGet]

theorem Taken.ne_of_used {j : Nat} (hj : freeFid (getDie s d) j = false) : j ≠ f := fun he => by
  have := h.free
  rw [← he, hj] at this
  cases this

/-- Frame tables apart, every die stays as it is. -/
theorem Taken.getDie (e : Nat) : getDie t e = { getDie s e with frames := (getDie t e).frames } := by
  obtain ⟨u, hu, rfl⟩ := h.state
  rw [setFrame, getDie_modDie]
  split
  · next he => subst he; rw [hu.getDie]
  · rw [hu.getDie]
end

/-! ### The entry of a leaf (R59) -/

/-- No doubleword has an error. -/
structure Faultless (s : State) : Prop where
  poison : s.poison = []
  latent : s.latent = []
  soft : s.soft = []

theorem OnlyBytes.faultless {s t : State} (h : OnlyBytes s t) (hs : Faultless s) : Faultless t := by
  rw [h]
  exact ⟨hs.poison, hs.latent, hs.soft⟩

/-- A doubleword written whole: at most a poison bit of a save area is cleared. -/
theorem overwritten_onlyBytes {s : State} (hs : Faultless s) (dw : Nat) : OnlyBytes s (overwritten s dw) := by
  have hp : OnlyBytes s (setPoison s (8 * dw) false) := by
    unfold setPoison
    split
    · exact writeByte_onlyBytes _ _ _ _
    · simp [OnlyBytes, hs.poison, sdel]
  have ht := hp.faultless hs
  have hl : sdel dw (setPoison s (8 * dw) false).latent = (setPoison s (8 * dw) false).latent := by rw [ht.latent]; rfl
  have hf : sdel dw (setPoison s (8 * dw) false).soft = (setPoison s (8 * dw) false).soft := by rw [ht.soft]; rfl
  simp only [overwritten, hl, hf]
  exact hp

/-- Poison bits of a save area lie above the bytes that they are for (R395). -/
theorem readByte_overwritten_below {s : State} {dw x : Nat} (hx : x < 8 * dw + 16) : readByte (overwritten s dw) 0 x = readByte s 0 x := by
  have hb : readByte (overwritten s dw) 0 x = readByte (setPoison s (8 * dw) false) 0 x := readByte_of_mem rfl rfl 0 x
  rw [hb]
  unfold setPoison
  cases ha : areaOf s (8 * dw) with
  | none => exact readByte_of_mem rfl rfl 0 x
  | some v =>
    have hv := List.find?_some ha
    simp only [Bool.and_eq_true, decide_eq_true_eq] at hv
    exact readByte_writeByte_far _ _ _ _ _ _ (by omega)

theorem foldl_overwritten {s : State} (hs : Faultless s) (l : List Nat) :
    OnlyBytes s (l.foldl overwritten s) ∧ ∀ x, (∀ dw ∈ l, x < 8 * dw + 16) → readByte (l.foldl overwritten s) 0 x = readByte s 0 x := by
  induction l generalizing s with
  | nil => exact ⟨rfl, fun _ _ => rfl⟩
  | cons dw l ih =>
    have ho := overwritten_onlyBytes hs dw
    obtain ⟨h1, h2⟩ := ih (ho.faultless hs)
    exact ⟨ho.trans h1, fun x hx => (h2 x fun e he => hx e (List.mem_cons_of_mem _ he)).trans (readByte_overwritten_below (hx dw List.mem_cons_self))⟩

/-- Up to 16 bytes written read back, also where a launch is saved away. -/
theorem writeBytes_faultless {s : State} (hs : Faultless s) {ga : Nat} {bs : List Byte} (hb : bs.length ≤ 16) :
    OnlyBytes s (writeBytes s 0 ga bs) ∧ readBytes (writeBytes s 0 ga bs) 0 ga bs.length = bs := by
  have h1 := foldl_writeByte_onlyBytes (cellsAt ga bs) s
  obtain ⟨h2, hread⟩ := foldl_overwritten (h1.faultless hs) (upFrom ((ga + 7) / 8) ((ga + bs.length) / 8 - (ga + 7) / 8))
  refine ⟨h1.trans h2, List.ext_getElem (readBytes_length _ _ _ _) fun i _ hi => ?_⟩
  rw [← List.getD_eq_getElem _ 0, ← List.getD_eq_getElem _ 0, readBytes_getD _ _ _ _ _ hi]
  refine (hread (ga + i) fun dw hdw => by have := (mem_upFrom _ _ _).1 hdw; omega).trans ?_
  rw [readByte_foldl_writeByte, if_pos (by omega), Nat.add_sub_cancel_left]

theorem setNodeEntry_faultless {s : State} (hs : Faultless s) (d node i : Nat) (e : Word) :
    OnlyBytes s (setNodeEntry s d node i e) ∧ nodeEntry (setNodeEntry s d node i e) d node i = e := by
  obtain ⟨h1, h2⟩ := writeBytes_faultless hs (ga := nodeGa s d node i) (bs := leBytes e.toNat 8) (by rw [leBytes_length]; decide)
  have hg : nodeGa (setNodeEntry s d node i e) d node i = nodeGa s d node i := by
    rw [nodeGa, frGet, getFrame, OnlyBytes.getDie (t := setNodeEntry s d node i e) h1]
    rfl
  refine ⟨h1, ?_⟩
  rw [leBytes_length] at h2
  rw [nodeEntry, hg, setNodeEntry, writeNat, readNat, h2, leNat_leBytes, Nat.mod_eq_of_lt (show e.toNat < 256 ^ 8 from e.isLt), BitVec.ofNat_toNat,
    BitVec.setWidth_eq]

end Sys2Proof.Machine


/-!
PROOFS. Pages of the state window (R55, R227, R286): what an append, a copy and a fetch-back begin with, on nodes that are not shared and without errors.
-/
namespace Sys2Proof.Machine

/-! ### The path of a page (R55, R59) -/

section
variable {s : State} (hs : Faultless s) (hu : s.ue = [])
include hs hu

theorem mendPath_of_none (d i p : Nat) : mendPath s d i p = s := by
  obtain ⟨w, hw⟩ : ∃ w, pathOf s d i p = w := ⟨_, rfl⟩
  have hf (l : List Nat) : l.foldl (fun s f => mendFrame s w.die f) s = s := foldl_same (fun f => mendFrame_of_none hu w.die f) l
  have he (a n : Nat) : findErrors s a n = s := findErrors_of_none s a n hs.latent hs.soft
  simp only [mendPath, hw, hf, he]
  cases w.leaf <;> rfl

theorem pathError_of_none (w : PagePath) (p : Nat) : pathError s w p = none := by
  simp only [pathError, badFrame_of_none hu, badEntry_of_none hu hs.latent hs.poison, Bool.false_eq_true, if_false]
  cases w.leaf with
  | none => rfl
  | some l => cases w.frame <;> rfl
end

/-- Root and leaf of a path belong to its stream alone. -/
structure OwnNodes (s : State) (w : PagePath) : Prop where
  root : frGet s w.die w.root F.frCnt ≤ 1
  leaf : ∀ l, w.leaf = some l → frGet s w.die l F.frCnt ≤ 1

section
variable {s : State} {w : PagePath} (h : OwnNodes s w)
include h

theorem OwnNodes.sharedRoot : sharedRoot s w = false := decide_eq_false (not_lt.2 h.root)

theorem OwnNodes.sharedLeaf : sharedLeaf s w = false := by
  cases hl : w.leaf with
  | none => simp [Machine.sharedLeaf, hl]
  | some l => simpa [Machine.sharedLeaf, hl, h.sharedRoot] using h.leaf l hl

theorem OwnNodes.nodeCopies : nodeCopies s w = 0 := by rw [Machine.nodeCopies, h.sharedRoot, h.sharedLeaf]; rfl

theorem OwnNodes.countsFit : countsFit s w = true := by
  rw [Machine.countsFit, h.sharedRoot, h.sharedLeaf]
  cases w.leaf <;> rfl

theorem OwnNodes.sharedFrame {f : Nat} (hf : w.frame = some f) : sharedFrame s w = decide (1 < frGet s w.die f F.frCnt) := by
  simp [Machine.sharedFrame, hf, h.sharedLeaf]

/-- Nodes that are not shared are not copied. -/
theorem OwnNodes.ownNodes (d i p : Nat) : ownNodes s d i p w = some (w, s) := by
  have hr : ownRoot s d i w = some (w, s) := by rw [ownRoot, h.sharedRoot, if_neg Bool.false_ne_true]
  rw [Machine.ownNodes, hr, Option.bind_some]
  cases hl : w.leaf with
  | none => simp only [ownLeaf, hl]
  | some l => simp only [ownLeaf, hl, if_neg (not_lt.2 (h.leaf l hl))]
end

/-! ### The append (R227) -/

/-- The leaf entry of a page that is appended. -/
def pageEntry (die mark f : Nat) : Word := fput F.teFid (fput F.teDie (fput F.teProv (fput F.teV (0 : Word) 1) mark) die) f

theorem pageEntry_fields {die mark f : Nat} (hm : mark < 2) (hf : f < 65536) :
    fget F.teV (pageEntry die mark f) = 1 ∧ fget F.teFid (pageEntry die mark f) = f ∧ fget F.teProv (pageEntry die mark f) = mark := by
  unfold pageEntry
  refine ⟨?_, ?_, ?_⟩
  · rw [fget_fput_of_disjoint (by decide) (by decide), fget_fput_of_disjoint (by decide) (by decide),
      fget_fput_of_disjoint (by decide) (by decide), fget_fput (by decide)]
    rfl
  · rw [fget_fput (by decide)]
    exact Nat.mod_eq_of_lt hf
  · rw [fget_fput_of_disjoint (by decide) (by decide), fget_fput_of_disjoint (by decide) (by decide), fget_fput (by decide)]
    exact Nat.mod_eq_of_lt hm

/-- What an append leaves: frame f at a zeroed place, its entry in leaf l, and NPG one higher. -/
structure Appended (s t : State) (d i p die l f place : Nat) : Prop where
  free : freeFid (getDie s die) f = true
  zeroed : zeroedFrame (getDie s die) place = true
  inPool : place < poolFrames
  inTable : f < 65536
  rest : t = { s with dies := t.dies, mem := t.mem, memKey := t.memKey, oracle := t.oracle, draws := t.draws }
  scb : getScb t d i = fput F.scNpg (getScb s d i) (p + 1)
  work : ∀ e, (getDie t e).work = (getDie s e).work
  frame : getFrame t die f = takenEntry place 1 0
  entry : nodeEntry t die l (p % 64) = pageEntry (die % 16) (scbGet s d i F.scMarkV) f

theorem getScb_scbPut (s : State) (d i : Nat) (f : Fld) (v : Nat) : getScb (scbPut s d i f v) d i = fput f (getScb s d i) v := by
  simp [getScb, scbPut, setScb]

theorem getDie_scbPut (s : State) (d i : Nat) (f : Fld) (v e : Nat) :
    getDie (scbPut s d i f v) e = { getDie s e with scb := (getDie (scbPut s d i f v) e).scb } := by
  rw [scbPut, setScb, getDie_modDie]
  split
  · next he => subst he; rfl
  · rfl

theorem appendPage_done {s : State} (hs : Faultless s) (hu : s.ue = []) {d i p l : Nat} {w : PagePath} (hw : w = pathOf s d i p) (hn : OwnNodes s w)
    (hl : w.leaf = some l) (hroom : room (getDie s w.die) w.die 1 0 = .ok) (off : Nat) :
    ∃ f place t, appendPage s d i p off = .at t (frameGa t w.die f off) ∧ Appended s t d i p w.die l f place := by
  obtain ⟨f, place, u, htake, ht⟩ := takeData_of_room hroom 1 0
  have huf : Faultless u := by rw [ht.rest]; exact ⟨hs.poison, hs.latent, hs.soft⟩
  have hscb (e j : Nat) : getScb u e j = getScb s e j := by rw [getScb, ht.getDie]; rfl
  obtain ⟨hv, hentry⟩ := setNodeEntry_faultless huf w.die l (p % 64) (pageEntry (w.die % 16) (scbGet s d i F.scMarkV) f)
  obtain ⟨v, hve⟩ : ∃ v, v = setNodeEntry u w.die l (p % 64) (pageEntry (w.die % 16) (scbGet s d i F.scMarkV) f) := ⟨_, rfl⟩
  rw [← hve] at hv hentry
  have hmark : scbGet u d i F.scMarkV = scbGet s d i F.scMarkV := by rw [scbGet, hscb, ← scbGet]
  have hvscb : getScb v d i = getScb s d i := by rw [getScb, hv.getDie, ← getScb, hscb]
  have hframes (e : Nat) : (getDie (scbPut v d i F.scNpg (p + 1)) e).frames = (getDie u e).frames := by rw [getDie_scbPut, ← hv.getDie]
  refine ⟨f, place, scbPut v d i F.scNpg (p + 1), ?_, ht.free, ht.zeroed, ht.inPool, ht.inTable, ?_, ?_, fun e => ?_, ?_, ?_⟩
  · unfold appendPage
    rw [mendPath_of_none hs hu]
    dsimp only
    rw [← hw, pathError_of_none hs hu]
    dsimp only
    have hve : setNodeEntry u w.die l (p % 64)
      (fput F.teFid (fput F.teDie (fput F.teProv (fput F.teV (0 : Word) 1) (scbGet s d i F.scMarkV)) (w.die % 16)) f) = v := hve.symm
    simp only [hn.countsFit, hn.nodeCopies, hn.ownNodes, hl, Bool.not_true, Bool.false_eq_true, if_false, Option.isNone_some, Bool.toNat_false, hroom,
      Option.bind_some, htake, Option.map_some, hmark, hve]
  · rw [scbPut, setScb, modDie, hv, ht.rest]
  · rw [getScb_scbPut, hvscb]
  · rw [getDie_scbPut, hv.getDie, ht.getDie]
  · rw [getFrame, hframes, ← getFrame, ht.getFrame, if_pos rfl]
  · have hp : frGet (scbPut v d i F.scNpg (p + 1)) w.die l F.frPlace = frGet v w.die l F.frPlace := by
      rw [frGet, frGet, getFrame, getFrame, hframes, hv.getDie]
    exact (nodeEntry_congr (s := v) (t := scbPut v d i F.scNpg (p + 1)) rfl rfl hp _).trans hentry

end Sys2Proof.Machine


/-!
PROOFS. Copies and fetch-backs that an access of the state window begins (R55, R227, R286), and what the window makes of its address.
-/
namespace Sys2Proof.Machine

/-! ### What begins (R227, R286) -/

/-- Dies and free values apart, nothing differs. -/
def OnlyDies (s t : State) : Prop := t = { s with dies := t.dies, oracle := t.oracle, draws := t.draws }

theorem OnlyDies.trans {s t u : State} (h : OnlyDies s t) (h' : OnlyDies t u) : OnlyDies s u := by
  unfold OnlyDies at *
  rw [h', h]

theorem OnlyDraws.onlyDies {s t : State} (h : OnlyDraws s t) : OnlyDies s t := by
  unfold OnlyDraws at h
  rw [h]
  rfl

theorem modDie_onlyDies (s : State) (d : Nat) (F : Die → Die) : OnlyDies s (modDie s d F) := rfl
theorem frPut_onlyDies (s : State) (d fid : Nat) (f : Fld) (v : Nat) : OnlyDies s (frPut s d fid f v) := rfl
theorem scbPut_onlyDies (s : State) (d i : Nat) (f : Fld) (v : Nat) : OnlyDies s (scbPut s d i f v) := rfl

/-- What a die has more once a copy, or a fetch-back, is under way. -/
def copyBegun (now src dst i p : Nat) (x : Die) : Die := { x with work := x.work ++ [.copy src dst i p], age := tset 0 x.age src (now / 1024) }
def fetchBegun (fid place : Nat) (x : Die) : Die := { x with work := x.work ++ [.fetch fid place] }

theorem frGet_modDie {s : State} {d : Nat} {F : Die → Die} (h : ∀ x, (F x).frames = x.frames) (j : Nat) (g : Fld) :
    frGet (modDie s d F) d j g = frGet s d j g := by rw [frGet, getFrame_modDie _ _ _ _ h, ← frGet]

theorem getScb_frPut (s : State) (d fid : Nat) (f : Fld) (v e j : Nat) : getScb (frPut s d fid f v) e j = getScb s e j := by
  rw [getScb, frPut, setFrame, getDie_modDie]
  split
  · next he => subst he; rfl
  · rfl

theorem getScb_modDie {s : State} {d : Nat} {F : Die → Die} (h : ∀ x, (F x).scb = x.scb) (e j : Nat) : getScb (modDie s d F) e j = getScb s e j := by
  rw [getScb, getDie_modDie]
  split
  · next he => subst he; rw [h, ← getScb]
  · rfl

section
variable {s : State} {d : Nat} (hroom : room (getDie s d) d 1 0 = .ok)
include hroom

theorem beginCopy_done (i p src : Nat) (hsrc : freeFid (getDie s d) src = false) :
    ∃ r t, beginCopy s d i p src = some t ∧ OnlyDies s t ∧ freeFid (getDie s d) r = true ∧
      (getDie t d).work = (getDie s d).work ++ [.copy src r i p] ∧ frGet t d src F.frBusy = 1 ∧ frGet t d r F.frBusy = 1 ∧
      ∀ e j, getScb t e j = getScb s e j := by
  obtain ⟨r, place, u, htake, ht⟩ := takeData_of_room hroom 0 1
  have hr : frGet u d r F.frBusy = 1 := by rw [frGet, ht.getFrame, if_pos rfl]; exact (takenEntry_fields ht.inPool (by decide) (by decide)).2.2.2
  have hfr (j : Nat) (g : Fld) : frGet (modDie (frPut u d src F.frBusy 1) d (copyBegun s.now src r i p)) d j g = frGet (frPut u d src F.frBusy 1) d j g :=
    frGet_modDie (F := copyBegun s.now src r i p) (fun _ => rfl) j g
  refine ⟨r, modDie (frPut u d src F.frBusy 1) d (copyBegun s.now src r i p), by rw [beginCopy, htake]; rfl, ?_, ht.free, ?_, ?_, ?_, fun e j => ?_⟩
  · exact (show OnlyDies s u from ht.rest).trans ((frPut_onlyDies u d src F.frBusy 1).trans (modDie_onlyDies _ _ _))
  · rw [getDie_modDie_self, copyBegun, getDie_frPut, ht.getDie]
  · rw [hfr, frGet_frPut_same _ _ _ _ _ (by decide)]
    rfl
  · rw [hfr, frGet_frPut_of_ne _ _ _ _ _ _ _ (ht.ne_of_used hsrc).symm, hr]
  · rw [getScb_modDie (F := copyBegun s.now src r i p) fun _ => rfl, getScb_frPut, getScb, ht.getDie, ← getScb]

theorem fetchFor_done (i fid : Nat) :
    ∃ place t, fetchFor s d i fid = .wait t (.frame d fid) ∧ OnlyDies s t ∧ zeroedFrame (getDie s d) place = true ∧
      (getDie t d).work = (getDie s d).work ++ [.fetch fid place] ∧ frGet t d fid F.frBusy = 1 := by
  obtain ⟨-, p0, hp0, hpz⟩ := room_ok hroom
  obtain ⟨place, u, hpick, -, hz, hu⟩ := pick_of_mem (s := s) hp0 hpz
  obtain ⟨v, hv⟩ : ∃ v, v = modDie (frPut u d fid F.frBusy 1) d (fetchBegun fid place) := ⟨_, rfl⟩
  have hb : beginFetch s d i fid = some (scbPut v d i F.scFetches (scbGet v d i F.scFetches + 1)) := by
    rw [hv, beginFetch, hpick]
    rfl
  have hvb : frGet v d fid F.frBusy = 1 := by
    rw [hv, frGet_modDie (F := fetchBegun fid place) fun _ => rfl, frGet_frPut_same _ _ _ _ _ (by decide)]
    rfl
  refine ⟨place, scbPut v d i F.scFetches (scbGet v d i F.scFetches + 1), by simp only [fetchFor, hroom, hb], ?_, hz, ?_, ?_⟩
  · rw [hv]
    exact hu.onlyDies.trans ((frPut_onlyDies u d fid F.frBusy 1).trans ((modDie_onlyDies _ _ _).trans (scbPut_onlyDies _ _ _ _ _)))
  · rw [getDie_scbPut, hv, getDie_modDie_self, fetchBegun, getDie_frPut, hu.getDie]
  · rw [frGet, getFrame, getDie_scbPut]
    exact hvb
end

section
variable {s : State} (hs : Faultless s) (hu : s.ue = []) {d i p f : Nat} {w : PagePath} (hw : w = pathOf s d i p) (hf : w.frame = some f)
  (hb : frameBusy s w.die f = false)
include hs hu hw hf hb

/-- A write of a page that is shared begins a copy (R227). -/
theorem privatePage_copies (hn : OwnNodes s w) (hc : 1 < frGet s w.die f F.frCnt) (hroom : room (getDie s w.die) w.die 1 0 = .ok) {t : State}
    (ht : beginCopy s w.die i p f = some t) (off : Nat) : privatePage s d i p off = .wait t (.frame w.die f) := by
  have hc : sharedFrame s w = true := by rw [hn.sharedFrame hf]; exact decide_eq_true hc
  unfold privatePage
  rw [mendPath_of_none hs hu]
  dsimp only
  rw [← hw, pathError_of_none hs hu]
  simp only [hf, hb, hc, hn.countsFit, hn.nodeCopies, hn.ownNodes, hroom, ht, Bool.not_true, Bool.false_eq_true, if_false, Option.bind_some]

/-- A write of a page that is the stream's alone fetches it back where it has been evicted (R286). -/
theorem privatePage_fetches (hn : OwnNodes s w) (hc : frGet s w.die f F.frCnt ≤ 1) (hl : frGet s w.die f F.frLoc = 1) (off : Nat) :
    privatePage s d i p off = fetchFor s w.die i f := by
  have hc : sharedFrame s w = false := by rw [hn.sharedFrame hf]; exact decide_eq_false (not_lt.2 hc)
  unfold privatePage
  rw [mendPath_of_none hs hu]
  dsimp only
  rw [← hw, pathError_of_none hs hu]
  simp only [hf, hb, hc, hl, Bool.not_false, Bool.false_eq_true, if_false, if_true]

/-- A read of a page fetches it back where it has been evicted (R286). -/
theorem readPage_fetches (hl : frGet s w.die f F.frLoc = 1) (off : Nat) : readPage s d i p off = fetchFor s w.die i f := by
  unfold readPage
  rw [mendPath_of_none hs hu]
  dsimp only
  rw [← hw, pathError_of_none hs hu]
  simp only [hf, hb, hl, Bool.false_eq_true, if_false, if_true]
end

/-! ### The state window (R55) -/

section
variable {s : State} {va : Word} {p d i : Nat} {blk : BitVec 2048} (hw : Rules.Window s va p d i blk)
include hw

theorem Window.faultless : Faultless s := ⟨hw.sound.2.1, hw.sound.2.2.1, hw.sound.2.2.2⟩
theorem Window.ue : s.ue = [] := hw.sound.1

omit hw in
/-- The accessor, as the check of the window sees it. -/
theorem Usable.who (hu : Rules.Usable s blk) : (whoOf s s.cur (slotOf s)).strm = (me s).strm ∧ (whoOf s s.cur (slotOf s)).migrant = false := by
  refine ⟨rfl, ?_⟩
  cases hk : (getCtx s s.cur (slotOf s)).kind with
  | migrant o k im q => exact (hu.stays o k im q hk).elim
  | _ => simp only [whoOf, hk]

variable (hu : Rules.Usable s blk)
include hu

/-- The checks of the stream find nothing (R54, R55). -/
theorem Usable.checks : ¬ (fget F.sidGen (me s).strm = 0 ∨ false = true) ∧
    ¬ ([0, 5, 6].contains (scbGet s d i F.scState) = true ∨ BitVec.ofNat 64 (scbGet s d i F.scSid) ≠ (me s).strm) ∧
    scbGet s d i F.scNpg = fget F.scNpg blk := by
  have hget (g : Fld) : scbGet s d i g = fget g blk := by rw [scbGet, ← hw.stream.2.2]
  have hsid : BitVec.ofNat 64 (fget F.scSid blk) = (me s).strm := by rw [hu.bound.2, BitVec.ofNat_toNat, BitVec.setWidth_eq]
  have hstate : [0, 5, 6].contains (fget F.scState blk) = false := by simpa using hu.state
  rw [hget, hget, hget, hsid, hstate]
  exact ⟨by simpa using hu.bound.1, by simp, rfl⟩

/-- At NPG a store appends (R227). -/
theorem statePage_appends (hp : p = fget F.scNpg blk) (hlt : p < 4096) :
    statePage s (whoOf s s.cur (slotOf s)).strm (whoOf s s.cur (slotOf s)).migrant va .append false =
      appendPage s d i p ((va.toNat - 0x7E0000000000) % 2 ^ 18) := by
  rw [(Usable.who hu).1, (Usable.who hu).2]
  obtain ⟨hgen, hstate, hnpg⟩ := Usable.checks hw hu
  unfold statePage
  simp only [← hw.stream.1, ← hw.stream.2.1, ← hw.page, hnpg, badScb_of_none hw.sound.1]
  rw [if_neg hgen, if_neg Bool.false_ne_true, if_neg hstate, if_neg (by simp [← hp]), if_neg Bool.false_ne_true, if_pos hp, if_neg (not_le.2 hlt)]

/-- Below NPG an access waits for its page where reading it, or making it private, waits (R227, R286). -/
theorem statePage_waits {use : PageUse} {fe : Bool} (hfe : fe = false) (hp : p < fget F.scNpg blk) {t : State} {x : Wait}
    (hread : use = .read → readPage s d i p ((va.toNat - 0x7E0000000000) % 2 ^ 18) = .wait t x)
    (hwrite : use ≠ .read → privatePage s d i p ((va.toNat - 0x7E0000000000) % 2 ^ 18) = .wait t x) :
    statePage s (whoOf s s.cur (slotOf s)).strm (whoOf s s.cur (slotOf s)).migrant va use fe = .wait t x := by
  rw [(Usable.who hu).1, (Usable.who hu).2, hfe]
  obtain ⟨hgen, hstate, hnpg⟩ := Usable.checks hw hu
  unfold statePage
  simp only [← hw.stream.1, ← hw.stream.2.1, ← hw.page, hnpg, badScb_of_none hw.sound.1]
  rw [if_neg hgen, if_neg Bool.false_ne_true, if_neg hstate, if_neg (by omega), if_neg Bool.false_ne_true, if_neg (by omega)]
  cases use with
  | read => simp only [hread rfl]
  | write => simp only [hwrite (by decide)]
  | append => simp only [hwrite (by decide)]
end

end Sys2Proof.Machine


/-!
PROOFS. The memory forms at the state window (R55, R122, R141, R144, R227): each reaches its page by one translation; one that waits for its page leaves the
core, and a store whose page is there enters the combining buffer.
-/
namespace Sys2Proof.Machine

/-! ### Each form reaches its address (R67, R122) -/

theorem effAddr_eq (b : Word) (imm : Int) (n : Nat) : effAddr b imm n = BitVec.ofInt 64 (b.toNat + imm * n) := by
  rw [effAddr, wordOfInt, BitVec.ofInt_add, BitVec.ofInt_natCast, BitVec.ofNat_toNat, BitVec.setWidth_eq]

theorem leBytes_eq_bytesOf (w : Word) (n : Nat) : leBytes w.toNat n = Rules.bytesOf w n := by
  have h (n v : Nat) : leBytes v n = (List.range n).map fun i => BitVec.ofNat 8 (v / 256 ^ i) := by
    induction n generalizing v with
    | zero => rfl
    | succ n ih =>
      rw [leBytes, ih, List.range_succ_eq_map, List.map_cons, List.map_map]
      simp [Function.comp_def, Nat.div_div_eq_div_mul, pow_succ, Nat.mul_comm]
  exact h n w.toNat

/-- A form issues and reaches n bytes at an address with the rights that the statements give it. -/
structure Reaches (s : State) (i : Instr) (va : Word) (n : Nat) (body : State → Nat → Nat → Eff) (need : Need)
    (next : State → Nat → Nat → Nat → Eff) : Prop where
  issued : exec i s = .next (issue i s body)
  reached : body s s.cur (slotOf s) = reach s s.cur (slotOf s) need va n next
  wr : need.wr = (Rules.rights i).2.1
  fe : need.fe = (Rules.rights i).2.2.2
  append : need.append = (Rules.stores (xreg s) i).isSome

theorem exec_reaches {s : State} {i : Instr} {va : Word} {n : Nat} (hr : ready s i = true) (ha : Rules.access (xreg s) i = some (va, n)) :
    ∃ body need next, Reaches s i va n body need next := by
  have hx := readX_ready hr
  suffices h : ∃ body need next va' n', Reaches s i va' n' body need next ∧ va' = va ∧ n' = n by
    obtain ⟨body, need, next, _, _, h, rfl, rfl⟩ := h
    exact ⟨body, need, next, h⟩
  unfold Rules.access at ha
  split at ha <;> cases ha
  case h_1.refl => exact ⟨_, needLoad, _, _, _, ⟨rfl, rfl, rfl, rfl, rfl⟩, by rw [hx, effAddr_eq], rfl⟩
  case h_2.refl => exact ⟨_, needStore, _, _, _, ⟨rfl, rfl, rfl, rfl, rfl⟩, by rw [hx, effAddr_eq], leBytes_length _ _⟩
  case h_3.refl => exact ⟨_, needLoad, _, _, _, ⟨rfl, rfl, rfl, rfl, rfl⟩, by rw [hx, effAddr_eq, Nat.cast_ofNat], rfl⟩
  case h_4.refl =>
    exact ⟨_, needStore, _, _, _, ⟨rfl, rfl, rfl, rfl, rfl⟩, by rw [hx, effAddr_eq, Nat.cast_ofNat],
      by rw [List.length_append, leBytes_length, leBytes_length]⟩
  case h_5.refl => exact ⟨_, needLdSync, _, _, _, ⟨rfl, rfl, rfl, rfl, rfl⟩, by rw [hx, effAddr_eq, Nat.cast_ofNat], rfl⟩
  case h_6.refl | h_8.refl => exact ⟨_, needPut, _, _, _, ⟨rfl, rfl, rfl, rfl, rfl⟩, by rw [hx, effAddr_eq, Nat.cast_ofNat], rfl⟩
  case h_7.refl | h_9.refl => exact ⟨_, needTake, _, _, _, ⟨rfl, rfl, rfl, rfl, rfl⟩, by rw [hx, effAddr_eq, Nat.cast_ofNat], rfl⟩
  case h_10.refl | h_11.refl | h_12.refl | h_13.refl | h_14.refl | h_15.refl | h_16.refl | h_17.refl | h_18.refl | h_19.refl | h_20.refl =>
    exact ⟨_, needAmo, _, _, _, ⟨rfl, rfl, rfl, rfl, rfl⟩, by rw [hx], rfl⟩
  case h_21.refl | h_22.refl | h_23.refl | h_24.refl => exact ⟨_, needRed, _, _, _, ⟨rfl, rfl, rfl, rfl, rfl⟩, by rw [hx], rfl⟩

/-- The stores among the forms, with their bytes. -/
theorem exec_store {s : State} {i : Instr} {va : Word} {n : Nat} {bytes : List Byte} (hr : ready s i = true)
    (ha : Rules.access (xreg s) i = some (va, n)) (hb : Rules.stores (xreg s) i = some bytes) :
    ∃ body, exec i s = .next (issue i s body) ∧ body s s.cur (slotOf s) = memStore s s.cur (slotOf s) i (Rules.pfx i) va bytes ∧
      bytes.length = n ∧ 0 < n := by
  have hx := readX_ready hr
  have hlen (w : Word) (n : Nat) : (Rules.bytesOf w n).length = n := by simp [Rules.bytesOf]
  unfold Rules.stores at hb
  split at hb
  · next p z d a imm =>
    cases hb
    cases ha
    exact ⟨_, rfl, by rw [hx, hx, effAddr_eq, leBytes_eq_bytesOf]; rfl, hlen _ _, by cases z <;> decide⟩
  · next p d a imm =>
    cases hb
    cases ha
    exact ⟨_, rfl, by rw [hx, hx, hx, effAddr_eq, leBytes_eq_bytesOf, leBytes_eq_bytesOf]; rfl, by rw [List.length_append, hlen, hlen], by decide⟩
  · cases hb

/-- A store writes. -/
theorem writes_of_stores {x : Reg → Word} {i : Instr} (h : (Rules.stores x i).isSome = true) : (Rules.rights i).2.1 = true := by
  unfold Rules.stores at h
  split at h
  · rfl
  · rfl
  · cases h

/-! ### The window's translation (R50, R55) -/

/-- What an access does to its page. -/
def useOf (need : Need) : PageUse := if need.append then .append else if need.wr then .write else .read

section
variable {s : State} {w : Who} {need : Need} {va : Word} (n : Nat) (h : 0x7E0000000000 ≤ va.toNat ∧ va.toNat < 0x7E0040000000)
include h

theorem translate_waits {t : State} {x : Wait} (hp : statePage s w.strm w.migrant va (useOf need) need.fe = .wait t x) :
    translate s w need va n = .wait t x := by
  unfold translate
  unfold useOf at hp
  simp only [hp]
  rw [if_neg (by omega), if_neg (by omega), if_neg (by omega), if_neg (by omega), if_pos h]

theorem translate_finds {t : State} {ga : Nat} (hp : statePage s w.strm w.migrant va (useOf need) need.fe = .at t ga) :
    translate s w need va n = .at (touchFrame t ga) ga 0 0 := by
  unfold translate
  unfold useOf at hp
  simp only [hp]
  rw [if_neg (by omega), if_neg (by omega), if_neg (by omega), if_neg (by omega), if_pos h]
end

/-! ### An access that waits (R126) -/

/-- A form whose page is not there leaves the core, and waits for it. -/
theorem waits_of_reaches {s t : State} {i : Instr} {va : Word} {n : Nat} {body need next} (h : Reaches s i va n body need next) (hr : ready s i = true)
    (hal : va.toNat % n = 0) {x : Wait} (ht : translate s (whoOf s s.cur (slotOf s)) need va n = .wait t x) (hd : OnlyDies s t) :
    ∃ u, exec i s = .next u ∧ getCtx u s.cur (slotOf s) = { me s with mode := .waiting x } ∧ OnlyCores t u := by
  have hb : body s s.cur (slotOf s) = .done (switchOut t s.cur (slotOf s) (.waiting x)) := by
    rw [h.reached]
    unfold reach
    rw [if_neg (by simp [hal]), ht]
  have hctx : getCtx (modCtx t s.cur (slotOf s) fun c => { c with mode := .waiting x }) s.cur (slotOf s) = { me s with mode := .waiting x } := by
    rw [getCtx_modCtx_self]
    unfold OnlyDies at hd
    rw [hd]
    rfl
  refine ⟨switchOut t s.cur (slotOf s) (.waiting x), by rw [h.issued, issue_done hr hb], ?_, ?_⟩
  · unfold switchOut
    dsimp only
    split
    · rw [getCtx_settle fun _ => by rw [hctx]; simp, hctx]
    · exact hctx
  · unfold switchOut
    dsimp only
    split
    · exact OnlyCores.trans (show OnlyCores t (modCtx t s.cur (slotOf s) fun c => { c with mode := .waiting x }) from rfl) (settle_rest _ _)
    · rfl

end Sys2Proof.Machine


/-!
PROOFS. A store whose page of the state window is there (R141, R144, R227): it enters the empty combining buffer, and nothing of the tables or of memory
changes.
-/
namespace Sys2Proof.Machine

/-! ### Frames and tables that stand -/

theorem region_gaFrame {die o : Nat} (h : o < 0x60000000) : region (gaFrame die o) = .frame die o := by
  have hpa : paOf (gaFrame die o) = 0x010000000000 + die % 16 * 2 ^ 31 + o := by unfold paOf gaFrame; omega
  have hm : moduleOf (gaFrame die o) = die / 16 := by unfold moduleOf gaFrame; omega
  unfold region
  simp only [hpa, hm]
  have h1 : 0x010000000000 + die % 16 * 2 ^ 31 + o - 0x010000000000 = die % 16 * 2 ^ 31 + o := by omega
  have h2 : (die % 16 * 2 ^ 31 + o) % 2 ^ 31 = o := by omega
  have h3 : (die % 16 * 2 ^ 31 + o) / 2 ^ 31 = die % 16 := by omega
  rw [if_neg (by omega), if_pos (by omega), h1, h2, h3, if_pos h, Nat.div_add_mod' die 16]

/-- Memory and, age stamps apart, every die stand. -/
structure SameTables (s t : State) : Prop where
  mem : t.mem = s.mem
  memKey : t.memKey = s.memKey
  die : ∀ e, getDie t e = { getDie s e with age := (getDie t e).age }

theorem SameTables.trans {s t u : State} (h : SameTables s t) (h' : SameTables t u) : SameTables s u :=
  ⟨h'.mem.trans h.mem, h'.memKey.trans h.memKey, fun e => by rw [h'.die, h.die]⟩

section
variable {s t : State} (h : SameTables s t)
include h

theorem SameTables.getScb (d i : Nat) : getScb t d i = getScb s d i := by rw [Machine.getScb, h.die]; rfl
theorem SameTables.frGet (d f : Nat) (g : Fld) : frGet t d f g = frGet s d f g := by rw [Machine.frGet, getFrame, h.die]; rfl
theorem SameTables.frameGa (d f o : Nat) : frameGa t d f o = frameGa s d f o := by rw [Machine.frameGa, Machine.frameGa, h.frGet]
theorem SameTables.nodeEntry (d f i : Nat) : nodeEntry t d f i = nodeEntry s d f i := nodeEntry_congr h.mem h.memKey (h.frGet d f _) i
end

theorem touchFrame_sameTables (s : State) (ga : Nat) : SameTables s (touchFrame s ga) := by
  have h (d : Nat) (a : Tbl Nat) : SameTables s (modDie s d fun x => { x with age := a }) := by
    refine ⟨rfl, rfl, fun e => ?_⟩
    rw [getDie_modDie]
    split
    · next he => subst he; rfl
    · rfl
  unfold touchFrame
  split
  · split
    · exact h _ _
    · exact ⟨rfl, rfl, fun _ => rfl⟩
  · exact ⟨rfl, rfl, fun _ => rfl⟩

theorem touchFrame_cores (s : State) (ga : Nat) : (touchFrame s ga).cores = s.cores ∧ (touchFrame s ga).cur = s.cur := by
  unfold touchFrame
  split
  · split <;> exact ⟨rfl, rfl⟩
  · exact ⟨rfl, rfl⟩

/-! ### The combining buffer (R144) -/

/-- The entry that a store opens. -/
def openedEntry (k now : Nat) (adaptive : Bool) (key : Nat) (strm va : Word) (ga : Nat) (bytes : List Byte) : Comb :=
  mergeInto { line := lineOf ga, key := key, adaptive := adaptive, bytes := [], whole := [], slots := [], since := now,
              strm := strm, va := va - BitVec.ofNat 64 (ga - lineOf ga) } k now (cellsAt ga bytes)

/-- In an empty buffer a store opens an entry. -/
theorem holdStore_empty {s : State} {g k key ga : Nat} {adaptive : Bool} {bytes : List Byte} {strm va : Word} (hc : (getCore s g).comb = [])
    (hb : 0 < bytes.length) :
    holdStore s g k key adaptive (cellsAt ga bytes) strm va =
      some (modCore s g fun c => { c with comb := c.comb ++ [openedEntry k s.now adaptive key strm va ga bytes] }) := by
  have hm : mergeAt [] (lineOf ga) key strm va adaptive = none := by cases adaptive <;> rfl
  cases bytes with
  | nil => cases hb
  | cons b bytes =>
    unfold holdStore
    rw [hc]
    simp only [cellsAt, List.headD_cons, hm]
    rfl

theorem tget_foldl_tput (bytes : List Byte) (ga : Nat) (m : Tbl Byte) (x : Nat) :
    tget 0 ((cellsAt ga bytes).foldl (fun t c => tput t c.1 c.2) m) x = if ga ≤ x ∧ x < ga + bytes.length then bytes.getD (x - ga) 0 else tget 0 m x := by
  induction bytes generalizing ga m with
  | nil => rw [if_neg (by simp)]; rfl
  | cons b bytes ih =>
    rw [cellsAt, List.foldl_cons, ih, tget_tput]
    by_cases hx : x = ga
    · subst hx
      rw [if_neg (by omega), if_pos rfl, if_pos (by simp)]
      simp
    · by_cases hin : ga ≤ x ∧ x < ga + (b :: bytes).length
      · have : x - ga = x - (ga + 1) + 1 := by omega
        rw [if_pos hin, if_pos (by simp at hin; omega), this, List.getD_cons_succ]
      · rw [if_neg hin, if_neg (by simp at hin; omega), if_neg hx]

theorem openedEntry_byte {k now key ga j : Nat} {adaptive : Bool} {strm va : Word} {bytes : List Byte} {b : Byte} (h : bytes[j]? = some b) :
    tget 0 (openedEntry k now adaptive key strm va ga bytes).bytes (ga + j) = b := by
  obtain ⟨hj, hb⟩ := List.getElem?_eq_some_iff.1 h
  refine (tget_foldl_tput bytes ga [] (ga + j)).trans ?_
  rw [if_pos (by omega), Nat.add_sub_cancel_left, List.getD_eq_getElem _ _ hj, hb]

/-! ### The store (R144, R227) -/

theorem retireTo_held {t : State} {i : Instr} {e : Comb} (hc : (getCore t t.cur).comb = []) (hp : portMode t t.cur (slotOf t) = false) (pc : Code) :
    (getCtx (retireTo (modCore t t.cur fun c => { c with comb := c.comb ++ [e] }) t.cur (slotOf t) i [] pc) t.cur (slotOf t)).pc = pc ∧
      SameTables t (retireTo (modCore t t.cur fun c => { c with comb := c.comb ++ [e] }) t.cur (slotOf t) i [] pc) ∧
      (getCore (retireTo (modCore t t.cur fun c => { c with comb := c.comb ++ [e] }) t.cur (slotOf t) i [] pc) t.cur).comb = [e] := by
  obtain ⟨v, hv⟩ : ∃ v, v = modCore t t.cur fun c => { c with comb := c.comb ++ [e] } := ⟨_, rfl⟩
  have hcore : getCore v t.cur = { getCore t t.cur with comb := [e] } := by rw [hv, getCore_modCore, if_pos rfl, hc]; rfl
  have hcur : v.cur = t.cur := by rw [hv]; rfl
  have hslot : slotOf v = slotOf t := by rw [slotOf, hcur, hcore]; rfl
  have htab : SameTables t v := by rw [hv]; exact ⟨rfl, rfl, fun _ => rfl⟩
  have hr := retireTo_plain (s := v) i (ws := []) pc (by rw [hcur, hslot, (portMode_congr (s := t) (by rw [hcore])).trans hp]) List.nodup_nil
  rw [hcur, hslot] at hr
  rw [← hv]
  have hr1 := hr.retired.ctx
  have hr2 := hr.only.core
  have hr3 := hr.same.rest
  rw [hcur] at hr1 hr2
  rw [hslot] at hr1
  refine ⟨by rw [hr1], htab.trans ?_, by rw [hr2, hcore]⟩
  rw [hr3]
  exact ⟨rfl, rfl, fun _ => rfl⟩

/-- The running context of a state with the same cores. -/
theorem running_congr {s t : State} (hc : t.cores = s.cores) (hcur : t.cur = s.cur) : slotOf t = slotOf s ∧ ∀ g, getCore t g = getCore s g := by
  have h (g : Nat) : getCore t g = getCore s g := by rw [getCore, hc, ← getCore]
  exact ⟨by rw [slotOf, slotOf, hcur, h], h⟩

theorem stored_of_found {s v : State} {i : Instr} {va : Word} {bytes : List Byte} {ga die o : Nat} (hr : ready s i = true)
    (hal : va.toNat % bytes.length = 0) (hlen : 0 < bytes.length)
    (htr : translate s (whoOf s s.cur (slotOf s)) needStore va bytes.length = .at v ga 0 0) (hcores : v.cores = s.cores) (hcur : v.cur = s.cur)
    (hwin : inWindow va = true) (hcomb : (getCore s s.cur).comb = []) (hcmds : (getCore s s.cur).cmds = []) (hrel : Pfx.rel (Rules.pfx i) = false)
    (hroute : Pfx.route (Rules.pfx i) 0 ≠ .deferred) (hreg : region ga = .frame die o) (hgr : granted v die s.cur (slotOf s) = false) :
    ∃ u e, memStore s s.cur (slotOf s) i (Rules.pfx i) va bytes = .done u ∧ (getCtx u s.cur (slotOf s)).pc = nextOf s i ∧ SameTables v u ∧
      (getCore u s.cur).comb = [e] ∧ e.line = ga / 64 * 64 ∧ e.strm = (me s).strm ∧ ∀ j b, bytes[j]? = some b → tget 0 e.bytes (ga + j) = b := by
  obtain ⟨hslot, hcore⟩ := running_congr hcores hcur
  obtain ⟨w, hw⟩ : ∃ w, w = markDirty v s.cur (slotOf s) := ⟨_, rfl⟩
  have hwtab : SameTables v w := by rw [hw]; exact ⟨rfl, rfl, fun _ => rfl⟩
  have hwcur : w.cur = s.cur := by rw [hw]; exact hcur
  have hwcore : getCore w s.cur = { getCore s s.cur with ctx := (getCore w s.cur).ctx } := by rw [hw, markDirty, getCore_modCtx, if_pos rfl, hcore]
  have hwctx : getCtx w s.cur (slotOf s) = { me s with dirty := (me s).dirty || (me s).task.isSome } := by
    rw [hw, markDirty, getCtx_modCtx_self, getCtx, hcore, ← getCtx, ← me]
  have hwslot : slotOf w = slotOf s := by rw [slotOf, hwcur, hwcore]; rfl
  have hwgrant : granting w s.cur (slotOf s) ga false = w := by
    have : granted w die s.cur (slotOf s) = false := by
      rw [← hgr, granted, granted, hwtab.die, hwctx, getCtx, hcore, ← getCtx, ← me]
    simp only [granting, hreg, this, Bool.false_eq_true, if_false]
  have hlocal : isLocal s.cur ga = false := by simp only [isLocal, hreg]
  have hlock : locked s s.cur ga bytes.length = false := by simp [locked, hcmds]
  have hstrm : windowStrm v s.cur (slotOf s) va = (me s).strm := by rw [windowStrm, hwin, if_pos rfl, getCtx, hcore, ← getCtx, ← me]
  have hpc : nextPc v s.cur (slotOf s) i = nextOf s i := by rw [nextPc, getCtx, hcore, ← getCtx, ← me, nextOf]
  obtain ⟨h1, h2, h3⟩ := retireTo_held (t := w) (i := i)
    (e := openedEntry (slotOf s) w.now (Pfx.route (Rules.pfx i) 0 == .adaptive) 0 (me s).strm va ga bytes)
    (by rw [hwcur, hwcore]; exact hcomb)
    ((portMode_congr (s := s) (by rw [hwcur, hwcore])).trans (by rw [hwcur, hwslot]; exact portMode_of_ready hr)) (nextOf s i)
  rw [hwcur, hwslot] at h1 h2 h3
  refine ⟨_, _, ?_, h1, hwtab.trans h2, h3, rfl, rfl, fun j b hb => openedEntry_byte hb⟩
  unfold memStore reach
  rw [if_neg (by simp [hal]), htr]
  simp only [routeFor, hlock, hcore, hcomb, hroute, hrel, hlocal, List.any_nil, Bool.and_false, Bool.false_eq_true, if_false, false_and, ← hw, hwgrant,
    hstrm, hpc]
  rw [holdStore_empty (by rw [hwcore]; exact hcomb) hlen]

end Sys2Proof.Machine


/-!
PROOFS. Frames are freed, copied and moved (O42): the clauses assembled from the lemmas on the state window, the walk, the count walk and the frames' work.
-/
namespace Sys2Proof.Machine

/-! ### The state window -/

section
variable {s : State} {i : Instr} {va : Word} {n p d k : Nat} {blk : BitVec 2048} {w : PagePath} (hr : ready s i = true)
  (ha : Rules.access (xreg s) i = some (va, n)) (hal : va.toNat % n = 0) (hwin : Rules.Window s va p d k blk) (hus : Rules.Usable s blk)
  (hw : w = pathOf s d k p) (hn : OwnNodes s w) (hroom : room (getDie s w.die) w.die 1 0 = .ok)
include hr ha hal hwin hus hw hn hroom

/-- A store to page NPG appends it, and enters the combining buffer (R227). -/
theorem store_appends {bytes : List Byte} {l : Nat} (hcomb : (getCore s s.cur).comb = []) (hst : Rules.stores (xreg s) i = some bytes)
    (hp : p = fget F.scNpg blk) (hlt : p < 4096) (hl : w.leaf = some l) (hgr : granted s w.die s.cur (slotOf s) = false)
    (hcmds : (getCore s s.cur).cmds = []) (hrel : Pfx.rel (Rules.pfx i) = false) (hroute : Pfx.route (Rules.pfx i) 0 ≠ .deferred) :
    ∃ t e f, exec i s = .next t ∧ freeFid (getDie s w.die) f = true ∧ getScb t d k = fput F.scNpg blk (p + 1) ∧
      fget F.teV (nodeEntry t w.die l (p % 64)) = 1 ∧ fget F.teFid (nodeEntry t w.die l (p % 64)) = f ∧
      fget F.teProv (nodeEntry t w.die l (p % 64)) = fget F.scMarkV blk ∧ frGet t w.die f F.frKind = 1 ∧ frGet t w.die f F.frCnt = 1 ∧
      zeroedFrame (getDie s w.die) (frGet t w.die f F.frPlace) = true ∧ (getCtx t s.cur (slotOf s)).pc = nextOf s i ∧ (getCore t s.cur).comb = [e] ∧
      e.line = frameGa t w.die f ((va.toNat - 0x7E0000000000) % 2 ^ 18) / 64 * 64 ∧ e.strm = (me s).strm ∧
      ∀ j b, bytes[j]? = some b → tget 0 e.bytes (frameGa t w.die f ((va.toNat - 0x7E0000000000) % 2 ^ 18) + j) = b := by
  obtain ⟨off, hoff⟩ : ∃ off, off = (va.toNat - 0x7E0000000000) % 2 ^ 18 := ⟨_, rfl⟩
  obtain ⟨body, hexec, hbody, hlen, hpos⟩ := exec_store hr ha hst
  obtain ⟨f, place, t, happ, ht⟩ := appendPage_done (Window.faultless hwin) (Window.ue hwin) hw hn hl hroom off
  obtain ⟨hkind, hcnt, hplace, -⟩ := takenEntry_fields ht.inPool (show 1 < 2 by decide) (show 0 < 2 by decide)
  have hfr (g : Fld) : frGet t w.die f g = fget g (takenEntry place 1 0) := by rw [frGet, ht.frame]
  obtain ⟨hte, htf, htp⟩ := pageEntry_fields (die := w.die % 16) (show scbGet s d k F.scMarkV < 2 from fget_lt _) ht.inTable
  have hpage := statePage_appends hwin hus hp hlt
  rw [← hoff, happ] at hpage
  have htr := translate_finds (w := whoOf s s.cur (slotOf s)) (need := needStore) n hwin.range hpage
  obtain ⟨ga, hga⟩ : ∃ ga, ga = frameGa t w.die f off := ⟨_, rfl⟩
  rw [← hga] at htr
  obtain ⟨v, hv⟩ : ∃ v, v = touchFrame t ga := ⟨_, rfl⟩
  have htab : SameTables t v := hv ▸ touchFrame_sameTables t ga
  obtain ⟨hcores, hcur⟩ := touchFrame_cores t ga
  rw [← hv] at htr hcores hcur
  have hreg : region ga = .frame w.die (place * 2 ^ 18 + off) := by
    have := ht.inPool
    rw [hga, frameGa, hfr, hplace]
    exact region_gaFrame (by unfold poolFrames at this; omega)
  have hin : inWindow va = true := by simp [inWindow, hwin.range]
  have hcores' : v.cores = s.cores := hcores.trans (by rw [ht.rest])
  have hcur' : v.cur = s.cur := hcur.trans (by rw [ht.rest])
  have hgr' : granted v w.die s.cur (slotOf s) = false := by
    rw [← hgr, granted, granted, htab.die, getCtx, getCore, hcores', ← getCore, ← getCtx]
    exact congrArg (fun l : List FrameWork => l.any _) (ht.work w.die)
  obtain ⟨u, e, hdone, hpc, hut, hcombu, hline, hestrm, hbytes⟩ := stored_of_found hr (by rw [hlen]; exact hal) (by omega) (by rw [hlen]; exact htr)
    hcores' hcur' hin hcomb hcmds hrel hroute hreg hgr'
  have htu := htab.trans hut
  have hgau : frameGa u w.die f ((va.toNat - 0x7E0000000000) % 2 ^ 18) = ga := by rw [← hoff, htu.frameGa, hga]
  have hent : nodeEntry u w.die l (p % 64) = pageEntry (w.die % 16) (scbGet s d k F.scMarkV) f := (htu.nodeEntry _ _ _).trans ht.entry
  have hfru (g : Fld) : frGet u w.die f g = fget g (takenEntry place 1 0) := (htu.frGet _ _ _).trans (hfr g)
  refine ⟨u, e, f, by rw [hexec, issue_done hr (hbody.trans hdone)], ht.free, ?_, ?_, ?_, ?_, ?_, ?_, ?_, hpc, hcombu, ?_, hestrm, ?_⟩
  · rw [htu.getScb, ht.scb, ← hwin.stream.2.2]
  · rw [hent, hte]
  · rw [hent, htf]
  · rw [hent, htp, scbGet, ← hwin.stream.2.2]
  · rw [hfru, hkind]
  · rw [hfru, hcnt]
  · rw [hfru, hplace]
    exact ht.zeroed
  · rw [hgau, hline]
  · rw [hgau]
    exact hbytes

variable {f : Nat} (hp : p < fget F.scNpg blk) (hf : w.frame = some f) (hb : frameBusy s w.die f = false) (hfe : (Rules.rights i).2.2.2 = false)
include hp hf hb hfe

/-- A write of a shared page begins its copy, and waits (R227). -/
theorem write_copies (hused : freeFid (getDie s w.die) f = false) (hwr : (Rules.rights i).2.1 = true) (hc : 1 < frGet s w.die f F.frCnt) :
    ∃ t r, exec i s = .next t ∧ getCtx t s.cur (slotOf s) = { me s with mode := .waiting (.frame w.die f) } ∧ t.mem = s.mem ∧ t.net = s.net ∧
      (getDie t w.die).work = (getDie s w.die).work ++ [.copy f r k p] ∧ freeFid (getDie s w.die) r = true ∧
      frGet t w.die f F.frBusy = 1 ∧ frGet t w.die r F.frBusy = 1 ∧ getScb t d k = blk := by
  obtain ⟨body, need, next, hre⟩ := exec_reaches hr ha
  obtain ⟨r, t, hbegin, hd, hfree, hwork, hbf, hbr, hscb⟩ := beginCopy_done hroom k p f hused
  have huse : useOf need ≠ .read := by unfold useOf; rw [hre.wr, hwr]; split <;> simp
  have hpage := statePage_waits hwin hus (use := useOf need) (hre.fe.trans hfe) hp (fun h => (huse h).elim)
    fun _ => privatePage_copies (Window.faultless hwin) (Window.ue hwin) hw hf hb hn hc hroom hbegin _
  obtain ⟨u, hexec, hctx, hu⟩ := waits_of_reaches hre hr hal (translate_waits n hwin.range hpage) hd
  unfold OnlyDies at hd
  unfold OnlyCores at hu
  have hdie (e : Nat) : getDie u e = getDie t e := by rw [hu]; rfl
  refine ⟨u, r, hexec, hctx, by rw [hu, hd], by rw [hu, hd], by rw [hdie, hwork], hfree, ?_, ?_, ?_⟩
  · rw [frGet, getFrame, hdie]; exact hbf
  · rw [frGet, getFrame, hdie]; exact hbr
  · rw [getScb, hdie, hwin.stream.2.2]; exact hscb d k

/-- An access of an evicted page begins its fetch-back, and waits (R286). -/
theorem access_fetches (hc : (Rules.rights i).2.1 = false ∨ frGet s w.die f F.frCnt ≤ 1) (hloc : frGet s w.die f F.frLoc = 1) :
    ∃ t place, exec i s = .next t ∧ getCtx t s.cur (slotOf s) = { me s with mode := .waiting (.frame w.die f) } ∧ t.mem = s.mem ∧ t.net = s.net ∧
      (getDie t w.die).work = (getDie s w.die).work ++ [.fetch f place] ∧ zeroedFrame (getDie s w.die) place = true ∧
      frGet t w.die f F.frBusy = 1 := by
  obtain ⟨body, need, next, hre⟩ := exec_reaches hr ha
  obtain ⟨place, t, hbegin, hd, hz, hwork, hbf⟩ := fetchFor_done hroom k f
  have huse : (Rules.rights i).2.1 = false → useOf need = .read := fun h => by
    have hs : (Rules.stores (xreg s) i).isSome = false := Bool.eq_false_iff.2 fun hs => by rw [writes_of_stores hs] at h; cases h
    rw [useOf, hre.append, hs, hre.wr, h]
    rfl
  have hpage := statePage_waits hwin hus (use := useOf need) (hre.fe.trans hfe) hp
    (fun _ => (readPage_fetches (Window.faultless hwin) (Window.ue hwin) hw hf hb hloc _).trans hbegin)
    fun h => (privatePage_fetches (Window.faultless hwin) (Window.ue hwin) hw hf hb hn (hc.resolve_left fun h' => h (huse h')) hloc _).trans hbegin
  obtain ⟨u, hexec, hctx, hu⟩ := waits_of_reaches hre hr hal (translate_waits n hwin.range hpage) hd
  unfold OnlyDies at hd
  unfold OnlyCores at hu
  have hdie (e : Nat) : getDie u e = getDie t e := by rw [hu]; rfl
  refine ⟨u, place, hexec, hctx, by rw [hu, hd], by rw [hu, hd], by rw [hdie, hwork], hz, ?_⟩
  rw [frGet, getFrame, hdie]
  exact hbf
end

end Sys2Proof.Machine


/-!
PROOFS. Frames are freed, copied and moved (O42), clause by clause.
-/
namespace Sys2Proof.Machine

/-- Settles O42: each clause is the lemma on its step. -/
theorem framesAreFreedCopiedAndMoved : Obligations.FramesAreFreedCopiedAndMoved := by
  unfold Obligations.FramesAreFreedCopiedAndMoved
  refine ⟨?window, ?walk, ?countWalk, ?zero, ?spillway, ?moves, ?copy⟩
  case window =>
    intro s i va n p d k blk w hr ha hal hacq hwin hus hw hcomb hroot hroot' hleaf hroom
    have hn : OwnNodes s w := ⟨hroot, fun l hl => (hleaf l hl).1⟩
    refine ⟨fun bytes l hst hp hlt hl hgr hcmds hrel hroute => store_appends hr ha hal hwin hus hw hn hroom hcomb hst hp hlt hl hgr hcmds hrel hroute,
      fun f hp hf hb hused hfe => ⟨fun hwr hc => write_copies hr ha hal hwin hus hw hn hroom hp hf hb hfe hused hwr hc, fun hc hloc =>
        access_fetches hr ha hal hwin hus hw hn hroom hp hf hb hfe hc hloc⟩⟩
  case walk =>
    intro s va next g k ten hg hk hm hten
    refine ⟨fun hn hroot => traps_of_walkFailed hg hk (translationWalkDone_noRoot hm hn (hten ▸ hroot)), fun node level e hn hpo hla hso hsa he => ?_⟩
    have hs : Clean s := ⟨hpo, hla, hso, hsa⟩
    exact ⟨fun size hv hl ho hsize hroom => walk_leaf hg hk hm hten hn hs he hv hl ho hsize hroom,
      fun n hv hl hp => walk_pointer hg hk hm hten hn hs he hv hl hp, fun hv => traps_of_walkFailed hg hk (walk_invalid hm hten hn hs he hv)⟩
  case countWalk =>
    intro s f rest d hw hb hq hue
    obtain ⟨u, hu⟩ := countWalk_pops hw hb
    exact ⟨fun hc => ⟨_, hu.passes, hu.counts hq hue hc⟩, fun hc hk hl => ⟨_, hu.passes, hu.frees hq hue hc hk hl⟩,
      fun hc hk hla hpo => ⟨_, hu.passes, hu.passesOff hq hue hc hk hla hpo⟩⟩
  case zero =>
    intro s f rest d within h
    obtain ⟨t, hexec, hz, hfull, hmem, hpo, hla, hso⟩ := frameZero_head h rfl rfl
    refine ⟨t, hexec, hz, hfull, fun a ha => ?_, fun a ha => ?_, fun dw => ?_, fun dw => ?_, fun dw => ?_⟩
    · rw [rawByte, hmem, tget_filter_outside, if_pos ha]
    · rw [rawByte, hmem, tget_filter_outside, if_neg ha]
      rfl
    · rw [hpo]
      exact mem_filter_outside _ _ _ _
    · rw [hla]
      exact mem_filter_outside _ _ _ _
    · rw [hso]
      exact mem_filter_outside _ _ _ _
  case spillway =>
    intro s fid h e d x
    exact ⟨fun hon hin he hev hleast hh hfree hlow hue => spillwayEvict_takes hon hin he hev hleast hh hfree hlow hue, spillwayEvict_stops⟩
  case moves =>
    intro s h p e d fid area he hp
    subst he
    exact ⟨fun hw _ hq hacc => evictionComplete_done hw hp hq hacc, fun hw hl => fetchBackComplete_done hw hp hl⟩
  case copy =>
    intro s src dst i page leaf d hsrc hw hleaf _ hne hdst hls hld hl hqs hqd _ hplace
    exact frameCopyComplete_done rfl hsrc hw hleaf hne hdst hls hld hl hqs hqd hplace

end Sys2Proof.Machine


/-!
PROOFS. The encoder writes what the decoder read, so that the two agree (O57), and words that the spec lays out decode as it says (O58).
`Chain.push_words`: the walk of R74 keeps the words it has passed; `decodeFrom_sound`: where it ends in an instruction, these and the base word are the
instruction's words.
-/
namespace Sys2Proof

/-! ### The words of a chain (R69, R74) -/

/-- A word is fixed by its kind and its payload. -/
theorem Code.IsPrefix.unique {v k : Nat} {p : BitVec v} {w w' : Code} (h : w.IsPrefix k p) (h' : w'.IsPrefix k p) : w = w' := by
  have fields {u : Code} (hu : u.IsPrefix k p) : u.toNat = 31 * 2 ^ 11 + k * 2 ^ 9 + (p.extractLsb' 0 9).toNat := by
    have hpfx : (u.bits 11 5).toNat = 31 := congrArg BitVec.toNat (beq_iff_eq.1 hu.pfx)
    have hkind := hu.kind
    have hbits := congrArg BitVec.toNat (hu.bits 0 9 (by decide))
    have hlt := u.isLt
    rw [Code.toNat_bits] at hpfx hkind hbits
    omega
  exact BitVec.eq_of_toNat_eq ((fields h).trans (fields h').symm)

theorem Code.bits_bits (w : Code) {lo len n : Nat} (h : lo + len ≤ n) : (w.bits 0 n).extractLsb' lo len = w.bits lo len := by
  unfold Code.bits
  rw [BitVec.extractLsb'_extractLsb'_of_le h]

/-- A prefix word is its kind and nine bits of payload (R69). -/
theorem Code.eq_of_isPfx {w : Code} {k : Nat} (hw : w.isPfx = true) (hk : (w.bits 9 2).toNat = k) :
    w = BitVec.ofNat 16 (0xF800 + 512 * k) ||| (w.bits 0 9).zeroExtend 16 := by
  have h : w.IsPrefix k (w.bits 0 9) := ⟨hw, hk, fun lo len hl => (w.bits_bits hl).symm⟩
  exact h.unique (isPrefix_of_kind (hk ▸ (w.bits 9 2).isLt) (le_refl 9) _)

/-- The payload of a PAGE prefix is four bits wide. -/
theorem Code.zeroExtend_bits_of_high_zero {w : Code} (h : w.bits 4 5 = 0) : (w.bits 0 9).zeroExtend 16 = (w.bits 0 4).zeroExtend 16 := by
  have h := congrArg BitVec.toNat h
  apply BitVec.eq_of_toNat_eq
  simp only [BitVec.truncate_eq_setWidth, BitVec.toNat_setWidth, Code.toNat_bits] at h ⊢
  rw [show (0 : BitVec 5).toNat = 0 from rfl] at h
  omega

/-- The prefix words that the walk has passed. -/
def Chain.words (c : Chain) : List Code :=
  (if c.hasPage then [(0xFC00 : Code) ||| c.page.zeroExtend 16] else []) ++ c.reg.toList.map (fun p => (0xFA00 : Code) ||| p.zeroExtend 16)
    ++ c.qual.toList.map (fun p => (0xFE00 : Code) ||| p.zeroExtend 16) ++ c.imms.map (fun p => (0xF800 : Code) ||| p.zeroExtend 16)

/-- The chain and a base word under it. -/
def Chain.raw (c : Chain) (op : BitVec 5) (low : BitVec 11) : Raw :=
  { hasPage := c.hasPage, page := c.page, reg := c.reg, qual := c.qual, imms := c.imms, op := op, low := low }

theorem Chain.raw_words (c : Chain) (op : BitVec 5) (low : BitVec 11) : (c.raw op low).words = c.words ++ [op ++ low] := by
  obtain ⟨rank, pos, hasPage, page, reg, regPos, qual, imms⟩ := c
  cases reg <;> cases qual <;> rfl

/-- What the rank says: no prefix of this or of a later kind has come yet (R74). -/
structure Chain.Ordered (c : Chain) : Prop where
  page : c.rank < 1 → c.hasPage = false
  reg : c.rank < 2 → c.reg = none
  qual : c.rank < 3 → c.qual = none
  imms : c.rank < 4 → c.imms = []

/-- A prefix word that the walk accepts joins the words it has passed. -/
theorem Chain.push_words {c c' : Chain} {w : Code} (ho : c.Ordered) (hw : w.isPfx = true) (hc : c.push w = some c') :
    c'.Ordered ∧ c'.pos = c.pos + 1 ∧ c'.words = c.words ++ [w] := by
  unfold Chain.push at hc
  dsimp only at hc
  split at hc
  case h_1 hk =>
    obtain ⟨hz, hc⟩ := Option.ite_none_left_eq_some.1 hc
    cases hc
    simp only [Bool.or_eq_true, bne_iff_ne, decide_eq_true_eq, not_or, not_not, Nat.not_le] at hz
    obtain ⟨hz, hr⟩ := hz
    have hword : w = 0xFC00 ||| (w.bits 0 4).zeroExtend 16 := Code.zeroExtend_bits_of_high_zero hz ▸ Code.eq_of_isPfx hw hk
    refine ⟨⟨by simp, fun _ => ho.reg (by omega), fun _ => ho.qual (by omega), fun _ => ho.imms (by omega)⟩, rfl, ?_⟩
    simp only [Chain.words, ho.page hr, ho.reg (by omega), ho.qual (by omega), ho.imms (by omega), ← hword]
    rfl
  case h_2 hk =>
    obtain ⟨hr, hc⟩ := Option.ite_none_left_eq_some.1 hc
    cases hc
    simp only [decide_eq_true_eq, Nat.not_le] at hr
    have hword : w = 0xFA00 ||| (w.bits 0 9).zeroExtend 16 := Code.eq_of_isPfx hw hk
    refine ⟨⟨by simp, by simp, fun _ => ho.qual (by omega), fun _ => ho.imms (by omega)⟩, rfl, ?_⟩
    simpa [Chain.words, ho.reg hr, ho.qual (by omega), ho.imms (by omega)] using hword.symm
  case h_3 hk =>
    obtain ⟨hr, hc⟩ := Option.ite_none_left_eq_some.1 hc
    cases hc
    simp only [Bool.or_eq_true, decide_eq_true_eq, not_or, Nat.not_le] at hr
    obtain ⟨-, hr⟩ := hr
    have hword : w = 0xFE00 ||| (w.bits 0 9).zeroExtend 16 := Code.eq_of_isPfx hw hk
    refine ⟨⟨by simp, by simp, by simp, fun _ => ho.imms (by omega)⟩, rfl, ?_⟩
    simpa [Chain.words, ho.qual hr, ho.imms (by omega)] using hword.symm
  case h_4 h2 h1 h3 =>
    cases hc
    have hlt : (w.bits 9 2).toNat < 4 := (w.bits 9 2).isLt
    have hk : (w.bits 9 2).toNat = 0 := by
      rw [imp_false] at h1 h2 h3
      omega
    have hword : w = 0xF800 ||| (w.bits 0 9).zeroExtend 16 := Code.eq_of_isPfx hw hk
    refine ⟨⟨by simp, by simp, by simp, by simp⟩, rfl, ?_⟩
    simpa [Chain.words] using hword.symm

/-! ### What the decoder read (R64–R74, R101) -/

/-- A chain names an instruction only where it is that instruction's chain. -/
theorem ofRaw_sound {r : Raw} {i : Instr} (h : ofRaw r = some i) : i.wf = true ∧ encode i = some r.words := by
  obtain ⟨j, -, hj⟩ := Option.bind_eq_some_iff.1 h
  split at hj
  case h_1 l hs =>
    obtain ⟨hl, hji⟩ := Option.ite_none_right_eq_some.1 hj
    cases hji
    rw [Bool.and_eq_true, beq_iff_eq] at hl
    obtain ⟨hwf, hraw⟩ := hl
    exact ⟨by simpa [Instr.wf, hs] using hwf, by rw [encode, hs, ← hraw]; rfl⟩
  case h_2 => cases hj

/-- A base word that ends a chain in an instruction is the last of its words. -/
theorem decodeBase_sound {first : Code} {c : Chain} {w : Code} {i : Instr} {n : Nat} (h : decodeBase first c w = .ok i n) :
    i.wf = true ∧ encode i = some (c.words ++ [w]) ∧ n = c.pos + 1 := by
  have hw : (w.bits 11 5 ++ w.bits 0 11 : Code) = w := BitVec.extractLsb'_append_extractLsb' (w := 5) (len := 11)
  unfold decodeBase at h
  dsimp only at h
  split at h
  case h_1 => cases h
  case h_2 =>
    split at h
    case isTrue => cases h
    case isFalse =>
      split at h
      case isTrue => cases h
      case isFalse =>
        split at h
        case h_1 j hj =>
          cases h
          obtain ⟨hwf, henc⟩ := ofRaw_sound (r := c.raw (w.bits 11 5) (w.bits 0 11)) hj
          exact ⟨hwf, by rw [henc, Chain.raw_words, hw], rfl⟩
        case h_2 => cases h

/-- Where the walk ends in an instruction, the words it has passed and those it still takes are the instruction's. -/
theorem decodeFrom_sound {first : Code} {c : Chain} {ws : List Code} {i : Instr} {n : Nat} (ho : c.Ordered) (h : decodeFrom first c ws = .ok i n) :
    i.wf = true ∧ ∃ k ≤ ws.length, n = c.pos + k ∧ encode i = some (c.words ++ ws.take k) := by
  induction ws generalizing c with
  | nil => cases h
  | cons w ws ih =>
    rw [decodeFrom] at h
    split at h
    case isTrue hw =>
      split at h
      case isTrue => cases h
      case isFalse =>
        split at h
        case h_1 => cases h
        case h_2 c' hc =>
          obtain ⟨ho', hpos, hwords⟩ := Chain.push_words ho hw hc
          obtain ⟨hwf, k, hk, hn, henc⟩ := ih ho' h
          refine ⟨hwf, k + 1, Nat.succ_le_succ hk, by omega, ?_⟩
          rw [henc, hwords, List.append_assoc]
          rfl
    case isFalse =>
      obtain ⟨hwf, henc, hn⟩ := decodeBase_sound h
      exact ⟨hwf, 1, Nat.le_add_left .., hn, henc⟩

/-- Settles O57: `decode_encode`, and the walk's words with the base word are the instruction's. -/
theorem decodeAndEncodeAgree : Obligations.DecodeAndEncodeAgree := by
  unfold Obligations.DecodeAndEncodeAgree
  refine ⟨fun i ws rest hw he => decode_encode hw he rest, fun ws i n hd => ?_⟩
  have hstart : Chain.start.Ordered := ⟨fun _ => rfl, fun _ => rfl, fun _ => rfl, fun _ => rfl⟩
  obtain ⟨hwf, k, hk, hn, henc⟩ := decodeFrom_sound hstart hd
  obtain rfl : n = k := hn.trans (Nat.zero_add k)
  exact ⟨hwf, henc, hk⟩

/-- Settles O58: the decoder is run on each list of words. -/
theorem wordsDecodeAsTheSpecLaysThemOut : Obligations.WordsDecodeAsTheSpecLaysThemOut := by
  unfold Obligations.WordsDecodeAsTheSpecLaysThemOut
  decide +kernel

end Sys2Proof


/-!
PROOFS. Arithmetic, shifts, bit fields, divisions and bit counts (O1): `resultOf` gives what each form writes, `exec_result` that it does nothing else, and
one lemma for each operation that the rule's number is the model's word.
-/
namespace Sys2Proof.Machine

/-! ### The forms that write one result (R119–R121) -/

/-- Destination and value of the forms whose whole effect is one result. -/
def resultOf (x : Reg → Word) : Instr → Option (Reg × Word)
  | .add _ d a b => some (d, x a + x b)
  | .sub _ d a b => some (d, x a - x b)
  | .mul _ d a b => some (d, x a * x b)
  | .mulh _ d a b => some (d, resMulh (x a) (x b))
  | .mulhu _ d a b => some (d, resMulhu (x a) (x b))
  | .addi _ d a imm => some (d, x a + wordOfInt imm)
  | .li _ d imm => some (d, wordOfInt imm)
  | .mov _ d a => some (d, x a)
  | .and _ d a b => some (d, x a &&& x b)
  | .or _ d a b => some (d, x a ||| x b)
  | .xor _ d a b => some (d, x a ^^^ x b)
  | .slt _ d a b => some (d, resSlt (x a) (x b))
  | .sltu _ d a b => some (d, resSltu (x a) (x b))
  | .seq _ d a b => some (d, resSeq (x a) (x b))
  | .min _ d a b => some (d, resMin (x a) (x b))
  | .max _ d a b => some (d, resMax (x a) (x b))
  | .minu _ d a b => some (d, resMinu (x a) (x b))
  | .maxu _ d a b => some (d, resMaxu (x a) (x b))
  | .sel _ d a b => some (d, resSel (x d) (x a) (x b))
  | .sll _ d a b => some (d, resSll (x a) (x b))
  | .srl _ d a b => some (d, resSrl (x a) (x b))
  | .sra _ d a b => some (d, resSra (x a) (x b))
  | .ror _ d a b => some (d, resRor (x a) (x b))
  | .bfx _ d a imm => some (d, resBfx (x a) imm)
  | .bfi _ d a imm => some (d, resBfi (x d) (x a) imm)
  | .div _ d a b => some (d, resDiv (x a) (x b))
  | .rem _ d a b => some (d, resRem (x a) (x b))
  | .divu _ d a b => some (d, resDivu (x a) (x b))
  | .remu _ d a b => some (d, resRemu (x a) (x b))
  | .clz _ d a => some (d, resClz (x a))
  | .ctz _ d a => some (d, resCtz (x a))
  | .popc _ d a => some (d, resPopc (x a))
  | _ => none

/-- Such a form completes: it writes its result, continues at Next, and leaves all else as it was. -/
theorem exec_result {s : State} {i : Instr} {w : Reg × Word} (hr : ready s i = true) (hw : resultOf (xreg s) i = some w) :
    ∃ t, exec i s = .next t ∧ RegisterOnly s t (nextOf s i) [w] := by
  have hbody : ∃ body, exec i s = .next (issue i s body) ∧ body s s.cur (slotOf s) = retire s s.cur (slotOf s) i [w] := by
    unfold resultOf at hw
    split at hw <;> cases hw <;> exact ⟨_, rfl, by simp only [readX_ready hr]⟩
  obtain ⟨body, he, hb⟩ := hbody
  exact ⟨_, he, issue_retires hr hb⟩

/-! ### Results as numbers (R114, R119, R120) -/

theorem ofInt_sub_toNat {n : Nat} (a b : BitVec n) : BitVec.ofInt n (a.toNat - b.toNat) = a - b := by
  rw [Int.sub_eq_add_neg, BitVec.ofInt_add, BitVec.ofInt_neg, BitVec.sub_eq_add_neg]
  simp

theorem ofInt_add_toNat (a : Word) (n : Int) : BitVec.ofInt 64 (a.toNat + n) = a + wordOfInt n := by
  rw [BitVec.ofInt_add]
  simp [wordOfInt]

theorem resultOf_arith {x : Reg → Word} {i : Instr} {w : Reg × Word} (h : Rules.arith x i = some w) : resultOf x i = some w := by
  unfold Rules.arith at h
  split at h <;> cases h <;> refine congrArg some (Prod.ext rfl ?_)
  case h_1.refl => simp [BitVec.ofNat_add]
  case h_2.refl => exact (ofInt_sub_toNat _ _).symm
  case h_3.refl => simp [BitVec.ofNat_mul]
  case h_4.refl | h_5.refl | h_7.refl | h_8.refl | h_9.refl | h_10.refl | h_11.refl => rfl
  case h_6.refl => exact (ofInt_add_toNat _ _).symm
  case h_12.refl | h_13.refl => simp only [resSlt, resSltu, boolWord, decide_eq_true_eq]
  case h_14.refl => simp only [resSeq, boolWord, beq_iff_eq]
  case h_15.refl | h_16.refl | h_17.refl | h_18.refl => simp only [resMin, resMax, resMinu, resMaxu, ← not_lt, ite_not]
  case h_19.refl => simp only [resSel, ne_eq, ite_not]

/-! ### Shifts and bit fields (R97, R119, R121) -/

theorem resSll_eq (a b : Word) : resSll a b = BitVec.ofNat 64 (a.toNat * 2 ^ (b.toNat % 64)) := by
  apply BitVec.eq_of_toNat_eq
  simp [resSll, shamt, Nat.shiftLeft_eq]

theorem resSrl_eq (a b : Word) : resSrl a b = BitVec.ofNat 64 (a.toNat / 2 ^ (b.toNat % 64)) := by
  rw [← Nat.shiftRight_eq_div_pow, ← BitVec.toNat_ushiftRight, BitVec.ofNat_toNat, BitVec.setWidth_eq]
  rfl

theorem resSra_eq (a b : Word) : resSra a b = BitVec.ofInt 64 (a.toInt / 2 ^ (b.toNat % 64)) := by
  rw [resSra, shamt, BitVec.sshiftRight_eq, Int.shiftRight_eq_div_pow]
  norm_cast

/-- The two parts of a rotated word lie apart. -/
theorem resRor_eq (a b : Word) : resRor a b =
    BitVec.ofNat 64 (a.toNat / 2 ^ (b.toNat % 64) + a.toNat % 2 ^ (b.toNat % 64) * 2 ^ (64 - b.toNat % 64)) := by
  have hr : b.toNat % 64 < 64 := Nat.mod_lt _ (by decide)
  unfold resRor shamt
  generalize b.toNat % 64 = r at hr
  have hsplit : 2 ^ 64 = 2 ^ r * 2 ^ (64 - r) := by rw [← pow_add, Nat.add_sub_cancel' hr.le]
  have hlow : a.toNat / 2 ^ r < 2 ^ (64 - r) := Nat.div_lt_of_lt_mul (hsplit ▸ a.isLt)
  have hhigh : a.toNat * 2 ^ (64 - r) % 2 ^ 64 = 2 ^ (64 - r) * (a.toNat % 2 ^ r) := by
    rw [hsplit, Nat.mul_mod_mul_right, Nat.mul_comm]
  have hsum : (a.rotateRight r).toNat = a.toNat / 2 ^ r + a.toNat % 2 ^ r * 2 ^ (64 - r) := by
    rw [BitVec.toNat_rotateRight, Nat.mod_eq_of_lt hr, Nat.shiftRight_eq_div_pow, Nat.shiftLeft_eq, hhigh, Nat.or_comm,
      ← Nat.two_pow_add_eq_or_of_lt hlow, Nat.add_comm, Nat.mul_comm]
  rw [← hsum, BitVec.ofNat_toNat, BitVec.setWidth_eq]

/-- Bit i of a word lies in the bit field of an immediate. -/
theorem getLsbD_bfMask (imm i : Nat) (h : bfPos imm + bfWidth imm ≤ 64) :
    (bfMask imm).getLsbD i = (decide (bfPos imm ≤ i) && decide (i < bfPos imm + bfWidth imm)) := by
  rw [bfMask, BitVec.getLsbD_ofNat, Nat.testBit_mul_two_pow, Nat.testBit_two_pow_sub_one]
  grind

theorem resBfi_eq (d a : Word) {imm : Nat} (h : imm % 64 + (imm / 64 + 1) ≤ 64) : resBfi d a imm = BitVec.ofNat 64
    (d.toNat / 2 ^ (imm % 64 + (imm / 64 + 1)) * 2 ^ (imm % 64 + (imm / 64 + 1)) + a.toNat % 2 ^ (imm / 64 + 1) * 2 ^ (imm % 64) +
      d.toNat % 2 ^ (imm % 64)) := by
  have hw : bfWidth imm = imm / 64 + 1 := by rw [bfWidth, Nat.mod_eq_of_lt (by omega)]
  apply BitVec.eq_of_getLsbD_eq
  intro i hi
  rw [BitVec.getLsbD_ofNat, resBfi, BitVec.getLsbD_or, BitVec.getLsbD_and, BitVec.getLsbD_and, BitVec.getLsbD_not, getLsbD_bfMask _ _ (hw ▸ h), hw, bfPos]
  generalize imm % 64 = p, imm / 64 + 1 = n at h
  have hlow : d.toNat % 2 ^ p < 2 ^ p := Nat.mod_lt _ (Nat.two_pow_pos p)
  have hfield : 2 ^ p * (a.toNat % 2 ^ n) + d.toNat % 2 ^ p < 2 ^ (p + n) := by
    have := Nat.mod_lt a.toNat (Nat.two_pow_pos n)
    calc 2 ^ p * (a.toNat % 2 ^ n) + d.toNat % 2 ^ p < 2 ^ p * (a.toNat % 2 ^ n + 1) := by rw [Nat.mul_succ]; omega
      _ ≤ 2 ^ (p + n) := by rw [pow_add]; exact Nat.mul_le_mul_left _ this
  rw [Nat.mul_comm _ (2 ^ (p + n)), Nat.mul_comm _ (2 ^ p), Nat.add_assoc, Nat.testBit_two_pow_mul_add _ hfield, Nat.testBit_two_pow_mul_add _ hlow,
    Nat.testBit_mod_two_pow, Nat.testBit_mod_two_pow, Nat.testBit_div_two_pow, BitVec.getLsbD_shiftLeft]
  unfold BitVec.getLsbD
  rcases lt_or_ge i p with hp | hp
  · simp [hi, hp, Nat.not_le.2 hp, Nat.lt_add_right n hp]
  rcases lt_or_ge i (p + n) with hn | hn
  · simp [hi, hp, hn, Nat.not_lt.2 hp, show i - p < n by omega]
  · simp [hi, hp, Nat.not_lt.2 hp, Nat.not_lt.2 hn, Nat.sub_add_cancel hn]

/-- The bit field of a well-formed form ends within the word (R97). -/
theorem bitField_wf {i : Instr} {p : Pfx} {d a : Reg} {imm : Nat} (hi : i = .bfx p d a imm ∨ i = .bfi p d a imm) (hw : i.wf = true) :
    imm % 64 + (imm / 64 + 1) ≤ 64 := by
  obtain ⟨h, hs, hwf⟩ : ∃ h, i.shape = some h ∧ h.wf = true := by
    rcases hi with rfl | rfl <;> exact ⟨_, rfl, hw⟩
  obtain ⟨-, -, -, -, -, himm, -⟩ := Shape.wf_parts hwf
  have hf : h.imm = .field imm := by rcases hi with rfl | rfl <;> cases hs <;> rfl
  simp only [Shape.immOk, hf, Bool.and_eq_true, decide_eq_true_eq] at himm
  exact himm.2

theorem resultOf_shift {x : Reg → Word} {i : Instr} {w : Reg × Word} (hw : i.wf = true) (h : Rules.shift x i = some w) : resultOf x i = some w := by
  unfold Rules.shift at h
  split at h <;> cases h <;> refine congrArg some (Prod.ext rfl ?_)
  case h_1.refl => exact resSll_eq _ _
  case h_2.refl => exact resSrl_eq _ _
  case h_3.refl => exact resSra_eq _ _
  case h_4.refl => exact resRor_eq _ _
  case h_5.refl p d a imm =>
    have := bitField_wf (.inl rfl) hw
    have hmod : imm / 64 % 64 = imm / 64 := Nat.mod_eq_of_lt (by omega)
    simp only [resBfx, bfPos, bfWidth, hmod]
  case h_6.refl => exact resBfi_eq _ _ (bitField_wf (.inr rfl) hw)

/-! ### Divisions (R114) -/

/-- Quotient and remainder of −2^63 by −1. -/
theorem least_by_minus_one : BitVec.ofInt 64 ((0x8000000000000000 : Word).toInt.tdiv (0xFFFFFFFFFFFFFFFF : Word).toInt) = 0x8000000000000000 ∧
    BitVec.ofInt 64 ((0x8000000000000000 : Word).toInt.tmod (0xFFFFFFFFFFFFFFFF : Word).toInt) = 0 := by decide

theorem resultOf_divide {x : Reg → Word} {i : Instr} {w : Reg × Word} (h : Rules.divide x i = some w) : resultOf x i = some w := by
  unfold Rules.divide at h
  split at h <;> cases h <;> refine congrArg some (Prod.ext rfl ?_)
  case h_1.refl =>
    refine if_congr Iff.rfl rfl ?_
    split
    case isTrue h => rw [h.1, h.2, least_by_minus_one.1]
    case isFalse => rfl
  case h_2.refl =>
    refine if_congr Iff.rfl rfl ?_
    split
    case isTrue h => rw [h.1, h.2, least_by_minus_one.2]
    case isFalse => rfl
  case h_3.refl | h_4.refl => rfl

/-! ### Bit counts (R119) -/

/-- Zero bits above the highest 1 among the low n bits. -/
theorem leadingZeros_spec (a : Word) (n : Nat) : leadingZeros a n ≤ n ∧ a.toNat % 2 ^ n < 2 ^ (n - leadingZeros a n) ∧
    (leadingZeros a n < n → 2 ^ (n - 1 - leadingZeros a n) ≤ a.toNat % 2 ^ n) := by
  induction n with
  | zero => simp [leadingZeros, Nat.mod_one]
  | succ n ih =>
    obtain ⟨hle, hlt, hge⟩ := ih
    have hmod : a.toNat % 2 ^ (n + 1) = a.toNat % 2 ^ n + 2 ^ n * (a.getLsbD n).toNat := by
      rw [Nat.mod_pow_succ, ← Nat.toNat_testBit]
      rfl
    have hpow : 2 ^ (n + 1) = 2 ^ n + 2 ^ n := by ring
    have := Nat.mod_lt a.toNat (Nat.two_pow_pos n)
    unfold leadingZeros
    cases hb : a.getLsbD n
    case false =>
      simp only [hb, Bool.toNat_false, Nat.mul_zero, Nat.add_zero] at hmod
      rw [hmod, if_neg (by simp), Nat.add_sub_add_right]
      exact ⟨by omega, hlt, fun h => by simpa [Nat.sub_sub, Nat.add_comm] using hge (by omega)⟩
    case true =>
      simp only [hb, Bool.toNat_true, Nat.mul_one] at hmod
      rw [hmod, if_pos rfl]
      exact ⟨Nat.zero_le _, by rw [Nat.sub_zero]; omega, fun _ => by simp⟩

/-- Zero bits below the lowest 1 from bit i on, where all below i are zero. -/
theorem trailingZeros_spec (a : Word) (n i : Nat) (h : a.toNat % 2 ^ i = 0) : trailingZeros a i n ≤ n ∧ a.toNat % 2 ^ (i + trailingZeros a i n) = 0 ∧
    (trailingZeros a i n < n → a.toNat % 2 ^ (i + trailingZeros a i n + 1) ≠ 0) := by
  induction n generalizing i with
  | zero => simp [trailingZeros, h]
  | succ n ih =>
    have hmod : a.toNat % 2 ^ (i + 1) = 2 ^ i * (a.getLsbD i).toNat := by
      rw [Nat.mod_pow_succ, ← Nat.toNat_testBit, h, Nat.zero_add]
      rfl
    unfold trailingZeros
    cases hb : a.getLsbD i
    case false =>
      obtain ⟨hle, hz, hn⟩ := ih (i + 1) (by simp [hmod, hb])
      rw [if_neg (by simp), ← Nat.add_assoc, Nat.add_right_comm i]
      exact ⟨by omega, hz, fun hlt => hn (by omega)⟩
    case true =>
      rw [if_pos rfl]
      exact ⟨Nat.zero_le _, h, fun _ => by simp [hmod, hb]⟩

theorem resPopc_eq (a : Word) : resPopc a = BitVec.ofNat 64 ((List.range 64).filter fun n => a.toNat.testBit n).length := by
  rw [resPopc, popCount, upFrom_eq_range', ← List.range_eq_range']
  rfl

/-- Settles O1: each form writes the result of `resultOf`, which is the rule's. -/
theorem arithmeticWritesItsResult : Obligations.ArithmeticWritesItsResult := by
  unfold Obligations.ArithmeticWritesItsResult
  refine ⟨fun s i d v hr h => ?_, fun s i d v hr h => exec_result hr (resultOf_divide h), fun s p d a => ⟨fun hr => ?_, fun hr => ?_, fun hr => ?_⟩⟩
  · rcases h with h | ⟨hw, h⟩
    · exact exec_result hr (resultOf_arith h)
    · exact exec_result hr (resultOf_shift hw h)
  · obtain ⟨t, ht, hreg⟩ := exec_result hr (w := (d, resClz (xreg s a))) rfl
    obtain ⟨hle, hlt, hge⟩ := leadingZeros_spec (xreg s a) 64
    have hv : (resClz (xreg s a)).toNat = leadingZeros (xreg s a) 64 := Nat.mod_eq_of_lt (by omega)
    rw [Nat.mod_eq_of_lt (xreg s a).isLt] at hlt hge
    exact ⟨t, _, ht, hreg, by rw [hv]; exact ⟨hle, hlt, hge⟩⟩
  · obtain ⟨t, ht, hreg⟩ := exec_result hr (w := (d, resCtz (xreg s a))) rfl
    obtain ⟨hle, hlt, hge⟩ := trailingZeros_spec (xreg s a) 64 0 (Nat.mod_one _)
    have hv : (resCtz (xreg s a)).toNat = trailingZeros (xreg s a) 0 64 := Nat.mod_eq_of_lt (by omega)
    rw [Nat.zero_add] at hlt hge
    exact ⟨t, _, ht, hreg, by rw [hv]; exact ⟨hle, hlt, hge⟩⟩
  · obtain ⟨t, ht, hreg⟩ := exec_result hr (w := (d, resPopc (xreg s a))) rfl
    exact ⟨t, ht, resPopc_eq _ ▸ hreg⟩

end Sys2Proof.Machine


/-!
PROOFS. Rounding (R102, R103, R107–R111, R114, R115; used for O2, O22 and O23). A magnitude cut at a power of two is described by `Cut.Of`; `roundedAt` is
the number of units that rounding makes of it, which is the rule's (`rounded_roundedAt`). `magnitude_code` gives the magnitude of the code that RoundFP
makes of these units, and the codes of a format rise with their magnitudes.
-/
namespace Sys2Proof.Machine

/-! ### A magnitude cut at a power of two (R108) -/

/-- What the parts of a cut say of a magnitude x in units of the cut. -/
structure Cut.Of (c : Cut) (x : ℚ) : Prop where
  floor : ⌊x⌋ = c.n
  above : c.half = .gt ↔ 1 / 2 < x - c.n
  tie : c.half = .eq ↔ x - c.n = 1 / 2
  exact : c.exact = true ↔ x = c.n
  frac : ⌊(x - c.n) * 2 ^ 32⌋ = c.frac

theorem Cut.Of.whole {n : Nat} {x : ℚ} (h : x = n) : Cut.Of { n := n, half := .lt, exact := true, frac := 0 } x := by
  subst h
  constructor <;> simp

theorem Cut.Of.split (m k : Nat) :
    Cut.Of ⟨m / 2 ^ k, compare (2 * (m % 2 ^ k)) (2 ^ k), m % 2 ^ k == 0, m % 2 ^ k * 2 ^ 32 / 2 ^ k⟩ ((m : ℚ) / 2 ^ k) := by
  have hk : (0 : ℚ) < 2 ^ k := by positivity
  have hrest : (m : ℚ) / 2 ^ k - (m / 2 ^ k : Nat) = (m % 2 ^ k : Nat) / 2 ^ k := by
    rw [eq_div_iff hk.ne', sub_mul, div_mul_cancel₀ _ hk.ne', sub_eq_iff_eq_add']
    exact_mod_cast (Nat.div_add_mod' m (2 ^ k)).symm
  constructor
  case floor => exact_mod_cast Rat.floor_natCast_div_natCast m (2 ^ k)
  case above =>
    rw [hrest, Nat.compare_eq_gt, lt_div_iff₀ hk, div_mul_eq_mul_div, one_mul, div_lt_iff₀ two_pos, mul_comm]
    exact_mod_cast Iff.rfl
  case tie =>
    rw [hrest, Nat.compare_eq_eq, div_eq_div_iff hk.ne' two_ne_zero, one_mul, mul_comm]
    exact_mod_cast Iff.rfl
  case exact =>
    rw [beq_iff_eq, ← sub_eq_zero (a := (m : ℚ) / 2 ^ k), hrest, div_eq_zero_iff, or_iff_left hk.ne']
    exact_mod_cast Iff.rfl
  case frac =>
    rw [hrest, div_mul_eq_mul_div]
    exact_mod_cast Rat.floor_natCast_div_natCast (m % 2 ^ k * 2 ^ 32) (2 ^ k)

/-- `cutAt` cuts m × 2^e at 2^q. -/
theorem cutAt_of (m : Nat) (e q : Int) : Cut.Of (cutAt m e q) (m * 2 ^ e / 2 ^ q) := by
  rw [mul_div_assoc, ← zpow_sub₀ two_ne_zero]
  unfold cutAt
  split
  case isTrue h =>
    refine Cut.Of.whole ?_
    rw [Nat.cast_mul, Nat.cast_pow, Nat.cast_two, ← zpow_natCast, Int.toNat_of_nonneg (sub_nonneg.2 h)]
  case isFalse h =>
    have hk : e - q = -((q - e).toNat : Int) := by omega
    rw [hk, zpow_neg, zpow_natCast, ← div_eq_mul_inv]
    exact Cut.Of.split m _

/-- The units of 2^q that m × 2^e is rounded to. -/
def roundedAt (mode : RMode) (neg : Bool) (g m : Nat) (e q : Int) : Nat :=
  if roundsUp mode neg (cutAt m e q) g then (cutAt m e q).n + 1 else (cutAt m e q).n

theorem units_of_up {up : Prop} {r : Bool} (h : r = true ↔ up) (n : Nat) (q : ℚ) :
    (up → ((if r then n + 1 else n : Nat) : ℚ) * q = (n + 1) * q) ∧ (¬ up → ((if r then n + 1 else n : Nat) : ℚ) * q = n * q) := by
  rw [← h]
  cases r <;> simp

/-- The rule's condition for rounding up is the model's (R108, R111). -/
theorem Cut.Of.rounded {c : Cut} {a q : ℚ} (h : Cut.Of c (a / q)) (mode : RMode) (neg : Bool) (g : Nat) :
    Rules.Rounded q mode neg g a ((if roundsUp mode neg c g then c.n + 1 else c.n : Nat) * q) := by
  have hpos : c.exact = false ↔ 0 < a / q - c.n := by
    have := Int.floor_le (a / q)
    rw [h.floor, Int.cast_natCast] at this
    rw [← Bool.not_eq_true, h.exact, ← sub_eq_zero]
    exact ⟨fun hne => lt_of_le_of_ne (by linarith) (Ne.symm hne), ne_of_gt⟩
  unfold Rules.Rounded
  simp only [h.floor, Int.cast_natCast]
  cases mode <;> refine units_of_up ?_ _ _
  case rne =>
    rw [roundsUp, Bool.or_eq_true, Bool.and_eq_true, beq_iff_eq, beq_iff_eq, beq_iff_eq, h.above, h.tie]
    norm_cast
  case rtz => simp [roundsUp]
  case rdn | rup => simp [roundsUp, hpos]
  case rna =>
    have : c.half ≠ .lt ↔ c.half = .gt ∨ c.half = .eq := by cases c.half <;> simp
    rw [roundsUp, bne_iff_ne, this, h.above, h.tie, le_iff_lt_or_eq, eq_comm (a := (1 / 2 : ℚ))]
  case sr =>
    rw [roundsUp, decide_eq_true_eq, h.frac]
    norm_cast

theorem rounded_roundedAt (mode : RMode) (neg : Bool) (g m : Nat) (e q : Int) :
    Rules.Rounded (2 ^ q) mode neg g (m * 2 ^ e) (roundedAt mode neg g m e q * 2 ^ q) := (cutAt_of m e q).rounded mode neg g

/-- An exact cut is not rounded up. -/
theorem Cut.Of.not_up {c : Cut} {x : ℚ} (h : Cut.Of c x) (he : c.exact = true) (mode : RMode) (neg : Bool) {g : Nat} (hg : g < 2 ^ 32) :
    roundsUp mode neg c g = false := by
  have hx : x - c.n = 0 := sub_eq_zero.2 (h.exact.1 he)
  have hgt : c.half ≠ .gt := fun e => by have := h.above.1 e; rw [hx] at this; norm_num at this
  have heq : c.half ≠ .eq := fun e => by have := h.tie.1 e; rw [hx] at this; norm_num at this
  have hfrac : c.frac = 0 := by have := h.frac; rw [hx] at this; simpa using this.symm
  have hlt : c.half = .lt := by cases hc : c.half <;> simp_all
  cases mode <;> simp [roundsUp, he, hlt, hfrac]
  exact hg

/-- Rounding leaves a magnitude as it is where the cut is exact, and only there. -/
theorem roundedAt_eq_iff (mode : RMode) (neg : Bool) {g : Nat} (hg : g < 2 ^ 32) (m : Nat) (e q : Int) :
    (roundedAt mode neg g m e q * 2 ^ q : ℚ) = m * 2 ^ e ↔ (cutAt m e q).exact = true := by
  have hc := cutAt_of m e q
  rw [← eq_div_iff (zpow_ne_zero q two_ne_zero), roundedAt]
  refine ⟨fun h => hc.exact.2 ?_, fun h => ?_⟩
  · have hfl := hc.floor
    rw [← h, Int.floor_natCast] at hfl
    rw [← h]
    exact_mod_cast hfl
  · rw [hc.not_up h mode neg hg]
    exact (hc.exact.1 h).symm

/-! ### Magnitudes of codes (R103) -/

/-- The magnitude of n units of the spacing of an exponent, as a code. -/
theorem magnitude_code (f : FFmt) {d n : Nat} (hn : n ≤ 2 ^ (f.man + 1)) (hd : d = 0 ∨ 2 ^ f.man ≤ n) :
    Rules.magnitude f (d * 2 ^ f.man + n) = n * 2 ^ (f.emin - f.man + d) := by
  have hp : 0 < 2 ^ f.man := Nat.two_pow_pos _
  have code (k r : Nat) (hr : r < 2 ^ f.man) : (k * 2 ^ f.man + r) / 2 ^ f.man = k ∧ (k * 2 ^ f.man + r) % 2 ^ f.man = r := by
    rw [Nat.mul_comm, Nat.mul_add_div hp, Nat.mul_add_mod, Nat.div_eq_of_lt hr, Nat.mod_eq_of_lt hr]
    exact ⟨rfl, rfl⟩
  unfold Rules.magnitude FFmt.emin
  rcases Nat.lt_or_ge n (2 ^ f.man) with hlt | hge
  · obtain rfl : d = 0 := hd.resolve_right (by omega)
    obtain ⟨hq, hr⟩ := code 0 n hlt
    simp only [hq, hr, if_true, Nat.cast_zero, add_zero]
  rcases Nat.lt_or_eq_of_le hn with hlt | rfl
  · obtain ⟨hq, hr⟩ := code (d + 1) (n - 2 ^ f.man) (by rw [pow_succ] at hlt; omega)
    have hc : d * 2 ^ f.man + n = (d + 1) * 2 ^ f.man + (n - 2 ^ f.man) := by rw [Nat.succ_mul]; omega
    simp only [hc, hq, hr, Nat.succ_ne_zero, if_false]
    rw [Nat.cast_sub hge, add_comm, Nat.cast_pow, Nat.cast_two, sub_add_cancel]
    congr 2
    push_cast
    ring
  · obtain ⟨hq, hr⟩ := code (d + 2) 0 hp
    have hc : d * 2 ^ f.man + 2 ^ (f.man + 1) = (d + 2) * 2 ^ f.man + 0 := by ring
    simp only [hc, hq, hr, Nat.succ_ne_zero, if_false]
    push_cast
    rw [add_zero, pow_succ, mul_assoc, ← zpow_one_add₀ two_ne_zero]
    congr 2
    ring

/-- Every code is a number of units of its exponent. -/
theorem code_units (f : FFmt) (c : Nat) : ∃ d n, c = d * 2 ^ f.man + n ∧ n < 2 ^ (f.man + 1) ∧ (d = 0 ∨ 2 ^ f.man ≤ n) := by
  have hp := Nat.two_pow_pos f.man
  rcases Nat.lt_or_ge c (2 ^ f.man) with hlt | hge
  · exact ⟨0, c, by simp, by rw [pow_succ]; omega, .inl rfl⟩
  · refine ⟨c / 2 ^ f.man - 1, c % 2 ^ f.man + 2 ^ f.man, ?_, ?_, .inr (Nat.le_add_left _ _)⟩
    · have hq : 1 ≤ c / 2 ^ f.man := (Nat.one_le_div_iff hp).2 hge
      rw [Nat.sub_mul, Nat.one_mul]
      have := Nat.div_add_mod' c (2 ^ f.man)
      have := Nat.mul_le_mul_right (2 ^ f.man) hq
      omega
    · have := Nat.mod_lt c hp
      rw [pow_succ]
      omega

/-- The codes of a format rise with their magnitudes. -/
theorem magnitude_strictMono (f : FFmt) : StrictMono (Rules.magnitude f) := by
  refine strictMono_nat_of_lt_succ fun c => ?_
  obtain ⟨d, n, rfl, hn, hd⟩ := code_units f c
  rw [Nat.add_assoc, magnitude_code f hn.le hd, magnitude_code f hn (hd.imp_right (Nat.le_succ_of_le))]
  push_cast
  have : (0 : ℚ) < 2 ^ (f.emin - f.man + d) := by positivity
  linarith

theorem magnitude_zero (f : FFmt) : Rules.magnitude f 0 = 0 := by simp [Rules.magnitude]

/-- The least normal magnitude. -/
theorem magnitude_normal (f : FFmt) : Rules.magnitude f (2 ^ f.man) = 2 ^ f.emin := by
  have := magnitude_code f (d := 0) (n := 2 ^ f.man) (Nat.pow_le_pow_right two_pos (Nat.le_succ _)) (.inl rfl)
  rw [Nat.zero_mul, Nat.zero_add] at this
  rw [this, Nat.cast_pow, Nat.cast_two, ← zpow_natCast, ← zpow_add₀ two_ne_zero, Nat.cast_zero, add_zero, add_sub_cancel]

theorem magnitude_nonneg (f : FFmt) (c : Nat) : 0 ≤ Rules.magnitude f c :=
  magnitude_zero f ▸ (magnitude_strictMono f).monotone (Nat.zero_le c)

end Sys2Proof.Machine


/-!
PROOFS. Numbers and their rounding (O2, with the file before): the values of codes, RoundFP against the rule (`roundFP_delivers`), exact sums, products and
fused sums, and the rounding to an integer.
-/
namespace Sys2Proof.Machine

/-! ### The six formats (R102) -/

/-- What the rounding rule needs of a format: its normal codes and its largest finite code lie below infinity's, and all in its bits. -/
structure FFmt.Sound (f : FFmt) : Prop where
  normal : 2 ^ f.man ≤ f.maxCode
  finite : f.maxCode < 2 ^ (f.bits - 1)
  infinite : ∀ i ∈ f.infCode, f.maxCode < i ∧ i < 2 ^ (f.bits - 1)
  nan : f.nanCode < 2 ^ f.bits

theorem sound_of_mem {f : FFmt} (hf : f ∈ [fp32, fp16, bf16, e5m2, e4m3, e2m1]) : f.Sound := by
  simp only [List.mem_cons, List.not_mem_nil, or_false] at hf
  rcases hf with rfl | rfl | rfl | rfl | rfl | rfl <;> constructor <;> decide

/-- The sign bit that the rule writes is the model's. -/
theorem signed_eq (f : FFmt) (neg : Bool) (c : Nat) : signed f neg c = (if neg then 2 ^ (f.bits - 1) else 0) + c := by
  cases neg <;> simp [signed]

/-- The model's code of an overflow is the rule's (R109). -/
theorem overflow_eq_overflowed {f : FFmt} (hf : f ∈ [fp32, fp16, bf16, e5m2, e4m3, e2m1]) (mode : RMode) (sat neg : Bool) :
    overflow f mode sat neg = Rules.overflowed f mode sat neg := by
  simp only [List.mem_cons, List.not_mem_nil, or_false] at hf
  rcases hf with rfl | rfl | rfl | rfl | rfl | rfl <;> cases mode <;> cases sat <;> cases neg <;> decide

/-! ### Finite values and their worth (R103) -/

theorem worth_eq_zero {neg : Bool} {m : Nat} {e : Int} : Rules.worth (.num neg m e) = 0 ↔ m = 0 := by
  cases neg <;> simp [Rules.worth, zpow_ne_zero]

theorem worth_neg_iff {neg : Bool} {m : Nat} {e : Int} (hm : m ≠ 0) : Rules.worth (.num neg m e) < 0 ↔ neg = true := by
  have hpos : (0 : ℚ) < m * 2 ^ e := mul_pos (by exact_mod_cast Nat.pos_of_ne_zero hm) (by positivity)
  cases neg
  · simp [Rules.worth, hpos.le]
  · simpa [Rules.worth] using hpos

/-- A number is of its own worth; the sign asked of a zero is to be its own. -/
theorem finite_num {neg zero : Bool} {m : Nat} {e : Int} {w : ℚ} (hw : Rules.worth (.num neg m e) = w) (hz : m = 0 → neg = zero) :
    Rules.finite (.num neg m e) w zero := by
  subst hw
  refine ⟨neg, m, e, rfl, rfl, ?_⟩
  split
  case isTrue h => exact hz (worth_eq_zero.1 h)
  case isFalse h =>
    rw [Bool.eq_iff_iff, decide_eq_true_eq, worth_neg_iff (mt worth_eq_zero.2 h)]

/-- The sign and the magnitude code of an encoding. -/
theorem valueOf_signed {f : FFmt} {c : Nat} (hc : c < 2 ^ (f.bits - 1)) (ftz neg : Bool) :
    valueOf f ftz ((if neg then 2 ^ (f.bits - 1) else 0) + c) =
      if f.infCode = some c then .inf neg
      else if f.maxCode < c then .nan (f.infCode.isSome && decide (c / 2 ^ (f.man - 1) % 2 = 0))
      else if c / 2 ^ f.man = 0 then .num neg (if ftz && f.ftz then 0 else c % 2 ^ f.man) (f.emin - f.man)
      else .num neg (c % 2 ^ f.man + 2 ^ f.man) (f.emin - f.man + (c / 2 ^ f.man - 1 : Nat)) := by
  have hmod : ((if neg then 2 ^ (f.bits - 1) else 0) + c) % 2 ^ (f.bits - 1) = c := by
    cases neg <;> simp [Nat.mod_eq_of_lt hc]
  have hneg : decide (((if neg then 2 ^ (f.bits - 1) else 0) + c) / 2 ^ (f.bits - 1) % 2 = 1) = neg := by
    cases neg <;> simp [Nat.div_eq_of_lt hc, Nat.add_div_left]
  simp only [valueOf, hmod, hneg]

/-- The magnitude of a normal code (R103). -/
theorem magnitude_of_normal {f : FFmt} {c : Nat} (h : c / 2 ^ f.man ≠ 0) :
    Rules.magnitude f c = (c % 2 ^ f.man + 2 ^ f.man : Nat) * 2 ^ (f.emin - f.man + (c / 2 ^ f.man - 1 : Nat)) := by
  simp only [Rules.magnitude, if_neg h, FFmt.emin]
  rw [Nat.cast_sub (Nat.pos_of_ne_zero h), Nat.cast_add, add_comm, Nat.cast_pow, Nat.cast_two]
  congr 2
  push_cast
  ring

/-- An encoding of a finite value stands for its magnitude under its sign; FTZ reads a subnormal as a zero (R103, R107). -/
theorem valueOf_finite {f : FFmt} (hf : f.Sound) (ftz neg : Bool) {c : Nat} (hc : c ≤ f.maxCode) :
    Rules.finite (valueOf f ftz ((if neg then 2 ^ (f.bits - 1) else 0) + c))
      ((if neg then -1 else 1) * if ftz = true ∧ f.ftz = true ∧ c < 2 ^ f.man then 0 else Rules.magnitude f c) neg := by
  have hinf : f.infCode ≠ some c := fun h => absurd (hf.infinite c h).1 (by omega)
  rw [valueOf_signed (by have := hf.finite; omega), if_neg hinf, if_neg (by omega)]
  have hp := Nat.two_pow_pos f.man
  split
  case isTrue h =>
    have hlt := (Nat.div_eq_zero_iff_lt hp).1 h
    refine finite_num ?_ fun _ => rfl
    rw [Rules.worth, mul_assoc]
    congr 1
    simp only [hlt, and_true, Bool.and_eq_true]
    split <;> simp [Rules.magnitude, h, FFmt.emin]
  case isFalse h =>
    have hge : ¬ c < 2 ^ f.man := fun hlt => h (Nat.div_eq_of_lt hlt)
    refine finite_num ?_ fun _ => rfl
    rw [if_neg (c := ftz = true ∧ f.ftz = true ∧ c < 2 ^ f.man) fun ⟨_, _, hlt⟩ => hge hlt, Rules.worth, mul_assoc, magnitude_of_normal h]

/-! ### RoundFP (R108–R111, R115) -/

/-- The exponent of m × 2^e. -/
theorem log_scaled {m : Nat} (hm : m ≠ 0) (e : Int) : Int.log 2 (m * 2 ^ e : ℚ) = Nat.log2 m + e := by
  have hm' : (0 : ℚ) < m := by exact_mod_cast Nat.pos_of_ne_zero hm
  have hpos : (0 : ℚ) < m * 2 ^ e := by positivity
  refine le_antisymm (Int.lt_add_one_iff.1 ?_) ?_
  · rw [← Int.lt_zpow_iff_log_lt one_lt_two hpos, add_right_comm, Nat.cast_ofNat, zpow_add₀ two_ne_zero,
      mul_lt_mul_iff_of_pos_right (by positivity)]
    exact_mod_cast Nat.lt_log2_self (n := m)
  · rw [← Int.zpow_le_iff_le_log one_lt_two hpos, Nat.cast_ofNat, zpow_add₀ two_ne_zero, mul_le_mul_iff_of_pos_right (by positivity)]
    exact_mod_cast Nat.log2_self_le hm

/-- RoundFP of a number other than 0: its units at the exponent of the result, and the code of these units. -/
theorem roundFP_num (neg : Bool) {m : Nat} (hm : m ≠ 0) (e : Int) (f : FFmt) (mode : RMode) (sat ftz : Bool) (g : Nat) {ex : Int} {mag : Nat}
    (hex : ex = max (Nat.log2 m + e) f.emin) (hmag : mag = (ex - f.emin).toNat * 2 ^ f.man + roundedAt mode neg g m e (ex - f.man)) :
    roundFP (.num neg m e) f mode sat ftz g =
      if f.maxCode < mag then (overflow f mode sat neg, { of := true, nx := true })
      else if ftz && f.ftz && decide (0 < mag) && decide (mag < 2 ^ f.man) then (signed f neg 0, { uf := true, nx := true })
      else (signed f neg mag, { nx := !(cutAt m e (ex - f.man)).exact, uf := !(cutAt m e (ex - f.man)).exact && decide (Nat.log2 m + e < f.emin) }) := by
  obtain ⟨m, rfl⟩ := Nat.exists_eq_add_one_of_ne_zero hm
  have hmax : (if (Nat.log2 (m + 1) : Int) + e < f.emin then f.emin else Nat.log2 (m + 1) + e) = ex := by
    subst hex
    split
    case isTrue h => exact (max_eq_right h.le).symm
    case isFalse h => exact (max_eq_left (not_lt.1 h)).symm
  simp only [roundFP, hmax]
  rw [hmag]
  rfl

/-- The units of a number at the exponent of its result: no more than a carry beyond the format's digits, and normal above the least exponent. -/
theorem roundedAt_range {m : Nat} (hm : m ≠ 0) (e : Int) (f : FFmt) (mode : RMode) (neg : Bool) (g : Nat) {ex : Int}
    (hex : ex = max (Nat.log2 m + e) f.emin) :
    roundedAt mode neg g m e (ex - f.man) ≤ 2 ^ (f.man + 1) ∧
      ((ex - f.emin).toNat = 0 ∨ 2 ^ f.man ≤ roundedAt mode neg g m e (ex - f.man)) := by
  have hfloor := (cutAt_of m e (ex - f.man)).floor
  set n := (cutAt m e (ex - f.man)).n
  have hm' : (0 : ℚ) < m := by exact_mod_cast Nat.pos_of_ne_zero hm
  have hpos : (0 : ℚ) < m * 2 ^ e := by positivity
  have hlog := log_scaled hm e
  have hlt : n < 2 ^ (f.man + 1) := by
    have : (⌊(m * 2 ^ e / 2 ^ (ex - f.man) : ℚ)⌋) < ((2 ^ (f.man + 1) : Nat) : Int) := by
      rw [Int.floor_lt, div_lt_iff₀ (by positivity)]
      push_cast
      rw [← zpow_natCast, ← zpow_add₀ two_ne_zero]
      refine (Int.lt_zpow_iff_log_lt one_lt_two hpos).2 ?_
      rw [hlog]
      push_cast
      omega
    omega
  have hround : n ≤ roundedAt mode neg g m e (ex - f.man) ∧ roundedAt mode neg g m e (ex - f.man) ≤ n + 1 := by
    unfold roundedAt
    split <;> omega
  refine ⟨by omega, or_iff_not_imp_left.2 fun hk => le_trans ?_ hround.1⟩
  have : ((2 ^ f.man : Nat) : Int) ≤ ⌊(m * 2 ^ e / 2 ^ (ex - f.man) : ℚ)⌋ := by
    rw [Int.le_floor, le_div_iff₀ (by positivity)]
    push_cast
    rw [← zpow_natCast, ← zpow_add₀ two_ne_zero]
    refine (Int.zpow_le_iff_le_log one_lt_two hpos).2 ?_
    rw [hlog]
    omega
  omega

/-- RoundFP delivers the rounded magnitude of every number. -/
theorem roundFP_delivers {f : FFmt} (hf : f ∈ [fp32, fp16, bf16, e5m2, e4m3, e2m1]) (mode : RMode) (sat ftz neg : Bool) {g : Nat} (hg : g < 2 ^ 32)
    (m : Nat) (e : Int) :
    Rules.Delivers f mode sat ftz g neg (m * 2 ^ e) (roundFP (.num neg m e) f mode sat ftz g).1 (roundFP (.num neg m e) f mode sat ftz g).2 := by
  rcases eq_or_ne m 0 with rfl | hm
  · refine ⟨fun _ => ⟨signed_eq f neg 0, rfl⟩, fun h => ?_⟩
    simp at h
  have hm' : (0 : ℚ) < m := by exact_mod_cast Nat.pos_of_ne_zero hm
  have hpos : (0 : ℚ) < m * 2 ^ e := by positivity
  refine ⟨fun h => absurd h hpos.ne', fun _ => ?_⟩
  have hlog := log_scaled hm e
  obtain ⟨ex, hex⟩ : ∃ ex : Int, ex = max (Nat.log2 m + e) f.emin := ⟨_, rfl⟩
  obtain ⟨n, hn⟩ : ∃ n, n = roundedAt mode neg g m e (ex - f.man) := ⟨_, rfl⟩
  obtain ⟨mag, hmag⟩ : ∃ mag, mag = (ex - f.emin).toNat * 2 ^ f.man + n := ⟨_, rfl⟩
  obtain ⟨hle, hge⟩ := roundedAt_range hm e f mode neg g hex
  rw [← hn] at hle hge
  have hvalue : Rules.magnitude f mag = n * 2 ^ (ex - f.man) := by
    rw [hmag, magnitude_code f hle hge]
    congr 2
    omega
  have hmono (a b : Nat) : Rules.magnitude f a < Rules.magnitude f b ↔ a < b := (magnitude_strictMono f).lt_iff_lt
  have hzero (b : Nat) : 0 < Rules.magnitude f b ↔ 0 < b := by rw [← hmono, magnitude_zero]
  have hexact : (n * 2 ^ (ex - f.man) : ℚ) = m * 2 ^ e ↔ (cutAt m e (ex - f.man)).exact = true := hn ▸ roundedAt_eq_iff mode neg hg m e _
  have hsub : (m * 2 ^ e : ℚ) < Rules.magnitude f (2 ^ f.man) ↔ Nat.log2 m + e < f.emin := by
    rw [magnitude_normal, ← hlog]
    exact Int.lt_zpow_iff_log_lt one_lt_two hpos
  have hspace : max (Int.log 2 (m * 2 ^ e : ℚ)) (1 - f.bias) - f.man = ex - f.man := by rw [hlog, hex]; rfl
  refine ⟨n * 2 ^ (ex - f.man), by rw [hspace, hn]; exact rounded_roundedAt mode neg g m e _, ?_⟩
  rw [roundFP_num neg hm e f mode sat ftz g hex (hn ▸ hmag), ← hvalue]
  simp only [hmono, hzero]
  split
  case isTrue h => exact ⟨overflow_eq_overflowed hf mode sat neg, rfl⟩
  case isFalse h =>
    simp only [Bool.and_eq_true, decide_eq_true_eq, and_assoc]
    split
    case isTrue _ => exact ⟨signed_eq f neg 0, rfl⟩
    case isFalse _ =>
      refine ⟨⟨mag, not_lt.1 h, signed_eq f neg mag, rfl⟩, ?_⟩
      rw [hvalue]
      simp only [ne_eq, hexact, hsub]
      simp only [Bool.not_eq_true, Bool.decide_and, Bool.decide_eq_false]

/-- RoundFP of an infinity (R110). -/
theorem roundFP_inf {f : FFmt} (hf : f ∈ [fp32, fp16, bf16, e5m2, e4m3, e2m1]) (mode : RMode) (sat ftz neg : Bool) (g : Nat) :
    roundFP (.inf neg) f mode sat ftz g =
      if sat = true ∨ f = e2m1 then ((if neg then 2 ^ (f.bits - 1) else 0) + f.maxCode, { nv := true })
      else if f = e4m3 then (0x7F, { nv := true }) else ((if neg then 2 ^ (f.bits - 1) else 0) + f.infCode.getD 0, {}) := by
  simp only [List.mem_cons, List.not_mem_nil, or_false] at hf
  rcases hf with rfl | rfl | rfl | rfl | rfl | rfl <;> cases sat <;> cases neg <;> rfl

/-- RoundFP of a NaN (R106, R110). -/
theorem roundFP_nan {f : FFmt} (hf : f ∈ [fp32, fp16, bf16, e5m2, e4m3, e2m1]) (mode : RMode) (sat ftz b : Bool) (g : Nat) :
    roundFP (.nan b) f mode sat ftz g = (f.nanCode, { nv := b || decide (f = e2m1) }) := by
  simp only [List.mem_cons, List.not_mem_nil, or_false] at hf
  rcases hf with rfl | rfl | rfl | rfl | rfl | rfl <;> cases b <;> rfl

/-! ### Exact sums and products (R106, R114) -/

theorem scaled_worth (neg : Bool) (m : Nat) {e q : Int} (h : q ≤ e) : (scaled neg m e q : ℚ) * 2 ^ q = Rules.worth (.num neg m e) := by
  have hpow : (2 : ℚ) ^ (e - q).toNat * 2 ^ q = 2 ^ e := by
    rw [← zpow_natCast, Int.toNat_of_nonneg (sub_nonneg.2 h), ← zpow_add₀ two_ne_zero, sub_add_cancel]
  cases neg <;> simp [scaled, Rules.worth, mul_assoc, hpow]

/-- The worth of a signed integer at an exponent. -/
theorem worth_of_int (t q : Int) : Rules.worth (.num (decide (t < 0)) t.natAbs q) = t * 2 ^ q := by
  rcases lt_or_ge t 0 with h | h
  · simp [Rules.worth, h, Nat.cast_natAbs, abs_of_neg h]
  · simp [Rules.worth, not_lt.2 h, Nat.cast_natAbs, abs_of_nonneg h]


/-- The exact sum of two numbers; the sign of a zero is the operands' where they have one, and else of the mode (R106). -/
theorem addVal_num (mode : RMode) (nx ny : Bool) (mx my : Nat) (ex ey : Int) :
    (addVal mode (.num nx mx ex) (.num ny my ey)).2 = false ∧
      Rules.finite (addVal mode (.num nx mx ex) (.num ny my ey)).1 (Rules.worth (.num nx mx ex) + Rules.worth (.num ny my ey))
        (if nx = ny then nx else mode == .rdn) := by
  simp only [addVal]
  set q := if ex < ey then ex else ey with hq
  have hx : q ≤ ex := by rw [hq]; split <;> omega
  have hy : q ≤ ey := by rw [hq]; split <;> omega
  rw [← scaled_worth nx mx hx, ← scaled_worth ny my hy, ← add_mul]
  split
  case isTrue h =>
    refine ⟨rfl, finite_num ?_ fun _ => rfl⟩
    rw [← Int.cast_add, h]
    simp [Rules.worth]
  case isFalse h =>
    refine ⟨rfl, finite_num ?_ fun h0 => absurd (Int.natAbs_eq_zero.1 h0) h⟩
    rw [worth_of_int, Int.cast_add]

theorem worth_product (nx ny : Bool) (mx my : Nat) (ex ey : Int) :
    Rules.worth (.num (nx != ny) (mx * my) (ex + ey)) = Rules.worth (.num nx mx ex) * Rules.worth (.num ny my ey) := by
  simp only [Rules.worth]
  rw [zpow_add₀ two_ne_zero, Nat.cast_mul]
  cases nx <;> cases ny <;> simp <;> ring

/-- The exact product of two numbers. -/
theorem mulVal_num (nx ny : Bool) (mx my : Nat) (ex ey : Int) :
    Rules.finite (mulVal (.num nx mx ex) (.num ny my ey)).1 (Rules.worth (.num nx mx ex) * Rules.worth (.num ny my ey)) (nx != ny) :=
  finite_num (worth_product nx ny mx my ex ey) fun _ => rfl

/-- The exact fused sum of numbers. -/
theorem fmaVal_num (mode : RMode) (nx ny nz : Bool) (mx my mz : Nat) (ex ey ez : Int) :
    (fmaVal mode (.num nx mx ex) (.num ny my ey) (.num nz mz ez)).2 = false ∧
      Rules.finite (fmaVal mode (.num nx mx ex) (.num ny my ey) (.num nz mz ez)).1
        (Rules.worth (.num nx mx ex) * Rules.worth (.num ny my ey) + Rules.worth (.num nz mz ez)) (if (nx != ny) = nz then nz else mode == .rdn) := by
  obtain ⟨hnv, hsum⟩ := addVal_num mode (nx != ny) nz (mx * my) mz (ex + ey) ez
  refine ⟨by simpa [fmaVal, mulVal] using hnv, ?_⟩
  rw [← worth_product]
  have hsign : (if (nx != ny) = nz then nx != ny else mode == .rdn) = if (nx != ny) = nz then nz else mode == .rdn := by
    split <;> simp_all
  exact hsign ▸ hsum

/-! ### Sums and products of NaNs and infinities (R106, R115) -/

theorem addVal_nan_left (mode : RMode) (b : Bool) (v : Val) : addVal mode (.nan b) v = (.nan false, b || v.signalling) := by
  cases v <;> rfl

theorem addVal_nan_right (mode : RMode) (b : Bool) (v : Val) : addVal mode v (.nan b) = (.nan false, b || v.signalling) := by
  cases v with
  | nan s => exact congrArg _ (Bool.or_comm s b)
  | inf | num => rfl

theorem mulVal_nan_left (b : Bool) (v : Val) : mulVal (.nan b) v = (.nan false, b || v.signalling) := by
  cases v <;> rfl

theorem mulVal_nan_right (b : Bool) (v : Val) : mulVal v (.nan b) = (.nan false, b || v.signalling) := by
  cases v with
  | nan s => exact congrArg _ (Bool.or_comm s b)
  | inf | num => rfl

theorem mulVal_inf_left (n k : Bool) (m : Nat) (e : Int) :
    mulVal (.inf n) (.num k m e) = (if m = 0 then .nan false else .inf (n != k), m == 0) := by
  cases m <;> rfl

theorem mulVal_inf_right (n k : Bool) (m : Nat) (e : Int) :
    mulVal (.num k m e) (.inf n) = (if m = 0 then .nan false else .inf (k != n), m == 0) := by
  cases m with
  | zero => rfl
  | succ m => simp [mulVal, Val.isZero, Val.neg, Bool.xor_comm]

theorem addVal_inf_inf (mode : RMode) (n k : Bool) : addVal mode (.inf n) (.inf k) = (if n = k then .inf n else .nan false, n != k) := by
  cases n <;> cases k <;> rfl

/-- A fused sum is a NaN where its product is one. -/
theorem fmaVal_of_nan (mode : RMode) {x y : Val} {b : Bool} (h : mulVal x y = (.nan false, b)) (z : Val) :
    fmaVal mode x y z = (.nan false, b || z.signalling) := by
  simp [fmaVal, h, addVal_nan_left]

/-- A fused sum whose product is infinite. -/
theorem fmaVal_of_inf (mode : RMode) {x y : Val} {n : Bool} (h : mulVal x y = (.inf n, false)) (z : Val) :
    fmaVal mode x y z = match z with
      | .nan b => (.nan false, b)
      | .inf j => if n = j then (.inf j, false) else (.nan false, true)
      | .num _ _ _ => (.inf n, false) := by
  cases z with
  | nan b => simp [fmaVal, h, addVal_nan_right, Val.signalling]
  | inf j => cases n <;> cases j <;> simp [fmaVal, h, addVal]
  | num => simp [fmaVal, h, addVal]

/-- The fused sums with a NaN or an infinity among their operands (R106, R115). -/
theorem fmaVal_special (mode : RMode) (x y z : Val) :
    ((∃ b, x = .nan b) ∨ (∃ b, y = .nan b) → fmaVal mode x y z = (.nan false, x.signalling || y.signalling || z.signalling)) ∧
      (∀ n k e, x = .inf n ∧ y = .num k 0 e ∨ x = .num k 0 e ∧ y = .inf n → fmaVal mode x y z = (.nan false, true)) ∧
      (∀ n k m e, x = .inf n ∧ (y = .inf k ∨ y = .num k (m + 1) e) ∨ x = .num n (m + 1) e ∧ y = .inf k →
        fmaVal mode x y z = match z with
          | .nan b => (.nan false, b)
          | .inf j => if (n != k) = j then (.inf j, false) else (.nan false, true)
          | .num _ _ _ => (.inf (n != k), false)) ∧
      (∀ n k m m' e e', x = .num n m e → y = .num k m' e' → (∀ b, z = .nan b → fmaVal mode x y z = (.nan false, b)) ∧
        ∀ j, z = .inf j → fmaVal mode x y z = (.inf j, false)) := by
  refine ⟨?ofNan, ?ofInvalid, ?ofInf, ?ofNum⟩
  case ofNan =>
    rintro (⟨b, rfl⟩ | ⟨b, rfl⟩)
    · exact fmaVal_of_nan mode (mulVal_nan_left b y) z
    · rw [fmaVal_of_nan mode (mulVal_nan_right b x) z, Bool.or_comm b]
      rfl
  case ofInvalid =>
    rintro n k e (⟨rfl, rfl⟩ | ⟨rfl, rfl⟩)
    · exact fmaVal_of_nan mode (mulVal_inf_left n k 0 e) z
    · exact fmaVal_of_nan mode (mulVal_inf_right n k 0 e) z
  case ofInf =>
    rintro n k m e (⟨rfl, rfl | rfl⟩ | ⟨rfl, rfl⟩)
    · exact fmaVal_of_inf mode rfl z
    · exact fmaVal_of_inf mode (mulVal_inf_left n k (m + 1) e) z
    · exact fmaVal_of_inf mode (mulVal_inf_right k n (m + 1) e) z
  case ofNum =>
    rintro n k m m' e e' rfl rfl
    exact ⟨by rintro b rfl; cases b <;> rfl, by rintro j rfl; rfl⟩

/-! ### Rounding to an integer (R114) -/

/-- The rounding of a number to a signed integer: the rounded magnitude under its sign, or the bound where it does not fit. -/
theorem roundInt_num {n : Nat} (mode : RMode) (sat neg : Bool) {g : Nat} (hg : g < 2 ^ 32) (m : Nat) (e : Int) :
    ∃ k : ℤ, Rules.Rounded 1 mode neg g (m * (2 : ℚ) ^ e) k ∧
      let r := if neg then -k else k
      roundInt (.num neg m e) n true mode sat g =
        if r < -2 ^ (n - 1) ∨ 2 ^ (n - 1) - 1 < r then
          (if sat = false ∨ neg = true then BitVec.ofInt n (-2 ^ (n - 1)) else BitVec.ofInt n (2 ^ (n - 1) - 1), { of := true, nx := true })
        else (BitVec.ofInt n r, { nx := decide ((k : ℚ) ≠ m * (2 : ℚ) ^ e) }) := by
  refine ⟨roundedAt mode neg g m e 0, ?_, ?_⟩
  · have := rounded_roundedAt mode neg g m e 0
    simpa using this
  · have hexact := roundedAt_eq_iff mode neg hg m e 0
    rw [zpow_zero, mul_one] at hexact
    have hbound (least most : BitVec n) :
        (if sat then if neg then least else most else least) = if sat = false ∨ neg = true then least else most := by
      cases sat <;> cases neg <;> rfl
    simp only [Int.cast_natCast, ne_eq, hexact, roundInt, ← roundedAt.eq_def, Nat.cast_pow, Nat.cast_ofNat, if_true, apply_ite (BitVec.ofInt n),
      hbound, Bool.not_eq_true, Bool.decide_eq_false]

/-- Settles O2: RoundFP by the rounded number of units of the result's spacing and its code, the exact sums and products by the numbers that values
stand for. -/
theorem numbersRoundByTheRule : Obligations.NumbersRoundByTheRule := by
  refine ⟨?value, ?round, ?exact, ?nan, ?fused, ?int⟩
  case value =>
    rintro f hf ftz neg c x hc rfl
    have hs := sound_of_mem hf
    refine ⟨valueOf_finite hs ftz neg, fun h => ?_, fun hmax hinf => ?_⟩
    · rw [valueOf_signed hc, if_pos h]
    · rw [valueOf_signed hc, if_neg hinf, if_pos hmax]
  case round =>
    intro f hf mode sat ftz neg g hg
    exact ⟨roundFP_delivers hf mode sat ftz neg hg, fun b => roundFP_nan hf mode sat ftz b g, roundFP_inf hf mode sat ftz neg g⟩
  case exact =>
    intro mode nx ny nz mx my mz ex ey ez
    obtain ⟨hadd, hsum⟩ := addVal_num mode nx ny mx my ex ey
    obtain ⟨hfma, hfused⟩ := fmaVal_num mode nx ny nz mx my mz ex ey ez
    exact ⟨hadd, hsum, rfl, mulVal_num nx ny mx my ex ey, hfma, hfused, rfl, rfl, addVal_inf_inf mode nx ny, mulVal_inf_left nx ny my ey,
      mulVal_inf_right ny nx mx ex, rfl⟩
  case nan =>
    exact fun mode b v => ⟨addVal_nan_left mode b v, addVal_nan_right mode b v, mulVal_nan_left b v, mulVal_nan_right b v⟩
  case fused =>
    intro mode x y z
    obtain ⟨hnan, hinvalid, hinf, hnum⟩ := fmaVal_special mode x y z
    exact ⟨hnan, hinvalid, hinf, hnum, fun _ => rfl, fun _ => rfl, fun _ _ _ => rfl⟩
  case int =>
    intro n mode sat neg g _ hg
    refine ⟨roundInt_num mode sat neg hg, fun b => ?_, ?_⟩
    · simp [roundInt]
    · cases sat <;> cases neg <;> simp [roundInt]

end Sys2Proof.Machine


/-!
PROOFS. The INT8 `mop` (O29): the command that completes reads its operands, meets its residue check, and either puts the exact sums of its products in the
committed bank or is discarded with those behind it.
-/
namespace Sys2Proof.Machine

/-! ### Lines in use and errors of products (R62, R207, R342) -/

theorem upFrom_zero_eq_range (n : Nat) : upFrom 0 n = List.range n := by rw [upFrom_eq_range', List.range_eq_range']

theorem lineInUse_eq (excluded n j : Nat) : lineInUse excluded n j = Rules.lineUsed excluded n j := by
  have hbit (i : Nat) : (excluded / 2 ^ i % 2 == 1) = excluded.testBit i := by
    rw [Nat.testBit_eq_decide_div_mod_eq]
    exact Bool.eq_iff_iff.2 (by simp)
  have hzero : (excluded / 2 ^ j % 2 == 0) = !excluded.testBit j := by
    rw [← hbit]
    rcases Nat.mod_two_eq_zero_or_one (excluded / 2 ^ j) with h | h <;> simp [h]
  have hcount : j - popBits excluded j = ((List.range j).filter fun i => !excluded.testBit i).length := by
    have := List.length_eq_length_filter_add (l := List.range j) fun i => excluded.testBit i
    rw [List.length_range] at this
    simp only [popBits, upFrom_zero_eq_range, hbit]
    omega
  rw [lineInUse, Rules.lineUsed, hzero, hcount]

theorem shapeCells_eq (shape : Nat) : shapeCells shape = ([32, 32, 16, 0].getD shape 0, [16, 8, 16, 0].getD shape 0) := by
  match shape with
  | 0 | 1 | 2 | 3 | _ + 4 => rfl

theorem foldl_add_eq_sum (l : List Int) : l.foldl (· + ·) 0 = l.sum := List.sum_eq_foldl.symm

/-- What errors change of a product of the first phase. -/
theorem upsetAt_eq_errorOf (s : State) (g word depth : Nat) : upsetAt s g 0 word depth = Rules.errorOf s (clusterOf g) (triadOf g) word depth := by
  have hshape (e : Word) : fget F.fmShape e = e.toNat / 2 ^ 62 := Nat.mod_eq_of_lt (Nat.div_lt_of_lt_mul e.isLt)
  unfold upsetAt Rules.errorOf
  rw [foldl_add_eq_sum]
  congr 2
  refine List.filter_congr fun u _ => ?_
  by_cases hq : u.cluster = clusterOf g
  · by_cases ht : u.block = triadOf g
    · simp only [cellInUse, hq, ht, hshape, shapeCells_eq, lineInUse_eq, beq_self_eq_true, Bool.and_true, Bool.true_and]
      ac_rfl
    · simp only [beq_eq_false_iff_ne.2 ht, Bool.and_false, Bool.false_and]
  · simp only [beq_eq_false_iff_ne.2 hq, Bool.and_false, Bool.false_and]

/-- An amount that 7 does not divide comes from an error that the residue check of a `mop` meets. -/
theorem residueBad_of_error {s : State} {g : Nat} {m : MCmd} {rows word depth : Nat} (hf : m.form = .mop) (hw : word < rows * fget F.mdN m.desc)
    (hd : depth < fget F.mdK m.desc) (he : Rules.errorOf s (clusterOf g) (triadOf g) word depth % 7 ≠ 0) : residueBad s g m rows = true := by
  rw [← upsetAt_eq_errorOf] at he
  obtain ⟨u, hu⟩ : ∃ u, u ∈ s.upsets.filter fun u => cellInUse s u && u.cluster == clusterOf g && u.block == triadOf g && u.phase == 0 && u.word == word &&
      u.depth == depth := by
    refine List.exists_mem_of_ne_nil _ fun h => he ?_
    rw [upsetAt, h]
    rfl
  simp only [List.mem_filter, Bool.and_eq_true, beq_iff_eq] at hu
  obtain ⟨hmem, ⟨⟨⟨⟨huse, hq⟩, ht⟩, hp⟩, rfl⟩, rfl⟩ := hu
  refine List.any_eq_true.2 ⟨u, ?_, by simpa [hp] using he⟩
  simp [upsetsIn, hmem, huse, hq, ht, hp, hf, hw, hd]

/-! ### Operands without errors (R191, R411) -/

theorem poisonIn_clean {s : State} (h : Clean s) (l : List (Nat × Nat)) : poisonIn s l = none := by
  have hp (r : Nat × Nat) : poisoned s r.1 r.2 = none := by simp [poisoned, poisonAt_clean h]
  have : (l.findSome? fun r => poisoned s r.1 r.2) = none := List.findSome?_eq_none_iff.2 fun r _ => hp r
  rw [poisonIn, this]
  rfl

theorem findBank_sound {s : State} {g : Nat} (h : (getCore s g).accLatent = []) (m : MCmd) : findBank s g m = s := by simp [findBank, findAcc, h]

/-- On sound operands and a sound bank a `mop` meets its residue check alone. -/
theorem finishMop_sound {s : State} {g : Nat} (hs : Clean s) (hb : (getCore s g).accLatent = []) (m : MCmd) :
    finishMop s g m =
      if residueBad s g m (fget F.mdM m.desc) then
        faultHead (residueEvents (spendUpsets s s g m (fget F.mdM m.desc)) (clusterOf g) [triadOf g] (fun _ => (getCore s g).cmds.length) 3) g causeMAC
          fun opc n => macVal (triadOf g) opc 0 n
      else modCore (spendUpsets s s g m (fget F.mdM m.desc)) g fun c => { c with work := some (matmul s g m (fget F.mdM m.desc) fun _ => (g, m.desc)) } := by
  have hf (l : List (Nat × Nat)) : l.foldl (fun s r => findErrors s r.1 r.2) s = s := foldl_same (fun r => findErrors_of_none s r.1 r.2 hs.latent hs.soft) l
  simp only [finishMop, findBank_sound hb, hf, poisonIn_clean hs]

/-! ### The step at a `mop` (R188, R197) -/

theorem getCore_queueShift (s : State) (kind g n h : Nat) : getCore (queueShift s kind g n) h = getCore s h := rfl

theorem upsetsIn_of_none {s : State} {g : Nat} {m : MCmd} {rows : Nat} (hu : ∀ u ∈ s.upsets, u.cluster ≠ clusterOf g ∨ u.block ≠ triadOf g) :
    upsetsIn s g m rows = [] := by
  refine List.filter_eq_nil_iff.2 fun u h => ?_
  rcases hu u h with h | h <;> simp [h]

section
variable {s : State} {m : MCmd} {rest : List MCmd} {g : Nat} (hc : (getCore s g).cmds = m :: rest) (hst : m.started = true) (hform : m.form = .mop)
  (hw : (getCore s g).work = none) (hs : Clean s) (hb : (getCore s g).accLatent = [])
include hc hst hform hw

theorem finishCmd_mop : finishCmd s g = finishMop s g m := by simp [finishCmd, hc, hw, hst, hform]

include hs hb

/-- A residue mismatch discards the command with those behind it (R207). -/
theorem mop_discarded (hr : residueBad s g m (fget F.mdM m.desc) = true) :
    (getCore (matrixCommandComplete s g) g).cmds = [] ∧ (getCore (matrixCommandComplete s g) g).acc = (getCore s g).acc ∧
      (getCore (matrixCommandComplete s g) g).mfault = some (causeMAC, macVal (triadOf g) 3 0 (rest.length + 1)) := by
  have hcore (q : Nat) (l : List Nat) (f : Nat → Nat) (n : Nat) : (residueEvents (spendUpsets s s g m n) q l f 3).cores = s.cores :=
    foldl_cores (fun t b => by simp) l _
  have hfault : finishCmd s g = faultHead (residueEvents (spendUpsets s s g m (fget F.mdM m.desc)) (clusterOf g) [triadOf g]
      (fun _ => (getCore s g).cmds.length) 3) g causeMAC fun opc n => macVal (triadOf g) opc 0 n := by
    rw [finishCmd_mop hc hst hform hw, finishMop_sound hs hb, if_pos hr]
  have hgone : (getCore (finishCmd s g) g).cmds = [] := by rw [hfault, faultHead, getCore_modCore_self]
  have hdone : matrixCommandComplete s g = finishCmd s g := by simp [matrixCommandComplete, exchangeBanks, hgone]
  have hsame (n : Nat) : getCore (residueEvents (spendUpsets s s g m (fget F.mdM m.desc)) (clusterOf g) [triadOf g] (fun _ => n) 3) g = getCore s g := by
    rw [getCore, hcore]
    rfl
  rw [hdone, hfault, faultHead, getCore_modCore_self, hsame]
  simp [hc, hform, mOpcode]

/-- Without errors of the block's products the sums go to the committed bank (R34, R195). -/
theorem mop_completes (hd : (getCore s g).drain = none) (hu : ∀ u ∈ s.upsets, u.cluster ≠ clusterOf g ∨ u.block ≠ triadOf g) {t : State}
    (ht : matrixCommandComplete s g = t) :
    t = { s with cores := t.cores, ue := t.ue } ∧ (getCore t g).cmds = rest ∧
      (getCore t g).drainShape = some (fget F.mdM m.desc, fget F.mdN m.desc) ∧
      (getCore t g).acc = (matmul s g m (fget F.mdM m.desc) fun _ => (g, m.desc)).acc := by
  have hin : upsetsIn s g m (fget F.mdM m.desc) = [] := upsetsIn_of_none hu
  have hspend : spendUpsets s s g m (fget F.mdM m.desc) = s := by simp [spendUpsets, hin]
  have hfin : finishCmd s g = modCore s g fun c => { c with work := some (matmul s g m (fget F.mdM m.desc) fun _ => (g, m.desc)) } := by
    rw [finishCmd_mop hc hst hform hw, finishMop_sound hs hb, hspend, if_neg (by simp [residueBad, hin])]
  subst ht
  have hex : matrixCommandComplete s g = exchangeBank (finishCmd s g) g := by
    simp [matrixCommandComplete, exchangeBanks, hfin, hc, hform, ringForm, mayExchange, hd]
  rw [hex, exchangeBank, hfin]
  simp only [getCore_modCore_self]
  refine ⟨rfl, ?_, ?_, ?_⟩ <;> rw [getCore_queueShift, getCore_modCore_self, getCore_modCore_self]
  · rw [hc]
    rfl
  · rfl
end

/-! ### The words of a tile (R117, R190, R195) -/

theorem tget_foldl_tset {α : Type} [DecidableEq α] (d : α) (f : Nat → α) (a n x : Nat) (t : Tbl α) :
    tget d ((upFrom a n).foldl (fun t i => tset d t i (f i)) t) x = if a ≤ x ∧ x < a + n then f x else tget d t x := by
  induction n generalizing a t with
  | zero => rw [if_neg (by omega)]; rfl
  | succ n ih =>
    rw [upFrom, List.foldl_cons, ih, tget_tset]
    grind

theorem tget_setWords (t : Tbl Lane) (n : Nat) (f : Nat → Lane → Lane) {i : Nat} (h : i < n) : tget 0 (setWords t n f) i = f i (tget 0 t i) := by
  rw [setWords, tget_foldl_tset, if_pos (by omega)]

theorem rowBytes_eight (n : Nat) : rowBytes n 8 = (n + 63) / 64 * 64 := by
  unfold rowBytes
  omega

/-- An element of eight bits is a byte of its row. -/
theorem matElem_eight (s : State) (base len row x : Nat) : matElem s base 8 len row x = (rawByte s (base + row * ((len + 63) / 64 * 64) + x)).toNat := by
  simp [matElem, upFrom, leNat, rowBytes_eight]

/-- Integer products accumulate exactly, modulo 2^32 (R117). -/
theorem accumulate_int8 (w : Lane) (k : Nat) (a b : Nat → Nat) (scales : Option ((Nat → Nat) × (Nat → Nat))) {err : Nat → Int} (he : ∀ j, err j = 0) :
    accumulate .int8 w k a b scales err =
      BitVec.ofInt 32 (w.toInt + ((List.range k).map fun x => (BitVec.ofNat 8 (a x)).toInt * (BitVec.ofNat 8 (b x)).toInt).sum) := by
  rw [accumulate, if_pos rfl, BitVec.ofInt_add, BitVec.ofInt_toInt, List.sum_eq_foldl, List.foldl_map, upFrom_zero_eq_range]
  simp only [he, Int.add_zero]

theorem upsetAt_of_none {s : State} {g : Nat} (hu : ∀ u ∈ s.upsets, u.cluster ≠ clusterOf g ∨ u.block ≠ triadOf g) (phase word depth : Nat) :
    upsetAt s g phase word depth = 0 := by
  have : (s.upsets.filter fun u => cellInUse s u && u.cluster == clusterOf g && u.block == triadOf g && u.phase == phase && u.word == word &&
      u.depth == depth) = [] := by
    refine List.filter_eq_nil_iff.2 fun u h => ?_
    rcases hu u h with h | h <;> simp [h]
  rw [upsetAt, this]
  rfl

/-- A word of the product of INT8 operands without errors. -/
theorem matmul_int8 {s : State} {g : Nat} {m : MCmd} (hf : m.form = .mop) (he : m.elem = .int8)
    (hu : ∀ u ∈ s.upsets, u.cluster ≠ clusterOf g ∨ u.block ≠ triadOf g) {rows r c : Nat} (hr : r < rows) (hc : c < fget F.mdN m.desc) :
    let row (x : Nat) : Nat := (x + 63) / 64 * 64
    let byte (off : Nat) : Int := (rawByte s (gaTcm g off)).toInt
    tget 0 (matmul s g m rows fun _ => (g, m.desc)).acc (r * fget F.mdN m.desc + c) = BitVec.ofInt 32 (
      (if fget F.mdZ m.desc = 1 then 0 else (tget 0 (getCore s g).acc (r * fget F.mdN m.desc + c)).toInt) +
      ((List.range (fget F.mdK m.desc)).map fun x => byte (fget F.mdA m.desc + r * row (fget F.mdK m.desc) + x) *
        byte (fget F.mdB m.desc + x * row (fget F.mdN m.desc) + c)).sum) := by
  intro row byte
  have hi : r * fget F.mdN m.desc + c < rows * fget F.mdN m.desc := by nlinarith
  have hdiv : (r * fget F.mdN m.desc + c) / fget F.mdN m.desc = r := by
    rw [Nat.mul_comm, Nat.mul_add_div (by omega), Nat.div_eq_of_lt hc, Nat.add_zero]
  have hmod : (r * fget F.mdN m.desc + c) % fget F.mdN m.desc = c := by rw [Nat.mul_comm, Nat.mul_add_mod, Nat.mod_eq_of_lt hc]
  have hwidth : slabWidth m = fget F.mdN m.desc := by simp [slabWidth, hf]
  have hbits : matBits m.elem = 8 := by rw [he]; rfl
  have hga (off y : Nat) : gaTcm g (off + y) = gaTcm g off + y := by unfold gaTcm; omega
  have hbyte (x : Byte) : BitVec.ofNat 8 x.toNat = x := by simp
  unfold matmul
  dsimp only
  rw [tget_setWords _ _ _ hi, hdiv, hmod, hwidth, hbits, he, accumulate_int8 _ _ _ _ _ fun j => upsetAt_of_none hu 0 _ j, Nat.mod_eq_of_lt hc]
  simp only [matElem_eight, hbyte, byte, row, hga, beq_iff_eq]
  split <;> rfl

/-- Settles O29: a residue mismatch discards the command; else its words are the exact sums. -/
theorem integerMatrixProductIsExact : Obligations.IntegerMatrixProductIsExact := by
  unfold Obligations.IntegerMatrixProductIsExact
  intro s m rest r c g k n row byte hcmds hst hform helem hsc hwork hdrain hpo hla hso hbank hsa hr hc
  have hs : Clean s := ⟨hpo, hla, hso, hsa⟩
  refine ⟨fun word depth hw hd herr => ⟨_, rfl, ?_⟩, fun hu => ⟨_, rfl, ?_⟩⟩
  · exact mop_discarded hcmds hst hform hwork hs hbank (residueBad_of_error hform hw hd herr)
  · obtain ⟨hrest, hcmds', hshape, hacc⟩ := mop_completes hcmds hst hform hwork hs hbank hdrain hu rfl
    exact ⟨hrest, hcmds', hshape, by rw [hacc]; exact matmul_int8 hform helem hu hr hc⟩

end Sys2Proof.Machine


/-!
PROOFS. The statement on matrix operations (O32) fails for an `attn` whose keys lie in a receive slot: it takes operands without an error for sound, and says
nothing of the entry of the slot's frame. Where both copies of that entry have failed, the operation faults with ECC_UE at every member (R288).
-/
namespace Sys2Proof.Machine

/-- An `attn` that is running, with BSRC = 01 and one key for each member, and without rows. -/
def slotAttn : MCmd :=
  { form := .attn, elem := .bf16, desc := fput F.mdTs (fput F.mdBsrc 0 1) 1, pos := 0, ring := 0, gate := false, started := true }

/-- Such an operation at all members of cluster 0, with another behind it, while both copies of the entry of the slot's frame, FID 0, have failed. -/
def failedSlotEntry : State :=
  { State.reset with
    cores := (upFrom 0 16).map fun u => (mcore 0 u, { cmds := [slotAttn, slotAttn] }), argA := mcore 0 0
    ue := [(0, dieLocator 7 0 0), (0, dieLocator 7 0 65536)] }

/-- The statement calls this operation sound. -/
theorem failedSlotEntry_ringRuns : Rules.RingRuns failedSlotEntry 0 (fun _ => slotAttn) (fun _ => [slotAttn]) where
  heads := by decide +kernel
  banks := by decide +kernel
  sound := ⟨rfl, rfl, rfl, rfl, fun _ h => absurd h List.not_mem_nil⟩
  member := ⟨0, by decide, rfl⟩

/-- It faults, and what is queued behind it is discarded with it. -/
theorem failedSlotEntry_faults :
    (match exec .matrixCommandComplete failedSlotEntry with
      | .next t => (getCore t (mcore 0 0)).cmds.isEmpty && (getCore t (mcore 0 0)).mfault == some (causeECC, dieLocator 7 0 0)
      | _ => false) = true := by decide +kernel

/-- Refutes O32: an `attn` on a receive slot leaves the queues with all that is behind it where both copies of the frame's entry have failed (R288). -/
theorem not_matrixOperationsAccumulateByTheRule : ¬ Obligations.MatrixOperationsAccumulateByTheRule := by
  unfold Obligations.MatrixOperationsAccumulateByTheRule
  rintro ⟨-, -, hattn⟩
  obtain ⟨t, ht, -, hrows⟩ := hattn failedSlotEntry 0 (fun _ => slotAttn) (fun _ => [slotAttn]) failedSlotEntry_ringRuns rfl (by decide +kernel)
  obtain ⟨hcmds, -⟩ := hrows 0 0 (by decide)
  have hf := failedSlotEntry_faults
  rw [ht] at hf
  simp [hcmds] at hf

end Sys2Proof.Machine


/-!
PROOFS. Lanes and flags (R31, R91, R102, R115; used for O22 and O23): the lanes of a register put together, the lanes and flags of a form that works lane by
lane, and the model's readings of an FP32 lane as the rule's.
-/
namespace Sys2Proof.Machine

/-! ### Registers and masks put together of lanes (R31, R32) -/

theorem getLsbD_foldl_or {w : Nat} (g : Nat → BitVec w) (l : List Nat) (z : BitVec w) (k : Nat) :
    (l.foldl (fun acc i => acc ||| g i) z).getLsbD k = (z.getLsbD k || l.any fun i => (g i).getLsbD k) := by
  induction l generalizing z with
  | nil => simp
  | cons i l ih => simp [ih, Bool.or_assoc]

theorem getLsbD_foldl_or_zero {w : Nat} (g : Nat → BitVec w) (l : List Nat) (k : Nat) :
    (l.foldl (fun acc i => acc ||| g i) 0).getLsbD k = l.any fun i => (g i).getLsbD k := by
  rw [getLsbD_foldl_or]
  simp

@[simp] theorem laneOf_vregOf (f : Nat → Lane) {j : Nat} (hj : j < 64) : laneOf (vregOf f) j = f j := by
  refine BitVec.eq_of_getLsbD_eq fun b hb => ?_
  have hother (i : Nat) (hi : i ≠ j) : ((f i).setWidth 2048 <<< (32 * i)).getLsbD (32 * j + b) = false := by
    rw [BitVec.getLsbD_shiftLeft, BitVec.getLsbD_setWidth]
    rcases Nat.lt_or_gt_of_ne hi with h | h
    · rw [BitVec.getLsbD_of_ge (f i) _ (by omega), Bool.and_false, Bool.and_false]
    · rw [decide_eq_true (by omega : 32 * j + b < 32 * i)]
      simp
  have hown : ((f j).setWidth 2048 <<< (32 * j)).getLsbD (32 * j + b) = (f j).getLsbD b := by
    rw [BitVec.getLsbD_shiftLeft, BitVec.getLsbD_setWidth, Nat.add_sub_cancel_left]
    simp only [show 32 * j + b < 2048 by omega, show ¬ 32 * j + b < 32 * j by omega, show b < 2048 by omega]
    simp
  rw [laneOf, BitVec.getLsbD_extractLsb', vregOf, getLsbD_foldl_or_zero]
  refine Bool.eq_iff_iff.2 ?_
  simp only [hb, decide_true, Bool.true_and, List.any_eq_true, mem_upFrom]
  refine ⟨fun ⟨i, _, h⟩ => ?_, fun h => ⟨j, ⟨Nat.zero_le j, by omega⟩, hown.trans h⟩⟩
  by_cases hi : i = j
  · subst hi
    exact hown.symm.trans h
  · rw [hother i hi] at h
    exact absurd h (by simp)

theorem laneOf_vregOfList (l : List Lane) {j : Nat} (hj : j < 64) : laneOf (vregOfList l) j = l.getD j 0 := laneOf_vregOf _ hj

theorem getLsbD_maskOf (f : Nat → Bool) {j : Nat} (hj : j < 64) : (maskOf f).getLsbD j = f j := by
  have hstep : (fun (acc : Word) i => if f i then acc ||| BitVec.ofNat 64 (2 ^ i) else acc) =
      fun acc i => acc ||| if f i then BitVec.ofNat 64 (2 ^ i) else 0 := by
    funext acc i
    split <;> simp
  have hbit (i : Nat) : (if f i then BitVec.ofNat 64 (2 ^ i) else 0).getLsbD j = (f i && decide (i = j)) := by
    split
    case isTrue h =>
      rw [BitVec.getLsbD_ofNat, Nat.testBit_two_pow, h, decide_eq_true hj]
    case isFalse h => simp [h]
  rw [maskOf, hstep, getLsbD_foldl_or_zero]
  refine Bool.eq_iff_iff.2 ?_
  simp only [hbit, List.any_eq_true, mem_upFrom, Bool.and_eq_true, decide_eq_true_eq]
  exact ⟨fun ⟨i, _, h, e⟩ => e ▸ h, fun h => ⟨j, by omega, h, rfl⟩⟩

/-! ### Sticky flags of several operations (R115) -/

/-- One of the five sticky flags. -/
structure Flags.Sticky (flag : Flags → Bool) : Prop where
  empty : flag {} = false
  or (a b : Flags) : flag (a.or b) = (flag a || flag b)

theorem Flags.sticky_of_mem {flag : Flags → Bool} (h : flag ∈ [Flags.nv, Flags.dz, Flags.of, Flags.uf, Flags.nx]) : Flags.Sticky flag := by
  simp only [List.mem_cons, List.not_mem_nil, or_false] at h
  rcases h with rfl | rfl | rfl | rfl | rfl <;> exact ⟨rfl, fun _ _ => rfl⟩

theorem Flags.Sticky.foldl {flag : Flags → Bool} (h : Flags.Sticky flag) (l : List Flags) (z : Flags) :
    flag (l.foldl Flags.or z) = (flag z || l.any flag) := by
  induction l generalizing z with
  | nil => simp
  | cons a l ih => simp [ih, h.or, Bool.or_assoc]

theorem Flags.Sticky.join {flag : Flags → Bool} (h : Flags.Sticky flag) (l : List Flags) : flag (Flags.join l) = l.any flag := by
  rw [Flags.join, h.foldl, h.empty, Bool.false_or]

/-- Flags are the same where each of the five is. -/
theorem Flags.ext_sticky {a b : Flags} (h : ∀ flag : Flags → Bool, Flags.Sticky flag → flag a = flag b) : a = b := by
  have hnv := h Flags.nv ⟨rfl, fun _ _ => rfl⟩
  have hdz := h Flags.dz ⟨rfl, fun _ _ => rfl⟩
  have hof := h Flags.of ⟨rfl, fun _ _ => rfl⟩
  have huf := h Flags.uf ⟨rfl, fun _ _ => rfl⟩
  have hnx := h Flags.nx ⟨rfl, fun _ _ => rfl⟩
  cases a
  cases b
  simp_all

/-- The flags of operations that raise NV alone. -/
theorem Flags.join_nv {α : Type} (p : α → Bool) (l : List α) : Flags.join (l.map fun i => { nv := p i }) = { nv := l.any p } := by
  have fold (z : Bool) : (l.map fun i => ({ nv := p i } : Flags)).foldl Flags.or { nv := z } = { nv := z || l.any p } := by
    induction l generalizing z with
    | nil => simp
    | cons a l ih => simpa [Flags.or, Bool.or_assoc] using ih (z || p a)
  exact fold false

theorem Flags.join_none {l : List Flags} (h : ∀ f ∈ l, f = {}) : Flags.join l = {} := by
  rw [List.eq_replicate_of_mem h, Flags.join]
  induction l.length with
  | zero => rfl
  | succ n ih => exact ih

/-! ### A form that works lane by lane (R91, R170) -/

/-- The one register that `mapLanes` writes, its active lanes, and their values. -/
theorem mapLanes_writes (q : VIn) (mk : BitVec 2) (d : Reg) (f : Nat → Lane × Flags) {j : Nat} (hj : j < 64) :
    ∃ r, (mapLanes q mk d f).v = [r] ∧ r.reg = d ∧ r.lanes = q.act mk ∧ laneOf r.val j = (f j).1 := by
  refine ⟨_, rfl, rfl, rfl, ?_⟩
  rw [laneOf_vregOfList _ hj, upFrom_zero_eq_range]
  simp [List.getD_eq_getElem?_getD, hj]

/-- Its flags: those of the active lanes. -/
theorem mapLanes_flags (q : VIn) (mk : BitVec 2) (d : Reg) (f : Nat → Lane × Flags) :
    (mapLanes q mk d f).flags = Flags.join (((List.range 64).filter (q.act mk)).map fun j => (f j).2) := by
  have zip (l : List Nat) : ((l.map f).zip l).filter (fun r => q.act mk r.2) = (l.filter (q.act mk)).map fun j => (f j, j) := by
    induction l with
    | nil => rfl
    | cons i l ih => by_cases h : q.act mk i <;> simp [h, ih]
  simp only [mapLanes, upFrom_zero_eq_range, zip, List.map_map]
  rfl

theorem mapLanes_flag {flag : Flags → Bool} (h : Flags.Sticky flag) (q : VIn) (mk : BitVec 2) (d : Reg) (f : Nat → Lane × Flags) :
    flag (mapLanes q mk d f).flags = true ↔ ∃ j, j < 64 ∧ q.act mk j = true ∧ flag (f j).2 = true := by
  rw [mapLanes_flags, h.join, List.any_eq_true]
  simp [and_assoc]

/-- A form without rounding whose lanes raise nothing raises nothing. -/
theorem mapLanes_noFlags (q : VIn) (mk : BitVec 2) (d : Reg) (f : Nat → Lane) : (mapLanes q mk d fun j => noFlags (f j)).flags = {} := by
  rw [mapLanes_flags]
  refine Flags.join_none fun x hx => ?_
  obtain ⟨_, _, rfl⟩ := List.mem_map.1 hx
  rfl

/-! ### The readings of an FP32 lane (R102, R106, R107) -/

/-- The value of an FP32 lane, by its fields. -/
theorem val32_eq (ftz : Bool) (x : Lane) :
    val32 ftz x =
      if x.toNat % 2 ^ 31 = 0x7F800000 then .inf (decide (2 ^ 31 ≤ x.toNat))
      else if Rules.isNan x then .nan (Rules.signals x)
      else if x.toNat / 2 ^ 23 % 256 = 0 then .num (decide (2 ^ 31 ≤ x.toNat)) (if ftz then 0 else x.toNat % 2 ^ 23) (-149)
      else .num (decide (2 ^ 31 ≤ x.toNat)) (x.toNat % 2 ^ 23 + 2 ^ 23) (-149 + (x.toNat / 2 ^ 23 % 256 - 1 : Nat)) := by
  have hx := x.isLt
  obtain ⟨neg, c, hc, hneg, hxc⟩ : ∃ neg c, c < 2 ^ 31 ∧ neg = decide (2 ^ 31 ≤ x.toNat) ∧ x.toNat = (if neg then 2 ^ 31 else 0) + c := by
    refine ⟨_, x.toNat % 2 ^ 31, Nat.mod_lt _ (by decide), rfl, ?_⟩
    split <;> simp_all <;> omega
  have hmod : x.toNat % 2 ^ 31 = c := by rw [hxc]; split <;> omega
  have hexp : x.toNat / 2 ^ 23 % 256 = c / 2 ^ 23 := by rw [hxc]; split <;> omega
  have hman : x.toNat % 2 ^ 23 = c % 2 ^ 23 := by rw [hxc]; split <;> omega
  have hquiet : x.toNat / 2 ^ 22 % 2 = c / 2 ^ 22 % 2 := by rw [hxc]; split <;> omega
  have hval : val32 ftz x = _ := hxc ▸ valueOf_signed (f := fp32) hc ftz neg
  rw [hval, hmod, hexp, hman, ← hneg, Rules.signals, Rules.isNan, hmod, hquiet]
  simp only [fp32, FFmt.emin, Option.some.injEq, eq_comm (a := 0x7F800000), decide_eq_true_eq, Option.isSome_some, Bool.true_and, Bool.and_true]
  rcases lt_trichotomy c 0x7F800000 with h | h | h
  · simp [h.ne, show ¬ 0x7F800000 < c by omega, show ¬ 0x7F7FFFFF < c by omega]
  · simp [h]
  · simp only [h.ne', h, show 0x7F7FFFFF < c by omega, if_true, if_false]
    rfl

theorem isNan_of_inf {x : Lane} (h : x.toNat % 2 ^ 31 = 0x7F800000) : Rules.isNan x = false := by
  rw [Rules.isNan, h]
  rfl

theorem val32_isNan (ftz : Bool) (x : Lane) : (val32 ftz x).isNan = Rules.isNan x := by
  rw [val32_eq]
  split
  case isTrue h => rw [isNan_of_inf h]; rfl
  case isFalse =>
    split
    case isTrue h => rw [h]; rfl
    case isFalse h =>
      rw [Bool.not_eq_true] at h
      rw [h]
      split <;> rfl

theorem isNan32_eq (x : Lane) : isNan32 x = Rules.isNan x := val32_isNan false x

theorem val32_signalling (ftz : Bool) (x : Lane) : (val32 ftz x).signalling = Rules.signals x := by
  rw [val32_eq]
  split
  case isTrue h => rw [Rules.signals, isNan_of_inf h]; rfl
  case isFalse =>
    split
    case isTrue h => rfl
    case isFalse h =>
      rw [Bool.not_eq_true] at h
      rw [Rules.signals, h]
      split <;> rfl

theorem ftzSrc_eq (ftz : Bool) (x : Lane) : ftzSrc ftz x = Rules.asRead ftz x := by
  have hsign : x &&& 0x80000000 = BitVec.ofNat 32 (x.toNat / 2 ^ 31 * 2 ^ 31) := by
    have hx := x.isLt
    have hbit : x.getLsbD 31 = decide (x.toNat / 2 ^ 31 = 1) := by
      rw [BitVec.getLsbD, Nat.testBit_eq_decide_div_mod_eq, Nat.mod_eq_of_lt (by omega)]
    refine (BitVec.and_twoPow x 31).trans ?_
    rw [hbit]
    rcases Nat.lt_or_ge x.toNat (2 ^ 31) with h | h
    · rw [Nat.div_eq_of_lt h]
      rfl
    · rw [show x.toNat / 2 ^ 31 = 1 by omega]
      rfl
  simp only [ftzSrc, Rules.asRead, hsign, Bool.and_eq_true, beq_iff_eq]

theorem fpKey_eq (x : Lane) : fpKey x = Rules.order x := by
  have hmsb : x.msb = true ↔ ¬ x.toNat < 2 ^ 31 := by
    rw [BitVec.msb_eq_decide, decide_eq_true_eq, not_lt]
  rw [fpKey, Rules.order]
  by_cases h : x.toNat < 2 ^ 31
  · rw [if_neg (mt hmsb.1 (not_not.2 h)), if_pos h]
  · rw [if_pos (hmsb.2 h), if_neg h, Nat.cast_sub (not_lt.1 h)]
    rfl

theorem snanFlag_one (ftz : Bool) (a : Lane) : snanFlag ftz [a] = { nv := Rules.signals a } := by
  simp [snanFlag, val32_signalling]

theorem snanFlag_two (ftz : Bool) (a b : Lane) : snanFlag ftz [a, b] = { nv := Rules.signals a || Rules.signals b } := by
  simp [snanFlag, val32_signalling]

theorem signals_of_not_nan {x : Lane} (h : Rules.isNan x = false) : Rules.signals x = false := by
  rw [Rules.signals, h, Bool.false_and]

end Sys2Proof.Machine


/-!
PROOFS. Lane-wise forms (O22, first part): `Lanewise` says what a form does that works lane by lane; one lemma for each operation gives its lane and flags,
and `lanewise_of_intLane` and `lanewise_of_floatLane` collect them over the forms.
-/
namespace Sys2Proof.Machine

/-! ### Forms that work lane by lane (R91, R115, R170) -/

/-- A form that writes lane j of one register, where active, from an operation that gives its value and raises its flags. -/
structure Lanewise (q : VIn) (o : VOut) (mk : BitVec 2) (d : Reg) (f : Nat → Lane × Flags) : Prop where
  writes : ∀ j, j < 64 → ∃ r, o.v = [r] ∧ r.reg = d ∧ r.lanes j = q.act mk j ∧ laneOf r.val j = (f j).1
  masks : o.m = []
  scalars : o.x = []
  flags : ∀ flag, Flags.Sticky flag → (flag o.flags = true ↔ ∃ j, j < 64 ∧ q.act mk j = true ∧ flag (f j).2 = true)

theorem Lanewise.mapLanes {q : VIn} {mk : BitVec 2} {d : Reg} {f g : Nat → Lane × Flags} (h : ∀ k, f k = g k) : Lanewise q (mapLanes q mk d f) mk d g := by
  obtain rfl : f = g := funext h
  refine ⟨fun j hj => ?_, rfl, rfl, fun flag hf => mapLanes_flag hf q mk d f⟩
  obtain ⟨r, hr, hd, hon, hval⟩ := mapLanes_writes q mk d f hj
  exact ⟨r, hr, hd, congrFun hon j, hval⟩

theorem Lanewise.roundLanes {q : VIn} {p : Pfx} {mk : BitVec 2} {d : Reg} {f : RMode → Lane → Nat → Lane × Flags} {g : Nat → Lane × Flags}
    (h : ∀ k, f (q.mode p) (q.gen k) k = g k) : Lanewise q (roundLanes q p mk d f) mk d g := by
  obtain ⟨hwrites, hmasks, hscalars, hflags⟩ := Lanewise.mapLanes (q := q) (mk := mk) (d := d) h
  exact ⟨hwrites, hmasks, hscalars, hflags⟩

/-! ### Integer operations (R114) -/

theorem absLane_int32 (ftz : Bool) (a : Lane) : absLane .int32 ftz a = noFlags (BitVec.ofNat 32 a.toInt.natAbs) := by
  have hx := a.isLt
  refine congrArg noFlags (BitVec.eq_of_toNat_eq ?_)
  rw [BitVec.toNat_ofNat, BitVec.toInt_eq_msb_cond]
  cases a.msb
  · simp [Nat.mod_eq_of_lt hx]
  · simp
    omega

theorem neg_eq_ofInt (a : Lane) : -a = BitVec.ofInt 32 (-a.toInt) := by
  rw [BitVec.ofInt_neg, BitVec.ofInt_toInt]

theorem add_eq_ofNat (a b : Lane) : a + b = BitVec.ofNat 32 (a.toNat + b.toNat) := rfl

theorem sub_eq_ofInt (a b : Lane) : a - b = BitVec.ofInt 32 (a.toNat - b.toNat) := by
  rw [ofInt_sub_toNat]

theorem mul_eq_ofNat (a b : Lane) : a * b = BitVec.ofNat 32 (a.toNat * b.toNat) := rfl

theorem pickL_int32 (ftz larger : Bool) (a b : Lane) :
    pickL .int32 ftz larger a b = noFlags (BitVec.ofInt 32 (if larger then max a.toInt b.toInt else min a.toInt b.toInt)) := by
  refine congrArg noFlags ?_
  rcases lt_or_ge a.toInt b.toInt with h | h
  · cases larger <;> simp [h, max_eq_right h.le, min_eq_left h.le]
  · cases larger <;> simp [not_lt.2 h, max_eq_left h, min_eq_right h]

theorem pickL_uint32 (ftz larger : Bool) (a b : Lane) :
    pickL .uint32 ftz larger a b = noFlags (BitVec.ofNat 32 (if larger then max a.toNat b.toNat else min a.toNat b.toNat)) := by
  refine congrArg noFlags ?_
  rcases lt_or_ge a.toNat b.toNat with h | h
  · cases larger <;> simp [h, max_eq_right h.le, min_eq_left h.le]
  · cases larger <;> simp [not_lt.2 h, max_eq_left h, min_eq_right h]

theorem shiftLeft_eq_ofNat (a : Lane) (n : Nat) : a <<< n = BitVec.ofNat 32 (a.toNat * 2 ^ n) := by
  rw [← Nat.shiftLeft_eq]
  rfl

theorem shiftRight_logical (a b : Lane) : shiftRight .logical a b = BitVec.ofNat 32 (a.toNat / 2 ^ (b.toNat % 32)) := by
  refine BitVec.eq_of_toNat_eq ?_
  rw [shiftRight, BitVec.toNat_ushiftRight, Nat.shiftRight_eq_div_pow, BitVec.toNat_ofNat, Nat.mod_eq_of_lt (lt_of_le_of_lt (Nat.div_le_self _ _) a.isLt)]

theorem shiftRight_arith (a b : Lane) : shiftRight .arith a b = BitVec.ofInt 32 (a.toInt / 2 ^ (b.toNat % 32)) := by
  rw [shiftRight, BitVec.sshiftRight, Int.shiftRight_eq_div_pow]
  rfl

theorem signExtend_elemOf (v : VReg) (n i : Nat) :
    (BitVec.ofNat n (elemOf v n i)).signExtend 32 = BitVec.ofInt 32 (BitVec.ofNat n (v.toNat / 2 ^ (n * i))).toInt := by
  have : BitVec.ofNat n (elemOf v n i) = BitVec.ofNat n (v.toNat / 2 ^ (n * i)) := BitVec.eq_of_toNat_eq (by simp [elemOf])
  rw [this, BitVec.signExtend]

/-! ### Operations on FP32 lanes that round nothing (R106, R107, R170) -/

theorem absLane_fp32 (ftz : Bool) (a : Lane) :
    absLane .fp32 ftz a = (if Rules.isNan a then Rules.qnan else BitVec.ofNat 32 ((Rules.asRead ftz a).toNat % 2 ^ 31), { nv := Rules.signals a }) := by
  have hand (x : Lane) : x &&& 0x7FFFFFFF = BitVec.ofNat 32 (x.toNat % 2 ^ 31) := by
    refine BitVec.eq_of_toNat_eq ?_
    rw [BitVec.toNat_and, BitVec.toNat_ofNat, Nat.mod_eq_of_lt (by omega : x.toNat % 2 ^ 31 < 2 ^ 32)]
    exact Nat.and_two_pow_sub_one_eq_mod x.toNat 31
  rw [absLane, isNan32_eq]
  split
  case isTrue h => rw [snanFlag_one]; rfl
  case isFalse h => rw [ftzSrc_eq, hand, signals_of_not_nan (Bool.not_eq_true _ ▸ h)]; rfl

theorem negLane_fp32 (ftz : Bool) (a : Lane) :
    negLane .fp32 ftz a = (if Rules.isNan a then Rules.qnan else BitVec.ofNat 32 ((Rules.asRead ftz a).toNat + 2 ^ 31), { nv := Rules.signals a }) := by
  have hxor (x : Lane) : x ^^^ 0x80000000 = BitVec.ofNat 32 (x.toNat + 2 ^ 31) := by
    have hcarry (i : Nat) (hi : i < 32) : BitVec.carry i x 0x80000000 false = false := by
      have hzero : 2 ^ 31 % 2 ^ i = 0 := Nat.mod_eq_zero_of_dvd (Nat.pow_dvd_pow 2 (by omega))
      rw [BitVec.carry, show (0x80000000 : Lane).toNat = 2 ^ 31 from rfl, hzero, decide_eq_false_iff_not]
      exact not_le.2 (Nat.mod_lt _ (Nat.two_pow_pos i))
    refine BitVec.eq_of_getLsbD_eq fun i hi => ?_
    refine Eq.trans ?_ (BitVec.getLsbD_add hi x 0x80000000).symm
    rw [hcarry i hi, Bool.xor_false, BitVec.getLsbD_xor]
  rw [negLane, isNan32_eq]
  split
  case isTrue h => rw [snanFlag_one]; rfl
  case isFalse h => rw [ftzSrc_eq, hxor, signals_of_not_nan (Bool.not_eq_true _ ▸ h)]; rfl

theorem order_injective : Function.Injective Rules.order := by
  intro x y h
  refine BitVec.eq_of_toNat_eq ?_
  unfold Rules.order at h
  split at h <;> split at h <;> omega

theorem pickL_fp32 (ftz larger : Bool) (a b : Lane) :
    pickL .fp32 ftz larger a b = (Rules.pick ftz larger a b, { nv := Rules.signals a || Rules.signals b }) := by
  simp only [pickL, isNan32_eq, Rules.pick, Bool.or_eq_true]
  split
  case isTrue h => rw [snanFlag_two]; rfl
  case isFalse h =>
    obtain ⟨ha, hb⟩ := not_or.1 h
    rw [signals_of_not_nan (Bool.not_eq_true _ ▸ ha), signals_of_not_nan (Bool.not_eq_true _ ▸ hb), ftzSrc_eq, ftzSrc_eq, fpKey_eq, fpKey_eq]
    rcases lt_trichotomy (Rules.order (Rules.asRead ftz a)) (Rules.order (Rules.asRead ftz b)) with hlt | heq | hgt
    · cases larger <;> simp [hlt, not_lt.2 hlt.le, noFlags]
    · rw [order_injective heq]
      simp [noFlags]
    · cases larger <;> simp [hgt, not_lt.2 hgt.le, noFlags]

/-! ### The forms -/

theorem Lanewise.select (q : VIn) (mk : BitVec 2) (d a b : Reg) :
    Lanewise q (effVsel mk d a b q) 0 d fun k => noFlags (if (q.m mk.toNat).getLsbD k then q.lane a k else q.lane b k) where
  writes j hj := by
    refine ⟨{ reg := d, lanes := everyLane, val := _ }, rfl, rfl, rfl, ?_⟩
    rw [laneOf_vregOf _ hj]
    rfl
  masks := rfl
  scalars := rfl
  flags flag hf := by
    simp [effVsel, noFlags, hf.empty]

/-- The integer, logical and moving forms compute the rule's lanes and raise nothing. -/
theorem lanewise_of_intLane {q : VIn} {i : Instr} {j : Nat} {d : Reg} {mk : BitVec 2} {v : Lane} (h : Rules.intLane q j i = some (d, mk, v)) :
    ∃ f : Nat → Lane, Lanewise q (vectorEffect i q) mk d (fun k => noFlags (f k)) ∧ ∀ k, Rules.intLane q k i = some (d, mk, f k) := by
  unfold Rules.intLane at h
  split at h <;> simp only [Option.some.injEq, Prod.mk.injEq, reduceCtorEq] at h <;> obtain ⟨rfl, rfl, -⟩ := h <;> refine ⟨_, ?_, fun k => rfl⟩
  case h_1 => exact .mapLanes fun k => rfl
  case h_2 => exact .mapLanes fun k => rfl
  case h_3 => exact .mapLanes fun k => absLane_int32 _ _
  case h_4 => exact .mapLanes fun k => congrArg noFlags (neg_eq_ofInt _)
  case h_5 => exact .mapLanes fun k => congrArg noFlags (neg_eq_ofInt _)
  case h_6 => exact .mapLanes fun k => rfl
  case h_7 => exact .mapLanes fun k => congrArg noFlags (add_eq_ofNat _ _)
  case h_8 => exact .mapLanes fun k => congrArg noFlags (add_eq_ofNat _ _)
  case h_9 => exact .mapLanes fun k => congrArg noFlags (sub_eq_ofInt _ _)
  case h_10 => exact .mapLanes fun k => congrArg noFlags (sub_eq_ofInt _ _)
  case h_11 => exact .mapLanes fun k => congrArg noFlags (mul_eq_ofNat _ _)
  case h_12 => exact .mapLanes fun k => congrArg noFlags (mul_eq_ofNat _ _)
  case h_13 => exact .mapLanes fun k => pickL_int32 _ _ _ _
  case h_14 => exact .mapLanes fun k => pickL_int32 _ _ _ _
  case h_15 => exact .mapLanes fun k => pickL_uint32 _ _ _ _
  case h_16 => exact .mapLanes fun k => pickL_uint32 _ _ _ _
  case h_17 => exact .mapLanes fun k => rfl
  case h_18 => exact .mapLanes fun k => rfl
  case h_19 => exact .mapLanes fun k => rfl
  case h_20 => exact .mapLanes fun k => congrArg noFlags (shiftLeft_eq_ofNat _ _)
  case h_21 => exact .mapLanes fun k => congrArg noFlags (shiftRight_logical _ _)
  case h_22 => exact .mapLanes fun k => congrArg noFlags (shiftRight_arith _ _)
  case h_23 => exact .select q _ _ _ _
  case h_24 => exact .mapLanes fun k => rfl
  case h_25 => exact .mapLanes fun k => congrArg noFlags (signExtend_elemOf _ 8 _)
  case h_26 => exact .mapLanes fun k => congrArg noFlags (signExtend_elemOf _ 4 _)

theorem Lanewise.arith {q : VIn} {p : Pfx} {mk : BitVec 2} {d a b : Reg} {op : Elem → Bool → RMode → Lane → Lane → Lane → Lane × Flags}
    {g : Nat → Lane × Flags} (h : ∀ k, op .fp32 q.ftz (q.mode p) (q.gen k) (q.lane a k) (q.lane b k) = g k) :
    Lanewise q (effArith op p mk .fp32 d a b q) mk d g := by
  rw [effArith, if_pos rfl]
  exact .roundLanes h

theorem Lanewise.toInt (q : VIn) (p : Pfx) (d a : Reg) :
    Lanewise q (effCvtiI32 p d a q) 0 d fun k => roundInt (val32 q.ftz (q.lane a k)) 32 true (q.mode p) (Pfx.sat p) (q.gen k).toNat := by
  unfold effCvtiI32
  exact .roundLanes fun _ => rfl

theorem Lanewise.ofInt (q : VIn) (p : Pfx) (d a : Reg) :
    Lanewise q (effCvtiF32 p d a q) 0 d fun k =>
      let r := roundFP (intVal (q.lane a k).toInt) fp32 (q.mode p) (Pfx.sat p) q.ftz (q.gen k).toNat
      (BitVec.ofNat 32 r.1, r.2) := by
  unfold effCvtiF32
  exact .roundLanes fun _ => rfl

theorem Lanewise.fused (q : VIn) (negP negD : Bool) (p : Pfx) (mk : BitVec 2) (d a b : Reg) :
    Lanewise q (effFused negP negD p mk d a b q) mk d fun k =>
      let x := val32 q.ftz (q.lane a k)
      let z := val32 q.ftz (q.lane d k)
      round32 (fmaVal (q.mode p) (if negP then negVal x else x) (val32 q.ftz (q.lane b k)) (if negD then negVal z else z)) (q.mode p) false q.ftz
        (q.gen k).toNat := by
  unfold effFused
  exact .roundLanes fun _ => rfl

theorem Lanewise.special (q : VIn) (sel : Nat) (d a : Reg) : Lanewise q (effSpecial sel d a q) 0 d fun k => specialFn sel q.ftz (q.lane a k) := by
  unfold effSpecial
  exact .mapLanes fun _ => rfl

/-- The floating-point forms compute the rule's lanes with the flags of each. -/
theorem lanewise_of_floatLane {q : VIn} {i : Instr} {j : Nat} {d : Reg} {mk : BitVec 2} {x : Lane × Flags} (h : Rules.floatLane q j i = some (d, mk, x)) :
    ∃ f, Lanewise q (vectorEffect i q) mk d f ∧ ∀ k, Rules.floatLane q k i = some (d, mk, f k) := by
  unfold Rules.floatLane at h
  split at h <;> simp only [Option.some.injEq, Prod.mk.injEq, reduceCtorEq] at h <;> obtain ⟨rfl, rfl, -⟩ := h <;> refine ⟨_, ?_, fun k => rfl⟩
  case h_1 => exact .mapLanes fun k => absLane_fp32 _ _
  case h_2 => exact .mapLanes fun k => negLane_fp32 _ _
  case h_3 => exact .mapLanes fun k => pickL_fp32 _ _ _ _
  case h_4 => exact .mapLanes fun k => pickL_fp32 _ _ _ _
  case h_5 => exact .toInt q _ _ _
  case h_6 => exact .arith fun k => if_pos rfl
  case h_7 => exact .arith fun k => if_pos rfl
  case h_8 => exact .arith fun k => if_pos rfl
  case h_9 => exact .fused q false false _ _ _ _ _
  case h_10 => exact .fused q false true _ _ _ _ _
  case h_11 => exact .fused q true false _ _ _ _ _
  case h_12 => exact .ofInt q _ _ _
  case h_13 => exact .special q 0 _ _
  case h_14 => exact .special q 1 _ _
  case h_15 => exact .special q 2 _ _
  case h_16 => exact .special q 3 _ _
  case h_17 => exact .special q 4 _ _
  case h_18 => exact .special q 5 _ _

end Sys2Proof.Machine


/-!
PROOFS. Exact roundings and widenings (O22, second part): a number that a format holds is rounded to itself (`roundFP_exact`), which gives `cvtu` (R182).
-/
namespace Sys2Proof.Machine

/-! ### Numbers that a format holds (R108) -/

/-- A whole number of units is rounded to itself. -/
theorem Rounded.eq_of_whole {q : ℚ} (hq : 0 < q) {mode : RMode} {neg : Bool} {g : Nat} (hg : g < 2 ^ 32) {k : ℤ} {m : ℚ}
    (h : Rules.Rounded q mode neg g (k * q) m) : m = k * q := by
  unfold Rules.Rounded at h
  simp only [mul_div_cancel_right₀ _ hq.ne', Int.floor_intCast, sub_self] at h
  refine h.2 ?_
  cases mode <;> norm_num
  exact hg

/-- A number whose digits and exponent a format holds is delivered as it is. -/
theorem roundFP_exact {f : FFmt} (hf : f ∈ [fp32, fp16, bf16, e5m2, e4m3, e2m1]) (mode : RMode) (sat ftz neg : Bool) {g : Nat} (hg : g < 2 ^ 32)
    {m : Nat} {e : Int} (hm : m < 2 ^ (f.man + 1)) (he : f.emin - f.man ≤ e) (hmax : (m * 2 ^ e : ℚ) ≤ Rules.magnitude f f.maxCode)
    (hftz : ftz = true → m = 0 ∨ Rules.magnitude f (2 ^ f.man) ≤ m * 2 ^ e) :
    ∃ c, c ≤ f.maxCode ∧ (roundFP (.num neg m e) f mode sat ftz g).1 = (if neg then 2 ^ (f.bits - 1) else 0) + c ∧ Rules.magnitude f c = m * 2 ^ e := by
  obtain ⟨hzero, hpos⟩ := roundFP_delivers hf mode sat ftz neg hg m e
  rcases eq_or_ne m 0 with rfl | hne
  · exact ⟨0, Nat.zero_le _, (hzero (by simp)).1, by simp [magnitude_zero]⟩
  have hlog2 : Nat.log2 m ≤ f.man := Nat.lt_succ_iff.1 ((Nat.log2_lt hne).2 hm)
  have ha : (0 : ℚ) < m * 2 ^ e := mul_pos (by exact_mod_cast Nat.pos_of_ne_zero hne) (by positivity)
  obtain ⟨r, hr, hcode⟩ := hpos ha
  rw [log_scaled hne] at hr
  set q := max ((Nat.log2 m : Int) + e) (1 - f.bias) - f.man with hq
  have hqe : q ≤ e := by
    have : (f.emin : Int) = 1 - f.bias := rfl
    omega
  have hwhole : (m * 2 ^ e : ℚ) = ((m * 2 ^ (e - q).toNat : Nat) : ℤ) * 2 ^ q := by
    push_cast
    rw [mul_assoc, ← zpow_natCast, Int.toNat_of_nonneg (sub_nonneg.2 hqe), ← zpow_add₀ two_ne_zero, sub_add_cancel]
  have hra : r = m * 2 ^ e := by
    rw [hwhole] at hr ⊢
    exact Rounded.eq_of_whole (by positivity) hg hr
  subst hra
  rw [if_neg (not_lt.2 hmax), if_neg] at hcode
  · exact hcode.1
  · rintro ⟨hz, _, _, hsub⟩
    exact (hftz hz).elim hne (not_le.2 hsub)

/-! ### Codes stay in the bits of their format -/

theorem sign_lt {f : FFmt} (hf : f ∈ [fp32, fp16, bf16, e5m2, e4m3, e2m1]) (neg : Bool) {c : Nat} (hc : c ≤ f.maxCode) :
    (if neg then 2 ^ (f.bits - 1) else 0) + c < 2 ^ f.bits := by
  have hfin := (sound_of_mem hf).finite
  have hbits : 2 ^ f.bits = 2 ^ (f.bits - 1) + 2 ^ (f.bits - 1) := by
    have : 0 < f.bits := by
      simp only [List.mem_cons, List.not_mem_nil, or_false] at hf
      rcases hf with rfl | rfl | rfl | rfl | rfl | rfl <;> decide
    rw [← mul_two, ← pow_succ, Nat.sub_add_cancel this]
  split <;> omega

theorem overflowed_lt {f : FFmt} (hf : f ∈ [fp32, fp16, bf16, e5m2, e4m3, e2m1]) (mode : RMode) (sat neg : Bool) :
    Rules.overflowed f mode sat neg < 2 ^ f.bits := by
  simp only [List.mem_cons, List.not_mem_nil, or_false] at hf
  rcases hf with rfl | rfl | rfl | rfl | rfl | rfl <;> cases mode <;> cases sat <;> cases neg <;> decide

/-- RoundFP delivers a code of its format. -/
theorem roundFP_lt {f : FFmt} (hf : f ∈ [fp32, fp16, bf16, e5m2, e4m3, e2m1]) (v : Val) (mode : RMode) (sat ftz : Bool) {g : Nat} (hg : g < 2 ^ 32) :
    (roundFP v f mode sat ftz g).1 < 2 ^ f.bits := by
  cases v with
  | nan b => exact (roundFP_nan hf mode sat ftz b g).symm ▸ (sound_of_mem hf).nan
  | inf neg =>
    rw [roundFP_inf hf]
    simp only [List.mem_cons, List.not_mem_nil, or_false] at hf
    rcases hf with rfl | rfl | rfl | rfl | rfl | rfl <;> cases sat <;> cases neg <;> decide
  | num neg m e =>
    obtain ⟨hzero, hpos⟩ := roundFP_delivers hf mode sat ftz neg hg m e
    rcases (show (0 : ℚ) ≤ m * 2 ^ e by positivity).eq_or_lt with ha | ha
    · rw [(hzero ha.symm).1]
      exact sign_lt hf neg (Nat.zero_le _)
    · obtain ⟨r, -, hcode⟩ := hpos ha
      split at hcode
      case isTrue => exact hcode.1 ▸ overflowed_lt hf mode sat neg
      case isFalse =>
        split at hcode
        case isTrue => exact hcode.1 ▸ sign_lt hf neg (Nat.zero_le _)
        case isFalse =>
          obtain ⟨⟨c, hc, h, -⟩, -⟩ := hcode
          exact h ▸ sign_lt hf neg hc

/-! ### Widening (R182) -/

/-- What `cvtu` makes of an element. -/
def widened (f : FFmt) (ftz : Bool) (x : Nat) : Lane × Flags :=
  if (valueOf f ftz x).isNan then (qnan, { nv := (valueOf f ftz x).signalling }) else noFlags (lane (roundFP (valueOf f ftz x) fp32 .rne false false 0))

theorem Lanewise.widen (q : VIn) {f : Elem} (hf : f ∈ [Elem.fp16, .bf16, .e4m3, .e5m2, .e2m1]) (d a part : Reg) :
    Lanewise q (effCvtu f d a part q) 0 d fun j =>
      widened (fmtOf f) q.ftz ((q.v a).toNat / 2 ^ ((fmtOf f).bits * (64 * part.toNat + j)) % 2 ^ (fmtOf f).bits) := by
  simp only [List.mem_cons, List.not_mem_nil, or_false] at hf
  unfold effCvtu cvtuForm
  rcases hf with rfl | rfl | rfl | rfl | rfl <;> exact .mapLanes fun _ => rfl

theorem signalling_iff (v : Val) : v.signalling = (v == .nan true) := by
  cases v with
  | nan s => cases s <;> rfl
  | inf | num => rfl

theorem widened_flags (f : FFmt) (ftz : Bool) (x : Nat) : (widened f ftz x).2 = { nv := valueOf f ftz x == .nan true } := by
  rw [widened, ← signalling_iff]
  cases h : valueOf f ftz x <;> rfl

/-- The digits and exponent of a finite value, and the greatest one. -/
theorem valueOf_num_range {f : FFmt} {ftz neg : Bool} {x m : Nat} {e : Int} (h : valueOf f ftz x = .num neg m e) :
    m < 2 ^ (f.man + 1) ∧ f.emin - f.man ≤ e ∧ (m * 2 ^ e : ℚ) ≤ Rules.magnitude f f.maxCode := by
  have hp := Nat.two_pow_pos f.man
  have hdouble : 2 ^ (f.man + 1) = 2 ^ f.man + 2 ^ f.man := by rw [pow_succ, mul_two]
  have hmod := Nat.mod_lt (x % 2 ^ (f.bits - 1)) hp
  simp only [valueOf] at h
  split at h
  case isTrue => cases h
  case isFalse =>
    split at h
    case isTrue => cases h
    case isFalse hmax =>
      have hmono := (magnitude_strictMono f).monotone (not_lt.1 hmax)
      split at h
      case isTrue hex =>
        obtain ⟨-, hm, rfl⟩ := Val.num.inj h
        have hmag : Rules.magnitude f (x % 2 ^ (f.bits - 1)) = (x % 2 ^ (f.bits - 1) % 2 ^ f.man : Nat) * 2 ^ (f.emin - f.man) := by
          simp only [Rules.magnitude, if_pos hex, FFmt.emin]
        split at hm
        · subst hm
          exact ⟨by omega, le_rfl, by simpa using magnitude_nonneg f f.maxCode⟩
        · subst hm
          exact ⟨by omega, le_rfl, hmag ▸ hmono⟩
      case isFalse hex =>
        obtain ⟨-, rfl, rfl⟩ := Val.num.inj h
        exact ⟨by omega, by omega, magnitude_of_normal hex ▸ hmono⟩

/-- The least and the greatest numbers of the narrow formats are within FP32. -/
theorem narrow_range {f : Elem} (hf : f ∈ [Elem.fp16, .bf16, .e4m3, .e5m2, .e2m1]) :
    (fmtOf f).man ≤ 23 ∧ -149 ≤ (fmtOf f).emin - (fmtOf f).man ∧ Rules.magnitude (fmtOf f) (fmtOf f).maxCode ≤ Rules.magnitude fp32 fp32.maxCode := by
  simp only [List.mem_cons, List.not_mem_nil, or_false] at hf
  rcases hf with rfl | rfl | rfl | rfl | rfl <;>
    exact ⟨by decide, by decide, by norm_num [Rules.magnitude, fmtOf, fp16, bf16, e4m3, e5m2, e2m1, fp32]⟩

/-- `cvtu` widens each finite value exactly. -/
theorem widened_num {f : Elem} (hf : f ∈ [Elem.fp16, .bf16, .e4m3, .e5m2, .e2m1]) {ftz neg : Bool} {x m : Nat} {e : Int}
    (h : valueOf (fmtOf f) ftz x = .num neg m e) :
    (widened (fmtOf f) ftz x).1.toNat = (if neg then 2 ^ 31 else 0) + (widened (fmtOf f) ftz x).1.toNat % 2 ^ 31 ∧
      (widened (fmtOf f) ftz x).1.toNat % 2 ^ 31 < 0x7F800000 ∧ Rules.magnitude fp32 ((widened (fmtOf f) ftz x).1.toNat % 2 ^ 31) = m * 2 ^ e := by
  obtain ⟨hman, hmin, hmax⟩ := narrow_range hf
  obtain ⟨hm, he, hle⟩ := valueOf_num_range h
  obtain ⟨c, hc, hcode, hmag⟩ := roundFP_exact (f := fp32) (by decide) .rne false false neg (g := 0) (by decide)
    (lt_of_lt_of_le hm (Nat.pow_le_pow_right two_pos (Nat.succ_le_succ hman))) (hmin.trans he) (hle.trans hmax) (fun h => by cases h)
  have hc' : c ≤ 0x7F7FFFFF := hc
  have hlane : (widened (fmtOf f) ftz x).1.toNat = (if neg then 2 ^ 31 else 0) + c := by
    rw [widened, h]
    change (BitVec.ofNat 32 (roundFP (.num neg m e) fp32 .rne false false 0).1).toNat = _
    rw [hcode, BitVec.toNat_ofNat, Nat.mod_eq_of_lt]
    · rfl
    · change (if neg then 2 ^ 31 else 0) + c < _
      split <;> omega
  have hmod : (widened (fmtOf f) ftz x).1.toNat % 2 ^ 31 = c := by
    rw [hlane]
    split <;> omega
  exact ⟨hmod ▸ hlane, by omega, hmod ▸ hmag⟩

end Sys2Proof.Machine


/-!
PROOFS. The special functions (O22, third part; R186): their table, and the normal numbers that they take.
-/
namespace Sys2Proof.Machine

/-! ### The table (R186) -/

theorem asRead_of_subnormal {ftz : Bool} {x : Lane} (h : ftz = true ∧ x.toNat / 2 ^ 23 % 256 = 0) :
    (Rules.asRead ftz x).toNat = x.toNat / 2 ^ 31 * 2 ^ 31 := by
  have := x.isLt
  rw [Rules.asRead, if_pos h, BitVec.toNat_ofNat, Nat.mod_eq_of_lt (by omega)]

theorem isNan_asRead (ftz : Bool) (x : Lane) : Rules.isNan (Rules.asRead ftz x) = Rules.isNan x := by
  by_cases h : ftz = true ∧ x.toNat / 2 ^ 23 % 256 = 0
  · rw [Rules.isNan, Rules.isNan, asRead_of_subnormal h, decide_eq_decide]
    omega
  · rw [Rules.asRead, if_neg h]

/-- FTZ reads a lane as `Rules.asRead` does. -/
theorem val32_asRead (ftz : Bool) (x : Lane) : val32 ftz x = val32 false (Rules.asRead ftz x) := by
  have hx := x.isLt
  by_cases h : ftz = true ∧ x.toNat / 2 ^ 23 % 256 = 0
  · obtain ⟨rfl, hexp⟩ := h
    have hread := asRead_of_subnormal ⟨rfl, hexp⟩
    have hnan : Rules.isNan x = false := by
      rw [Rules.isNan, decide_eq_false_iff_not]
      omega
    have hinf : x.toNat % 2 ^ 31 ≠ 0x7F800000 := by omega
    have hsign : 2 ^ 31 ≤ x.toNat / 2 ^ 31 * 2 ^ 31 ↔ 2 ^ 31 ≤ x.toNat := by omega
    have hzero : x.toNat / 2 ^ 31 * 2 ^ 31 % 2 ^ 31 = 0 ∧ x.toNat / 2 ^ 31 * 2 ^ 31 / 2 ^ 23 % 256 = 0 ∧ x.toNat / 2 ^ 31 * 2 ^ 31 % 2 ^ 23 = 0 := by omega
    obtain ⟨hmag, hexp', hman⟩ := hzero
    simp only [val32_eq, isNan_asRead, hnan, hread, hmag, hexp', hman, hexp, hinf, hsign, if_true, if_false, Bool.false_eq_true,
      (by decide : ¬ 0 = 0x7F800000)]
  · rw [Rules.asRead, if_neg h, val32_eq, val32_eq]
    by_cases hexp : x.toNat / 2 ^ 23 % 256 = 0
    · rw [Bool.eq_false_iff.2 fun hftz => h ⟨hftz, hexp⟩]
    · rw [if_neg hexp, if_neg hexp]

theorem val32_nan (ftz : Bool) {x : Lane} (h : Rules.isNan x = true) : val32 ftz x = .nan (Rules.signals x) := by
  rw [val32_eq, if_neg fun hinf => by rw [isNan_of_inf hinf] at h; exact absurd h (by decide), if_pos h]

theorem specialFn_of_nan (sel : Nat) {ftz : Bool} {x : Lane} (h : Rules.isNan x = true) :
    specialFn sel ftz x = (Rules.qnan, { nv := Rules.signals x }) := by
  rw [specialFn, val32_nan ftz h]
  rfl

theorem specialFn_table {sel : Nat} {ftz : Bool} {x v : Lane} (h : (Rules.specialAt (Rules.asRead ftz x))[sel]? = some v) :
    (specialFn sel ftz x).1 = v := by
  unfold Rules.specialAt at h
  split at h
  case isTrue hnan =>
    rw [isNan_asRead] at hnan
    rw [specialFn_of_nan sel hnan]
    exact (List.eq_of_mem_replicate (List.mem_of_getElem? h)).symm
  case isFalse =>
    have table {y : Lane} {w : Val} {l : List Lane} (hy : Rules.asRead ftz x = y) (hw : val32 false y = w) (hl : l[sel]? = some v) (hlen : l.length = 6) :
        val32 ftz x = w ∧ sel < 6 :=
      ⟨by rw [val32_asRead, hy, hw], hlen ▸ (List.getElem?_eq_some_iff.1 hl).1⟩
    split at h
    case isTrue hy =>
      obtain ⟨hval, hsel⟩ := table hy (w := .inf false) rfl h rfl
      rw [specialFn, hval]
      interval_cases sel <;> cases h <;> rfl
    case isFalse =>
    split at h
    case isTrue hy =>
      obtain ⟨hval, hsel⟩ := table hy (w := .inf true) rfl h rfl
      rw [specialFn, hval]
      interval_cases sel <;> cases h <;> rfl
    case isFalse =>
    split at h
    case isTrue hy =>
      obtain ⟨hval, hsel⟩ := table hy (w := .num false 0 (-149)) rfl h rfl
      rw [specialFn, hval]
      interval_cases sel <;> cases h <;> rfl
    case isFalse =>
    split at h
    case isTrue hy =>
      obtain ⟨hval, hsel⟩ := table hy (w := .num true 0 (-149)) rfl h rfl
      rw [specialFn, hval]
      interval_cases sel <;> cases h <;> rfl
    case isFalse => simp at h

/-- DZ at a zero (R115, R186). -/
theorem specialFn_zero {ftz : Bool} {x : Lane} (h : Rules.asRead ftz x = 0 ∨ Rules.asRead ftz x = 0x80000000) {sel : Nat}
    (hsel : sel = 1 ∨ sel = 2 ∨ sel = 3) :
    (specialFn sel ftz x).2 = { dz := true } := by
  rw [specialFn, val32_asRead]
  rcases h with h | h <;> rw [h] <;> rcases hsel with rfl | rfl | rfl <;> rfl

/-- NV at −∞ (R115, R186). -/
theorem specialFn_negInf {ftz : Bool} {sel : Nat} (hsel : sel = 1 ∨ sel = 3) : (specialFn sel ftz 0xFF800000).2 = { nv := true } := by
  have hval : val32 ftz 0xFF800000 = .inf true := by cases ftz <;> rfl
  rw [specialFn, hval]
  rcases hsel with rfl | rfl <;> rfl

/-! ### Normal numbers -/

/-- A normal FP32 lane: its digits, its exponent, and its magnitude. -/
structure NormalLane (ftz neg : Bool) (x : Lane) (c m : Nat) (e : Int) : Prop where
  value : val32 ftz x = .num neg m e
  least : 2 ^ 23 ≤ m
  most : m < 2 ^ 24
  low : -149 ≤ e
  high : e ≤ 104
  magnitude : Rules.magnitude fp32 c = m * 2 ^ e

theorem exists_normalLane (ftz : Bool) {neg : Bool} {x : Lane} {c : Nat} (hlow : 2 ^ 23 ≤ c) (hhigh : c < 0x7F800000)
    (hx : x.toNat = (if neg then 2 ^ 31 else 0) + c) : ∃ m e, NormalLane ftz neg x c m e := by
  have hexp : c / 2 ^ fp32.man ≠ 0 := by
    change c / 2 ^ 23 ≠ 0
    omega
  refine ⟨_, _, ⟨?value, ?_, ?_, ?_, ?_, magnitude_of_normal (f := fp32) hexp⟩⟩
  case value =>
    have hval : val32 ftz x = _ := hx ▸ valueOf_signed (f := fp32) (show c < 2 ^ 31 by omega) ftz neg
    rw [hval, if_neg (fun h => by cases h; omega), if_neg (show ¬ fp32.maxCode < c from fun hmax => by change 0x7F7FFFFF < c at hmax; omega), if_neg hexp]
  all_goals simp only [fp32, FFmt.emin]; omega

theorem NormalLane.ne_zero {ftz neg : Bool} {x : Lane} {c m : Nat} {e : Int} (h : NormalLane ftz neg x c m e) : m ≠ 0 := by
  have := h.least
  omega

theorem NormalLane.log2 {ftz neg : Bool} {x : Lane} {c m : Nat} {e : Int} (h : NormalLane ftz neg x c m e) : Nat.log2 m = 23 :=
  (Nat.log2_eq_iff h.ne_zero).2 ⟨h.least, h.most⟩

theorem lane_toNat (v : Val) (mode : RMode) (sat ftz : Bool) {g : Nat} (hg : g < 2 ^ 32) :
    (lane (roundFP v fp32 mode sat ftz g)).toNat = (roundFP v fp32 mode sat ftz g).1 := by
  rw [lane, BitVec.toNat_ofNat, Nat.mod_eq_of_lt (show _ < 2 ^ 32 from roundFP_lt (f := fp32) (by decide) v mode sat ftz hg)]

end Sys2Proof.Machine


/-!
PROOFS. Powers of two and their logarithms (O22, fourth part; R186).
-/
namespace Sys2Proof.Machine

/-! ### Powers of two (R186) -/

theorem one_pos : 0 < one := Nat.two_pow_pos spP

/-- The integer that a number at 2^−256 is, where it is one. -/
theorem fixed_integer {m k : Nat} {e : Int} (he : -256 ≤ e) (h : (m * 2 ^ e : ℚ) = k) : fixed m e = k * one := by
  have hspP : (spP : Int) = 256 := rfl
  have hcast : ((m * 2 ^ (e + spP).toNat : Nat) : ℚ) = (k * 2 ^ spP : Nat) := by
    push_cast
    rw [← h, ← zpow_natCast, ← zpow_natCast, Int.toNat_of_nonneg (by omega), zpow_add₀ two_ne_zero, mul_assoc]
  exact_mod_cast hcast

/-- The whole part that `exp2Num` takes of an integer. -/
theorem ceil_one (k : Nat) : (k * one + one - 1) / one = k := by
  have := one_pos
  rw [Nat.add_sub_assoc this, Nat.mul_comm, Nat.mul_add_div this, Nat.div_eq_of_lt (by omega), Nat.add_zero]

/-- 2^n for an integer n below 256 in magnitude. -/
theorem exp2Num_integer {ftz neg : Bool} {m : Nat} {e n : Int} (hm : m ≠ 0) (he : -256 ≤ e) (htop : (Nat.log2 m : Int) + e < 8)
    (hn : (if neg then -1 else 1) * (m * 2 ^ e : ℚ) = n) :
    exp2Num ftz neg m e =
      if 128 ≤ n then (0x7F800000, { of := true, nx := true })
      else (lane (roundFP (.num false 1 n) fp32 .rne false ftz 0), (roundFP (.num false 1 n) fp32 .rne false ftz 0).2) := by
  have hk : (m * 2 ^ e : ℚ) = n.natAbs ∧ n = if neg then -(n.natAbs : Int) else n.natAbs := by
    have hpos : (0 : ℚ) ≤ m * 2 ^ e := by positivity
    cases neg
    · have hn0 : 0 ≤ n := by
        have : (0 : ℚ) ≤ n := by simpa [← hn] using hpos
        exact_mod_cast this
      refine ⟨?_, (Int.natAbs_of_nonneg hn0).symm⟩
      rw [Nat.cast_natAbs, abs_of_nonneg hn0, ← hn, if_neg Bool.false_ne_true, one_mul]
    · have hn0 : n ≤ 0 := by
        have : (n : ℚ) ≤ 0 := by simpa [← hn] using hpos
        exact_mod_cast this
      refine ⟨?_, by rw [Int.ofNat_natAbs_of_nonpos hn0, if_pos rfl, neg_neg]⟩
      rw [Nat.cast_natAbs, abs_of_nonpos hn0, Int.cast_neg, ← hn, if_pos rfl, neg_one_mul, neg_neg]
  obtain ⟨hmag, hsign⟩ := hk
  have hfix := fixed_integer he hmag
  have hwhole : (if neg then -((fixed m e + one - 1) / one : Nat) else (fixed m e / one : Nat) : Int) = n := by
    rw [hfix, ceil_one, Nat.mul_div_cancel _ one_pos, ← hsign]
  have hrest : (if neg then (fixed m e + one - 1) / one * one - fixed m e else fixed m e % one) = 0 := by
    rw [hfix, ceil_one, Nat.sub_self, Nat.mul_mod_left, ite_self]
  simp only [exp2Num, if_neg hm, if_neg (not_le.2 htop), hwhole, hrest, if_true]

/-- The code of 2^n. -/
theorem roundFP_two_pow {ftz : Bool} {n : Int} (hlow : -149 ≤ n) (hhigh : n ≤ 127) (hftz : ftz = true → -126 ≤ n) :
    Rules.magnitude fp32 (lane (roundFP (.num false 1 n) fp32 .rne false ftz 0)).toNat = 2 ^ n := by
  have hmax : (2 ^ n : ℚ) ≤ Rules.magnitude fp32 fp32.maxCode :=
    (zpow_le_zpow_right₀ one_le_two hhigh).trans (by norm_num [Rules.magnitude, fp32])
  have hnormal : ftz = true → (1 : Nat) = 0 ∨ Rules.magnitude fp32 (2 ^ fp32.man) ≤ ((1 : Nat) * 2 ^ n : ℚ) := by
    intro h
    rw [magnitude_normal, Nat.cast_one, one_mul]
    exact .inr (zpow_le_zpow_right₀ one_le_two (hftz h))
  obtain ⟨c, _, hcode, hmag⟩ := roundFP_exact (f := fp32) (by decide) .rne false ftz false (g := 0) (by decide) (m := 1) (e := n) (by decide) hlow
    (by simpa using hmax) hnormal
  rw [lane_toNat _ _ _ _ (by decide), hcode, if_neg Bool.false_ne_true, Nat.zero_add, hmag, Nat.cast_one, one_mul]

/-- 2^n for every integer n of a normal lane. -/
theorem specialFn_exp2 {ftz neg : Bool} {x : Lane} {c m : Nat} {e n : Int} (h : NormalLane ftz neg x c m e)
    (hn : (if neg then -1 else 1) * Rules.magnitude fp32 c = n) :
    (-126 ≤ n → n ≤ 127 → Rules.magnitude fp32 (specialFn 0 ftz x).1.toNat = 2 ^ n) ∧
      (-149 ≤ n → n < -126 → ftz = false → Rules.magnitude fp32 (specialFn 0 ftz x).1.toNat = 2 ^ n) ∧
      (128 ≤ n → (specialFn 0 ftz x).1 = 0x7F800000) := by
  have hfn : specialFn 0 ftz x = exp2Num ftz neg m e := by
    rw [specialFn, h.value]
    rfl
  rw [h.magnitude] at hn
  rw [hfn]
  rcases lt_or_ge ((Nat.log2 m : Int) + e) 8 with htop | htop
  · have hlow := h.low
    rw [exp2Num_integer h.ne_zero (by omega) htop hn]
    refine ⟨fun h1 h2 => ?_, fun h1 h2 h3 => ?_, fun h1 => ?_⟩
    · rw [if_neg (by omega)]
      exact roundFP_two_pow (by omega) h2 fun _ => h1
    · rw [if_neg (by omega)]
      exact roundFP_two_pow h1 (by omega) fun hf => by rw [h3] at hf; exact absurd hf (by decide)
    · rw [if_pos h1]
  · have hbig : (256 : ℚ) ≤ m * 2 ^ e := by
      have := (Int.zpow_le_iff_le_log (b := 2) one_lt_two (r := (m * 2 ^ e : ℚ)) (x := 8) ?_).2 (by rwa [log_scaled h.ne_zero])
      · norm_num at this
        exact this
      · have : (0 : ℚ) < m := by exact_mod_cast Nat.pos_of_ne_zero h.ne_zero
        positivity
    cases neg
    · have : 256 ≤ n := by
        have : (256 : ℚ) ≤ n := by rw [← hn]; simpa using hbig
        exact_mod_cast this
      refine ⟨fun _ _ => by omega, fun _ _ => by omega, fun _ => ?_⟩
      rw [exp2Num, if_neg h.ne_zero, if_pos htop]
      rfl
    · have : n ≤ -256 := by
        have : (n : ℚ) ≤ -256 := by rw [← hn]; simpa using hbig
        exact_mod_cast this
      exact ⟨fun _ _ => by omega, fun _ _ => by omega, fun _ => by omega⟩

/-! ### Logarithms of powers of two (R186) -/

/-- An FP32 integer is delivered as it is. -/
theorem roundFP_intVal {ftz : Bool} {n : Int} (hn : n ≠ 0) (hhigh : n.natAbs < 2 ^ 24) :
    ∃ c, c < 2 ^ 31 ∧ (lane (roundFP (intVal n) fp32 .rne false ftz 0)).toNat = (if n < 0 then 2 ^ 31 else 0) + c ∧
      Rules.magnitude fp32 c = |(n : ℚ)| := by
  have habs : (n.natAbs : ℚ) = |(n : ℚ)| := by rw [Nat.cast_natAbs, Int.cast_abs]
  have hmax : ((n.natAbs : ℚ) * 2 ^ (0 : Int)) ≤ Rules.magnitude fp32 fp32.maxCode := by
    have : (n.natAbs : ℚ) ≤ 2 ^ 24 := by exact_mod_cast hhigh.le
    rw [zpow_zero, mul_one]
    exact this.trans (by norm_num [Rules.magnitude, fp32])
  have hnormal : Rules.magnitude fp32 (2 ^ fp32.man) ≤ (n.natAbs * 2 ^ (0 : Int) : ℚ) := by
    have : (1 : ℚ) ≤ n.natAbs := by exact_mod_cast Int.natAbs_pos.2 hn
    rw [zpow_zero, mul_one]
    exact le_trans (by norm_num [Rules.magnitude, fp32]) this
  obtain ⟨c, hc, hcode, hmag⟩ := roundFP_exact (f := fp32) (by decide) .rne false ftz (decide (n < 0)) (g := 0) (by decide) hhigh (e := 0) (by decide) hmax
    fun _ => .inr hnormal
  refine ⟨c, lt_of_le_of_lt hc (by decide), ?_, by rw [hmag, zpow_zero, mul_one, habs]⟩
  rw [intVal, lane_toNat _ _ _ _ (by decide), hcode]
  simp only [decide_eq_true_eq]
  rfl

/-- The digits of a power of two. -/
theorem NormalLane.of_two_pow {ftz neg : Bool} {x : Lane} {c m : Nat} {e n : Int} (h : NormalLane ftz neg x c m e) (hn : Rules.magnitude fp32 c = 2 ^ n) :
    m = 2 ^ 23 ∧ 23 + e = n := by
  have hlog := log_scaled h.ne_zero e
  rw [h.log2, ← h.magnitude, hn] at hlog
  have hne : (23 : Int) + e = n := by
    have hp := Int.log_zpow (R := ℚ) (b := 2) one_lt_two n
    rw [Nat.cast_ofNat] at hp
    rw [hp] at hlog
    exact hlog.symm
  refine ⟨?_, hne⟩
  have : (m : ℚ) = 2 ^ 23 := by
    have h2 := h.magnitude
    rw [hn, ← hne, zpow_add₀ two_ne_zero] at h2
    have := mul_right_cancel₀ (zpow_ne_zero e two_ne_zero) h2
    rw [← this]
    norm_num
  exact_mod_cast this

theorem specialFn_log2 {ftz : Bool} {x : Lane} {c m : Nat} {e n : Int} (h : NormalLane ftz false x c m e) (hn : Rules.magnitude fp32 c = 2 ^ n)
    (h0 : n ≠ 0) :
    (specialFn 1 ftz x).1.toNat / 2 ^ 31 = (if n < 0 then 1 else 0) ∧ Rules.magnitude fp32 ((specialFn 1 ftz x).1.toNat % 2 ^ 31) = |(n : ℚ)| := by
  obtain ⟨hm, hne⟩ := h.of_two_pow hn
  have hfn : (specialFn 1 ftz x).1 = lane (roundFP (intVal n) fp32 .rne false ftz 0) := by
    rw [specialFn, h.value]
    simp only [if_neg h.ne_zero, Bool.false_eq_true, if_false, log2Num, h.log2, if_pos hm]
    rw [← hne]
    rfl
  have hlow := h.low
  have hhigh := h.high
  obtain ⟨c', hc', hcode, hmag⟩ := roundFP_intVal (ftz := ftz) h0 (by omega)
  rw [hfn, hcode]
  constructor
  · split <;> omega
  · rw [show ((if n < 0 then 2 ^ 31 else 0) + c') % 2 ^ 31 = c' by split <;> omega, hmag]

end Sys2Proof.Machine


/-!
PROOFS. 1/x (O22, fifth part; R186): `SameOn` relates two magnitudes that no rounding boundary parts, and the quotient cut off with a sticky bit is so
related to the exact one.
-/
namespace Sys2Proof.Machine

/-! ### Values on the same side of every boundary (R108, R186) -/

/-- Two magnitudes of which neither passes a multiple of w that the other does not. -/
structure SameOn (w a b : ℚ) : Prop where
  le : ∀ t : ℤ, t * w ≤ a ↔ t * w ≤ b
  lt : ∀ t : ℤ, t * w < a ↔ t * w < b

theorem SameOn.symm {w a b : ℚ} (h : SameOn w a b) : SameOn w b a := ⟨fun t => (h.le t).symm, fun t => (h.lt t).symm⟩

theorem SameOn.eq {w a b : ℚ} (h : SameOn w a b) (t : ℤ) : t * w = a ↔ t * w = b := by
  have hle := h.le t
  have hlt := h.lt t
  constructor <;> intro he
  · exact le_antisymm (hle.1 he.le) (not_lt.1 fun hh => absurd (hlt.2 hh) (not_lt.2 he.ge))
  · exact le_antisymm (hle.2 he.le) (not_lt.1 fun hh => absurd (hlt.1 hh) (not_lt.2 he.ge))

theorem SameOn.scale {a b : ℚ} (h : SameOn 1 a b) {w : ℚ} (hw : 0 < w) : SameOn w (a * w) (b * w) := by
  constructor <;> intro t
  · simpa [hw] using h.le t
  · simpa [hw] using h.lt t

/-- A magnitude and its whole part with a half for the rest. -/
theorem SameOn.sticky {x : ℚ} {n : Nat} (hn : ⌊x⌋ = n) {s : Bool} (hs : s = true ↔ x ≠ n) : SameOn 1 x (n + s.toNat / 2) := by
  have hle := Int.floor_le x
  have hlt := Int.lt_floor_add_one x
  rw [hn, Int.cast_natCast] at hle hlt
  have below (t : ℤ) : (t : ℚ) ≤ x ↔ t ≤ n := by rw [← hn, Int.le_floor]
  have whole (t : ℤ) : (t : ℚ) ≤ n + s.toNat / 2 ↔ t ≤ n := by
    constructor <;> intro h
    · have : (t : ℚ) < (n + 1 : ℤ) := by
        push_cast
        cases s <;> norm_num at h <;> linarith
      exact Int.lt_add_one_iff.1 (by exact_mod_cast this)
    · have : (t : ℚ) ≤ n := by exact_mod_cast h
      have : (0 : ℚ) ≤ s.toNat / 2 := by positivity
      linarith
  constructor <;> intro t <;> rw [mul_one]
  · rw [below, whole]
  · have hxs : (n : ℚ) < x ↔ s = true := by rw [hs, lt_iff_le_and_ne]; exact ⟨fun h => h.2.symm, fun h => ⟨hle, h.symm⟩⟩
    have hns : (n : ℚ) < n + s.toNat / 2 ↔ s = true := by cases s <;> simp
    rcases lt_trichotomy t (n : ℤ) with h | rfl | h
    · have : (t : ℚ) < n := by exact_mod_cast h
      have hs0 : (0 : ℚ) ≤ s.toNat / 2 := by positivity
      exact ⟨fun _ => by linarith, fun _ => by linarith⟩
    · rw [Int.cast_natCast, hxs, hns]
    · have h1 : ¬ (t : ℚ) ≤ x := fun hh => absurd ((below t).1 hh) (by omega)
      have h2 : ¬ (t : ℚ) ≤ n + s.toNat / 2 := fun hh => absurd ((whole t).1 hh) (by omega)
      exact ⟨fun hh => absurd hh.le h1, fun hh => absurd hh.le h2⟩

theorem two_zpow_multiple {k j : Int} (h : k ≤ j) (t : ℤ) : (t : ℚ) * 2 ^ j = ((t * 2 ^ (j - k).toNat : ℤ) : ℚ) * 2 ^ k := by
  push_cast
  rw [mul_assoc, ← zpow_natCast, Int.toNat_of_nonneg (sub_nonneg.2 h), ← zpow_add₀ two_ne_zero, sub_add_cancel]

/-- The same on a finer grid is the same on a coarser one. -/
theorem SameOn.coarser {k j : Int} {a b : ℚ} (h : SameOn (2 ^ k) a b) (hj : k ≤ j) : SameOn (2 ^ j) a b := by
  constructor <;> intro t <;> rw [two_zpow_multiple hj]
  · exact h.le _
  · exact h.lt _

theorem SameOn.log {k : Int} {a b : ℚ} (h : SameOn (2 ^ k) a b) (ha : 0 < a) (hb : 0 < b) (hk : k ≤ Int.log 2 a) : Int.log 2 a = Int.log 2 b := by
  have hlow : (2 : ℚ) ^ Int.log 2 a ≤ a := (Int.zpow_le_iff_le_log one_lt_two ha).2 le_rfl
  have hhigh : a < (2 : ℚ) ^ (Int.log 2 a + 1) := (Int.lt_zpow_iff_log_lt one_lt_two ha).2 (Int.lt_succ _)
  have h1 := (h.coarser hk).le 1
  have h2 := (h.coarser (Int.le_add_one hk)).le 1
  rw [Int.cast_one, one_mul] at h1 h2
  refine le_antisymm ((Int.zpow_le_iff_le_log one_lt_two hb).1 (h1.1 hlow)) (Int.lt_add_one_iff.1 ?_)
  exact (Int.lt_zpow_iff_log_lt one_lt_two hb).1 (not_le.1 (mt h2.2 (not_le.2 hhigh)))

/-- Rounding to nearest at twice the grid is the same. -/
theorem SameOn.rounded {k : Int} {a b : ℚ} (h : SameOn (2 ^ k) a b) {neg : Bool} {g : Nat} {m : ℚ} (hr : Rules.Rounded (2 ^ (k + 1)) .rne neg g a m) :
    Rules.Rounded (2 ^ (k + 1)) .rne neg g b m := by
  have hq : (0 : ℚ) < 2 ^ (k + 1) := by positivity
  have hdouble : (2 : ℚ) ^ (k + 1) = 2 * 2 ^ k := by rw [zpow_add_one₀ two_ne_zero, mul_comm]
  have hfloor : ⌊a / 2 ^ (k + 1)⌋ = ⌊b / 2 ^ (k + 1)⌋ := by
    refine eq_of_forall_le_iff fun z => ?_
    rw [Int.le_floor, Int.le_floor, le_div_iff₀ hq, le_div_iff₀ hq]
    exact (h.coarser (Int.le_add_one le_rfl)).le z
  have half (x : ℚ) (n : ℤ) : (1 / 2 < x / 2 ^ (k + 1) - n ↔ ((2 * n + 1 : ℤ) : ℚ) * 2 ^ k < x) ∧
      (x / 2 ^ (k + 1) - n = 1 / 2 ↔ ((2 * n + 1 : ℤ) : ℚ) * 2 ^ k = x) := by
    push_cast
    rw [lt_sub_iff_add_lt, lt_div_iff₀ hq, sub_eq_iff_eq_add, div_eq_iff hq.ne', hdouble, eq_comm (a := x)]
    constructor <;> ring_nf
  unfold Rules.Rounded at hr ⊢
  simp only [hfloor, half, h.lt, h.eq] at hr ⊢
  exact hr

/-- A rounded magnitude is a whole number of units. -/
theorem Rounded.whole {q a m : ℚ} {mode : RMode} {neg : Bool} {g : Nat} (h : Rules.Rounded q mode neg g a m) : ∃ t : ℤ, m = t * q := by
  obtain ⟨hup, hdown⟩ := h
  by_cases hm : m = (⌊a / q⌋ + 1) * q
  · exact ⟨⌊a / q⌋ + 1, by rw [hm]; push_cast; rfl⟩
  · exact ⟨⌊a / q⌋, hdown fun hu => hm (hup hu)⟩

/-- What RoundFP delivers to nearest is the same for two magnitudes that a grid below half their spacing does not part. -/
theorem SameOn.delivers {f : FFmt} {k : Int} {a b : ℚ} (h : SameOn (2 ^ k) a b) (ha : 0 < a) (hb : 0 < b) (hk : k + f.man + 1 ≤ Int.log 2 a)
    {sat ftz neg : Bool} {g : Nat} {code : Nat} {flags : Flags} (hd : Rules.Delivers f .rne sat ftz g neg a code flags) :
    Rules.Delivers f .rne sat ftz g neg b code flags := by
  refine ⟨fun h0 => absurd h0 hb.ne', fun _ => ?_⟩
  obtain ⟨m, hr, hcode⟩ := hd.2 ha
  have hlog := h.log ha hb (by omega)
  rw [hlog] at hr hk
  obtain ⟨j, hj⟩ : ∃ j, max (Int.log 2 b) (1 - f.bias) - f.man = j + 1 := ⟨_, (sub_add_cancel _ 1).symm⟩
  have hkj : k ≤ j := by omega
  rw [hj] at hr ⊢
  refine ⟨m, (h.coarser hkj).rounded hr, ?_⟩
  have hm : m = a ↔ m = b := by
    obtain ⟨t, rfl⟩ := Rounded.whole hr
    exact (h.coarser (by omega)).eq t
  have hsub : a < Rules.magnitude f (2 ^ f.man) ↔ b < Rules.magnitude f (2 ^ f.man) := by
    rw [magnitude_normal]
    have h1 := Int.lt_zpow_iff_log_lt (R := ℚ) (b := 2) one_lt_two (x := f.emin) ha
    have h2 := Int.lt_zpow_iff_log_lt (R := ℚ) (b := 2) one_lt_two (x := f.emin) hb
    rw [Nat.cast_ofNat] at h1 h2
    rw [h1, h2, hlog]
  simpa only [ne_eq, hm, hsub] using hcode

/-! ### 1/x (R186) -/

theorem specialFn_rcp {ftz neg : Bool} {x : Lane} {c m : Nat} {e : Int} (h : NormalLane ftz neg x c m e) :
    Rules.Delivers fp32 .rne false ftz 0 neg (1 / Rules.magnitude fp32 c) (specialFn 2 ftz x).1.toNat (specialFn 2 ftz x).2 := by
  have hm : (0 : ℚ) < m := by exact_mod_cast Nat.pos_of_ne_zero h.ne_zero
  obtain ⟨n, hn⟩ : ∃ n, n = 2 ^ 90 / m := ⟨_, rfl⟩
  obtain ⟨s, hs⟩ : ∃ s, s = decide (2 ^ 90 % m ≠ 0) := ⟨_, rfl⟩
  have hfn : specialFn 2 ftz x = (lane (roundFP (.num neg (2 * n + s.toNat) (-e - 91)) fp32 .rne false ftz 0),
      (roundFP (.num neg (2 * n + s.toNat) (-e - 91)) fp32 .rne false ftz 0).2) := by
    rw [specialFn, h.value, hn, hs]
    simp only [if_neg h.ne_zero, rcpNum]
  have hfloor : ⌊((2 ^ 90 : Nat) / m : ℚ)⌋ = n := by
    rw [hn]
    exact_mod_cast Rat.floor_natCast_div_natCast (2 ^ 90) m
  have hsticky : s = true ↔ ((2 ^ 90 : Nat) / m : ℚ) ≠ n := by
    rw [hs, decide_eq_true_eq, not_iff_not, div_eq_iff hm.ne', hn]
    have := Nat.div_add_mod' (2 ^ 90) m
    constructor <;> intro h0
    · rw [h0, Nat.add_zero] at this
      exact_mod_cast this.symm
    · have h1 : 2 ^ 90 = 2 ^ 90 / m * m := by exact_mod_cast h0
      omega
  have hw : (0 : ℚ) < 2 ^ (-e - 90) := by positivity
  have hsame := ((SameOn.sticky hfloor hsticky).scale hw).symm
  have happrox : ((n : ℚ) + s.toNat / 2) * 2 ^ (-e - 90) = (2 * n + s.toNat : Nat) * 2 ^ (-e - 91) := by
    rw [show -e - 90 = -e - 91 + 1 by ring, zpow_add_one₀ two_ne_zero]
    push_cast
    ring
  have hexact : ((2 ^ 90 : Nat) / m : ℚ) * 2 ^ (-e - 90) = 1 / Rules.magnitude fp32 c := by
    rw [h.magnitude, zpow_sub₀ two_ne_zero, zpow_neg]
    push_cast
    field_simp
  have hlarge : 2 ^ 24 ≤ n := by
    rw [hn, Nat.le_div_iff_mul_le (Nat.pos_of_ne_zero h.ne_zero)]
    have := h.most
    omega
  rw [happrox, hexact] at hsame
  have ha : (0 : ℚ) < (2 * n + s.toNat : Nat) * 2 ^ (-e - 91) := mul_pos (by exact_mod_cast (by omega : 0 < 2 * n + s.toNat)) (by positivity)
  have hb : 0 < 1 / Rules.magnitude fp32 c := hexact ▸ by positivity
  have hlog : -e - 90 + fp32.man + 1 ≤ Int.log 2 ((2 * n + s.toNat : Nat) * 2 ^ (-e - 91) : ℚ) := by
    rw [log_scaled (by omega)]
    have : 25 ≤ Nat.log2 (2 * n + s.toNat) := (Nat.le_log2 (by omega)).2 (by omega)
    change -e - 90 + 23 + 1 ≤ _
    omega
  rw [hfn, lane_toNat _ _ _ _ (by decide)]
  exact hsame.delivers ha hb hlog (roundFP_delivers (by decide) .rne false ftz neg (by decide) _ _)

end Sys2Proof.Machine


/-!
PROOFS. 1/√x (O22, sixth part; R186): the code nearest a number lies between midpoints that are whole numbers of units of the root that was cut off.
-/
namespace Sys2Proof.Machine

/-! ### Neighbouring codes (R103) -/

/-- A power of two that a format holds as a normal number. -/
theorem magnitude_two_pow (f : FFmt) {z : Int} (hz : f.emin ≤ z) : ∃ c, Rules.magnitude f c = 2 ^ z := by
  refine ⟨(z - f.emin).toNat * 2 ^ f.man + 2 ^ f.man, ?_⟩
  rw [magnitude_code f (Nat.pow_le_pow_right two_pos (Nat.le_succ _)) (.inr le_rfl), Int.toNat_of_nonneg (sub_nonneg.2 hz)]
  push_cast
  rw [← zpow_natCast, ← zpow_add₀ two_ne_zero]
  congr 1
  ring

/-- The exponent of the spacing at a code of at least 2^z. -/
theorem code_exponent (f : FFmt) {c : Nat} {z : Int} (h : 2 ^ z ≤ Rules.magnitude f c) :
    ∃ (n : Nat) (j : Int), z - f.man ≤ j ∧ Rules.magnitude f c = n * 2 ^ j ∧ Rules.magnitude f (c + 1) = (n + 1) * 2 ^ j := by
  obtain ⟨d, n, rfl, hn, hd⟩ := code_units f c
  have hnext := magnitude_code f hn (hd.imp_right (Nat.le_succ_of_le))
  rw [magnitude_code f hn.le hd] at h ⊢
  refine ⟨n, f.emin - f.man + d, ?_, rfl, by rw [Nat.add_assoc, hnext]; push_cast; rfl⟩
  have hlt : (2 : ℚ) ^ z < 2 ^ ((f.man : Int) + 1 + (f.emin - f.man + d)) := by
    rw [zpow_add₀ two_ne_zero]
    refine lt_of_le_of_lt h ?_
    rw [mul_lt_mul_iff_of_pos_right (by positivity)]
    exact_mod_cast hn
  have := (zpow_lt_zpow_iff_right₀ (one_lt_two (α := ℚ))).1 hlt
  omega

/-- A magnitude of at least 2^z is a whole number of units of 2^(z − man). -/
theorem magnitude_grid (f : FFmt) {c : Nat} {z : Int} (h : 2 ^ z ≤ Rules.magnitude f c) : ∃ t : ℤ, Rules.magnitude f c = t * 2 ^ (z - f.man) := by
  obtain ⟨n, j, hj, hmag, -⟩ := code_exponent f h
  exact ⟨_, by rw [hmag, ← Int.cast_natCast, two_zpow_multiple hj]⟩

/-- Codes of at least 2^z are at least 2^(z − man) apart. -/
theorem magnitude_spacing (f : FFmt) {c : Nat} {z : Int} (h : 2 ^ z ≤ Rules.magnitude f c) :
    Rules.magnitude f c + 2 ^ (z - f.man) ≤ Rules.magnitude f (c + 1) := by
  obtain ⟨n, j, hj, hmag, hnext⟩ := code_exponent f h
  have := zpow_le_zpow_right₀ (one_le_two (α := ℚ)) hj
  rw [hmag, hnext]
  linarith

/-- The units below a magnitude of exponent L, and which of the two neighbours rounding to nearest takes. -/
theorem rounded_nearest {man : Nat} {L : Int} {a m : ℚ} {neg : Bool} {g : Nat} (hlow : 2 ^ L ≤ a) (hhigh : a < 2 ^ (L + 1))
    (hr : Rules.Rounded (2 ^ (L - man)) .rne neg g a m) :
    ∃ n : ℤ, 2 ^ L ≤ n * (2 : ℚ) ^ (L - man) ∧ (n + 1) * (2 : ℚ) ^ (L - man) ≤ 2 ^ (L + 1) ∧
      n * (2 : ℚ) ^ (L - man) ≤ a ∧ a < (n + 1) * (2 : ℚ) ^ (L - man) ∧
      (m = n * 2 ^ (L - man) ∧ a ≤ (n + 1 / 2) * 2 ^ (L - man) ∨ m = (n + 1) * 2 ^ (L - man) ∧ (n + 1 / 2) * 2 ^ (L - man) ≤ a) := by
  unfold Rules.Rounded at hr
  set q : ℚ := 2 ^ (L - man) with hq
  have hq0 : 0 < q := by positivity
  have hL : (2 : ℚ) ^ L = (2 ^ man : ℤ) * q := by
    push_cast
    rw [hq, ← zpow_natCast, ← zpow_add₀ two_ne_zero, add_sub_cancel]
  have hL1 : (2 : ℚ) ^ (L + 1) = (2 * 2 ^ man : ℤ) * q := by rw [zpow_add_one₀ two_ne_zero, hL]; push_cast; ring
  have hfloor := (le_div_iff₀ hq0).1 (Int.floor_le (a / q))
  have hlt := (div_lt_iff₀ hq0).1 (Int.lt_floor_add_one (a / q))
  set n := ⌊a / q⌋ with hn
  have hmin : (2 ^ man : ℤ) ≤ n := by rw [hn, Int.le_floor, le_div_iff₀ hq0, ← hL]; exact hlow
  have hmax : n < 2 * 2 ^ man := by rw [hn, Int.floor_lt, div_lt_iff₀ hq0, ← hL1]; exact hhigh
  refine ⟨n, ?_, ?_, hfloor, hlt, ?_⟩
  · rw [hL]
    exact mul_le_mul_of_nonneg_right (by exact_mod_cast hmin) hq0.le
  · rw [hL1]
    exact mul_le_mul_of_nonneg_right (by exact_mod_cast Int.add_one_le_of_lt hmax) hq0.le
  rcases em (1 / 2 < a / q - n ∨ a / q - n = 1 / 2 ∧ n % 2 = 1) with hup | hup
  · refine .inr ⟨hr.1 hup, ?_⟩
    rw [← le_div_iff₀ hq0]
    rcases hup with h | ⟨h, -⟩ <;> linarith
  · refine .inl ⟨hr.2 hup, ?_⟩
    rw [← div_le_iff₀ hq0]
    have := not_lt.1 fun h => hup (.inl h)
    linarith

/-- Rounding to nearest stays within the exponent, but for a carry. -/
theorem rounded_range {man : Nat} {L : Int} {a m : ℚ} {neg : Bool} {g : Nat} (hlow : 2 ^ L ≤ a) (hhigh : a < 2 ^ (L + 1))
    (hr : Rules.Rounded (2 ^ (L - man)) .rne neg g a m) : 2 ^ L ≤ m ∧ m ≤ 2 ^ (L + 1) := by
  obtain ⟨n, hmin, hmax, hbelow, habove, ⟨rfl, -⟩ | ⟨rfl, -⟩⟩ := rounded_nearest hlow hhigh hr
  · exact ⟨hmin, hbelow.trans hhigh.le⟩
  · exact ⟨hlow.trans habove.le, hmax⟩

/-- A magnitude rounded to nearest lies between the midpoints to the neighbours of its code. -/
theorem nearest_between {f : FFmt} {L : Int} {a : ℚ} {neg : Bool} {g k : Nat} (hL : f.emin ≤ L) (hlow : 2 ^ L ≤ a) (hhigh : a < 2 ^ (L + 1))
    (hr : Rules.Rounded (2 ^ (L - f.man)) .rne neg g a (Rules.magnitude f k)) :
    (Rules.magnitude f (k - 1) + Rules.magnitude f k) / 2 ≤ a ∧ a ≤ (Rules.magnitude f k + Rules.magnitude f (k + 1)) / 2 := by
  have hmono := (magnitude_strictMono f).monotone
  obtain ⟨n, hmin, -, hbelow, habove, ⟨hk, hhalf⟩ | ⟨hk, hhalf⟩⟩ := rounded_nearest hlow hhigh hr
  · have hspace := magnitude_spacing f (hk ▸ hmin)
    have hprev := hmono (Nat.sub_le k 1)
    constructor <;> linarith
  · obtain ⟨c, hc⟩ := magnitude_two_pow f hL
    have hck : c < k := (magnitude_strictMono f).lt_iff_lt.1 (by rw [hc, hk]; exact hlow.trans_lt habove)
    have hspace := magnitude_spacing f (hc ▸ hmono (Nat.le_sub_one_of_lt hck))
    rw [Nat.sub_add_cancel (by omega)] at hspace
    have hnext := hmono (Nat.le_succ k)
    constructor <;> linarith

/-! ### 1/√x (R186) -/

/-- `isqrt` finds the whole part of a square root, bit by bit. -/
theorem isqrt_spec {n : Nat} (k r : Nat) (hlow : r * r ≤ n) (hhigh : n < (r + 2 ^ k) * (r + 2 ^ k)) :
    isqrt n r k * isqrt n r k ≤ n ∧ n < (isqrt n r k + 1) * (isqrt n r k + 1) := by
  induction k generalizing r with
  | zero => exact ⟨hlow, hhigh⟩
  | succ k ih =>
    rw [isqrt]
    split
    case isTrue h => exact ih _ h (by rwa [pow_succ, mul_two, ← Nat.add_assoc] at hhigh)
    case isFalse h => exact ih _ hlow (not_le.1 h)

/-- The arguments of `rsqrtNum`: the exponent made even. -/
structure EvenSplit (m : Nat) (e : Int) (m' : Nat) (h : Int) : Prop where
  value : (m * 2 ^ e : ℚ) = m' * 2 ^ (2 * h)
  least : 2 ^ 23 ≤ m'
  most : m' < 2 ^ 25
  low : -75 ≤ h
  high : h ≤ 52

/-- The root of m' × 2^2h in units of 2^−100 is q and a rest. -/
structure RootSplit (m' q : Nat) : Prop where
  low : q * q * m' ≤ 2 ^ 200
  high : 2 ^ 200 < (q + 1) * (q + 1) * m'
  least : 2 ^ 87 ≤ q
  most : q < 2 ^ 89

theorem isqrt_split {m' : Nat} (hlow : 2 ^ 23 ≤ m') (hhigh : m' < 2 ^ 25) : RootSplit m' (isqrt (2 ^ 200 / m') 0 101) := by
  have hpos : 0 < m' := by omega
  obtain ⟨h1, h2⟩ := isqrt_spec (n := 2 ^ 200 / m') 101 0 (Nat.zero_le _) (lt_of_le_of_lt (Nat.div_le_self _ _) (by norm_num))
  set q := isqrt (2 ^ 200 / m') 0 101
  rw [Nat.le_div_iff_mul_le hpos] at h1
  rw [Nat.div_lt_iff_lt_mul hpos] at h2
  refine ⟨h1, h2, not_lt.1 fun h => ?_, not_le.1 fun h => ?_⟩
  · have := Nat.mul_le_mul (Nat.mul_le_mul (Nat.succ_le_of_lt h) (Nat.succ_le_of_lt h)) hhigh.le
    have := h2.trans_le this
    norm_num at this
  · have := (Nat.mul_le_mul (Nat.mul_le_mul h h) hlow).trans h1
    norm_num at this

theorem specialFn_rsqrt_split {ftz : Bool} {x : Lane} {c m : Nat} {e : Int} (h : NormalLane ftz false x c m e) :
    ∃ m' h', EvenSplit m e m' h' ∧ ∀ q, q = isqrt (2 ^ 200 / m') 0 101 →
      (specialFn 3 ftz x).1 = lane (roundFP (.num false (2 * q + (decide (q * q * m' ≠ 2 ^ 200)).toNat) (-h' - 101)) fp32 .rne false ftz 0) := by
  have hleast := h.least
  have hmost := h.most
  have hlow := h.low
  have hhigh := h.high
  have hfn : specialFn 3 ftz x = rsqrtNum ftz m e := by
    rw [specialFn, h.value]
    simp only [if_neg h.ne_zero, Bool.false_eq_true, if_false]
  rcases Int.emod_two_eq_zero_or_one e with he | he
  · refine ⟨m, e / 2, ⟨?_, hleast, by omega, by omega, by omega⟩, fun q hq => ?_⟩
    · rw [Int.mul_ediv_cancel' (Int.dvd_of_emod_eq_zero he)]
    · rw [hfn, hq]
      simp only [rsqrtNum, if_pos he]
  · refine ⟨2 * m, (e - 1) / 2, ⟨?_, by omega, by omega, by omega, by omega⟩, fun q hq => ?_⟩
    · rw [show 2 * ((e - 1) / 2) = e - 1 by omega, zpow_sub_one₀ two_ne_zero]
      push_cast
      field_simp
    · rw [hfn, hq]
      simp only [rsqrtNum, if_neg (show ¬ e % 2 = 0 by omega)]

/-- RoundFP to nearest of a number well inside FP32's normal range: the midpoints to the neighbours of its code lie on either side of it, on a grid. -/
theorem roundFP_nearest {M : Nat} (hM : M ≠ 0) {E L : Int} (ftz : Bool) (hL : L = Nat.log2 M + E) (hlow : -100 ≤ L) (hhigh : L ≤ 100) :
    ∃ k, k = (lane (roundFP (.num false M E) fp32 .rne false ftz 0)).toNat ∧ 2 ^ 23 < k ∧ k < 0x7F7FFFFF ∧
      ∃ t u : ℤ, (Rules.magnitude fp32 (k - 1) + Rules.magnitude fp32 k) / 2 = t * 2 ^ (L - 25) ∧
        (Rules.magnitude fp32 k + Rules.magnitude fp32 (k + 1)) / 2 = u * 2 ^ (L - 25) ∧
        t * 2 ^ (L - 25) ≤ (M * 2 ^ E : ℚ) ∧ (M * 2 ^ E : ℚ) ≤ u * 2 ^ (L - 25) := by
  have hpos : (0 : ℚ) < M * 2 ^ E := mul_pos (by exact_mod_cast Nat.pos_of_ne_zero hM) (by positivity)
  have hlog : Int.log 2 (M * 2 ^ E : ℚ) = L := by rw [hL, log_scaled hM]
  have ha : (2 : ℚ) ^ L ≤ M * 2 ^ E := (Int.zpow_le_iff_le_log one_lt_two hpos).2 hlog.ge
  have hb : (M * 2 ^ E : ℚ) < 2 ^ (L + 1) := (Int.lt_zpow_iff_log_lt one_lt_two hpos).2 (by omega)
  have hmono := magnitude_strictMono fp32
  obtain ⟨r, hr, hcode⟩ := (roundFP_delivers (f := fp32) (by decide) .rne false ftz false (g := 0) (by decide) M E).2 hpos
  rw [hlog, show max L (1 - fp32.bias) = L from max_eq_left (show (-126 : Int) ≤ L by omega)] at hr
  obtain ⟨hrlow, hrhigh⟩ := rounded_range ha hb hr
  have hfits : ¬ Rules.magnitude fp32 fp32.maxCode < r := by
    refine not_lt.2 (hrhigh.trans ((zpow_le_zpow_right₀ one_le_two (show L + 1 ≤ 101 by omega)).trans ?_))
    norm_num [Rules.magnitude, fp32]
  have hnormal : Rules.magnitude fp32 (2 ^ fp32.man) < r := by
    rw [magnitude_normal]
    exact ((zpow_lt_zpow_iff_right₀ one_lt_two).2 (show (-126 : Int) < L by omega)).trans_le hrlow
  rw [if_neg hfits, if_neg fun hsub => absurd hsub.2.2.2 (not_lt.2 hnormal.le)] at hcode
  obtain ⟨⟨k, -, hk, hmag⟩, -⟩ := hcode
  rw [if_neg Bool.false_ne_true, Nat.zero_add] at hk
  subst hmag
  obtain ⟨hbelow, habove⟩ := nearest_between (show fp32.emin ≤ L from show (-126 : Int) ≤ L by omega) ha hb hr
  obtain ⟨c, hc⟩ := magnitude_two_pow fp32 (z := L - 1) (show (-126 : Int) ≤ L - 1 by omega)
  have hck : c < k := hmono.lt_iff_lt.1 (hc ▸ ((zpow_lt_zpow_iff_right₀ one_lt_two).2 (sub_one_lt L)).trans_le hrlow)
  have grid (j : Nat) (hj : c ≤ j) : ∃ t : ℤ, Rules.magnitude fp32 j = t * 2 ^ (L - 24) := by
    obtain ⟨t, ht⟩ := magnitude_grid fp32 (hc ▸ hmono.monotone hj)
    exact ⟨t, by rw [ht]; congr 2; change L - 1 - 23 = _; ring⟩
  obtain ⟨t1, h1⟩ := grid (k - 1) (by omega)
  obtain ⟨t2, h2⟩ := grid k (by omega)
  obtain ⟨t3, h3⟩ := grid (k + 1) (by omega)
  have hhalf (x y : ℤ) : (x * 2 ^ (L - 24) + y * 2 ^ (L - 24) : ℚ) / 2 = ((x + y : ℤ) : ℚ) * 2 ^ (L - 25) := by
    rw [show L - 24 = L - 25 + 1 by ring, zpow_add_one₀ two_ne_zero]
    push_cast
    ring
  have hlane := lane_toNat (.num false M E) .rne false ftz (g := 0) (by decide)
  refine ⟨k, (hlane.trans hk).symm, hmono.lt_iff_lt.1 hnormal, hmono.lt_iff_lt.1 (hrhigh.trans_lt ?_), t1 + t2, t2 + t3, ?_, ?_, ?_, ?_⟩
  · refine lt_of_le_of_lt (zpow_le_zpow_right₀ one_le_two (show L + 1 ≤ 101 by omega)) ?_
    norm_num [Rules.magnitude, fp32]
  · rw [h1, h2, hhalf]
  · rw [h2, h3, hhalf]
  · rwa [h1, h2, hhalf] at hbelow
  · rwa [h2, h3, hhalf] at habove

/-- The square of t units of the root against m' × 2^2z. -/
theorem root_square (m' : Nat) (z t : Int) : ((t : ℚ) * 2 ^ (-z - 100)) ^ 2 * (m' * 2 ^ (2 * z)) = ((t * t * m' : ℤ) : ℚ) / 2 ^ 200 := by
  have : ((2 : ℚ) ^ (-z - 100)) ^ 2 * 2 ^ (2 * z) = 1 / 2 ^ 200 := by
    rw [← zpow_natCast, ← zpow_mul, ← zpow_add₀ two_ne_zero, show (-z - 100) * (2 : Nat) + 2 * z = -200 by push_cast; ring]
    norm_num
  push_cast
  linear_combination (t : ℚ) ^ 2 * m' * this

/-- Whole numbers of units on either side of the root cut off are on either side of the root. -/
theorem RootSplit.sides {m' q : Nat} (h : RootSplit m' q) {s : Bool} (hs : s = decide (q * q * m' ≠ 2 ^ 200)) (z : Int) :
    (∀ t : ℤ, 0 ≤ t → t * (2 : ℚ) ^ (-z - 100) ≤ (2 * q + s.toNat : Nat) * 2 ^ (-z - 101) → (t * (2 : ℚ) ^ (-z - 100)) ^ 2 * (m' * 2 ^ (2 * z)) ≤ 1) ∧
      ∀ t : ℤ, (2 * q + s.toNat : Nat) * (2 : ℚ) ^ (-z - 101) ≤ t * 2 ^ (-z - 100) → 1 ≤ (t * (2 : ℚ) ^ (-z - 100)) ^ 2 * (m' * 2 ^ (2 * z)) := by
  have hunit : (2 : ℚ) ^ (-z - 100) = 2 * 2 ^ (-z - 101) := by
    rw [show -z - 100 = -z - 101 + 1 by ring, zpow_add_one₀ two_ne_zero, mul_comm]
  have hw : (0 : ℚ) < 2 ^ (-z - 101) := by positivity
  constructor
  · intro t ht hle
    have hle' : 2 * t ≤ 2 * q + s.toNat := by
      rw [hunit, ← mul_assoc, mul_le_mul_iff_of_pos_right hw, mul_comm] at hle
      exact_mod_cast hle
    have htq : t ≤ q := by
      have := Bool.toNat_le s
      omega
    rw [root_square, div_le_one (by positivity)]
    have hsq : t * t * m' ≤ q * q * m' := mul_le_mul_of_nonneg_right (mul_self_le_mul_self ht htq) (by positivity)
    exact_mod_cast hsq.trans (by exact_mod_cast h.low)
  · intro t hle
    have hle' : 2 * q + s.toNat ≤ 2 * t := by
      rw [hunit, ← mul_assoc, mul_le_mul_iff_of_pos_right hw, mul_comm (t : ℚ)] at hle
      exact_mod_cast hle
    rw [root_square, one_le_div (by positivity)]
    cases s with
    | false =>
      have heq : q * q * m' = 2 ^ 200 := by simpa using hs
      have hsq : (q : ℤ) * q * m' ≤ t * t * m' := mul_le_mul_of_nonneg_right (mul_self_le_mul_self (by positivity) (by simpa using hle')) (by positivity)
      exact_mod_cast le_trans (by exact_mod_cast heq.ge) hsq
    | true =>
      have htq : (q : ℤ) + 1 ≤ t := by
        have : 2 * (q : ℤ) + 1 ≤ 2 * t := hle'
        omega
      have hsq : ((q : ℤ) + 1) * (q + 1) * m' ≤ t * t * m' := mul_le_mul_of_nonneg_right (mul_self_le_mul_self (by positivity) htq) (by positivity)
      exact_mod_cast le_trans (by exact_mod_cast h.high.le) hsq

/-- The nearest number to 1/√x: the midpoints to its neighbours lie on either side of 1/√x, because they are whole numbers of units of the root that was
cut off. -/
theorem specialFn_rsqrt {ftz : Bool} {x : Lane} {c m : Nat} {e : Int} (h : NormalLane ftz false x c m e) :
    ∃ k, k = (specialFn 3 ftz x).1.toNat ∧ 2 ^ 23 < k ∧ k < 0x7F7FFFFF ∧
      ((Rules.magnitude fp32 (k - 1) + Rules.magnitude fp32 k) / 2) ^ 2 * Rules.magnitude fp32 c ≤ 1 ∧
      1 ≤ ((Rules.magnitude fp32 k + Rules.magnitude fp32 (k + 1)) / 2) ^ 2 * Rules.magnitude fp32 c := by
  obtain ⟨m', z, hsplit, hfn⟩ := specialFn_rsqrt_split h
  obtain ⟨q, hq⟩ : ∃ q, q = isqrt (2 ^ 200 / m') 0 101 := ⟨_, rfl⟩
  have hroot : RootSplit m' q := hq ▸ isqrt_split hsplit.least hsplit.most
  obtain ⟨s, hs⟩ : ∃ s, s = decide (q * q * m' ≠ 2 ^ 200) := ⟨_, rfl⟩
  have hcode := hfn q hq
  rw [← hs] at hcode
  have hbit := Bool.toNat_le s
  obtain ⟨hleast, hmost⟩ := And.intro hroot.least hroot.most
  obtain ⟨hzlow, hzhigh⟩ := And.intro hsplit.low hsplit.high
  have hM : 2 * q + s.toNat ≠ 0 := by omega
  obtain ⟨L, hL⟩ : ∃ L : Int, L = Nat.log2 (2 * q + s.toNat) + (-z - 101) := ⟨_, rfl⟩
  have hlog : 88 ≤ Nat.log2 (2 * q + s.toNat) := (Nat.le_log2 hM).2 (by omega)
  have hlog' : Nat.log2 (2 * q + s.toNat) < 90 := (Nat.log2_lt hM).2 (by omega)
  obtain ⟨k, hk, hlow, hhigh, t, u, ht, hu, hbelow, habove⟩ := roundFP_nearest hM (E := -z - 101) ftz hL (by omega) (by omega)
  have hgrid : -z - 100 ≤ L - 25 := by omega
  obtain ⟨hsideL, hsideU⟩ := hroot.sides hs z
  refine ⟨k, by rw [hcode, hk], hlow, hhigh, ?_, ?_⟩
  · rw [ht, h.magnitude, hsplit.value, two_zpow_multiple hgrid]
    rw [two_zpow_multiple hgrid] at hbelow
    refine hsideL _ ?_ hbelow
    have ht0 : (0 : ℚ) ≤ t * 2 ^ (L - 25) := ht ▸ by have := magnitude_nonneg fp32 (k - 1); have := magnitude_nonneg fp32 k; linarith
    have : 0 ≤ t := by exact_mod_cast nonneg_of_mul_nonneg_left ht0 (by positivity)
    positivity
  · rw [hu, h.magnitude, hsplit.value, two_zpow_multiple hgrid]
    rw [two_zpow_multiple hgrid] at habove
    exact hsideU _ habove

end Sys2Proof.Machine


/-!
PROOFS. The lane-wise forms (O22): the parts before put together.
-/
namespace Sys2Proof.Machine

/-! ### The lane forms -/

theorem specialFn_negative {ftz : Bool} {x : Lane} {c m : Nat} {e : Int} (h : NormalLane ftz true x c m e) :
    specialFn 1 ftz x = (Rules.qnan, { nv := true }) ∧ specialFn 3 ftz x = (Rules.qnan, { nv := true }) := by
  rw [specialFn, specialFn, h.value]
  simp only [if_neg h.ne_zero, if_true]
  exact ⟨rfl, rfl⟩

theorem intLane_of_ne_none {q : VIn} {i : Instr} (h : Rules.intLane q 0 i ≠ none) : ∃ d mk v, Rules.intLane q 0 i = some (d, mk, v) := by
  obtain ⟨⟨d, mk, v⟩, hv⟩ := Option.ne_none_iff_exists'.1 h
  exact ⟨d, mk, v, hv⟩

/-- Settles O22: `Lanewise` for each form, exact widening, and the special functions at their table, at powers of two, and for 1/x and 1/√x. -/
theorem laneFormsComputeTheirLanes : Obligations.LaneFormsComputeTheirLanes := by
  refine ⟨?lanes, ?flags, ?integer, ?widenFlags, ?widen, ?special⟩
  case lanes =>
    intro q i j d mk v hj h
    have hform : ∃ f, Lanewise q (vectorEffect i q) mk d f ∧ (f j).1 = v := by
      rcases h with h | ⟨fl, h⟩
      · obtain ⟨f, hf, heq⟩ := lanewise_of_intLane h
        have := h.symm.trans (heq j)
        simp only [Option.some.injEq, Prod.mk.injEq, true_and] at this
        exact ⟨_, hf, this.symm⟩
      · obtain ⟨f, hf, heq⟩ := lanewise_of_floatLane h
        have := h.symm.trans (heq j)
        simp only [Option.some.injEq, Prod.mk.injEq, true_and] at this
        exact ⟨f, hf, by rw [← this]⟩
    obtain ⟨f, ⟨hwrites, hmasks, hscalars, -⟩, rfl⟩ := hform
    obtain ⟨r, hr, hreg, hon, hval⟩ := hwrites j hj
    exact ⟨r, hr, hmasks, hscalars, hreg, hon, hval⟩
  case flags =>
    intro q i mk f flag hflag h
    obtain ⟨d, v, h0⟩ := h 0 (by decide)
    obtain ⟨F, hF, heq⟩ := lanewise_of_floatLane h0
    have hf (j : Nat) (hj : j < 64) : f j = (F j).2 := by
      obtain ⟨d', v', hj'⟩ := h j hj
      have := hj'.symm.trans (heq j)
      simp only [Option.some.injEq, Prod.mk.injEq] at this
      rw [← this.2.2]
    rw [hF.flags flag (Flags.sticky_of_mem hflag)]
    exact ⟨fun ⟨j, hj, hon, hr⟩ => ⟨j, hj, hon, hf j hj ▸ hr⟩, fun ⟨j, hj, hon, hr⟩ => ⟨j, hj, hon, hf j hj ▸ hr⟩⟩
  case integer =>
    intro q i h
    obtain ⟨d, mk, v, hv⟩ := intLane_of_ne_none h
    obtain ⟨f, hf, -⟩ := lanewise_of_intLane hv
    refine Flags.ext_sticky fun flag hs => ?_
    rw [hs.empty, Bool.eq_false_iff, Ne, hf.flags flag hs]
    rintro ⟨j, -, -, hj⟩
    rw [noFlags, hs.empty] at hj
    exact absurd hj (by decide)
  case widenFlags =>
    intro q p f d a part hf
    refine Flags.ext_sticky fun flag hs => ?_
    rw [← Flags.join_nv, hs.join, Bool.eq_iff_iff, List.any_eq_true]
    refine ((Lanewise.widen q hf d a part).flags flag hs).trans ?_
    simp only [widened_flags, List.mem_map, List.mem_range, exists_exists_and_eq_and]
    exact ⟨fun ⟨j, hj, _, h⟩ => ⟨j, hj, h⟩, fun ⟨j, hj, h⟩ => ⟨j, hj, rfl, h⟩⟩
  case widen =>
    rintro q p f d a part j x hf hj rfl
    obtain ⟨r, hr, hreg, hon, hval⟩ := (Lanewise.widen q hf d a part).writes j hj
    refine ⟨r, hr, hreg, hon, fun b hb => ?_, fun neg hinf => ?_, fun neg m e hnum => ?_⟩
    · rw [hval, widened, hb]
      rfl
    · rw [hval, widened, hinf]
      cases neg <;> rfl
    · rw [hval]
      exact widened_num hf hnum
  case special =>
    rintro ftz neg x c -
    refine ⟨fun sel v => specialFn_table, fun sel => ⟨fun hnan => by rw [specialFn_of_nan sel hnan], fun h0 hsel => specialFn_zero h0 hsel, ?_⟩, ?_⟩
    · rintro rfl hsel
      exact specialFn_negInf hsel
    intro hlow hhigh hx
    obtain ⟨m, e, h⟩ := exists_normalLane ftz hlow hhigh hx
    refine ⟨fun n hn => specialFn_exp2 h hn, ?_, ?_, specialFn_rcp h, ?_⟩
    · rintro n rfl hn h0
      rw [Int.cast_abs]
      exact specialFn_log2 h hn h0
    · rintro rfl
      exact specialFn_negative h
    · rintro rfl
      exact specialFn_rsqrt h

end Sys2Proof.Machine


/-!
PROOFS. Comparisons (O23, first part; R171): the mask and the flags of `vcmp`.
-/
namespace Sys2Proof.Machine

/-! ### The mask and the flags of `vcmp` (R171) -/

theorem vcmp_mask (q : VIn) (k : CmpP) (t : Elem) (d a b : Reg) {j : Nat} (hj : j < 64) :
    ∃ w, (effVcmp k t d a b q).m = [(d, w)] ∧ w.getLsbD j = (cmpL k t q.ftz (q.lane a j) (q.lane b j)).1 := by
  refine ⟨_, rfl, ?_⟩
  rw [getLsbD_maskOf _ hj, upFrom_zero_eq_range]
  simp [hj]

theorem vcmp_flags (q : VIn) (k : CmpP) (t : Elem) (d a b : Reg) :
    (effVcmp k t d a b q).flags = Flags.join ((List.range 64).map fun j => (cmpL k t q.ftz (q.lane a j) (q.lane b j)).2) := by
  simp only [effVcmp, upFrom_zero_eq_range, List.map_map]
  rfl

theorem cmpL_int32 (k : CmpP) (ftz : Bool) (a b : Lane) : (cmpL k .int32 ftz a b).1 = true ↔ match k with
    | .eq => a = b
    | .lt => a.toInt < b.toInt
    | .le => a.toInt ≤ b.toInt
    | .ne => a ≠ b := by
  cases k <;> simp [cmpL, BitVec.toInt_inj]

theorem cmpL_uint32 (k : CmpP) (ftz : Bool) (a b : Lane) : (cmpL k .uint32 ftz a b).1 = true ↔ match k with
    | .eq => a = b
    | .lt => a.toNat < b.toNat
    | .le => a.toNat ≤ b.toNat
    | .ne => a ≠ b := by
  cases k <;> simp [cmpL, BitVec.toNat_inj]

/-! ### FP32 comparisons (R102, R171) -/

theorem val32_isZero (ftz : Bool) (x : Lane) : (val32 ftz x).isZero = true ↔ (Rules.asRead ftz x).toNat % 2 ^ 31 = 0 := by
  rw [val32_asRead, val32_eq]
  generalize Rules.asRead ftz x = y
  split
  case isTrue h =>
    simp only [Val.isZero, Bool.false_eq_true, false_iff]
    omega
  case isFalse =>
    split
    case isTrue h =>
      simp only [Rules.isNan, decide_eq_true_eq] at h
      simp only [Val.isZero, Bool.false_eq_true, false_iff]
      omega
    case isFalse =>
      split <;> simp only [Val.isZero, Bool.false_eq_true, if_false, beq_iff_eq] <;> omega

/-- The model's key for comparisons. -/
def compareKey (x : Lane) : Int := if x.toNat % 2 ^ 31 = 0 then 0 else Rules.order x

theorem compareKey_eq (ftz : Bool) (x : Lane) : (if (val32 ftz x).isZero then 0 else fpKey x) = compareKey (Rules.asRead ftz x) := by
  rw [compareKey]
  by_cases hz : (Rules.asRead ftz x).toNat % 2 ^ 31 = 0
  · rw [if_pos ((val32_isZero ftz x).2 hz), if_pos hz]
  · have hread : Rules.asRead ftz x = x := by
      unfold Rules.asRead
      refine if_neg fun hsub => hz ?_
      rw [asRead_of_subnormal hsub]
      omega
    rw [if_neg (mt (val32_isZero ftz x).1 hz), if_neg hz, fpKey_eq, hread]

theorem compareKey_lt_iff (x y : Lane) : compareKey x < compareKey y ↔ Rules.numeric x < Rules.numeric y := by
  have hx := x.isLt
  have hy := y.isLt
  unfold compareKey Rules.order Rules.numeric
  split <;> split <;> split <;> split <;> omega

theorem compareKey_eq_iff (x y : Lane) : compareKey x = compareKey y ↔ Rules.numeric x = Rules.numeric y := by
  have hlt := compareKey_lt_iff x y
  have hgt := compareKey_lt_iff y x
  omega

theorem cmpL_fp32 (k : CmpP) (ftz : Bool) (a b : Lane) :
    let x := Rules.numeric (Rules.asRead ftz a)
    let y := Rules.numeric (Rules.asRead ftz b)
    let nan := Rules.isNan a = true ∨ Rules.isNan b = true
    (cmpL k .fp32 ftz a b).1 = true ↔ match k with
      | .eq => ¬ nan ∧ x = y
      | .lt => ¬ nan ∧ x < y
      | .le => ¬ nan ∧ x ≤ y
      | .ne => nan ∨ x ≠ y := by
  have hlt := compareKey_lt_iff (Rules.asRead ftz a) (Rules.asRead ftz b)
  have heq := compareKey_eq_iff (Rules.asRead ftz a) (Rules.asRead ftz b)
  have hle : compareKey (Rules.asRead ftz a) ≤ compareKey (Rules.asRead ftz b) ↔
      Rules.numeric (Rules.asRead ftz a) ≤ Rules.numeric (Rules.asRead ftz b) := by
    omega
  cases k <;> simp only [cmpL, val32_isNan, compareKey_eq] <;> simp [hlt, heq, hle]

theorem cmpL_fp32_flags (k : CmpP) (ftz : Bool) (a b : Lane) :
    (cmpL k .fp32 ftz a b).2 = { nv := match k with
      | .lt | .le => Rules.isNan a || Rules.isNan b
      | _ => Rules.signals a || Rules.signals b } := by
  cases k <;> simp [cmpL, val32_isNan, val32_signalling]

end Sys2Proof.Machine


/-!
PROOFS. The pairwise tree and the running value (O23, second part; R116, R174): the model's lists are the nodes of `Rules.tree` and `Rules.scan`, and their
flags those of the nodes' operations.
-/
namespace Sys2Proof.Machine

/-! ### The pairwise tree (R116) -/

section
variable {α : Type} (op : α → α → α × Flags)

/-- The operation of a node without its flags. -/
def nodeOp (a b : α) : α := (op a b).1

/-- One level: the nodes of the pairs. -/
theorem treeLevel_range (f : Nat → α) (n : Nat) :
    (treeLevel op ((List.range (2 * n)).map f)).1 = (List.range n).map fun i => nodeOp op (f (2 * i)) (f (2 * i + 1)) := by
  induction n generalizing f with
  | zero => rfl
  | succ n ih =>
    rw [Nat.mul_succ, List.range_succ_eq_map, List.range_succ_eq_map, List.range_succ_eq_map]
    simp only [List.map_cons, List.map_map, treeLevel, ih]
    rfl

theorem treeLevel_flag {flag : Flags → Bool} (h : Flags.Sticky flag) (f : Nat → α) (n : Nat) :
    flag (treeLevel op ((List.range (2 * n)).map f)).2 = true ↔ ∃ i, i < n ∧ flag (op (f (2 * i)) (f (2 * i + 1))).2 = true := by
  have list : flag (treeLevel op ((List.range (2 * n)).map f)).2 = (List.range n).any fun i => flag (op (f (2 * i)) (f (2 * i + 1))).2 := by
    induction n generalizing f with
    | zero => exact h.empty
    | succ n ih =>
      rw [Nat.mul_succ, List.range_succ_eq_map, List.range_succ_eq_map, List.range_succ_eq_map]
      simp only [List.map_cons, List.map_map, treeLevel, h.or, ih, List.any_cons, List.any_map]
      rfl
  rw [list, List.any_eq_true]
  simp only [List.mem_range]

/-- All levels from level j on: the root. -/
theorem treeOf_range (leaf : Nat → α) (n j : Nat) (fl : Flags) :
    (treeOf op n ((List.range (2 ^ n)).map (Rules.tree (nodeOp op) leaf j), fl)).1 = [Rules.tree (nodeOp op) leaf (j + n) 0] := by
  induction n generalizing j fl with
  | zero => rfl
  | succ n ih =>
    rw [treeOf, pow_succ, Nat.mul_comm, treeLevel_range, Nat.add_succ, ← Nat.succ_add]
    exact ih (j + 1) _

theorem treeOf_flag {flag : Flags → Bool} (h : Flags.Sticky flag) (leaf : Nat → α) (n j : Nat) (fl : Flags) :
    flag (treeOf op n ((List.range (2 ^ n)).map (Rules.tree (nodeOp op) leaf j), fl)).2 = true ↔ flag fl = true ∨
      ∃ l i, l < n ∧ i < 2 ^ (n - 1 - l) ∧
        flag (op (Rules.tree (nodeOp op) leaf (j + l) (2 * i)) (Rules.tree (nodeOp op) leaf (j + l) (2 * i + 1))).2 = true := by
  induction n generalizing j fl with
  | zero => simp [treeOf]
  | succ n ih =>
    rw [treeOf, pow_succ, Nat.mul_comm, treeLevel_range]
    refine (ih (j + 1) _).trans ?_
    rw [h.or, Bool.or_eq_true, treeLevel_flag op h]
    constructor
    · rintro ((hfl | ⟨i, hi, hr⟩) | ⟨l, i, hl, hi, hr⟩)
      · exact .inl hfl
      · exact .inr ⟨0, i, Nat.succ_pos n, hi, hr⟩
      · refine .inr ⟨l + 1, i, Nat.succ_lt_succ hl, ?_, by rwa [← Nat.succ_add_eq_add_succ]⟩
        rwa [show n + 1 - 1 - (l + 1) = n - 1 - l by omega]
    · rintro (hfl | ⟨l, i, hl, hi, hr⟩)
      · exact .inl (.inl hfl)
      · cases l with
        | zero => exact .inl (.inr ⟨i, hi, hr⟩)
        | succ l =>
          refine .inr ⟨l, i, Nat.lt_of_succ_lt_succ hl, ?_, by rwa [Nat.succ_add_eq_add_succ]⟩
          rwa [show n + 1 - 1 - (l + 1) = n - 1 - l by omega] at hi

theorem treeOf_root (leaf : Nat → α) : (treeOf op 6 ((List.range 64).map leaf, {})).1 = [Rules.tree (nodeOp op) leaf 6 0] := treeOf_range op leaf 6 0 {}

theorem treeOf_flags {flag : Flags → Bool} (h : Flags.Sticky flag) (leaf : Nat → α) :
    flag (treeOf op 6 ((List.range 64).map leaf, {})).2 = true ↔
      ∃ l i, l < 6 ∧ i < 2 ^ (5 - l) ∧ flag (op (Rules.tree (nodeOp op) leaf l (2 * i)) (Rules.tree (nodeOp op) leaf l (2 * i + 1))).2 = true := by
  refine (treeOf_flag op h leaf 6 0 {}).trans ?_
  simp only [h.empty, Bool.false_eq_true, false_or, Nat.zero_add]

/-- A tree of operations that raise nothing raises nothing. -/
theorem treeOf_noFlags (h : ∀ a b, (op a b).2 = {}) (leaf : Nat → α) : (treeOf op 6 ((List.range 64).map leaf, {})).2 = {} := by
  refine Flags.ext_sticky fun flag hs => ?_
  rw [hs.empty, Bool.eq_false_iff, Ne, treeOf_flags op hs]
  rintro ⟨l, i, -, -, hr⟩
  rw [h, hs.empty] at hr
  exact absurd hr (by decide)

theorem Flags.Sticky.nv {flag : Flags → Bool} (h : Flags.Sticky flag) (b : Bool) : flag { nv := b } = (b && flag { nv := true }) := by
  cases b
  · exact h.empty
  · rfl

/-- A tree of operations that raise NV for a signalling operand and deliver none: NV for a signalling leaf. -/
theorem treeOf_nv {sig : α → Bool} (hflags : ∀ a b, (op a b).2 = { nv := sig a || sig b }) (hquiet : ∀ a b, sig (op a b).1 = false) (leaf : Nat → α) :
    (treeOf op 6 ((List.range 64).map leaf, {})).2 = { nv := (List.range 64).any fun n => sig (leaf n) } := by
  refine Flags.ext_sticky fun flag hs => Bool.eq_iff_iff.2 ?_
  rw [treeOf_flags op hs, hs.nv, Bool.and_eq_true, List.any_eq_true]
  simp only [hflags, hs.nv (_ || _), Bool.and_eq_true, Bool.or_eq_true, List.mem_range]
  constructor
  · rintro ⟨l, i, hl, hi, hsig, hnv⟩
    cases l with
    | zero =>
      have : i < 32 := hi
      exact ⟨hsig.elim (fun h => ⟨2 * i, by omega, h⟩) fun h => ⟨2 * i + 1, by omega, h⟩, hnv⟩
    | succ l =>
      have hq (k : Nat) : sig (Rules.tree (nodeOp op) leaf (l + 1) k) = false := hquiet _ _
      rw [hq, hq] at hsig
      exact absurd hsig (by decide)
  · rintro ⟨⟨n, hn, hsig⟩, hnv⟩
    refine ⟨0, n / 2, by decide, show n / 2 < 32 by omega, ?_, hnv⟩
    rcases Nat.mod_two_eq_zero_or_one n with h | h
    · exact .inl (by rwa [show 2 * (n / 2) = n by omega])
    · exact .inr (by rwa [show 2 * (n / 2) + 1 = n by omega])

end

/-- The nodes of a tree over an associative operation with a unit. -/
theorem tree_foldr {α : Type} {op : α → α → α} {e : α} (assoc : ∀ a b c, op (op a b) c = op a (op b c)) (left : ∀ a, op e a = a) (right : ∀ a, op a e = a)
    (leaf : Nat → α) (n i : Nat) : Rules.tree op leaf n i = ((List.range (2 ^ n)).map fun k => leaf (2 ^ n * i + k)).foldr op e := by
  have split (l : List α) (a : α) : l.foldr op a = op (l.foldr op e) a := by
    induction l with
    | nil => exact (left a).symm
    | cons x l ih => rw [List.foldr_cons, ih, List.foldr_cons, assoc]
  induction n generalizing i with
  | zero => simp [Rules.tree, right]
  | succ n ih =>
    rw [Rules.tree, ih, ih, pow_succ, mul_two, List.range_add, List.map_append, List.foldr_append, split _ (List.foldr ..), List.map_map]
    congr 3
    · funext k
      congr 1
      ring
    · funext k
      simp only [Function.comp]
      congr 1
      ring

/-- The units among the operands change nothing. -/
theorem foldr_ite {α : Type} {op : α → α → α} {e : α} (left : ∀ a, op e a = a) (p : Nat → Bool) (f : Nat → α) (l : List Nat) :
    (l.map fun k => if p k then f k else e).foldr op e = ((l.filter p).map f).foldr op e := by
  induction l with
  | nil => rfl
  | cons k l ih => cases h : p k <;> simp [h, ih, left]

/-! ### The running value (R174) -/

/-- The value before lane j. -/
def scanBefore (op : Lane → Lane → Lane) (start : Lane) (x : Nat → Lane) : Nat → Lane
  | 0 => start
  | j + 1 => Rules.scan op start x j

theorem scan_succ (op : Lane → Lane → Lane) (start : Lane) (x : Nat → Lane) (j : Nat) :
    Rules.scan op start x (j + 1) = Rules.scan op (op start (x 0)) (fun k => x (k + 1)) j := by
  induction j with
  | zero => rfl
  | succ j ih => rw [Rules.scan, ih, Rules.scan]

theorem scanBefore_succ (op : Lane → Lane → Lane) (start : Lane) (x : Nat → Lane) (j : Nat) :
    scanBefore op start x (j + 1) = scanBefore op (op start (x 0)) (fun k => x (k + 1)) j := by
  cases j with
  | zero => rfl
  | succ j => exact scan_succ op start x j

section
variable (op : Lane → Lane → Lane × Flags)

theorem scanFrom_range (acc : Lane) (x : Nat → Lane) (n : Nat) :
    (scanFrom op acc ((List.range n).map x)).1 = (List.range n).map (Rules.scan (nodeOp op) acc x) := by
  induction n generalizing acc x with
  | zero => rfl
  | succ n ih =>
    rw [List.range_succ_eq_map, List.map_cons, List.map_map, scanFrom, List.map_cons, List.map_map]
    refine congrArg₂ List.cons rfl ((ih _ _).trans (List.map_congr_left fun j _ => ?_))
    exact (scan_succ (nodeOp op) acc x j).symm

theorem scanFrom_flag {flag : Flags → Bool} (h : Flags.Sticky flag) (acc : Lane) (x : Nat → Lane) (n : Nat) :
    flag (scanFrom op acc ((List.range n).map x)).2 = (List.range n).any fun j => flag (op (scanBefore (nodeOp op) acc x j) (x j)).2 := by
  induction n generalizing acc x with
  | zero => exact h.empty
  | succ n ih =>
    rw [List.range_succ_eq_map, List.map_cons, List.map_map, scanFrom, h.or, List.any_cons, List.any_map]
    refine congrArg₂ (· || ·) rfl ((ih _ _).trans ?_)
    simp only [Function.comp_def, scanBefore_succ]
    rfl

end

end Sys2Proof.Machine


/-!
PROOFS. Reductions and running sums (O23, third part; R116, R173, R174).
-/
namespace Sys2Proof.Machine

/-- What a reduction reads of lane n: the source where it is active, else the identity. -/
def activeOr (q : VIn) (mk : BitVec 2) (a : Reg) (e : Lane) (n : Nat) : Lane := if Rules.active q mk n then q.lane a n else e

theorem leaves_eq (q : VIn) (op : RedOp) (t : Elem) (mk : BitVec 2) (a : Reg) :
    leaves q op t mk a = (List.range 64).map (activeOr q mk a (redId op t)) := by
  rw [leaves, upFrom_zero_eq_range]
  rfl

/-! ### The operations of a node (R116) -/

theorem noSr_eq (mode : RMode) : mode.noSr = if mode = .sr then .rne else mode := by cases mode <;> rfl

theorem redNode_sum_fp32 (ftz : Bool) (mode : RMode) (a b : Lane) :
    redNode .sum .fp32 ftz mode a b = (Rules.fadd mode ftz a b, Rules.faddFlags mode ftz a b) := by
  rw [redNode, noSr_eq, addL, if_pos rfl, round32, Rules.fadd, Rules.faddFlags]
  refine Prod.ext rfl ?_
  change (if _ then _ else _) = _
  cases (addVal (if mode = .sr then .rne else mode) (val32 ftz a) (val32 ftz b)).2 <;> simp

theorem redNode_sum_int {t : Elem} (ht : t ≠ .fp32) (ftz : Bool) (mode : RMode) (a b : Lane) : redNode .sum t ftz mode a b = (a + b, {}) := by
  rw [redNode, addL, if_neg ht]
  rfl

theorem pickL_int_flags {t : Elem} (ht : t ≠ .fp32) (ftz larger : Bool) (a b : Lane) : (pickL t ftz larger a b).2 = {} := by
  cases t
  case fp32 => exact absurd rfl ht
  all_goals rfl

theorem redNode_int_flags {t : Elem} (ht : t ≠ .fp32) (op : RedOp) (ftz : Bool) (mode : RMode) (a b : Lane) : (redNode op t ftz mode a b).2 = {} := by
  cases op
  · rw [redNode_sum_int ht]
  · exact pickL_int_flags ht ftz true a b
  · exact pickL_int_flags ht ftz false a b

/-! ### Reductions -/

/-- A reduction delivers the root of the tree. -/
theorem reduceForm_root {q : VIn} {p : Pfx} {mk : BitVec 2} {t : Elem} {op : RedOp} {f : Lane → Lane → Lane} (d a : Reg)
    (hf : ∀ a b, (redNode op t q.ftz (q.mode p) a b).1 = f a b) :
    (reduceForm op q p mk t d a).x = [(d, extendRed t (Rules.tree f (activeOr q mk a (redId op t)) 6 0))] := by
  obtain rfl : nodeOp (redNode op t q.ftz (q.mode p)) = f := funext₂ hf
  simp only [reduceForm, leaves_eq]
  rw [treeOf_root]
  rfl

theorem reduceForm_flags (op : RedOp) (q : VIn) (p : Pfx) (mk : BitVec 2) (t : Elem) (d a : Reg) : (reduceForm op q p mk t d a).flags =
    (treeOf (redNode op t q.ftz (q.mode p)) 6 ((List.range 64).map (activeOr q mk a (redId op t)), {})).2 := by
  simp only [reduceForm, leaves_eq]

/-- The root over an associative operation with its identity: the fold of the active lanes. -/
theorem tree_active {f : Lane → Lane → Lane} {e : Lane} (assoc : ∀ a b c, f (f a b) c = f a (f b c)) (left : ∀ a, f e a = a) (right : ∀ a, f a e = a)
    (q : VIn) (mk : BitVec 2) (a : Reg) :
    Rules.tree f (activeOr q mk a e) 6 0 = (((List.range 64).filter (Rules.active q mk)).map (q.lane a)).foldr f e := by
  rw [tree_foldr assoc left right, ← foldr_ite left]
  simp only [Nat.mul_zero, Nat.zero_add]
  rfl

theorem activeInts_eq (q : VIn) (mk : BitVec 2) (a : Reg) :
    Rules.activeInts q mk a = (((List.range 64).filter (Rules.active q mk)).map (q.lane a)).map BitVec.toInt := by
  rw [List.map_map]
  rfl

theorem foldr_add (l : List Lane) : l.foldr (· + ·) 0 = BitVec.ofInt 32 (l.map BitVec.toInt).sum := by
  induction l with
  | nil => rfl
  | cons x l ih => rw [List.foldr_cons, ih, List.map_cons, List.sum_cons, BitVec.ofInt_add, BitVec.ofInt_toInt]

/-- Integer `vredsum`. -/
theorem vredsum_int32 (q : VIn) (p : Pfx) (mk : BitVec 2) (d a : Reg) :
    (reduceForm .sum q p mk .int32 d a).x = [(d, (BitVec.ofInt 32 (Rules.activeInts q mk a).sum).signExtend 64)] := by
  rw [reduceForm_root d a fun _ _ => congrArg Prod.fst (redNode_sum_int (by decide) _ _ _ _), activeInts_eq, ← foldr_add]
  exact congrArg (fun x : Lane => [(d, x.signExtend 64)]) (tree_active (f := (· + ·)) BitVec.add_assoc (fun _ => BitVec.zero_add _) BitVec.add_zero q mk a)

/-- The larger or smaller of two signed lanes. -/
def pickInt (larger : Bool) (a b : Lane) : Lane := if decide (a.toInt < b.toInt) == larger then b else a

/-- The larger or smaller of two integers. -/
def chosen (larger : Bool) (a b : Int) : Int := if larger then max a b else min a b

theorem toInt_pickInt (larger : Bool) (a b : Lane) : (pickInt larger a b).toInt = chosen larger a.toInt b.toInt := by
  unfold pickInt chosen
  rcases lt_or_ge a.toInt b.toInt with h | h
  · cases larger <;> simp [h, max_eq_right h.le, min_eq_left h.le]
  · cases larger <;> simp [not_lt.2 h, max_eq_left h, min_eq_right h]

theorem chosen_assoc (larger : Bool) (a b c : Int) : chosen larger (chosen larger a b) c = chosen larger a (chosen larger b c) := by
  cases larger
  · exact min_assoc a b c
  · exact max_assoc a b c

theorem pickInt_assoc (larger : Bool) (a b c : Lane) : pickInt larger (pickInt larger a b) c = pickInt larger a (pickInt larger b c) :=
  BitVec.toInt_inj.1 (by simp only [toInt_pickInt, chosen_assoc])

theorem toInt_foldr_pickInt (larger : Bool) (e : Lane) (l : List Lane) :
    (l.foldr (pickInt larger) e).toInt = (l.map BitVec.toInt).foldr (chosen larger) e.toInt := by
  induction l with
  | nil => rfl
  | cons x l ih => rw [List.foldr_cons, toInt_pickInt, ih, List.map_cons, List.foldr_cons]

/-- The tree of signed lanes: the greatest or least active one. -/
theorem tree_pickInt {larger : Bool} {e : Lane} (left : ∀ a, pickInt larger e a = a) (right : ∀ a, pickInt larger a e = a)
    (q : VIn) (mk : BitVec 2) (a : Reg) : extendRed .int32 (Rules.tree (pickInt larger) (activeOr q mk a e) 6 0) =
      BitVec.ofInt 64 ((Rules.activeInts q mk a).foldr (chosen larger) e.toInt) := by
  rw [tree_active (pickInt_assoc larger) left right, activeInts_eq, ← toInt_foldr_pickInt]
  rfl

theorem vredmax_int32 (q : VIn) (p : Pfx) (mk : BitVec 2) (d a : Reg) :
    (reduceForm .max q p mk .int32 d a).x = [(d, BitVec.ofInt 64 ((Rules.activeInts q mk a).foldl max (-2 ^ 31)))] := by
  have low (x : Lane) : -2 ^ 31 ≤ x.toInt := BitVec.le_toInt x
  have left (x : Lane) : pickInt true 0x80000000 x = x := BitVec.toInt_inj.1 (by rw [toInt_pickInt]; exact max_eq_right (low x))
  have right (x : Lane) : pickInt true x 0x80000000 = x := BitVec.toInt_inj.1 (by rw [toInt_pickInt]; exact max_eq_left (low x))
  rw [reduceForm_root (f := pickInt true) d a fun _ _ => rfl]
  exact congrArg (fun w => [(d, w)]) ((tree_pickInt left right q mk a).trans (congrArg _ (List.foldl_eq_foldr (f := max)).symm))

theorem vredmin_int32 (q : VIn) (p : Pfx) (mk : BitVec 2) (d a : Reg) :
    (reduceForm .min q p mk .int32 d a).x = [(d, BitVec.ofInt 64 ((Rules.activeInts q mk a).foldl min (2 ^ 31 - 1)))] := by
  have high (x : Lane) : x.toInt ≤ 2 ^ 31 - 1 := Int.le_sub_one_of_lt BitVec.toInt_lt
  have left (x : Lane) : pickInt false 0x7FFFFFFF x = x := BitVec.toInt_inj.1 (by rw [toInt_pickInt]; exact min_eq_right (high x))
  have right (x : Lane) : pickInt false x 0x7FFFFFFF = x := BitVec.toInt_inj.1 (by rw [toInt_pickInt]; exact min_eq_left (high x))
  rw [reduceForm_root (f := pickInt false) d a fun _ _ => rfl]
  exact congrArg (fun w => [(d, w)]) ((tree_pickInt left right q mk a).trans (congrArg _ (List.foldl_eq_foldr (f := min)).symm))

theorem extendRed_unsigned {t : Elem} (ht : t ≠ .int32) (x : Lane) : extendRed t x = BitVec.ofNat 64 x.toNat := by
  rw [extendRed, if_neg ht]
  exact BitVec.eq_of_toNat_eq (by simp)

/-- A reduction of lanes that are not signed numbers. -/
theorem reduceForm_unsigned {q : VIn} {p : Pfx} {mk : BitVec 2} {t : Elem} {op : RedOp} {f : Lane → Lane → Lane} (d a : Reg) (ht : t ≠ .int32)
    (hf : ∀ a b, (redNode op t q.ftz (q.mode p) a b).1 = f a b) :
    (reduceForm op q p mk t d a).x = [(d, BitVec.ofNat 64 (Rules.tree f (activeOr q mk a (redId op t)) 6 0).toNat)] := by
  rw [reduceForm_root d a hf, extendRed_unsigned ht]

/-- The larger or smaller of two unsigned lanes. -/
theorem pickL_unsigned (ftz : Bool) (a b : Lane) :
    (pickL .uint32 ftz true a b).1 = (if a.toNat < b.toNat then b else a) ∧ (pickL .uint32 ftz false a b).1 = if b.toNat < a.toNat then b else a := by
  rcases lt_trichotomy a.toNat b.toNat with h | h | h
  · simp [pickL, noFlags, h, not_lt.2 h.le]
  · simp [pickL, noFlags, BitVec.eq_of_toNat_eq h]
  · simp [pickL, noFlags, h, not_lt.2 h.le]

/-- The FP32 and unsigned reductions deliver the root of the rule's tree. -/
theorem reduce_combine {q : VIn} {p : Pfx} {mk : BitVec 2} {i : Instr} {t : Elem} {d a : Reg} {x : Lane × (Lane → Lane → Lane)}
    (hi : i = .vredsum p mk t d a ∨ i = .vredmax p mk t d a ∨ i = .vredmin p mk t d a) (hx : Rules.combine q p i = some x) :
    (vectorEffect i q).x = [(d, BitVec.ofNat 64 (Rules.tree x.2 (fun n => if Rules.active q mk n then q.lane a n else x.1) 6 0).toNat)] := by
  rcases hi with rfl | rfl | rfl <;> cases t <;> cases hx
  · exact reduceForm_unsigned (op := .sum) d a (by decide) fun x y => congrArg Prod.fst (redNode_sum_fp32 _ _ x y)
  · exact reduceForm_unsigned (op := .sum) d a (by decide) fun x y => congrArg Prod.fst (redNode_sum_int (by decide) _ _ x y)
  · exact reduceForm_unsigned (op := .max) d a (by decide) fun x y => congrArg Prod.fst (pickL_fp32 _ _ x y)
  · exact reduceForm_unsigned (op := .max) d a (by decide) fun x y => (pickL_unsigned q.ftz x y).1
  · exact reduceForm_unsigned (op := .min) d a (by decide) fun x y => congrArg Prod.fst (pickL_fp32 _ _ x y)
  · exact reduceForm_unsigned (op := .min) d a (by decide) fun x y => (pickL_unsigned q.ftz x y).2

/-! ### The flags of reductions (R115) -/

theorem vredsum_fp32_flag {flag : Flags → Bool} (h : Flags.Sticky flag) (q : VIn) (p : Pfx) (mk : BitVec 2) (d a : Reg) :
    let x (n : Nat) : Lane := if Rules.active q mk n then q.lane a n else 0x80000000
    let add := Rules.fadd (q.mode p) q.ftz
    flag (reduceForm .sum q p mk .fp32 d a).flags = true ↔ ∃ n i, n < 6 ∧ i < 2 ^ (5 - n) ∧
      flag (Rules.faddFlags (q.mode p) q.ftz (Rules.tree add x n (2 * i)) (Rules.tree add x n (2 * i + 1))) = true := by
  have hop : redNode .sum .fp32 q.ftz (q.mode p) = fun a b => (Rules.fadd (q.mode p) q.ftz a b, Rules.faddFlags (q.mode p) q.ftz a b) :=
    funext₂ (redNode_sum_fp32 _ _)
  rw [reduceForm_flags, hop]
  exact treeOf_flags _ h _

theorem reduceForm_int_flags {t : Elem} (ht : t ≠ .fp32) (op : RedOp) (q : VIn) (p : Pfx) (mk : BitVec 2) (d a : Reg) :
    (reduceForm op q p mk t d a).flags = {} := by
  rw [reduceForm_flags]
  exact treeOf_noFlags _ (redNode_int_flags ht op _ _) _

theorem isNan_qnan : Rules.isNan Rules.qnan = true ∧ Rules.signals Rules.qnan = false := by decide

/-- The larger or smaller of two lanes is a quiet NaN or none. -/
theorem signals_pick (ftz larger : Bool) (a b : Lane) : Rules.signals (Rules.pick ftz larger a b) = false := by
  unfold Rules.pick
  split
  case isTrue => exact isNan_qnan.2
  case isFalse h =>
    obtain ⟨ha, hb⟩ := not_or.1 h
    have hx : Rules.signals (Rules.asRead ftz a) = false := signals_of_not_nan (by rw [isNan_asRead]; simpa using ha)
    have hy : Rules.signals (Rules.asRead ftz b) = false := signals_of_not_nan (by rw [isNan_asRead]; simpa using hb)
    have hite (c : Prop) [Decidable c] : Rules.signals (if c then Rules.asRead ftz b else Rules.asRead ftz a) = false := by
      split <;> assumption
    split <;> exact hite _

theorem signals_activeOr (q : VIn) (mk : BitVec 2) (a : Reg) {e : Lane} (he : Rules.signals e = false) (n : Nat) :
    Rules.signals (activeOr q mk a e n) = (Rules.active q mk n && Rules.signals (q.lane a n)) := by
  unfold activeOr
  cases Rules.active q mk n <;> simp [he]

theorem redNode_pick_nv {op : RedOp} {larger : Bool} (hop : ∀ ftz mode a b, redNode op .fp32 ftz mode a b = pickL .fp32 ftz larger a b)
    (he : Rules.signals (redId op .fp32) = false) (q : VIn) (p : Pfx) (mk : BitVec 2) (d a : Reg) :
    (reduceForm op q p mk .fp32 d a).flags = { nv := (List.range 64).any fun n => Rules.active q mk n && Rules.signals (q.lane a n) } := by
  rw [reduceForm_flags, treeOf_nv (sig := Rules.signals) _ (fun x y => by rw [hop, pickL_fp32]) fun x y => by rw [hop, pickL_fp32, signals_pick]]
  simp only [signals_activeOr q mk a he]

/-! ### The running sum (R174) -/

theorem scanForm_lane {q : VIn} {p : Pfx} {t : Elem} {f : Lane → Lane → Lane} (mk : BitVec 2) (d a : Reg)
    (hf : ∀ a b, (redNode .sum t q.ftz (q.mode p) a b).1 = f a b) :
    ∃ r, (scanForm q p mk t d a).v = [r] ∧ r.reg = d ∧ ∀ j, j < 64 → r.lanes j = true ∧
      laneOf r.val j = Rules.scan f (redId .sum t) (activeOr q mk a (redId .sum t)) j := by
  obtain rfl : nodeOp (redNode .sum t q.ftz (q.mode p)) = f := funext₂ hf
  refine ⟨_, rfl, rfl, fun j hj => ⟨rfl, ?_⟩⟩
  rw [laneOf_vregOfList _ hj, leaves_eq, scanFrom_range]
  simp [List.getD_eq_getElem?_getD, hj]

theorem scan_add (x : Nat → Lane) (p : Nat → Bool) (j : Nat) : Rules.scan (· + ·) 0 (fun n => if p n then x n else 0) j =
    BitVec.ofInt 32 (((List.range (j + 1)).filter p).map fun n => (x n).toInt).sum := by
  induction j with
  | zero =>
    rw [List.range_one, Rules.scan]
    cases h : p 0 <;> simp [h]
  | succ j ih =>
    rw [Rules.scan, ih, List.range_succ (n := j + 1), List.filter_append, List.map_append, List.sum_append, BitVec.ofInt_add]
    cases h : p (j + 1) <;> simp [h]

theorem vscan_flag {flag : Flags → Bool} (h : Flags.Sticky flag) (q : VIn) (p : Pfx) (mk : BitVec 2) (d a : Reg) :
    let x (n : Nat) : Lane := if Rules.active q mk n then q.lane a n else 0x80000000
    let add := Rules.fadd (q.mode p) q.ftz
    flag (scanForm q p mk .fp32 d a).flags = true ↔ flag (Rules.faddFlags (q.mode p) q.ftz 0x80000000 (x 0)) = true ∨
      ∃ n, n < 63 ∧ flag (Rules.faddFlags (q.mode p) q.ftz (Rules.scan add 0x80000000 x n) (x (n + 1))) = true := by
  intro x add
  have hop : redNode .sum .fp32 q.ftz (q.mode p) = fun a b => (Rules.fadd (q.mode p) q.ftz a b, Rules.faddFlags (q.mode p) q.ftz a b) :=
    funext₂ (redNode_sum_fp32 _ _)
  have hflags : flag (scanForm q p mk .fp32 d a).flags = 
      (List.range (63 + 1)).any fun j => flag (Rules.faddFlags (q.mode p) q.ftz (scanBefore add 0x80000000 x j) (x j)) := by
    simp only [scanForm, leaves_eq, hop]
    exact scanFrom_flag _ h _ _ 64
  rw [hflags, List.range_succ_eq_map, List.any_cons, List.any_map, Bool.or_eq_true, List.any_eq_true]
  simp only [List.mem_range]
  rfl

theorem scanForm_int_flags {t : Elem} (ht : t ≠ .fp32) (q : VIn) (p : Pfx) (mk : BitVec 2) (d a : Reg) : (scanForm q p mk t d a).flags = {} := by
  refine Flags.ext_sticky fun flag hs => ?_
  simp only [scanForm, leaves_eq]
  refine (scanFrom_flag _ hs _ _ 64).trans ?_
  simp only [redNode_int_flags ht, hs.empty, List.any_eq_false]
  simp

end Sys2Proof.Machine


/-!
PROOFS. Rankings (O23, fourth part; R116, R173, R175): `vargmax` delivers the winner of the rule's tree, `vtopk` each active lane at the number of lanes
better than it.
-/
namespace Sys2Proof.Machine

/-! ### The rank of a lane (R116, R175) -/

theorem asRead_asRead (ftz : Bool) (x : Lane) : Rules.asRead ftz (Rules.asRead ftz x) = Rules.asRead ftz x := by
  by_cases h : ftz = true ∧ x.toNat / 2 ^ 23 % 256 = 0
  · refine BitVec.eq_of_toNat_eq ?_
    have hread := asRead_of_subnormal h
    rw [asRead_of_subnormal ⟨h.1, by rw [hread]; omega⟩, hread]
    omega
  · have hx : Rules.asRead ftz x = x := if_neg h
    rw [hx, hx]

theorem ranked_ranked (t : Elem) (ftz : Bool) (x : Lane) : Rules.ranked t ftz (Rules.ranked t ftz x) = Rules.ranked t ftz x := by
  unfold Rules.ranked
  by_cases ht : t = .fp32
  · simp only [if_pos ht]
    by_cases hx : Rules.isNan x = true
    · rw [if_pos hx, if_pos isNan_qnan.1]
    · rw [if_neg hx, if_neg (by rwa [isNan_asRead]), asRead_asRead]
  · simp only [if_neg ht]

theorem rank_ranked (t : Elem) (ftz : Bool) (x : Lane) : Rules.rank t ftz (Rules.ranked t ftz x) = Rules.rank t ftz x := by
  by_cases ht : t = .fp32
  · subst ht
    simp only [Rules.ranked, Rules.rank, if_true]
    by_cases hx : Rules.isNan x = true
    · rw [if_pos hx, if_pos isNan_qnan.1, if_pos hx]
    · rw [if_neg hx, isNan_asRead, if_neg hx, if_neg hx, asRead_asRead]
  · rw [Rules.ranked, if_neg ht]

theorem order_lt (x : Lane) : Rules.order x < 2 ^ 31 := by
  unfold Rules.order
  split <;> omega

theorem rank_nan {ftz : Bool} {x : Lane} (h : Rules.isNan x = true) : Rules.rank .fp32 ftz x = 2 ^ 32 := if_pos h

theorem rank_number {ftz : Bool} {x : Lane} (h : ¬ Rules.isNan x = true) : Rules.rank .fp32 ftz x = Rules.order (Rules.asRead ftz x) := if_neg h

theorem rank_le (ftz : Bool) (x : Lane) : Rules.rank .fp32 ftz x ≤ 2 ^ 32 := by
  by_cases h : Rules.isNan x = true
  · exact (rank_nan h).le
  · exact (rank_number h).le.trans ((order_lt _).le.trans (by decide))

theorem ranked_nan {ftz : Bool} {x : Lane} (h : Rules.isNan x = true) : Rules.ranked .fp32 ftz x = Rules.qnan := by
  rw [Rules.ranked, if_pos rfl, if_pos h]

theorem ranked_number {ftz : Bool} {x : Lane} (h : ¬ Rules.isNan x = true) : Rules.ranked .fp32 ftz x = Rules.asRead ftz x := by
  rw [Rules.ranked, if_pos rfl, if_neg h]

/-! ### `vargmax` (R173) -/

/-- The better of two lanes with their numbers (R116). -/
def better (t : Elem) (ftz : Bool) (x y : Lane × Nat) : Lane × Nat := if Rules.rank t ftz x.1 < Rules.rank t ftz y.1 then y else x

/-- A lane as it is delivered, with its number. -/
def delivered (t : Elem) (ftz : Bool) (x : Lane × Nat) : Lane × Nat := (Rules.ranked t ftz x.1, x.2)

theorem argNode_better {t : Elem} (ht : t ∈ [Elem.fp32, .int32, .uint32]) (ftz : Bool) (x y : Lane × Nat) :
    (argNode t ftz x y).1 = delivered t ftz (better t ftz x y) := by
  simp only [List.mem_cons, List.not_mem_nil, or_false] at ht
  rcases ht with rfl | rfl | rfl
  · simp only [argNode, isNan32_eq, ftzSrc_eq, fpKey_eq]
    by_cases hnx : Rules.isNan x.1 = true
    · rw [if_pos hnx, better, if_neg (by rw [rank_nan hnx]; exact not_lt.2 (rank_le ftz y.1)), delivered, ranked_nan hnx]
      rfl
    · rw [if_neg hnx]
      by_cases hny : Rules.isNan y.1 = true
      · rw [if_pos hny, better, if_pos (by rw [rank_nan hny, rank_number hnx]; exact (order_lt _).trans (by decide)), delivered, ranked_nan hny]
        rfl
      · rw [if_neg hny, better, rank_number hnx, rank_number hny, ← ranked_number hnx, ← ranked_number hny]
        split <;> rfl
  · rfl
  · have hlt : (x.1.toNat : Int) < y.1.toNat ↔ x.1.toNat < y.1.toNat := Int.ofNat_lt
    simp only [argNode, better, Rules.rank, hlt]
    rfl

theorem delivered_better {t : Elem} {ftz : Bool} {x x' y y' : Lane × Nat} (hx : delivered t ftz x' = delivered t ftz x)
    (hy : delivered t ftz y' = delivered t ftz y) : delivered t ftz (better t ftz x' y') = delivered t ftz (better t ftz x y) := by
  have hrank {u u' : Lane × Nat} (h : delivered t ftz u' = delivered t ftz u) : Rules.rank t ftz u'.1 = Rules.rank t ftz u.1 := by
    rw [← rank_ranked, show Rules.ranked t ftz u'.1 = Rules.ranked t ftz u.1 from congrArg Prod.fst h, rank_ranked]
  unfold better
  rw [hrank hx, hrank hy]
  split <;> assumption

theorem delivered_delivered (t : Elem) (ftz : Bool) (x : Lane × Nat) : delivered t ftz (delivered t ftz x) = delivered t ftz x :=
  Prod.ext (ranked_ranked t ftz x.1) rfl

/-- The model's tree delivers the winner of the rule's. -/
theorem delivered_tree {t : Elem} (ht : t ∈ [Elem.fp32, .int32, .uint32]) (ftz : Bool) (leaf : Nat → Lane × Nat) (n i : Nat) :
    delivered t ftz (Rules.tree (nodeOp (argNode t ftz)) leaf n i) = delivered t ftz (Rules.tree (better t ftz) leaf n i) := by
  induction n generalizing i with
  | zero => rfl
  | succ n ih =>
    rw [Rules.tree, nodeOp, argNode_better ht, delivered_delivered, Rules.tree]
    exact delivered_better (ih _) (ih _)

theorem argmax_tree {t : Elem} (ht : t ∈ [Elem.fp32, .int32, .uint32]) (ftz : Bool) (leaf : Nat → Lane × Nat) (n i : Nat) :
    Rules.tree (nodeOp (argNode t ftz)) leaf (n + 1) i = delivered t ftz (Rules.tree (better t ftz) leaf (n + 1) i) := by
  rw [← delivered_tree ht, Rules.tree, nodeOp, argNode_better ht, delivered_delivered]

/-- What `vargmax` reads of lane n. -/
def argLeaf (q : VIn) (mk : BitVec 2) (t : Elem) (a : Reg) (n : Nat) : Lane × Nat := if Rules.active q mk n then (q.lane a n, n) else (Rules.least t, 64)

theorem argmaxForm_eq {t : Elem} (ht : redId .max t = Rules.least t) (q : VIn) (mk : BitVec 2) (d a : Reg) :
    (argmaxForm q mk t d a).x = (let w := (treeOf (argNode t q.ftz) 6 ((List.range 64).map (argLeaf q mk t a), {})).1.headD (0, 64)
      [(d, BitVec.ofNat 64 (w.2 * 2 ^ 32 + w.1.toNat))]) ∧
    (argmaxForm q mk t d a).flags = (treeOf (argNode t q.ftz) 6 ((List.range 64).map (argLeaf q mk t a), {})).2 := by
  simp only [argmaxForm, upFrom_zero_eq_range, ht]
  exact ⟨rfl, rfl⟩

theorem redId_max {t : Elem} : redId .max t = Rules.least t := by
  cases t <;> rfl

theorem vargmax_winner {t : Elem} (ht : t ∈ [Elem.fp32, .int32, .uint32]) (q : VIn) (mk : BitVec 2) (d a : Reg) :
    let w := Rules.tree (better t q.ftz) (argLeaf q mk t a) 6 0
    (argmaxForm q mk t d a).x = [(d, BitVec.ofNat 64 (w.2 * 2 ^ 32 + (Rules.ranked t q.ftz w.1).toNat))] := by
  rw [(argmaxForm_eq redId_max q mk d a).1, treeOf_root, argmax_tree ht]
  rfl

theorem vargmax_fp32_flags (q : VIn) (mk : BitVec 2) (d a : Reg) :
    (argmaxForm q mk .fp32 d a).flags = { nv := (List.range 64).any fun n => Rules.active q mk n && Rules.signals (q.lane a n) } := by
  have hquiet (x y : Lane × Nat) : Rules.signals (argNode .fp32 q.ftz x y).1.1 = false := by
    rw [argNode_better (by decide)]
    simp only [delivered, Rules.ranked, if_true]
    split
    case isTrue => exact isNan_qnan.2
    case isFalse h => exact signals_of_not_nan (by rw [isNan_asRead]; simpa using h)
  have hflags (x y : Lane × Nat) : (argNode .fp32 q.ftz x y).2 = { nv := Rules.signals x.1 || Rules.signals y.1 } := by
    simp only [argNode, snanFlag_two]
    split
    · rfl
    · split <;> rfl
  rw [(argmaxForm_eq redId_max q mk d a).2, treeOf_nv (sig := fun x => Rules.signals x.1) _ hflags hquiet]
  congr 2
  funext n
  unfold argLeaf
  cases Rules.active q mk n
  · exact (by decide : Rules.signals 0xFF800000 = false)
  · rfl

theorem vargmax_int_flags {t : Elem} (ht : t ≠ .fp32) (q : VIn) (mk : BitVec 2) (d a : Reg) : (argmaxForm q mk t d a).flags = {} := by
  rw [(argmaxForm_eq redId_max q mk d a).2]
  refine treeOf_noFlags _ (fun x y => ?_) _
  cases t
  case fp32 => exact absurd rfl ht
  all_goals rfl

/-! ### `vtopk` (R175) -/

/-- An entry of the ranking before another: a greater key, or the same and a lower number. -/
def Before (x y : Int × Nat) : Prop := y.1 < x.1 ∨ x.1 = y.1 ∧ x.2 < y.2

theorem rankInsert_perm (k : Int) (i : Nat) (l : List (Int × Nat)) : (rankInsert k i l).Perm ((k, i) :: l) := by
  induction l with
  | nil => exact .refl _
  | cons e l ih =>
    rw [rankInsert]
    split
    · exact .refl _
    · exact (ih.cons e).trans (.swap (k, i) e l)

/-- Inserting a later number keeps a ranking in order. -/
theorem rankInsert_before {k : Int} {i : Nat} {l : List (Int × Nat)} (hl : l.Pairwise Before) (hi : ∀ e ∈ l, e.2 < i) :
    (rankInsert k i l).Pairwise Before := by
  induction l with
  | nil => exact List.pairwise_singleton _ _
  | cons e l ih =>
    obtain ⟨he, hrest⟩ := List.pairwise_cons.1 hl
    rw [rankInsert]
    split
    case isTrue hk =>
      refine List.pairwise_cons.2 ⟨fun y hy => .inl ?_, hl⟩
      rcases List.mem_cons.1 hy with rfl | hy
      · exact hk
      · rcases he y hy with h | h <;> omega
    case isFalse hk =>
      refine List.pairwise_cons.2 ⟨fun y hy => ?_, ih hrest fun y hy => hi y (List.mem_cons_of_mem _ hy)⟩
      rcases List.mem_cons.1 ((rankInsert_perm k i l).mem_iff.1 hy) with rfl | hy
      · rcases (not_lt.1 hk).lt_or_eq with h | h
        · exact .inl h
        · exact .inr ⟨h.symm, hi e List.mem_cons_self⟩
      · exact he y hy

/-- The ranking of a list of numbers that rise. -/
theorem foldl_rankInsert (key : Nat → Int) (l : List Nat) (acc : List (Int × Nat)) (hacc : acc.Pairwise Before) (hl : l.Pairwise (· < ·))
    (hlow : ∀ e ∈ acc, ∀ i ∈ l, e.2 < i) :
    (l.foldl (fun r i => rankInsert (key i) i r) acc).Pairwise Before ∧
      (l.foldl (fun r i => rankInsert (key i) i r) acc).Perm (l.map (fun i => (key i, i)) ++ acc) := by
  induction l generalizing acc with
  | nil => exact ⟨hacc, .refl _⟩
  | cons i l ih =>
    obtain ⟨hi, hrest⟩ := List.pairwise_cons.1 hl
    have hperm := rankInsert_perm (key i) i acc
    obtain ⟨hsorted, hp⟩ := ih (rankInsert (key i) i acc) (rankInsert_before hacc fun e he => hlow e he i List.mem_cons_self) hrest fun e he j hj => by
      rcases List.mem_cons.1 (hperm.mem_iff.1 he) with rfl | he
      · exact hi j hj
      · exact hlow e he j (List.mem_cons_of_mem _ hj)
    exact ⟨hsorted, hp.trans ((hperm.append_left _).trans List.perm_middle)⟩

/-- In a list in order, an entry stands at the number of the entries before it. -/
theorem getElem?_of_before {l : List (Int × Nat)} (hl : l.Pairwise Before) {e : Int × Nat} (he : e ∈ l) (p : Int × Nat → Bool)
    (hp : ∀ y, p y = true ↔ Before y e) :
    l[(l.filter p).length]? = some e := by
  obtain ⟨u, v, rfl⟩ := List.append_of_mem he
  obtain ⟨-, hev, hu⟩ := List.pairwise_append.1 hl
  have hbefore : u.filter p = u := List.filter_eq_self.2 fun y hy => (hp y).2 (hu y hy e List.mem_cons_self)
  have hafter : (e :: v).filter p = [] := List.filter_eq_nil_iff.2 fun y hy h => by
    have h' := (hp y).1 h
    rcases List.mem_cons.1 hy with rfl | hy
    · rcases h' with h' | h' <;> omega
    · have := (List.pairwise_cons.1 hev).1 y hy
      rcases h' with h' | h' <;> rcases this with h'' | h'' <;> omega
  rw [List.filter_append, hbefore, hafter, List.append_nil]
  simp

/-- The model's key of a lane ranks it as the rule does. -/
theorem rankKey_lt_iff {t : Elem} (ht : t = .fp32 ∨ t = .int32) (ftz : Bool) (x y : Lane) :
    rankKey t ftz x < rankKey t ftz y ↔ Rules.rank t ftz x < Rules.rank t ftz y := by
  rcases ht with rfl | rfl
  · have hkey (z : Lane) : rankKey .fp32 ftz z = if Rules.isNan z = true then 2 ^ 40 else Rules.order (Rules.asRead ftz z) := by
      rw [rankKey, if_pos rfl, isNan32_eq, ftzSrc_eq, fpKey_eq]
    have hx := order_lt (Rules.asRead ftz x)
    have hy := order_lt (Rules.asRead ftz y)
    by_cases hnx : Rules.isNan x = true <;> by_cases hny : Rules.isNan y = true <;>
      simp only [hkey, Rules.rank, hnx, hny, if_true, Bool.false_eq_true, if_false] <;> omega
  · rfl

theorem rankKey_eq_iff {t : Elem} (ht : t = .fp32 ∨ t = .int32) (ftz : Bool) (x y : Lane) :
    rankKey t ftz x = rankKey t ftz y ↔ Rules.rank t ftz x = Rules.rank t ftz y := by
  have hlt := rankKey_lt_iff ht ftz x y
  have hgt := rankKey_lt_iff ht ftz y x
  omega

/-- The active lanes, and their ranking. -/
def activeLanes (q : VIn) (mk : BitVec 2) : List Nat := (List.range 64).filter (Rules.active q mk)

def ranking (q : VIn) (mk : BitVec 2) (t : Elem) (a : Reg) : List (Int × Nat) :=
  (activeLanes q mk).foldl (fun l i => rankInsert (rankKey t q.ftz (q.lane a i)) i l) []

theorem ranking_spec (q : VIn) (mk : BitVec 2) (t : Elem) (a : Reg) :
    (ranking q mk t a).Pairwise Before ∧ (ranking q mk t a).Perm ((activeLanes q mk).map fun i => (rankKey t q.ftz (q.lane a i), i)) := by
  obtain ⟨hsorted, hperm⟩ := foldl_rankInsert (fun i => rankKey t q.ftz (q.lane a i)) (activeLanes q mk) [] .nil
    (List.pairwise_lt_range.filter _) (fun e he => by cases he)
  exact ⟨hsorted, by rwa [List.append_nil] at hperm⟩

theorem length_ranking (q : VIn) (mk : BitVec 2) (t : Elem) (a : Reg) : (ranking q mk t a).length = (activeLanes q mk).length := by
  rw [(ranking_spec q mk t a).2.length_eq, List.length_map]

theorem length_activeLanes (q : VIn) (mk : BitVec 2) : (activeLanes q mk).length ≤ 64 := by
  exact (List.length_filter_le _ _).trans List.length_range.le

/-- An active lane stands at the number of active lanes that rank before it. -/
theorem ranking_getElem? {t : Elem} (ht : t = .fp32 ∨ t = .int32) (q : VIn) (mk : BitVec 2) (a : Reg) {i : Nat} (hi : i ∈ activeLanes q mk) :
    let key (n : Nat) : Int := Rules.rank t q.ftz (q.lane a n)
    (ranking q mk t a)[((activeLanes q mk).filter fun l => decide (key i < key l ∨ key i = key l ∧ l < i)).length]? =
      some (rankKey t q.ftz (q.lane a i), i) := by
  intro key
  obtain ⟨hsorted, hperm⟩ := ranking_spec q mk t a
  have hmem : (rankKey t q.ftz (q.lane a i), i) ∈ ranking q mk t a := hperm.mem_iff.2 (List.mem_map.2 ⟨i, hi, rfl⟩)
  have hget := getElem?_of_before hsorted hmem
    (fun y => decide (rankKey t q.ftz (q.lane a i) < y.1 ∨ y.1 = rankKey t q.ftz (q.lane a i) ∧ y.2 < i)) fun y => decide_eq_true_iff
  have hcount : ((ranking q mk t a).filter fun y => decide (rankKey t q.ftz (q.lane a i) < y.1 ∨ y.1 = rankKey t q.ftz (q.lane a i) ∧ y.2 < i)).length =
      ((activeLanes q mk).filter fun l => decide (key i < key l ∨ key i = key l ∧ l < i)).length := by
    rw [(hperm.filter _).length_eq, List.filter_map, List.length_map]
    simp only [Function.comp_def, rankKey_lt_iff ht, eq_comm (a := rankKey t q.ftz (q.lane a _)) (b := rankKey t q.ftz (q.lane a i)), rankKey_eq_iff ht]
    rfl
  rwa [hcount] at hget

/-- What `vtopk` writes: each lane of the two registers from an entry of the ranking, or the fill. -/
theorem topkForm_lanes {t : Elem} (ht : t = .fp32 ∨ t = .int32) (q : VIn) (mk : BitVec 2) (d a : Reg) :
    ∃ r1 r2, (topkForm q mk t d a).v = [r1, r2] ∧ r1.reg = d ∧ r2.reg = d + 1 ∧ (∀ j, r1.lanes j = true ∧ r2.lanes j = true) ∧
      ∀ j, j < 64 →
        (∀ k i, j < q.xa.toNat → (ranking q mk t a)[j]? = some (k, i) →
          laneOf r1.val j = Rules.ranked t q.ftz (q.lane a i) ∧ laneOf r2.val j = BitVec.ofNat 32 i) ∧
        (q.xa.toNat ≤ j ∨ (ranking q mk t a).length ≤ j → laneOf r1.val j = Rules.least t ∧ laneOf r2.val j = 64) := by
  have hranking : ((upFrom 0 64).filter (q.act mk)).foldl (fun l i => rankInsert (rankKey t q.ftz (q.lane a i)) i l) [] = ranking q mk t a := by
    rw [upFrom_zero_eq_range]
    rfl
  refine ⟨_, _, rfl, rfl, rfl, fun _ => ⟨rfl, rfl⟩, fun j hj => ?_⟩
  simp only [laneOf_vregOf _ hj, hranking]
  constructor
  · intro k i hxa hget
    rw [List.getElem?_take_of_lt (lt_min hxa hj), hget]
    refine ⟨?_, rfl⟩
    rcases ht with rfl | rfl
    · simp only [Option.elim, if_true, isNan32_eq, ftzSrc_eq]
      rfl
    · rfl
  · intro hfill
    rw [List.getElem?_eq_none (by rw [List.length_take]; change min (min _ _) _ ≤ j; omega)]
    rcases ht with rfl | rfl <;> exact ⟨rfl, rfl⟩

theorem vtopk_flags (q : VIn) (mk : BitVec 2) (t : Elem) (d a : Reg) : (topkForm q mk t d a).flags =
    if t = .fp32 then { nv := (List.range 64).any fun n => Rules.active q mk n && Rules.signals (q.lane a n) } else {} := by
  simp only [topkForm, snanFlag, upFrom_zero_eq_range, val32_signalling, List.any_map, List.any_filter]
  rfl

end Sys2Proof.Machine


/-!
PROOFS. Packing conversions and block scales (O23, fifth part; R180, R181, R184, R185).
-/
namespace Sys2Proof.Machine

/-! ### Elements packed in a register (R31, R180, R181) -/

theorem packElems_lt {w : Nat} {l : List Nat} (h : ∀ x ∈ l, x < 2 ^ w) : packElems w l < 2 ^ (w * l.length) := by
  induction l with
  | nil => exact Nat.one_pos
  | cons x l ih =>
    have hx := h x List.mem_cons_self
    have hl := ih fun y hy => h y (List.mem_cons_of_mem _ hy)
    rw [packElems, List.length_cons, Nat.mul_succ, pow_add, mul_comm (2 ^ (w * l.length))]
    nlinarith

/-- Element j of packed elements. -/
theorem packElems_elem {w : Nat} {l : List Nat} (h : ∀ x ∈ l, x < 2 ^ w) {j : Nat} (hj : j < l.length) : packElems w l / 2 ^ (w * j) % 2 ^ w = l[j] := by
  induction l generalizing j with
  | nil => exact absurd hj (by simp)
  | cons x l ih =>
    have hx := h x List.mem_cons_self
    have hw := Nat.two_pow_pos w
    rw [packElems]
    cases j with
    | zero => rw [Nat.mul_zero, pow_zero, Nat.div_one, Nat.add_mul_mod_self_left, Nat.mod_eq_of_lt hx, List.getElem_cons_zero]
    | succ j =>
      rw [Nat.mul_succ, add_comm (w * j), pow_add, ← Nat.div_div_eq_div_mul, Nat.add_mul_div_left _ _ hw, Nat.div_eq_of_lt hx, Nat.zero_add,
        ih (fun y hy => h y (List.mem_cons_of_mem _ hy)) (by simpa using hj), List.getElem_cons_succ]

/-- The content that a conveyor leaves of a register. -/
theorem shifted_lt (old : VReg) {n : Nat} (hn : n ≤ 2048) : old.toNat / 2 ^ n < 2 ^ (2048 - n) := by
  rw [Nat.div_lt_iff_lt_mul (Nat.two_pow_pos _), ← pow_add, Nat.sub_add_cancel hn]
  exact old.isLt

/-- The conveyor: the new elements stand above the old content, which moves down (R181). -/
theorem conveyor_toNat (old : VReg) {w : Nat} {l : List Nat} (hw : 64 * w ≤ 2048) (hl : packElems w l < 2 ^ (64 * w)) :
    (conveyor old w l).toNat = 2 ^ (2048 - 64 * w) * packElems w l + old.toNat / 2 ^ (64 * w) := by
  have hnew : packElems w l * 2 ^ (2048 - 64 * w) < 2 ^ 2048 := by
    calc packElems w l * 2 ^ (2048 - 64 * w) < 2 ^ (64 * w) * 2 ^ (2048 - 64 * w) := Nat.mul_lt_mul_of_pos_right hl (Nat.two_pow_pos _)
      _ = 2 ^ 2048 := by rw [← pow_add, Nat.add_sub_cancel' hw]
  rw [conveyor, BitVec.toNat_or, BitVec.toNat_ushiftRight, BitVec.toNat_shiftLeft, BitVec.toNat_ofNat,
    Nat.mod_eq_of_lt (hl.trans_le (Nat.pow_le_pow_right two_pos hw)), Nat.shiftLeft_eq, Nat.mod_eq_of_lt hnew, Nat.shiftRight_eq_div_pow, Nat.or_comm,
    mul_comm, ← Nat.two_pow_add_eq_or_of_lt (shifted_lt old hw)]

theorem conveyor_elem (old : VReg) {w : Nat} {l : List Nat} (hw : 64 * w ≤ 2048) (hlen : l.length = 64)
    (h : ∀ x ∈ l, x < 2 ^ w) {j : Nat} (hj : j < l.length) :
    (conveyor old w l).toNat / 2 ^ (2048 - 64 * w + w * j) % 2 ^ w = l[j] := by
  have hl : packElems w l < 2 ^ (64 * w) := by
    rw [mul_comm, ← hlen]
    exact packElems_lt h
  rw [conveyor_toNat old hw hl, pow_add, ← Nat.div_div_eq_div_mul, Nat.mul_add_div (Nat.two_pow_pos _), Nat.div_eq_of_lt (shifted_lt old hw), Nat.add_zero,
    packElems_elem h hj]

theorem conveyor_old (old : VReg) {w : Nat} {l : List Nat} (hw : 64 * w ≤ 2048) {j : Nat} (hj : j < 64 - 2 * w) :
    laneOf (conveyor old w l) j = laneOf old (j + 2 * w) := by
  refine BitVec.eq_of_getLsbD_eq fun b hb => ?_
  rw [laneOf, laneOf, BitVec.getLsbD_extractLsb', BitVec.getLsbD_extractLsb', conveyor, BitVec.getLsbD_or, BitVec.getLsbD_ushiftRight,
    BitVec.getLsbD_shiftLeft, decide_eq_true (show 32 * j + b < 2048 - 64 * w by omega), Bool.not_true, Bool.and_false, Bool.false_and, Bool.or_false,
    show 64 * w + (32 * j + b) = 32 * (j + 2 * w) + b by ring]

/-! ### Packing conversions (R114, R180, R181) -/

theorem convVal_lt (f : Elem) (v : Val) (mode : RMode) (sat ftz : Bool) (g : Lane) : (convVal f v mode sat ftz g).1 < 2 ^ elemBits f := by
  have hg : g.toNat < 2 ^ 32 := g.isLt
  cases f
  case int32 | int8 | int4 => exact BitVec.isLt _
  all_goals exact roundFP_lt (by decide) v mode sat ftz hg

/-- What a packing form writes at lane j: the old content moved down, and its element. -/
theorem packForm_writes {f : Elem} {w : Nat} (hf : elemBits f = w) (hw : 64 * w ≤ 2048) (q : VIn) (p : Pfx) (d : Reg) (vals : Nat → Val) :
    ∃ r, (packForm q p f d vals).v = [r] ∧ r.reg = d ∧ ∀ j, j < 64 → (j < 64 - 2 * w → laneOf r.val j = laneOf (q.v d) (j + 2 * w)) ∧
      r.val.toNat / 2 ^ (2048 - 64 * w + w * j) % 2 ^ w = (convVal f (vals j) (q.mode p) (Pfx.sat p) q.ftz (q.gen j)).1 := by
  subst hf
  refine ⟨_, rfl, rfl, fun j hj => ⟨conveyor_old _ hw, ?_⟩⟩
  rw [conveyor_elem (q.v d) hw (by simp [upFrom_zero_eq_range]) (fun x hx => ?_) (j := j) (by simpa [upFrom_zero_eq_range] using hj)]
  · simp [upFrom_zero_eq_range]
  · simp only [List.map_map, List.mem_map, Function.comp] at hx
    obtain ⟨_, _, rfl⟩ := hx
    exact convVal_lt _ _ _ _ _ _

theorem packForm_flag {flag : Flags → Bool} (h : Flags.Sticky flag) (f : Elem) (q : VIn) (p : Pfx) (d : Reg) (vals : Nat → Val) :
    flag (packForm q p f d vals).flags = true ↔ ∃ n, n < 64 ∧ flag (convVal f (vals n) (q.mode p) (Pfx.sat p) q.ftz (q.gen n)).2 = true := by
  simp only [packForm, h.join, upFrom_zero_eq_range, List.map_map, List.any_map, List.any_eq_true, List.mem_range, Function.comp]

theorem cvt2Form_writes {f : Elem} (hf : elemBits f = 16) (q : VIn) (p : Pfx) (d a b : Reg) {j : Nat} (hj : j < 128) :
    ∃ r, (cvt2Form q p f d a b).v = [r] ∧ r.reg = d ∧ r.val.toNat / 2 ^ (16 * j) % 2 ^ 16 =
      (convVal f (val32 q.ftz (if j < 64 then q.lane a j else q.lane b (j - 64))) (q.mode p) (Pfx.sat p) q.ftz
        (if j < 64 then q.gen j else genStep (q.gen (j - 64)))).1 := by
  obtain ⟨l, hl⟩ : ∃ l, l = ((List.range 64).map fun i => (convVal f (val32 q.ftz (q.lane a i)) (q.mode p) (Pfx.sat p) q.ftz (q.gen i)).1) ++
      (List.range 64).map fun i => (convVal f (val32 q.ftz (q.lane b i)) (q.mode p) (Pfx.sat p) q.ftz (genStep (q.gen i))).1 := ⟨_, rfl⟩
  have hlen : l.length = 128 := by simp [hl]
  have hbits : ∀ x ∈ l, x < 2 ^ 16 := by
    intro x hx
    rw [hl, List.mem_append, List.mem_map, List.mem_map] at hx
    rcases hx with ⟨_, _, rfl⟩ | ⟨_, _, rfl⟩ <;> exact hf ▸ convVal_lt _ _ _ _ _ _
  have hform : (cvt2Form q p f d a b).v = [{ reg := d, lanes := everyLane, val := BitVec.ofNat 2048 (packElems 16 l) }] := by
    simp only [cvt2Form, upFrom_zero_eq_range, List.map_append, List.map_map, hl]
    rfl
  have hall := packElems_lt hbits
  rw [hlen] at hall
  refine ⟨_, hform, rfl, ?_⟩
  rw [BitVec.toNat_ofNat, Nat.mod_eq_of_lt hall, packElems_elem hbits (hlen ▸ hj)]
  simp only [hl]
  by_cases h : j < 64
  · rw [List.getElem_append_left (by simpa using h)]
    simp [h]
  · rw [List.getElem_append_right (by simpa using h)]
    simp [h]

theorem cvt2Form_flag {flag : Flags → Bool} (h : Flags.Sticky flag) (f : Elem) (q : VIn) (p : Pfx) (d a b : Reg) :
    flag (cvt2Form q p f d a b).flags = true ↔ ∃ n, n < 64 ∧ (flag (convVal f (val32 q.ftz (q.lane a n)) (q.mode p) (Pfx.sat p) q.ftz (q.gen n)).2 = true ∨
      flag (convVal f (val32 q.ftz (q.lane b n)) (q.mode p) (Pfx.sat p) q.ftz (genStep (q.gen n))).2 = true) := by
  simp only [cvt2Form, h.join, upFrom_zero_eq_range, List.map_append, List.map_map, List.any_append, List.any_map, Bool.or_eq_true, List.any_eq_true,
    List.mem_range, Function.comp, genAfter, ← exists_or, ← and_or_left]

/-- What `qz` rounds is the rule's (R185). -/
theorem qz_rescaled (q : VIn) (p : Pfx) (f : Elem) (d a b : Reg) :
    qzForm q p f d a b = packForm q p f d fun n => Rules.rescaled q (q.lane a n) (q.lane b n) := by
  refine congrArg (packForm q p f d) (funext fun n => ?_)
  unfold Rules.rescaled
  refine if_congr Iff.rfl (congrArg Val.nan ?_) ?_
  · rw [← val32_signalling q.ftz]
    cases val32 q.ftz (q.lane a n) <;> rfl
  · cases val32 q.ftz (q.lane a n)
    case num s m e => exact congrArg (Val.num s m) (add_sub_assoc e 127 _).symm
    all_goals rfl

/-! ### Block scales (R184) -/

theorem numeric_of_code {ftz : Bool} {x : Lane} (h : (Rules.asRead ftz x).toNat % 2 ^ 31 < 0x7F800000) :
    ∃ neg m e, val32 ftz x = .num neg m e ∧ Rules.magnitude fp32 ((Rules.asRead ftz x).toNat % 2 ^ 31) = m * 2 ^ e := by
  rw [val32_asRead]
  generalize Rules.asRead ftz x = y at h ⊢
  have hy := y.isLt
  obtain ⟨neg, hneg⟩ : ∃ neg : Bool, y.toNat = (if neg then 2 ^ 31 else 0) + y.toNat % 2 ^ 31 := by
    refine ⟨decide (2 ^ 31 ≤ y.toNat), ?_⟩
    simp only [decide_eq_true_eq]
    split <;> omega
  obtain ⟨n, m, e, hval, hworth, -⟩ := valueOf_finite (f := fp32) (sound_of_mem (by decide)) false neg (Nat.le_of_lt_succ h)
  simp only [Bool.false_eq_true, false_and, if_false] at hworth
  have hv : val32 false y = .num n m e := (congrArg (valueOf fp32 false) hneg).trans hval
  refine ⟨n, m, e, hv, ?_⟩
  have hpos : (0 : ℚ) ≤ m * 2 ^ e := by positivity
  have habs := congrArg abs hworth
  rw [hval, abs_mul, abs_of_nonneg (magnitude_nonneg fp32 _)] at habs
  have hone (s : Bool) : |(if s then -1 else 1 : ℚ)| = 1 := by cases s <;> simp
  rw [Rules.worth, mul_assoc, abs_mul, hone, hone, one_mul, one_mul, abs_of_nonneg hpos] at habs
  exact habs.symm

theorem not_numeric_of_code {ftz : Bool} {x : Lane} (h : 0x7F800000 ≤ (Rules.asRead ftz x).toNat % 2 ^ 31) (neg : Bool) (m : Nat) (e : Int) :
    val32 ftz x ≠ .num neg m e := by
  rw [val32_asRead, val32_eq]
  generalize Rules.asRead ftz x = y at h ⊢
  rcases h.eq_or_lt with h | h
  · rw [if_pos h.symm]
    exact fun hh => by cases hh
  · rw [if_neg h.ne', if_pos (show Rules.isNan y = true from decide_eq_true h)]
    exact fun hh => by cases hh

theorem foldl_max_eq {x : Int} (l : List Int) (k : Int) (hk : k ≤ x) (hl : ∀ y ∈ l, y ≤ x) (hx : k = x ∨ x ∈ l) : l.foldl max k = x := by
  induction l generalizing k with
  | nil => exact hx.resolve_right (by simp)
  | cons y l ih =>
    have hy := hl y List.mem_cons_self
    refine ih _ (max_le hk hy) (fun z hz => hl z (List.mem_cons_of_mem _ hz)) ?_
    rcases hx with rfl | hx
    · exact .inl (max_eq_left hy)
    · rcases List.mem_cons.1 hx with rfl | hx
      · exact .inl (max_eq_right hk)
      · exact .inr hx

/-- A block with an infinity or a NaN. -/
theorem blockScale_special (f : Elem) {l : List Val} {v : Val} (hv : v ∈ l) (h : ∀ neg m e, v ≠ .num neg m e) : blockScale f l = 255 := by
  rw [blockScale]
  refine if_pos (List.any_eq_true.2 ⟨v, hv, ?_⟩)
  cases v
  case num neg m e => exact absurd rfl (h neg m e)
  all_goals rfl

/-- A block of numbers: the scale of the greatest exponent. -/
theorem blockScale_numbers (f : Elem) {l : List Val} (hl : ∀ v ∈ l, ∃ neg m e, v = .num neg m e) : blockScale f l =
    match (l.filter fun x => !x.isZero).map floorLog with
    | [] => 127
    | k :: rest => (min (max (rest.foldl max k - emaxOf f + 127) 0) 254).toNat := by
  rw [blockScale]
  refine if_neg fun h => ?_
  obtain ⟨v, hv, hspecial⟩ := List.any_eq_true.1 h
  obtain ⟨neg, m, e, rfl⟩ := hl v hv
  exact Bool.false_ne_true hspecial

theorem blockScale_zero (f : Elem) {l : List Val} (hl : ∀ v ∈ l, ∃ neg e, v = .num neg 0 e) : blockScale f l = 127 := by
  have hnone : l.filter (fun x => !x.isZero) = [] := List.filter_eq_nil_iff.2 fun v hv => by
    obtain ⟨neg, e, rfl⟩ := hl v hv
    exact Bool.false_ne_true
  rw [blockScale_numbers f fun v hv => let ⟨neg, e, h⟩ := hl v hv; ⟨neg, 0, e, h⟩, hnone]
  rfl

theorem blockScale_max (f : Elem) {l : List Val} (hl : ∀ v ∈ l, ∃ neg m e, v = .num neg m e) {x : Val} (hx : x ∈ l) (h0 : x.isZero = false)
    (hmax : ∀ y ∈ l, y.isZero = false → floorLog y ≤ floorLog x) : blockScale f l = (min (max (floorLog x - emaxOf f + 127) 0) 254).toNat := by
  rw [blockScale_numbers f hl]
  have hmem : floorLog x ∈ (l.filter fun x => !x.isZero).map floorLog := List.mem_map_of_mem (List.mem_filter.2 ⟨hx, by simp [h0]⟩)
  have hle : ∀ y ∈ (l.filter fun x => !x.isZero).map floorLog, y ≤ floorLog x := by
    intro y hy
    obtain ⟨v, hv, rfl⟩ := List.mem_map.1 hy
    obtain ⟨hvl, hv0⟩ := List.mem_filter.1 hv
    exact hmax v hvl (by simpa using hv0)
  generalize (l.filter fun x => !x.isZero).map floorLog = logs at hmem hle
  cases logs with
  | nil => exact absurd hmem (by simp)
  | cons k rest =>
    have := foldl_max_eq rest k (hle k List.mem_cons_self) (fun y hy => hle y (List.mem_cons_of_mem _ hy)) ((List.mem_cons.1 hmem).imp_left Eq.symm)
    simp only [this]

/-- The exponent of a number other than 0 is that of its code's magnitude. -/
theorem floorLog_of_code {ftz : Bool} {x : Lane} (h : (Rules.asRead ftz x).toNat % 2 ^ 31 < 0x7F800000) (h0 : 0 < (Rules.asRead ftz x).toNat % 2 ^ 31) :
    floorLog (val32 ftz x) = Int.log 2 (Rules.magnitude fp32 ((Rules.asRead ftz x).toNat % 2 ^ 31)) := by
  obtain ⟨neg, m, e, hval, hmag⟩ := numeric_of_code h
  have hm : m ≠ 0 := by
    rintro rfl
    have := magnitude_strictMono fp32 h0
    rw [magnitude_zero, hmag] at this
    simp at this
  rw [hval, hmag, log_scaled hm]
  rfl

/-- The lanes of the block of lane j. -/
def blockCode (q : VIn) (a : Reg) (j n : Nat) : Nat := (Rules.asRead q.ftz (q.lane a (j / 32 * 32 + n))).toNat % 2 ^ 31

theorem qscaleForm_writes (q : VIn) (f : Elem) (d a : Reg) {j : Nat} (hj : j < 64) :
    ∃ r, (qscaleForm q f d a).v = [r] ∧ r.reg = d ∧ r.lanes j = true ∧
      laneOf r.val j = BitVec.ofNat 32 (blockScale f ((List.range 32).map fun n => val32 q.ftz (q.lane a (j / 32 * 32 + n)))) := by
  refine ⟨_, rfl, rfl, rfl, ?_⟩
  rw [laneOf_vregOf _ hj]
  have hsplit (g : Nat → Val) : (List.range 64).map g = (List.range 32).map g ++ (List.range 32).map fun n => g (32 + n) := by
    rw [show 64 = 32 + 32 from rfl, List.range_add, List.map_append, List.map_map]
    rfl
  have hlen (g : Nat → Val) : ((List.range 32).map g).length = 32 := by simp
  simp only [upFrom_zero_eq_range, hsplit, List.take_left' (hlen _), List.drop_left' (hlen _)]
  by_cases h : j < 32
  · simp only [if_pos h, Nat.div_eq_of_lt h, Nat.zero_mul, Nat.zero_add]
  · simp only [if_neg h, show j / 32 * 32 = 32 by omega]

theorem qscale_scale (q : VIn) {f : Elem} {emax : Int} (hf : emaxOf f = emax) (d a : Reg) {j : Nat} (hj : j < 64) {block : List Nat}
    (hblock : block = (List.range 32).map (blockCode q a j)) :
    ∃ r, (qscaleForm q f d a).v = [r] ∧ r.reg = d ∧ r.lanes j = true ∧
      ((∃ x ∈ block, 0x7F800000 ≤ x) → laneOf r.val j = 255) ∧ ((∀ x ∈ block, x = 0) → laneOf r.val j = 127) ∧
      ∀ x, x ∈ block → 0 < x → x < 0x7F800000 → (∀ y ∈ block, y ≤ x) →
        laneOf r.val j = BitVec.ofInt 32 (min (max (Int.log 2 (Rules.magnitude fp32 x) - emax + 127) 0) 254) := by
  obtain ⟨r, hr, hreg, hon, hval⟩ := qscaleForm_writes q f d a hj
  have hmem (x : Nat) : x ∈ block ↔ ∃ n, n < 32 ∧ blockCode q a j n = x := by
    rw [hblock, List.mem_map]
    simp only [List.mem_range]
  have hvals (v : Val) : v ∈ (List.range 32).map (fun n => val32 q.ftz (q.lane a (j / 32 * 32 + n))) ↔
      ∃ n, n < 32 ∧ val32 q.ftz (q.lane a (j / 32 * 32 + n)) = v := by
    rw [List.mem_map]
    simp only [List.mem_range]
  refine ⟨r, hr, hreg, hon, ?_, ?_, ?_⟩
  · rintro ⟨x, hx, hbig⟩
    obtain ⟨n, hn, rfl⟩ := (hmem x).1 hx
    rw [hval, blockScale_special f ((hvals _).2 ⟨n, hn, rfl⟩) (not_numeric_of_code hbig)]
    rfl
  · intro hzero
    rw [hval, blockScale_zero f]
    · rfl
    intro v hv
    obtain ⟨n, hn, rfl⟩ := (hvals v).1 hv
    have h0 : blockCode q a j n = 0 := hzero _ ((hmem _).2 ⟨n, hn, rfl⟩)
    obtain ⟨neg, m, e, hnum, hmag⟩ := numeric_of_code (ftz := q.ftz) (x := q.lane a (j / 32 * 32 + n)) (by change blockCode q a j n < _; omega)
    change Rules.magnitude fp32 (blockCode q a j n) = _ at hmag
    rw [h0, magnitude_zero, eq_comm, mul_eq_zero, or_iff_left (by positivity)] at hmag
    have hm : m = 0 := by exact_mod_cast hmag
    exact ⟨neg, e, by rw [hnum, hm]⟩
  · intro x hx hpos hfin hmax
    obtain ⟨n, hn, rfl⟩ := (hmem x).1 hx
    have hfinite (k : Nat) (hk : k < 32) : blockCode q a j k < 0x7F800000 := lt_of_le_of_lt (hmax _ ((hmem _).2 ⟨k, hk, rfl⟩)) hfin
    have hzero (k : Nat) : (val32 q.ftz (q.lane a (j / 32 * 32 + k))).isZero = false ↔ 0 < blockCode q a j k := by
      rw [← Bool.not_eq_true, val32_isZero, Nat.pos_iff_ne_zero]
      rfl
    have hlog (k : Nat) (hk : k < 32) (h0 : 0 < blockCode q a j k) := floorLog_of_code (ftz := q.ftz) (x := q.lane a (j / 32 * 32 + k)) (hfinite k hk) h0
    rw [hval, blockScale_max f (x := val32 q.ftz (q.lane a (j / 32 * 32 + n))), hlog n hn hpos, hf]
    · rw [← BitVec.ofInt_natCast, Int.toNat_of_nonneg (le_min (le_max_right _ _) (by decide))]
      rfl
    · intro v hv
      obtain ⟨k, hk, rfl⟩ := (hvals v).1 hv
      obtain ⟨neg, m, e, hnum, -⟩ := numeric_of_code (ftz := q.ftz) (x := q.lane a (j / 32 * 32 + k)) (hfinite k hk)
      exact ⟨neg, m, e, hnum⟩
    · exact (hvals _).2 ⟨n, hn, rfl⟩
    · exact (hzero n).2 hpos
    · intro v hv hv0
      obtain ⟨k, hk, rfl⟩ := (hvals v).1 hv
      have hk0 := (hzero k).1 hv0
      rw [hlog k hk hk0, hlog n hn hpos]
      refine Int.log_mono_right ?_ ((magnitude_strictMono fp32).monotone (hmax _ ((hmem _).2 ⟨k, hk, rfl⟩)))
      exact magnitude_zero fp32 ▸ magnitude_strictMono fp32 hk0

theorem qscaleForm_flags (q : VIn) (f : Elem) (d a : Reg) :
    (qscaleForm q f d a).flags = { nv := (List.range 64).any fun n => Rules.signals (q.lane a n) } := by
  simp only [qscaleForm, upFrom_zero_eq_range, List.any_map, Function.comp_def, val32_signalling]

end Sys2Proof.Machine


/-!
PROOFS. The cross-lane forms (O23): the parts before put together.
-/
namespace Sys2Proof.Machine

theorem vrand_draws (q : VIn) (p : Pfx) (mk : BitVec 2) (d : Reg) {j : Nat} (hj : j < 64) :
    ∃ r, (vectorEffect (.vrand p mk d) q).v = [r] ∧ r.reg = d ∧ laneOf r.val j = q.gen j ∧
      (j ∈ (vectorEffect (.vrand p mk d) q).draws ↔ mk = 0 ∨ (q.m mk.toNat).getLsbD j = true) := by
  obtain ⟨r, hr, hreg, -, hval⟩ := mapLanes_writes q mk d (fun i => noFlags (q.gen i)) hj
  refine ⟨r, hr, hreg, hval, ?_⟩
  change j ∈ (upFrom 0 64).filter (q.act mk) ↔ _
  simp [upFrom_zero_eq_range, hj, VIn.act]

/-- The ranking that `vtopk` delivers (R175). -/
theorem vtopk_ranks {t : Elem} (ht : t = .fp32 ∨ t = .int32) (q : VIn) (mk : BitVec 2) (d a : Reg) :
    ∃ r1 r2, (topkForm q mk t d a).v = [r1, r2] ∧ r1.reg = d ∧ r2.reg = d + 1 ∧ (∀ j, r1.lanes j = true ∧ r2.lanes j = true) ∧
      let on := (List.range 64).filter (Rules.active q mk)
      let key (n : Nat) : Int := Rules.rank t q.ftz (q.lane a n)
      (∀ i j, i ∈ on → j = (on.filter fun l => decide (key i < key l ∨ key i = key l ∧ l < i)).length → j < q.xa.toNat →
        laneOf r1.val j = Rules.ranked t q.ftz (q.lane a i) ∧ laneOf r2.val j = BitVec.ofNat 32 i) ∧
      ∀ j, j < 64 → q.xa.toNat ≤ j ∨ on.length ≤ j → laneOf r1.val j = Rules.least t ∧ laneOf r2.val j = 64 := by
  obtain ⟨r1, r2, hv, hd, hd1, hon, hlane⟩ := topkForm_lanes ht q mk d a
  refine ⟨r1, r2, hv, hd, hd1, hon, ?_, fun j hj hfill => (hlane j hj).2 (length_ranking q mk t a ▸ hfill)⟩
  rintro i j hi rfl hxa
  have hget := ranking_getElem? ht q mk a hi
  have hlt := (List.getElem?_eq_some_iff.1 hget).1
  rw [length_ranking] at hlt
  exact (hlane _ (hlt.trans_le (length_activeLanes q mk))).1 _ i hxa hget

/-- The formats that conversions pack, with the bits of the integers. -/
def Packed (f : Elem) (n : Nat) : Prop := f ∈ [Elem.fp16, .bf16, .e4m3, .e5m2, .e2m1] ∨ f = .int8 ∧ n = 8 ∨ f = .int4 ∧ n = 4

theorem packed_cases {f : Elem} {n : Nat} (h : Packed f n) :
    f = .fp16 ∨ f = .bf16 ∨ f = .e4m3 ∨ f = .e5m2 ∨ f = .e2m1 ∨ f = .int8 ∧ n = 8 ∨ f = .int4 ∧ n = 4 := by
  simpa only [Packed, List.mem_cons, List.not_mem_nil, or_false, or_assoc] using h

/-- The element that a packing conversion makes of a lane (R181). -/
theorem convVal_eq {f : Elem} {n : Nat} (v : Val) (mode : RMode) (sat ftz : Bool) (g : Lane) (hf : Packed f n) :
    (convVal f v mode sat ftz g).1 =
        (if f = .int8 ∨ f = .int4 then (roundInt v n true mode sat g.toNat).1.toNat else (roundFP v (fmtOf f) mode sat ftz g.toNat).1) ∧
      (convVal f v mode sat ftz g).2 =
        if f = .int8 ∨ f = .int4 then (roundInt v n true mode sat g.toNat).2 else (roundFP v (fmtOf f) mode sat ftz g.toNat).2 := by
  rcases packed_cases hf with rfl | rfl | rfl | rfl | rfl | ⟨rfl, rfl⟩ | ⟨rfl, rfl⟩ <;> exact ⟨rfl, rfl⟩

/-- `cvt8` and `cvt4` (R181). -/
theorem cvt_pack (q : VIn) (p : Pfx) (d a : Reg) (f : Elem) (w : Nat) (i : Instr) {j : Nat} (hj : j < 64)
    (hi : i = Instr.cvt8 p f d a ∧ (f = .e4m3 ∨ f = .e5m2 ∨ f = .int8) ∧ w = 16 ∨ i = Instr.cvt4 p f d a ∧ (f = .e2m1 ∨ f = .int4) ∧ w = 8) :
    ∃ r, (vectorEffect i q).v = [r] ∧ r.reg = d ∧ (j < 64 - w → laneOf r.val j = laneOf (q.v d) (j + w)) ∧
      r.val.toNat / 2 ^ (32 * (64 - w) + w / 2 * j) % 2 ^ (w / 2) =
        if f = .int8 ∨ f = .int4 then (roundInt (val32 q.ftz (q.lane a j)) (w / 2) true (q.mode p) (Pfx.sat p) (q.gen j).toNat).1.toNat
        else (roundFP (val32 q.ftz (q.lane a j)) (fmtOf f) (q.mode p) (Pfx.sat p) q.ftz (q.gen j).toNat).1 := by
  obtain ⟨n, hn, hw, hbits, hfmt, hform⟩ : ∃ n, w = 2 * n ∧ n ≤ 8 ∧ elemBits f = n ∧ Packed f n ∧
      vectorEffect i q = packForm q p f d fun i => val32 q.ftz (q.lane a i) := by
    rcases hi with ⟨rfl, rfl | rfl | rfl, rfl⟩ | ⟨rfl, rfl | rfl, rfl⟩
    · exact ⟨8, rfl, le_rfl, rfl, by unfold Packed; decide, rfl⟩
    · exact ⟨8, rfl, le_rfl, rfl, by unfold Packed; decide, rfl⟩
    · exact ⟨8, rfl, le_rfl, rfl, by unfold Packed; decide, rfl⟩
    · exact ⟨4, rfl, by decide, rfl, by unfold Packed; decide, rfl⟩
    · exact ⟨4, rfl, by decide, rfl, by unfold Packed; decide, rfl⟩
  subst hn
  obtain ⟨r, hr, hreg, hlanes⟩ := packForm_writes hbits (by omega) q p d fun i => val32 q.ftz (q.lane a i)
  obtain ⟨hold, hnew⟩ := hlanes j hj
  refine ⟨r, by rw [hform, hr], hreg, hold, ?_⟩
  rw [Nat.mul_div_cancel_left n two_pos, show 32 * (64 - 2 * n) = 2048 - 64 * n by omega, hnew, (convVal_eq _ _ _ _ _ hfmt).1]

/-- `qz` (R185). -/
theorem qz_pack (q : VIn) (p : Pfx) (d a b : Reg) (f : Elem) (w : Nat) {j : Nat} (hj : j < 64)
    (hf : (f = .e4m3 ∨ f = .e5m2) ∧ w = 16 ∨ f = .e2m1 ∧ w = 8) :
    ∃ r code, (vectorEffect (.qz p f d a b) q).v = [r] ∧ r.reg = d ∧ (j < 64 - w → laneOf r.val j = laneOf (q.v d) (j + w)) ∧
      code = r.val.toNat / 2 ^ (32 * (64 - w) + w / 2 * j) % 2 ^ (w / 2) ∧
      ((q.lane b j).toNat % 256 = 255 ∨ (∃ n, val32 q.ftz (q.lane a j) = .nan n) → code = (fmtOf f).nanCode) ∧
      ((q.lane b j).toNat % 256 ≠ 255 → (∀ n, val32 q.ftz (q.lane a j) = .inf n → code = (roundFP (.inf n) (fmtOf f) (q.mode p) (Pfx.sat p) q.ftz 0).1) ∧
        ∀ n m e, val32 q.ftz (q.lane a j) = .num n m e →
          code = (roundFP (.num n m (e + 127 - (q.lane b j).toNat % 256)) (fmtOf f) (q.mode p) (Pfx.sat p) q.ftz (q.gen j).toNat).1) := by
  obtain ⟨n, hn, hw, hbits, hfmt⟩ : ∃ n, w = 2 * n ∧ n ≤ 8 ∧ elemBits f = n ∧ f ∈ [Elem.e4m3, .e5m2, .e2m1] := by
    rcases hf with ⟨rfl | rfl, rfl⟩ | ⟨rfl, rfl⟩
    · exact ⟨8, rfl, le_rfl, rfl, by decide⟩
    · exact ⟨8, rfl, le_rfl, rfl, by decide⟩
    · exact ⟨4, rfl, by decide, rfl, by decide⟩
  subst hn
  obtain ⟨r, hr, hreg, hlanes⟩ := packForm_writes hbits (by omega) q p d fun n => Rules.rescaled q (q.lane a n) (q.lane b n)
  obtain ⟨hold, hnew⟩ := hlanes j hj
  have hconv (v : Val) : (convVal f v (q.mode p) (Pfx.sat p) q.ftz (q.gen j)).1 =
      (roundFP v (fmtOf f) (q.mode p) (Pfx.sat p) q.ftz (q.gen j).toNat).1 := by
    simp only [List.mem_cons, List.not_mem_nil, or_false] at hfmt
    rcases hfmt with rfl | rfl | rfl <;> rfl
  rw [hconv] at hnew
  refine ⟨r, _, (congrArg VOut.v (qz_rescaled q p f d a b)).trans hr, hreg, hold, rfl, ?_⟩
  rw [Nat.mul_div_cancel_left n two_pos, show 32 * (64 - 2 * n) = 2048 - 64 * n by omega, hnew, Rules.rescaled]
  refine ⟨fun h => ?_, fun h => ⟨fun n hinf => ?_, fun n m e hnum => ?_⟩⟩
  · split
    case isTrue => rfl
    case isFalse h255 =>
      obtain ⟨b, hb⟩ := h.resolve_left h255
      rw [hb]
      rfl
  · rw [if_neg h, hinf]
    rfl
  · rw [if_neg h, hnum]

/-- The flags of a converted element (R115). -/
theorem convVal_flags {f : Elem} (q : VIn) (p : Pfx) {w : Nat} (hf : Packed f w) (x g : Lane) :
    (convVal f (val32 q.ftz x) (q.mode p) (Pfx.sat p) q.ftz g).2 = Rules.convFlags q p f w x g := by
  rw [(convVal_eq _ _ _ _ _ hf).2]
  rfl

/-- The flags of the FP32 sums and of the conversions (R115). -/
theorem crossLane_flags (q : VIn) (p : Pfx) (mk : BitVec 2) (d a b : Reg) {flag : Flags → Bool} (h : Flags.Sticky flag) :
    let x (n : Nat) : Lane := if Rules.active q mk n then q.lane a n else 0x80000000
    let add := Rules.fadd (q.mode p) q.ftz
    (flag (vectorEffect (.vredsum p mk .fp32 d a) q).flags = true ↔ ∃ n i, n < 6 ∧ i < 2 ^ (5 - n) ∧
      flag (Rules.faddFlags (q.mode p) q.ftz (Rules.tree add x n (2 * i)) (Rules.tree add x n (2 * i + 1))) = true) ∧
    (flag (vectorEffect (.vscan p mk .fp32 d a) q).flags = true ↔ flag (Rules.faddFlags (q.mode p) q.ftz 0x80000000 (x 0)) = true ∨
      ∃ n, n < 63 ∧ flag (Rules.faddFlags (q.mode p) q.ftz (Rules.scan add 0x80000000 x n) (x (n + 1))) = true) ∧
    (∀ f, f = .fp16 ∨ f = .bf16 → (flag (vectorEffect (.cvt2 p f d a b) q).flags = true ↔ ∃ n, n < 64 ∧
      (flag (Rules.convFlags q p f 16 (q.lane a n) (q.gen n)) = true ∨ flag (Rules.convFlags q p f 16 (q.lane b n) (genStep (q.gen n))) = true))) ∧
    (∀ f i w, i = Instr.cvt8 p f d a ∧ f ∈ [Elem.e4m3, .e5m2, .int8] ∧ w = 8 ∨ i = Instr.cvt4 p f d a ∧ f ∈ [Elem.e2m1, .int4] ∧ w = 4 →
      (flag (vectorEffect i q).flags = true ↔ ∃ n, n < 64 ∧ flag (Rules.convFlags q p f w (q.lane a n) (q.gen n)) = true)) ∧
    (∀ f, f ∈ [Elem.e4m3, .e5m2, .e2m1] → (flag (vectorEffect (.qz p f d a b) q).flags = true ↔ ∃ n, n < 64 ∧
      flag (roundFP (Rules.rescaled q (q.lane a n) (q.lane b n)) (fmtOf f) (q.mode p) (Pfx.sat p) q.ftz (q.gen n).toNat).2 = true)) := by
  refine ⟨vredsum_fp32_flag h q p mk d a, vscan_flag h q p mk d a, fun f hf => ?_, fun f i w hi => ?_, fun f hf => ?_⟩
  · refine (cvt2Form_flag h f q p d a b).trans ?_
    have hfmt : f ∈ [Elem.fp16, .bf16, .e4m3, .e5m2, .e2m1] := by rcases hf with rfl | rfl <;> decide
    simp only [convVal_flags q p (w := 16) (.inl hfmt)]
  · obtain ⟨hform, hfmt⟩ : vectorEffect i q = packForm q p f d (fun i => val32 q.ftz (q.lane a i)) ∧
        Packed f w := by
      simp only [List.mem_cons, List.not_mem_nil, or_false] at hi
      rcases hi with ⟨rfl, rfl | rfl | rfl, rfl⟩ | ⟨rfl, rfl | rfl, rfl⟩ <;> exact ⟨rfl, by unfold Packed; decide⟩
    rw [hform, packForm_flag h]
    simp only [convVal_flags q p hfmt]
  · rw [show vectorEffect (.qz p f d a b) q = _ from qz_rescaled q p f d a b, packForm_flag h]
    have hconv (v : Val) (g : Lane) : (convVal f v (q.mode p) (Pfx.sat p) q.ftz g).2 = (roundFP v (fmtOf f) (q.mode p) (Pfx.sat p) q.ftz g.toNat).2 := by
      simp only [List.mem_cons, List.not_mem_nil, or_false] at hf
      rcases hf with rfl | rfl | rfl <;> rfl
    simp only [hconv]

/-- The integer forms raise nothing (R115). -/
theorem crossLane_int_flags (q : VIn) (p : Pfx) (mk : BitVec 2) (d a b : Reg) {i : Instr} {t : Elem} (ht : t ≠ .fp32)
    (hi : i ∈ [Instr.vredsum p mk t d a, .vredmax p mk t d a, .vredmin p mk t d a, .vargmax p mk t d a, .vscan p mk t d a,
      .vtopk p mk t d a b, .vrand p mk d, .vseed p a, .vmskAnd p d a b, .vmskTox p d a]) : (vectorEffect i q).flags = {} := by
  simp only [List.mem_cons, List.not_mem_nil, or_false] at hi
  rcases hi with rfl | rfl | rfl | rfl | rfl | rfl | rfl | rfl | rfl | rfl
  · exact reduceForm_int_flags ht .sum q p mk d a
  · exact reduceForm_int_flags ht .max q p mk d a
  · exact reduceForm_int_flags ht .min q p mk d a
  · exact vargmax_int_flags ht q mk d a
  · exact scanForm_int_flags ht q p mk d a
  · exact (vtopk_flags q mk t d a).trans (if_neg ht)
  · exact mapLanes_noFlags q mk d q.gen
  all_goals rfl

/-- The reductions and rankings of FP32 raise NV for a signalling lane (R115). -/
theorem crossLane_nv_flags (q : VIn) (p : Pfx) (mk : BitVec 2) (d a b : Reg) {i : Instr}
    (hi : i = Instr.vredmax p mk .fp32 d a ∨ i = .vredmin p mk .fp32 d a ∨ i = .vargmax p mk .fp32 d a ∨ i = .vtopk p mk .fp32 d a b) :
    (vectorEffect i q).flags = { nv := (List.range 64).any fun n => Rules.active q mk n && Rules.signals (q.lane a n) } := by
  rcases hi with rfl | rfl | rfl | rfl
  · exact redNode_pick_nv (op := .max) (fun _ _ _ _ => rfl) (by decide) q p mk d a
  · exact redNode_pick_nv (op := .min) (fun _ _ _ _ => rfl) (by decide) q p mk d a
  · exact vargmax_fp32_flags q mk d a
  · exact (vtopk_flags q mk .fp32 d a).trans (if_pos rfl)

/-- The mask of a comparison, by what it says of a lane. -/
theorem vcmp_iff (q : VIn) (p : Pfx) (k : CmpP) (t : Elem) (d a b : Reg) {j : Nat} (hj : j < 64) {r : Prop}
    (hr : (cmpL k t q.ftz (q.lane a j) (q.lane b j)).1 = true ↔ r) :
    ∃ w, (vectorEffect (.vcmp p k t d a b) q).m = [(d, w)] ∧ (w.getLsbD j = true ↔ r) := by
  obtain ⟨w, hw, hbit⟩ := vcmp_mask q k t d a b hj
  exact ⟨w, hw, by rw [hbit, hr]⟩

/-- The integer running sum (R174). -/
theorem vscan_int32 (q : VIn) (p : Pfx) (mk : BitVec 2) (d a : Reg) {j : Nat} (hj : j < 64) :
    ∃ r, (scanForm q p mk .int32 d a).v = [r] ∧ r.reg = d ∧ r.lanes j = true ∧
      laneOf r.val j = BitVec.ofInt 32 ((((List.range (j + 1)).filter (Rules.active q mk)).map fun i => (q.lane a i).toInt).sum) := by
  obtain ⟨r, hr, hreg, hlanes⟩ := scanForm_lane (t := .int32) (f := (· + ·)) mk d a
    fun x y => congrArg Prod.fst (redNode_sum_int (by decide) q.ftz (q.mode p) x y)
  obtain ⟨hon, hval⟩ := hlanes j hj
  exact ⟨r, hr, hreg, hon, hval.trans (scan_add (q.lane a) (Rules.active q mk) j)⟩

theorem vscan_combine {q : VIn} {p : Pfx} {mk : BitVec 2} {t : Elem} {d a : Reg} {x : Lane × (Lane → Lane → Lane)}
    (hx : Rules.combine q p (.vscan p mk t d a) = some x) : ∃ r, (scanForm q p mk t d a).v = [r] ∧ r.reg = d ∧ ∀ j, j < 64 →
      r.lanes j = true ∧ laneOf r.val j = Rules.scan x.2 x.1 (fun n => if Rules.active q mk n then q.lane a n else x.1) j := by
  cases t <;> cases hx
  · exact scanForm_lane mk d a fun x y => congrArg Prod.fst (redNode_sum_fp32 _ _ x y)
  · exact scanForm_lane mk d a fun x y => congrArg Prod.fst (redNode_sum_int (by decide) _ _ x y)

/-- Settles O23: comparisons, the fixed tree and the running value, rankings, packing, block scales, and their flags. -/
theorem crossLaneFormsComputeTheirResults : Obligations.CrossLaneFormsComputeTheirResults := by
  intro q p mk d a b
  refine ⟨fun k j hj => vcmp_iff q p k .uint32 d a b hj (cmpL_uint32 k q.ftz _ _), fun k j hj => vcmp_iff q p k .fp32 d a b hj (cmpL_fp32 k q.ftz _ _),
    fun k j hj => vcmp_iff q p k .int32 d a b hj (cmpL_int32 k q.ftz _ _), fun k => ?cmpFlags, ?cmpInt, rfl, rfl, rfl, rfl, rfl, rfl,
    vredsum_int32 q p mk d a, vredmax_int32 q p mk d a, vredmin_int32 q p mk d a, fun j hj => vscan_int32 q p mk d a hj,
    fun i t x hi hx => reduce_combine hi hx, fun t x hx => vscan_combine hx, fun t ht => vargmax_winner ht q mk d a, fun t ht => vtopk_ranks ht q mk d a,
    rfl, fun j hj => vrand_draws q p mk d hj, ?cvt2, fun f w i j hi hj => cvt_pack q p d a f w i hj hi, fun f w j hf hj => qz_pack q p d a b f w hj hf,
    ?scale, fun flag hflag => crossLane_flags q p mk d a b (Flags.sticky_of_mem hflag), fun i hi => crossLane_nv_flags q p mk d a b hi,
    fun f => qscaleForm_flags q f d a, fun i t ht hi => crossLane_int_flags q p mk d a b ht hi⟩
  case cmpFlags =>
    refine (vcmp_flags q k .fp32 d a b).trans ?_
    simp only [cmpL_fp32_flags]
    exact Flags.join_nv _ _
  case cmpInt =>
    rintro k t ht
    refine (vcmp_flags q k t d a b).trans (Flags.join_none fun x hx => ?_)
    obtain ⟨j, -, rfl⟩ := List.mem_map.1 hx
    rcases ht with rfl | rfl <;> rfl
  case cvt2 =>
    rintro f j hf hj
    have hbits : elemBits f = 16 := by rcases hf with rfl | rfl <;> rfl
    obtain ⟨r, hr, hreg, hval⟩ := cvt2Form_writes hbits q p d a b hj
    refine ⟨r, hr, hreg, hval.trans ?_⟩
    rcases hf with rfl | rfl <;> rfl
  case scale =>
    rintro f j emax block hf hj hblock
    have hmax : emaxOf f = emax := by rcases hf with ⟨rfl, rfl⟩ | ⟨rfl, rfl⟩ | ⟨rfl, rfl⟩ <;> rfl
    exact qscale_scale q hmax d a hj hblock

end Sys2Proof.Machine


/-!
PROOFS. Branches, jumps and `nop` (O3): each retires at the pc that its rule gives as a number (R68, R123, R124).
-/
namespace Sys2Proof.Machine

/-! ### Targets as numbers (R68, R124) -/

theorem target_eq_ofInt (pc : Code) (imm : Int) : target pc imm = BitVec.ofInt 16 (pc.toNat + 2 * imm) := by
  rw [BitVec.ofInt_add, BitVec.ofInt_natCast, BitVec.ofNat_toNat, BitVec.setWidth_eq]
  rfl

theorem ofInt_toNat_code (pc : Code) : BitVec.ofInt 16 pc.toNat = pc := by
  rw [BitVec.ofInt_natCast, BitVec.ofNat_toNat, BitVec.setWidth_eq]

/-- A mask that leaves out the lowest bit takes the even part. -/
theorem toNat_and_even (c : Code) : (c &&& 0xFFFE).toNat = c.toNat / 2 * 2 := by
  have : c.toNat &&& (2 ^ 15 - 1) <<< 1 = c.toNat / 2 * 2 := by
    apply Nat.eq_of_testBit_eq
    intro j
    have hc : c.toNat < 2 ^ 16 := c.isLt
    rw [Nat.testBit_and, Nat.testBit_shiftLeft, Nat.testBit_two_pow_sub_one, show c.toNat / 2 * 2 = c.toNat / 2 ^ 1 * 2 ^ 1 from rfl,
      Nat.testBit_mul_two_pow, Nat.testBit_div_two_pow]
    by_cases h1 : 1 ≤ j
    · by_cases h2 : j - 1 < 15
      · simp [h1, h2]
      · have : c.toNat.testBit j = false := Nat.testBit_lt_two_pow (hc.trans_le (Nat.pow_le_pow_right (by decide) (by omega)))
        simp [h1, h2, this]
    · simp [h1]
  exact this

theorem regTarget_eq_ofInt (v : Word) : regTarget v = BitVec.ofInt 16 (v.toNat % 65536 / 2 * 2) := by
  have he : ((v.toNat % 65536 / 2 * 2 : Nat) : Int) = v.toNat % 65536 / 2 * 2 := by push_cast; rfl
  rw [← he, BitVec.ofInt_natCast]
  apply BitVec.eq_of_toNat_eq
  rw [regTarget, toNat_and_even, BitVec.toNat_setWidth, BitVec.toNat_ofNat]
  omega

/-! ### What each form comes to (R123, R124) -/

/-- A branch whose test is a condition continues where the rule says. -/
theorem branch_eq {s : State} {g k : Nat} {i : Instr} {taken : Bool} {c : Prop} [Decidable c] (hc : taken = true ↔ c) (imm : Int) :
    branch s g k i taken imm =
      .done (retireTo s g k i [] (BitVec.ofInt 16 (if c then (getCtx s g k).pc.toNat + 2 * imm else (nextPc s g k i).toNat))) := by
  unfold branch
  by_cases h : c
  · rw [if_pos (hc.2 h), if_pos h, target_eq_ofInt]
  · rw [if_neg (mt hc.1 h), if_neg h, ofInt_toNat_code]

/-- A control transfer retires at its target with its link. -/
theorem control_retires {s : State} {i : Instr} {tgt : Int} {ws : List (Reg × Word)} (hr : ready s i = true)
    (h : Rules.control (xreg s) (slotOf s) (me s).pc.toNat (nextOf s i).toNat i = some (tgt, ws)) :
    (ws.map Prod.fst).Nodup ∧ ∃ body, exec i s = .next (issue i s body) ∧
      body s s.cur (slotOf s) = .done (retireTo s s.cur (slotOf s) i ws (BitVec.ofInt 16 tgt)) := by
  unfold Rules.control at h
  split at h <;> cases h <;> refine ⟨by simp, _, rfl, ?_⟩
  case h_1.refl | h_2.refl => exact branch_eq (by simp [readX_ready hr]) _
  case h_3.refl | h_4.refl | h_5.refl | h_6.refl => exact branch_eq (by simp [readX_ready hr]) _
  case h_7.refl => rw [← target_eq_ofInt]; rfl
  case h_8.refl => rw [← target_eq_ofInt, BitVec.ofNat_toNat]; rfl
  case h_9.refl => rw [← regTarget_eq_ofInt, ← readX_ready hr]
  case h_10.refl => rw [← regTarget_eq_ofInt, ← readX_ready hr, BitVec.ofNat_toNat]; rfl
  case h_11.refl => rw [ofInt_toNat_code]; rfl

/-- Settles O3: a control transfer does nothing but retire at its target. -/
theorem controlTransfersContinueAtTheirTarget : Obligations.ControlTransfersContinueAtTheirTarget := by
  unfold Obligations.ControlTransfersContinueAtTheirTarget
  intro s i tgt ws hr h
  obtain ⟨hn, body, he, hb⟩ := control_retires hr h
  exact ⟨_, he, issue_retires hr hb hn⟩

end Sys2Proof.Machine


/-!
PROOFS. Traps and the return from them (O4, O5), and what the stop of a core leaves as it was: it goes through many parts of the machine, and
`Standing` says what none of them touches.
-/
namespace Sys2Proof.Machine

/-! ### The context that issues (R126) -/

section
variable {s : State} {i : Instr} (h : ready s i = true)
include h

theorem issuing_of_ready : issuing s = true := by
  simp only [ready, clear, Bool.and_eq_true] at h
  exact h.1.1.1.1.1

/-- A context that issues is RUNNING, on a core that runs. -/
theorem running_of_ready : (getCore s s.cur).run = true ∧ (me s).mode = .running := by
  have hi := issuing_of_ready h
  simp only [issuing, Bool.and_eq_true, busy, beq_iff_eq] at hi
  exact ⟨hi.1.1.1, hi.1.2⟩
end

/-- Retirement without registers touches its context alone. -/
theorem retireTo_nil {s : State} {g k : Nat} (hp : portMode s g k = false) (i : Instr) (pc : Code) :
    retireTo s g k i [] pc = modCtx s g k fun x => { x with pc := pc, instret := x.instret + 1, begun := false } := by
  simp [retireTo, popList_plain hp, writeXs]

/-! ### Traps of execution (R133) -/

/-- No cause but ECC_UE reports an error. -/
theorem raiseTrap_of_ne {code : Nat} (hc : code ≠ causeECC) (s : State) (m g k : Nat) (val : Word) :
    raiseTrap s m g k code val = takeTrap s g k code val := by
  have hr : reportError s m g code val = s := if_neg fun h => hc h.1
  rw [raiseTrap, hr, ite_self]

/-- A form whose effect is a trap enters the handler. -/
theorem issue_raises {s : State} {i : Instr} (hr : ready s i = true) (ht : canTrap s = true) {body : State → Nat → Nat → Eff} {code : Nat} {val : Word}
    (hb : body s s.cur (slotOf s) = .trap code val) (hcode : code < 256) (hne : code ≠ causeECC) : Trapped s (issue i s body) code val := by
  have he : issue i s body = raiseTrap s (modOf s.cur) s.cur (slotOf s) code val := by rw [issue_ready hr, hb]
  rw [he, raiseTrap_of_ne hne]
  exact takeTrap_trapped ht hcode val

/-! ### An error that is reported (R411) -/

@[simp] theorem rewritten_cores (s : State) (m : Nat) (l : Word) : (rewritten s m l).cores = s.cores := rfl
@[simp] theorem rewritten_cur (s : State) (m : Nat) (l : Word) : (rewritten s m l).cur = s.cur := rfl

@[simp] theorem postEvent_cur (s : State) (m : Nat) (r : Source) (ty d0 d1 : Nat) : (postEvent s m r ty d0 d1).cur = s.cur := by
  unfold postEvent
  dsimp only
  split <;> rfl

theorem quarantine_cores (s : State) (d fid : Nat) : (quarantine s d fid).cores = s.cores ∧ (quarantine s d fid).cur = s.cur := by
  unfold quarantine
  extract_lets s1 s2 s3
  have h3 : s3.cores = s.cores ∧ s3.cur = s.cur := by
    unfold s3
    split <;> exact ⟨rfl, rfl⟩
  rw [postEvent_cores, postEvent_cur]
  exact h3

theorem mendFrame_cores (s : State) (d fid : Nat) : (mendFrame s d fid).cores = s.cores ∧ (mendFrame s d fid).cur = s.cur := by
  unfold mendFrame
  split
  · exact ⟨rfl, rfl⟩
  split
  · exact quarantine_cores s d fid
  split <;> exact ⟨rfl, rfl⟩

theorem reportError_cores (s : State) (m g code : Nat) (val : Word) :
    (reportError s m g code val).cores = s.cores ∧ (reportError s m g code val).cur = s.cur := by
  unfold reportError
  split
  · extract_lets kind s1
    split
    · exact mendFrame_cores _ _ _
    · have h1 : s1.cores = s.cores ∧ s1.cur = s.cur := by
        unfold s1
        split <;> exact ⟨rfl, rfl⟩
      rw [postEvent_cores, postEvent_cur]
      exact h1
  · exact ⟨rfl, rfl⟩

/-- The entry of a trap concerns cores alone. -/
theorem Entered.of_cores {s u t : State} {code : Nat} {val : Word} (h : Entered u t code val) (hc : u.cores = s.cores ∧ u.cur = s.cur) :
    Entered s t code val := by
  obtain ⟨hcores, hcur⟩ := hc
  cases s
  cases u
  cases hcores
  cases hcur
  exact ⟨⟨h.only.others, h.only.core, h.only.slots⟩, h.ctx⟩

/-- What a trap of the context comes to once its error has been reported. -/
theorem raiseTrap_entered {s : State} (ht : canTrap s = true) (m : Nat) {code : Nat} (hcode : code < 256) (val : Word) :
    Entered s (raiseTrap s m s.cur (slotOf s) code val) code val := by
  unfold raiseTrap
  split
  · exact (takeTrap_trapped ht hcode val).entered
  · have hc := reportError_cores s m s.cur code val
    generalize reportError s m s.cur code val = u at hc
    have hrun := running_congr hc.1 hc.2
    have ht' : canTrap u = true := by
      rw [← ht]
      simp only [canTrap, me, getCtx, ownsQueue, hrun.1, hrun.2, hc.2]
    have := (takeTrap_trapped ht' hcode val).entered
    rw [hrun.1, hc.2] at this
    exact this.of_cores hc

/-- The cause of each fate is the rule's. -/
theorem undefinedTrap_eq (s : State) (why : Fate) : undefinedTrap s s.cur (slotOf s) why = Rules.fate s why := by
  cases why <;> rfl

theorem fate_code (s : State) (why : Fate) :
    (Rules.fate s why).1 ∈ [0x01, 0x02, 0x03, 0x08] ∨ ∃ off, why = .ecc off ∧ (Rules.fate s why).1 = causeECC := by
  cases why with
  | fetch | chain => exact .inl (by simp [Rules.fate])
  | ecc off => exact .inr ⟨off, rfl, rfl⟩
  | bad page op first =>
    refine .inl ?_
    unfold Rules.fate
    dsimp only
    split <;> simp

theorem fate_code_lt (s : State) (why : Fate) : (Rules.fate s why).1 < 256 := by
  rcases fate_code s why with h | ⟨_, _, h⟩
  · exact (show ∀ c ∈ [0x01, 0x02, 0x03, 0x08], c < 256 by decide) _ h
  · rw [h]; decide

theorem fate_code_ne {s : State} {why : Fate} (hw : ∀ off, why ≠ .ecc off) : (Rules.fate s why).1 ≠ causeECC := by
  rcases fate_code s why with h | ⟨off, he, _⟩
  · exact (show ∀ c ∈ [0x01, 0x02, 0x03, 0x08], c ≠ causeECC by decide) _ h
  · exact absurd he (hw off)

theorem undefinedEncoding_enters {s : State} (hi : issuing s = true) (ht : canTrap s = true) (why : Fate) :
    ∃ t, exec (.undefinedEncoding why) s = .next t ∧ Entered s t (Rules.fate s why).1 (Rules.fate s why).2 ∧
      ((∀ off, why ≠ .ecc off) → t = { s with cores := t.cores }) := by
  have he : exec (.undefinedEncoding why) s =
      .next (raiseTrap s (modOf s.cur) s.cur (slotOf s) (Rules.fate s why).1 (Rules.fate s why).2) := by
    rw [← undefinedTrap_eq]
    unfold exec execUndefinedEncoding
    simp [hi, slotOf]
  refine ⟨_, he, raiseTrap_entered ht _ (fate_code_lt s why) _, fun hw => ?_⟩
  rw [raiseTrap_of_ne (fate_code_ne hw)]
  exact (takeTrap_trapped ht (fate_code_lt s why) _).rest

/-! ### What a stop leaves as it was (R137, R316) -/

/-- The trap registers of a context. -/
def trapRegs (x : Ctx) : Word × Word × Word := (x.trapPc, x.trapCause, x.trapVal)

/-- RUN of every core, the trap registers of every context and the bytes of memory stand. -/
structure Standing (s t : State) : Prop where
  run : ∀ h, (getCore t h).run = (getCore s h).run
  traps : ∀ h k, trapRegs (getCtx t h k) = trapRegs (getCtx s h k)
  mem : t.mem = s.mem

variable {s t u : State}

theorem Standing.refl (s : State) : Standing s s := ⟨fun _ => rfl, fun _ _ => rfl, rfl⟩

theorem Standing.trans (h : Standing s t) (h' : Standing t u) : Standing s u :=
  ⟨fun g => (h'.run g).trans (h.run g), fun g k => (h'.traps g k).trans (h.traps g k), h'.mem.trans h.mem⟩

theorem Standing.of_cores (h : Standing s t) (hc : u.cores = t.cores) (hm : u.mem = t.mem) : Standing s u := by
  have hg (g : Nat) : getCore u g = getCore t g := by rw [getCore, hc, ← getCore]
  exact ⟨fun g => by rw [hg, h.run], fun g k => by rw [getCtx, hg, ← getCtx, h.traps], hm.trans h.mem⟩

theorem Standing.foldl {α : Type} {f : State → α → State} (hf : ∀ t a, Standing s t → Standing s (f t a)) (l : List α) (h : Standing s t) :
    Standing s (l.foldl f t) := foldl_keeps (Standing s) f hf l t h

theorem modCore_standing {g : Nat} {f : Core → Core} (hf : ∀ c, (f c).run = c.run ∧ (f c).ctx = c.ctx) (h : Standing s t) :
    Standing s (modCore t g f) := by
  refine ⟨fun j => ?_, fun j k => ?_, h.mem⟩
  · rw [getCore_modCore]
    split
    · next e => rw [(hf _).1, ← e, h.run]
    · exact h.run j
  · rw [getCtx_modCore _ _ _ _ _ fun c => (hf c).2, h.traps]

theorem modCtx_standing {g k : Nat} {f : Ctx → Ctx} (hf : ∀ x, trapRegs (f x) = trapRegs x) (h : Standing s t) : Standing s (modCtx t g k f) := by
  refine ⟨fun j => ?_, fun j l => ?_, h.mem⟩
  · rw [getCore_modCtx]
    split
    · next e => rw [← h.run, e]
    · exact h.run j
  · rw [getCtx_modCtx]
    split
    · next e => rw [hf, ← h.traps, e.1, e.2]
    · exact h.traps j l

theorem wakeIf_standing {g : Nat} {p : Mode → Bool} (h : Standing s t) : Standing s (wakeIf t g p) :=
  .foldl (fun _ _ ht => by split; exacts [modCtx_standing (fun _ => rfl) ht, ht]) _ h

theorem postEvent_standing {m ty d0 d1 : Nat} {r : Source} (h : Standing s t) : Standing s (postEvent t m r ty d0 d1) :=
  h.of_cores (postEvent_cores ..) (postEvent_mem ..)

theorem resultAway_standing {o ok : Nat} {queue : Option Nat} {v : Word} (h : Standing s t) : Standing s (resultAway t o ok queue v) :=
  h.of_cores rfl rfl

theorem discardMigrant_standing {g k : Nat} (h : Standing s t) : Standing s (discardMigrant t g k) := by
  unfold discardMigrant
  split
  · dsimp only
    split
    · exact wakeIf_standing (modCtx_standing (fun _ => rfl) (postEvent_standing h))
    · exact resultAway_standing (postEvent_standing h)
  · exact h

theorem sendFrom_standing {src cls home dst key : Nat} {slots : List Nat} {route : Route} {exch : Option (Nat × Nat)} {body : Body} {acq : Bool}
    (h : Standing s t) : Standing s (sendFrom t src slots cls route home dst exch body key acq) := h.of_cores rfl rfl

theorem multicastFrom_standing {m home : Nat} {branches : List Nat} {exch : Option (Nat × Nat)} {body : Body} (h : Standing s t) :
    Standing s (multicastFrom t m home branches exch body) := h.of_cores rfl rfl

theorem sendExchange_standing {g cls : Nat} {exch : Option (Nat × Nat)} (h : Standing s t) : Standing s (sendExchange t g exch cls) := by
  unfold sendExchange
  exact .foldl (fun _ _ hu => sendFrom_standing hu) _ (modCore_standing (fun _ => ⟨rfl, rfl⟩) h)

theorem modGroup_standing {key : Nat} {f : Group → Group} (h : Standing s t) : Standing s (modGroup t key f) := h.of_cores rfl rfl

theorem beginIfFull_standing {key : Nat} (h : Standing s t) : Standing s (beginIfFull t key) := by
  unfold beginIfFull
  dsimp only
  split
  · split
    · exact .foldl (fun _ _ hu => sendExchange_standing hu) _ (modGroup_standing h)
    · exact multicastFrom_standing (modGroup_standing h)
  · exact h

theorem leaveGroups_standing {g : Nat} (h : Standing s t) : Standing s (leaveGroups t g) := by
  unfold leaveGroups
  dsimp only
  refine .foldl (fun _ _ hu => ?_) _ (h.of_cores rfl rfl)
  split
  · exact beginIfFull_standing (modGroup_standing hu)
  · exact hu

/-- The core does not run; RUN of every other core, the trap registers of every context and the bytes of memory stand. -/
structure Stopped (s t : State) (g : Nat) : Prop where
  run : (getCore t g).run = false
  others : ∀ h, h ≠ g → (getCore t h).run = (getCore s h).run
  traps : ∀ h k, trapRegs (getCtx t h k) = trapRegs (getCtx s h k)
  mem : t.mem = s.mem

theorem Stopped.then {g : Nat} (h : Stopped s t g) (h' : Standing t u) : Stopped s u g :=
  ⟨(h'.run g).trans h.run, fun j hj => (h'.run j).trans (h.others j hj), fun j k => (h'.traps j k).trans (h.traps j k), h'.mem.trans h.mem⟩

theorem Standing.stopped {g : Nat} (h : Standing s t) (h' : Stopped t u g) : Stopped s u g :=
  ⟨h'.run, fun j hj => (h'.others j hj).trans (h.run j), fun j k => (h'.traps j k).trans (h.traps j k), h'.mem.trans h.mem⟩

/-- A core that is marked stopped, with new contexts that keep their trap registers. -/
theorem modCore_stopped {g : Nat} {f : Core → Core} (hr : ∀ c, (f c).run = false)
    (hx : ∀ c k, trapRegs (tget {} (f c).ctx k) = trapRegs (tget {} c.ctx k)) : Stopped s (modCore s g f) g := by
  refine ⟨by rw [getCore_modCore_self, hr], fun h hh => by rw [getCore_modCore, if_neg hh], fun h k => ?_, rfl⟩
  unfold getCtx
  rw [getCore_modCore]
  split
  · next e => rw [hx, e]
  · rfl

/-- A context put back with its trap registers. -/
theorem trapRegs_tput {l : Tbl Ctx} {j : Nat} {x : Ctx} (hx : trapRegs x = trapRegs (tget {} l j)) (k : Nat) :
    trapRegs (tget {} (tput l j x) k) = trapRegs (tget {} l k) := by
  rw [tget_tput]
  split
  · next e => rw [hx, e]
  · rfl

theorem trapRegs_foldl {f : Tbl Ctx → Nat → Tbl Ctx} (hf : ∀ l j k, trapRegs (tget {} (f l j) k) = trapRegs (tget {} l k)) (js : List Nat)
    (l : Tbl Ctx) (k : Nat) : trapRegs (tget {} (js.foldl f l) k) = trapRegs (tget {} l k) :=
  foldl_keeps (fun t => trapRegs (tget {} t k) = trapRegs (tget {} l k)) f (fun t j ht => (hf t j k).trans ht) js l rfl

theorem stopCore_stopped (s : State) (g : Nat) : Stopped s (stopCore s g) g := by
  unfold stopCore
  extract_lets s1 s2 s3 s4 s5
  have h1 : Standing s s1 := .foldl (fun u k hu => by split; exacts [hu, discardMigrant_standing hu]) _ (.refl s)
  have h2 : Stopped s1 s2 g := by
    refine modCore_stopped (fun _ => rfl) fun c k => ?_
    dsimp only
    refine (trapRegs_foldl (fun l j k => ?_) _ _ k).trans ?_
    · exact trapRegs_tput (by rfl) k
    · exact trapRegs_tput (by rfl) k
  clear_value s2
  have h4 : Standing s2 s4 := (Standing.refl s2).of_cores rfl rfl
  have h5 : Standing s2 s5 := sendExchange_standing h4
  have h := (h1.stopped h2).then h5
  split
  · exact h
  · exact h.then (leaveGroups_standing (.refl s5))

/-! ### A trap at firmware level (R28, R410) -/

theorem tcbPut_cores (s : State) (q idx : Nat) (f : Fld) (v : Nat) : (tcbPut s q idx f v).cores = s.cores := writeBytes_cores ..

/-- The core does not run and its contexts' trap registers stand. -/
def Halted (s t : State) (g : Nat) : Prop :=
  (getCore t g).run = false ∧ ∀ k, trapRegs (getCtx t g k) = trapRegs (getCtx s g k)

theorem Halted.of_cores {g : Nat} (h : Halted u t g) (hc : u.cores = s.cores) : Halted s t g :=
  ⟨h.1, fun k => by rw [h.2, getCtx, getCore, hc]; rfl⟩

theorem haltCore_halted (s : State) (g k code : Nat) (val : Word) : Halted s (haltCore s g k code val) g := by
  unfold haltCore
  extract_lets pc s1
  have h1 : s1.cores = s.cores := by unfold s1; split <;> rfl
  have hs : Halted s1 (postEvent (stopCore s1 g) (modOf g) (srcCore g) 0x70 (2 ^ 63 + pc.toNat * 2 ^ 16 + k * 256 + code) val.toNat) g := by
    have h2 := stopCore_stopped s1 g
    have h3 := postEvent_standing (m := modOf g) (r := srcCore g) (ty := 0x70) (d0 := 2 ^ 63 + pc.toNat * 2 ^ 16 + k * 256 + code) (d1 := val.toNat)
      (.refl (stopCore s1 g))
    exact ⟨(h2.then h3).run, (h2.then h3).traps g⟩
  exact hs.of_cores h1

/-- A trap at firmware level halts the core; the trap registers stay. -/
theorem enterTrap_halted {g k : Nat} (hl : fget F.lvl (getCtx s g k).priv = 1) (code : Nat) (val : Word) (pre : Bool) :
    Halted s (enterTrap s g k code val pre) g := by
  unfold enterTrap
  extract_lets x s1
  have h1 : s1.cores = s.cores := by
    unfold s1
    split
    · split
      · rfl
      · rw [tcbPut_cores, tcbPut_cores, tcbPut_cores]
    · rfl
  rw [if_pos hl]
  exact (haltCore_halted s1 g k code val).of_cores h1

theorem takeTrap_halted {g k : Nat} (hl : fget F.lvl (getCtx s g k).priv = 1) (hq : ownsQueue s g k = false) (code : Nat) (val : Word) :
    Halted s (takeTrap s g k code val) g := by
  unfold takeTrap
  rw [if_neg (by simp [hq])]
  split
  · next c v _ =>
    have hx (j : Nat) : getCtx (modCore s g fun x => { x with mfault := none }) g j = getCtx s g j := getCtx_modCore _ _ _ _ _ fun _ => rfl
    obtain ⟨hrun, htraps⟩ := enterTrap_halted (by rw [hx]; exact hl) c v false
    exact ⟨hrun, fun j => (htraps j).trans (congrArg trapRegs (hx j))⟩
  · exact enterTrap_halted hl code val false

/-- `trap` and `brk` raise their cause and do nothing else (R133). -/
theorem trapForm_raises {s : State} {i : Instr} {p : Pfx} {imm : Nat} (hi : i = .trap p imm ∨ i = .brk p) :
    ∃ body code val, exec i s = .next (issue i s body) ∧ body s s.cur (slotOf s) = .trap code val ∧ code ≠ causeECC := by
  rcases hi with rfl | rfl
  · exact ⟨_, _, _, rfl, rfl, by decide⟩
  · exact ⟨_, _, _, rfl, rfl, by decide⟩

/-- Settles O4: at user level `takeTrap` enters the handler, at firmware level it stops the core. -/
theorem trapsEnterTheirHandler : Obligations.TrapsEnterTheirHandler := by
  unfold Obligations.TrapsEnterTheirHandler
  refine ⟨fun s ht => ⟨fun p imm hr => ?_, fun p hr => ?_, fun why hi => undefinedEncoding_enters hi ht why⟩, fun s i p imm hr hi hl hq => ?_⟩
  · exact ⟨_, rfl, issue_raises hr ht rfl (by decide) (by decide)⟩
  · exact ⟨_, rfl, issue_raises hr ht rfl (by decide) (by decide)⟩
  · obtain ⟨body, code, val, he, hb, hne⟩ := trapForm_raises (s := s) hi
    have hissue : issue i s body = takeTrap s s.cur (slotOf s) code val := by rw [issue_ready hr, hb, ← raiseTrap_of_ne hne s (modOf s.cur)]
    obtain ⟨hrun, htraps⟩ := takeTrap_halted hl hq code val
    refine ⟨_, he, by rw [hissue]; exact hrun, ?_⟩
    rw [hissue]
    have := htraps (slotOf s)
    simp only [trapRegs, Prod.mk.injEq] at this
    exact this

/-! ### The return from a trap (R134) -/

/-- `eret` is a form that every context decodes, may use at firmware level alone, and that names no register (R26, R93, R97). -/
theorem issueCheck_eret {s : State} (p : Pfx) (hl : fget F.lvl (me s).priv = 0) :
    issueCheck s s.cur (slotOf s) (.eret p) = some (causePRIV, 0) := by
  refine issueCheck_firmware rfl rfl ?_ (.inr rfl) hl rfl
  unfold permitted
  split <;> rfl

/-- Settles O5: `eret` touches its context alone; at user level it fails the last check of R27. -/
theorem eretReturnsFromATrap : Obligations.EretReturnsFromATrap := by
  unfold Obligations.EretReturnsFromATrap
  refine fun s p => ⟨fun hr => ⟨_, rfl, ?_⟩, fun hi hv ht => ⟨_, rfl, issue_trapped hi hv ht (issueCheck_eret p (lvl_of_canTrap ht)) (by decide) _⟩⟩
  rw [issue_done hr rfl, retireTo_nil (portMode_of_ready hr), returnTrap]
  refine ⟨⟨fun h hh => ?_, ?_, fun j hj => ?_⟩, ⟨rfl, fun _ _ => rfl, fun _ he => he⟩, ?_⟩
  · rw [getCore_modCtx, if_neg hh, getCore_modCtx, if_neg hh]
  · rw [getCore_modCtx, if_pos rfl, getCore_modCtx, if_pos rfl]
  · have hj' : ¬ (s.cur = s.cur ∧ j = slotOf s) := fun h => hj (by simp [h.2])
    rw [getCtx_modCtx, if_neg hj', getCtx_modCtx, if_neg hj']
  · rw [getCtx_modCtx_self, getCtx_modCtx_self]
    rfl

end Sys2Proof.Machine


/-!
PROOFS. A statement about every state that fails at a core index which no cluster has (O10): from 52 to 63 the module physical map has no TCM (R48), so an
access that the statement calls local leaves as a message.
-/
namespace Sys2Proof.Machine

/-- Core index 63 runs its base context with x2 = 0x100. -/
def strayCore : State :=
  { State.reset with cores := [(63, { run := true, ctx := [(0, { mode := .running, x := [(2, 0x100)] })] })], cur := 63 }

/-- A load of that doubleword is one that the statement calls local: nothing holds it back. -/
theorem strayCore_local : Rules.Local strayCore (.ld bare .d 1 2 0) 0x100 8 (gaTcm 63 0x100) where
  ready := by decide +kernel
  access := by decide +kernel
  aligned := by decide +kernel
  home := .inl (by decide +kernel)
  onPart := ⟨by decide +kernel, fun _ _ _ => rfl⟩
  free := by decide +kernel
  line := by decide +kernel

/-- Its address is in a hole of the physical map (R48): the load is sent to its home and does not complete, so that INSTRET stays 0. -/
theorem strayCore_sends :
    (match exec (.ld bare .d 1 2 0) strayCore with
      | .next t => (getCtx t 63 0).instret == 0
      | _ => false) = true := by decide +kernel

/-- Refutes O10: no clause asks that the core be one of a cluster; at core index 63, which has no TCM, a load of the local window does not complete. -/
theorem not_localAccessesMoveTheirBytes : ¬ Obligations.LocalAccessesMoveTheirBytes := by
  unfold Obligations.LocalAccessesMoveTheirBytes
  intro ⟨hload, _⟩
  obtain ⟨t, ht, hreg⟩ := hload strayCore (.ld bare .d 1 2 0) 0x100 8 (gaTcm 63 0x100) _ strayCore_local
    (fun _ _ _ => ⟨List.not_mem_nil, List.not_mem_nil, List.not_mem_nil⟩) rfl
  have hs := strayCore_sends
  have hc : (getCtx t 63 0).instret = (me strayCore).instret + 1 := congrArg Ctx.instret hreg.retired.ctx
  rw [ht] at hs
  simp only [hc] at hs
  exact absurd hs (by decide)

end Sys2Proof.Machine


/-!
PROOFS. CSR accesses (O7): which ones the checks let through, what a CSR reads as, and what a write of one leaves. `ctxCsr` and `coreCsr` are the CSRs of
a context and of a core; `csrValue_eq` ties them to the model's reads.
-/
namespace Sys2Proof.Machine

/-! ### The checks (R35, R42, R132) -/

theorem mem_csrNumbers (n : Nat) : n ∈ Rules.csrNumbers ↔ csrAssigned n = true := by
  have hr : n ∈ (List.range 48).map (0x100 + ·) ↔ 0x100 ≤ n ∧ n ≤ 0x12F := by
    rw [List.mem_map]
    exact ⟨fun ⟨a, ha, he⟩ => by rw [List.mem_range] at ha; omega, fun h => ⟨n - 0x100, by rw [List.mem_range]; omega, by omega⟩⟩
  rw [Rules.csrNumbers, List.mem_append, hr]
  simp only [csrAssigned, List.mem_cons, List.not_mem_nil, or_false, Bool.or_eq_true, Bool.and_eq_true, decide_eq_true_eq, beq_iff_eq]
  omega

theorem roleOf_eq (g : Nat) : roleOf g = if g % 64 < 48 then g % 64 % 3 else 3 := rfl

/-- The numbers of the read-only CSRs. -/
theorem csrFixed_numbers {s : State} {n : Nat} (h : Rules.csrFixed s n ≠ none) : n ≤ 0x005 ∨ n = 0x030 ∨ n = 0x031 := by
  simp only [Rules.csrFixed, ← roleOf_eq] at h
  split at h
  case h_9 => exact absurd rfl h
  all_goals omega

/-- An access that the level may make passes the checks. -/
theorem csrCheck_of_allowed {s : State} {n : Nat} {write : Bool} (h : Rules.csrAllowed s n write = true) (i : Instr) :
    csrCheck s s.cur (slotOf s) n write i = none := by
  simp only [Rules.csrAllowed, Bool.and_eq_true, Bool.or_eq_true, Bool.not_eq_true'] at h
  obtain ⟨⟨hassigned, -⟩, hwrite⟩ := h
  cases write
  · simp [csrCheck, hassigned]
  · obtain ⟨hw, hports⟩ := hwrite.resolve_left (by decide)
    unfold me at hw
    simp [csrCheck, hassigned, hw, hports]

theorem csrCheck_unassigned {n : Nat} (h : n ∉ Rules.csrNumbers) (s : State) (write : Bool) (i : Instr) :
    csrCheck s s.cur (slotOf s) n write i = some (causeILL, firstWord i) := by
  have : csrAssigned n = false := by rwa [mem_csrNumbers, Bool.not_eq_true] at h
  simp [csrCheck, this]

/-- A write of a read-only CSR is refused (R35). -/
theorem csrCheck_readOnly {s : State} {n : Nat} (h : Rules.csrFixed s n ≠ none) (i : Instr) :
    csrCheck s s.cur (slotOf s) n true i = some (causeILL, firstWord i) := by
  have hn := csrFixed_numbers h
  have hw (fw : Bool) : csrWritable fw n = false := by
    cases fw <;> simp [csrWritable, csrFirmware] <;> omega
  simp [csrCheck, hw]

/-! ### Reads (R36, R37, R46, R132) -/

theorem csrr_completes {s : State} {p : Pfx} {d : Reg} {n : Nat} (hr : ready s (.csrr p d n) = true) (ha : Rules.csrAllowed s n false = true)
    (hq : n ≠ 0x010 ∨ (getCore s s.cur).vq = []) :
    ∃ t, exec (.csrr p d n) s = .next t ∧ RegisterOnly s t (nextOf s (.csrr p d n)) [(d, csrValue s s.cur (slotOf s) n)] := by
  have hq' : ¬ (n = 0x010 ∧ (!(getCore s s.cur).vq.isEmpty) = true) := by
    rintro ⟨hn, hv⟩
    rw [hq.resolve_left (not_not_intro hn)] at hv
    cases hv
  refine ⟨_, rfl, issue_retires hr ?_⟩
  simp only [csrCheck_of_allowed ha, if_neg hq']
  rfl

theorem extsOf_eq {role : Nat} (h : role < 4) : extsOf role = [0x03, 0x0D, 0x31, 0xC5].getD role 0 := by
  interval_cases role <;> rfl

theorem roleOf_lt (g : Nat) : roleOf g < 4 := by
  rw [roleOf_eq]
  split <;> omega

/-- The read-only CSRs read as the core's place, role and counts. -/
theorem csrValue_fixed {s : State} {n : Nat} {v : Word} (h : Rules.csrFixed s n = some v) : csrValue s s.cur (slotOf s) n = v := by
  simp only [Rules.csrFixed, ← roleOf_eq] at h
  split at h <;> cases h
  case h_6.refl => exact extsOf_eq (roleOf_lt s.cur)
  all_goals rfl

/-! ### The CSRs of a context and of a core (R35) -/

/-- The CSRs of context scope, but CID. -/
def ctxCsr (x : Ctx) : Nat → Word
  | 0x006 => x.priv
  | 0x011 => x.strm
  | 0x021 => x.trapCause
  | 0x022 => x.trapPc
  | 0x023 => x.trapVal
  | 0x031 => x.instret
  | _ => 0

/-- The CSRs of core scope, but those of the core's place. -/
def coreCsr (c : Core) : Nat → Word
  | 0x010 => c.fmode
  | 0x012 => c.vqw
  | 0x013 => c.porten
  | 0x014 => c.portmap
  | 0x015 => c.migen
  | 0x016 => c.dommem
  | 0x020 => c.trapvec
  | 0x030 => c.cycle
  | n => tget 0 c.barmap (n - 0x100)

theorem csrValue_ctx {s : State} {g k n : Nat} (hn : 0x005 < n) (h : contextCsr n = true) : csrValue s g k n = ctxCsr (getCtx s g k) n := by
  simp only [contextCsr, List.contains_eq_mem, List.mem_cons, List.not_mem_nil, or_false, decide_eq_true_eq] at h
  rcases h with rfl | rfl | rfl | rfl | rfl | rfl | rfl
  · omega
  all_goals rfl

theorem csrValue_core {s : State} {g k n : Nat} (hn : 0x005 < n) (h : contextCsr n = false) : csrValue s g k n = coreCsr (getCore s g) n := by
  unfold csrValue coreCsr
  dsimp only
  split <;> simp_all [contextCsr]

/-- The assigned CSRs of core scope: single registers, and BARMAP. -/
theorem coreCsr_number {n : Nat} (ha : csrAssigned n = true) (hn : 0x005 < n) (h : contextCsr n = false) :
    n ∈ [0x010, 0x012, 0x013, 0x014, 0x015, 0x016, 0x020, 0x030] ∨ 0x100 ≤ n := by
  simp [csrAssigned, contextCsr] at ha h ⊢
  omega

theorem coreCsr_barmap {n : Nat} (h : 0x100 ≤ n) (c : Core) : coreCsr c n = tget 0 c.barmap (n - 0x100) := by
  unfold coreCsr
  split
  case h_9 => rfl
  all_goals omega

/-- A read looks at the CSR's context or core and at nothing else. -/
theorem csrValue_congr {s t : State} {g k n : Nat} (hx : ctxCsr (getCtx t g k) n = ctxCsr (getCtx s g k) n)
    (hc : 0x005 < n → contextCsr n = false → coreCsr (getCore t g) n = coreCsr (getCore s g) n) : csrValue t g k n = csrValue s g k n := by
  by_cases hn : 0x005 < n
  · cases h : contextCsr n
    · rw [csrValue_core hn h, csrValue_core hn h, hc hn h]
    · rw [csrValue_ctx hn h, csrValue_ctx hn h, hx]
  · have : n ≤ 5 := by omega
    interval_cases n <;> rfl

end Sys2Proof.Machine


/-!
PROOFS. Writes of CSRs (O7): `csrStore` updates its context or its core and nothing else (`csrStore_cases`), the CSR then holds the rule's fields of the
word, and every other CSR stands.
-/
namespace Sys2Proof.Machine

/-! ### What a write touches (R35) -/

/-- CSRs that some level can write. -/
theorem csrWritable_firmware {fw : Bool} {n : Nat} (h : csrWritable fw n = true) :
    n = 0x006 ∨ (0x010 ≤ n ∧ n ≤ 0x016) ∨ (0x020 ≤ n ∧ n ≤ 0x023) ∨ (0x100 ≤ n ∧ n ≤ 0x12F) := by
  cases fw <;> simp [csrWritable, csrFirmware] at h <;> omega

/-- A write touches the CSR fields of its context, or those of its core. -/
theorem csrStore_cases (s : State) (g k n : Nat) (v : Word) :
    csrStore s g k n v = s ∨
    (∃ f : Ctx → Ctx, csrStore s g k n v = modCtx s g k f ∧
      ∀ x, f x = { x with
        priv := (f x).priv, strm := (f x).strm, trapCause := (f x).trapCause, trapPc := (f x).trapPc, trapVal := (f x).trapVal }) ∨
    (∃ f : Core → Core, csrStore s g k n v = modCore s g f ∧
      ∀ c, f c = { c with
        fmode := (f c).fmode, vqw := (f c).vqw, porten := (f c).porten, portmap := (f c).portmap, migen := (f c).migen, dommem := (f c).dommem
        trapvec := (f c).trapvec, barmap := (f c).barmap }) := by
  unfold csrStore
  split
  case h_13 =>
    split
    · exact .inr (.inr ⟨_, rfl, fun _ => rfl⟩)
    · exact .inl rfl
  case h_1 | h_3 | h_10 | h_11 | h_12 => exact .inr (.inl ⟨_, rfl, fun _ => rfl⟩)
  all_goals exact .inr (.inr ⟨_, rfl, fun _ => rfl⟩)

/-- What a write of a CSR leaves as it was: other cores and slots, and of its core and context all but CSRs. -/
structure CsrOnly (s t : State) (g k : Nat) : Prop where
  rest : t = { s with cores := t.cores }
  others : ∀ h, h ≠ g → getCore t h = getCore s h
  slots : ∀ j, j ≠ k → getCtx t g j = getCtx s g j
  core : getCore t g = { getCore s g with
    ctx := (getCore t g).ctx, fmode := (getCore t g).fmode, vqw := (getCore t g).vqw, porten := (getCore t g).porten
    portmap := (getCore t g).portmap, migen := (getCore t g).migen, dommem := (getCore t g).dommem, trapvec := (getCore t g).trapvec
    barmap := (getCore t g).barmap }
  ctx : getCtx t g k = { getCtx s g k with
    priv := (getCtx t g k).priv, strm := (getCtx t g k).strm, trapCause := (getCtx t g k).trapCause, trapPc := (getCtx t g k).trapPc
    trapVal := (getCtx t g k).trapVal }

theorem csrStore_only (s : State) (g k n : Nat) (v : Word) : CsrOnly s (csrStore s g k n v) g k := by
  rcases csrStore_cases s g k n v with h | ⟨f, h, hf⟩ | ⟨f, h, hf⟩ <;> rw [h]
  · exact ⟨rfl, fun _ _ => rfl, fun _ _ => rfl, rfl, rfl⟩
  · refine ⟨rfl, fun j hj => ?_, fun j hj => ?_, ?_, ?_⟩
    · rw [getCore_modCtx, if_neg hj]
    · rw [getCtx_modCtx, if_neg fun e => hj e.2]
    · rw [getCore_modCtx, if_pos rfl]
    · rw [getCtx_modCtx_self]
      exact hf _
  · have hctx (c : Core) : (f c).ctx = c.ctx := by rw [hf]
    refine ⟨rfl, fun j hj => ?_, fun j _ => ?_, ?_, ?_⟩
    · rw [getCore_modCore, if_neg hj]
    · exact getCtx_modCore _ _ _ _ _ hctx
    · rw [getCore_modCore_self]
      conv_lhs => rw [hf]
      rw [hctx]
    · rw [getCtx_modCore _ _ _ _ _ hctx]

/-! ### The other CSRs (R35) -/

/-- An update of a context that keeps the value of a CSR of it. -/
theorem csrValue_modCtx {s : State} {g k n : Nat} {f : Ctx → Ctx} (hf : ∀ x, ctxCsr (f x) n = ctxCsr x n) :
    csrValue (modCtx s g k f) g k n = csrValue s g k n := by
  refine csrValue_congr ?_ ?_
  · rw [getCtx_modCtx_self, hf]
  · intro _ _
    rw [getCore_modCtx, if_pos rfl]
    rfl

/-- An update of a core that keeps the value of a CSR of it. -/
theorem csrValue_modCore {s : State} {g k n : Nat} {f : Core → Core} (hx : ∀ c, (f c).ctx = c.ctx)
    (hf : ∀ c, 0x005 < n → contextCsr n = false → coreCsr (f c) n = coreCsr c n) : csrValue (modCore s g f) g k n = csrValue s g k n := by
  refine csrValue_congr ?_ fun hn hk => ?_
  · rw [getCtx_modCore _ _ _ _ _ hx]
  · rw [getCore_modCore_self, hf _ hn hk]

/-- A write of a CSR leaves every other one. -/
theorem csrValue_csrStore_of_ne {s : State} {g k n m : Nat} (v : Word) (hm : csrAssigned m = true) (hne : m ≠ n) :
    csrValue (csrStore s g k n v) g k m = csrValue s g k m := by
  unfold csrStore
  split
  case h_13 =>
    split
    · next hn =>
      refine csrValue_modCore (fun _ => rfl) fun c h5 hk => ?_
      rcases coreCsr_number hm h5 hk with h | h
      · simp only [List.mem_cons, List.not_mem_nil, or_false] at h
        rcases h with rfl | rfl | rfl | rfl | rfl | rfl | rfl | rfl <;> rfl
      · rw [coreCsr_barmap h, coreCsr_barmap h, tget_tset, if_neg fun e => hne ((tsub_left_inj h hn.1).1 e)]
    · rfl
  case h_1 | h_3 | h_10 | h_11 | h_12 =>
    refine csrValue_modCtx fun x => ?_
    unfold ctxCsr
    split <;> simp_all
  all_goals
    refine csrValue_modCore (fun _ => rfl) fun c _ _ => ?_
    unfold coreCsr
    split <;> simp_all

/-! ### What the CSR holds (R39, R40, R42, R44, R45) -/

theorem strmFixed_eq (x : Ctx) : strmFixed x = (x.kind != .base && x.kind != .drain) := by
  unfold strmFixed
  cases x.kind <;> rfl

section
variable (role : Nat) (fixed : Bool) (old v : Word)

theorem priv_taken : fput F.plvl (fput F.lvl old (fget F.lvl v)) (fget F.plvl v) = Rules.csrTaken role fixed 0x006 old v := by
  apply BitVec.eq_of_toNat_eq
  simp [Rules.csrTaken, fput, fget, F.plvl, F.lvl]
  omega

theorem fmode_taken : fmodeWritten v = Rules.csrTaken role fixed 0x010 old v := by
  apply BitVec.eq_of_toNat_eq
  simp [Rules.csrTaken, fmodeWritten, fget, F.flags, F.ftz]
  split <;> split <;> omega

theorem strm_taken : (if fixed then old else strmWritten v) = Rules.csrTaken role fixed 0x011 old v := by
  simp [Rules.csrTaken, strmWritten, fget, F.sidGen, F.sidMod, F.sidDie, F.sidIdx]

theorem vqw_taken : BitVec.ofNat 64 (fget F.vqwW v) = Rules.csrTaken role fixed 0x012 old v := by
  simp [Rules.csrTaken, fget, F.vqwW]

theorem en_taken {n : Nat} (hn : n = 0x013 ∨ n = 0x015) : BitVec.ofNat 64 (fget F.en v) = Rules.csrTaken role fixed n old v := by
  rcases hn with rfl | rfl <;> simp [Rules.csrTaken, fget, F.en]

theorem portmap_taken : portmapWritten role v = Rules.csrTaken role fixed 0x014 old v := by
  apply BitVec.eq_of_toNat_eq
  simp [Rules.csrTaken, portmapWritten, fget, F.p0, F.p1, F.fansel]
  by_cases hrole : role < 3
  · simp only [hrole, if_true]
    split <;> split <;> omega
  · simp only [hrole, if_false]
    by_cases h1 : v.toNat / 4 % 4 = 3 <;> by_cases h0 : v.toNat % 4 = 1 <;> simp [h0, h1]

theorem trapvec_taken : fput F.tvBase 0 (fget F.tvBase v) = Rules.csrTaken role fixed 0x020 old v := by
  apply BitVec.eq_of_toNat_eq
  simp [Rules.csrTaken, fput, fget, F.tvBase]

theorem trapCause_taken : trapCauseWritten v = Rules.csrTaken role fixed 0x021 old v := by
  apply BitVec.eq_of_toNat_eq
  simp [Rules.csrTaken, trapCauseWritten, fput, fget, F.tcPre, F.tcCode]
  omega

theorem trapPc_taken : trapPcWritten v = Rules.csrTaken role fixed 0x022 old v := by
  have he : trapPcWritten v = (regTarget v).zeroExtend 64 := by
    rw [trapPcWritten, zext, BitVec.setWidth_and]
    rfl
  apply BitVec.eq_of_toNat_eq
  rw [he, regTarget, BitVec.toNat_setWidth, toNat_and_even]
  simp [Rules.csrTaken]
  omega

theorem csrTaken_barmap {n : Nat} (hn : 0x100 ≤ n) : Rules.csrTaken role fixed n old v = Rules.csrTaken role fixed 0x100 old v := by
  unfold Rules.csrTaken
  split
  case h_13 => rfl
  all_goals omega

theorem barmap_taken {n : Nat} (hn : 0x100 ≤ n) : barmapWritten v = Rules.csrTaken role fixed n old v := by
  rw [csrTaken_barmap role fixed old v hn]
  have hw : fput F.bmInst (fput F.bmLvl (fput F.bmV (0 : Word) (fget F.bmV v)) (fget F.bmLvl v)) (fget F.bmInst v) =
      BitVec.ofNat 64 (v.toNat / 2 ^ 63 % 2 * 2 ^ 63 + v.toNat / 2 ^ 32 % 4 * 2 ^ 32 + v.toNat % 256) := by
    apply BitVec.eq_of_toNat_eq
    simp [fput, fget, F.bmV, F.bmLvl, F.bmInst]
    omega
  have hlvl : fget F.bmLvl v = v.toNat / 2 ^ 32 % 4 := rfl
  have hinst : fget F.bmInst v = v.toNat % 256 := by simp [fget, F.bmInst]
  apply BitVec.eq_of_toNat_eq
  unfold barmapWritten
  rw [hw, hlvl, hinst]
  simp [Rules.csrTaken]
  split
  · rw [if_pos (by omega)]
    simp [fput, fget, F.bmV]
    omega
  · rw [if_neg (by omega)]
    simp
end

/-- The CSR then holds the word written, in the fields of its layout. -/
theorem csrValue_csrStore_self {n : Nat} {fw : Bool} (s : State) (g k : Nat) (v : Word) (hn : csrWritable fw n = true) :
    csrValue (csrStore s g k n v) g k n =
      Rules.csrTaken (roleOf g) ((getCtx s g k).kind != .base && (getCtx s g k).kind != .drain) n (csrValue s g k n) v := by
  have hx (f : Ctx → Ctx) : getCtx (modCtx s g k f) g k = f (getCtx s g k) := getCtx_modCtx_self s g k f
  have hc (f : Core → Core) : getCore (modCore s g f) g = f (getCore s g) := getCore_modCore_self s g f
  rcases csrWritable_firmware hn with rfl | ⟨h1, h2⟩ | ⟨h1, h2⟩ | ⟨h1, h2⟩
  · exact (congrArg Ctx.priv (hx _)).trans (priv_taken ..)
  · interval_cases n
    · exact (congrArg Core.fmode (hc _)).trans (fmode_taken ..)
    · rw [← strmFixed_eq]
      exact (congrArg Ctx.strm (hx _)).trans (strm_taken ..)
    · exact (congrArg Core.vqw (hc _)).trans (vqw_taken ..)
    · exact (congrArg Core.porten (hc _)).trans (en_taken _ _ _ v (.inl rfl))
    · exact (congrArg Core.portmap (hc _)).trans (portmap_taken ..)
    · exact (congrArg Core.migen (hc _)).trans (en_taken _ _ _ v (.inr rfl))
    · exact congrArg Core.dommem (hc _)
  · interval_cases n
    · exact (congrArg Core.trapvec (hc _)).trans (trapvec_taken ..)
    · exact (congrArg Ctx.trapCause (hx _)).trans (trapCause_taken ..)
    · exact (congrArg Ctx.trapPc (hx _)).trans (trapPc_taken ..)
    · exact congrArg Ctx.trapVal (hx _)
  · have hs : csrStore s g k n v = modCore s g fun c => { c with barmap := tset 0 c.barmap (n - 0x100) (barmapWritten v) } := by
      unfold csrStore
      split
      case h_13 => rw [if_pos ⟨h1, h2⟩]
      all_goals omega
    have hctx : contextCsr n = false := by simp [contextCsr]; omega
    rw [csrValue_core (by omega) hctx, csrValue_core (by omega) hctx, hs, hc, coreCsr_barmap h1, tget_tset_self]
    exact barmap_taken _ _ _ v h1

/-! ### The forms that write (R132) -/

/-- The three forms that write: what each makes of the CSR's value. -/
theorem csrWrite_form {s : State} {i : Instr} {p : Pfx} {d : Reg} {n : Nat} (hi : i = .csrw p d n ∨ i = .csrs p d n ∨ i = .csrc p d n)
    (hr : ready s i = true) :
    ∃ body f, exec i s = .next (issue i s body) ∧ body s s.cur (slotOf s) = csrModify s s.cur (slotOf s) i n f ∧
      ∀ v old, (i = .csrw p d n ∧ v = xreg s d ∨ i = .csrs p d n ∧ v = old ||| xreg s d ∨ i = .csrc p d n ∧ v = old &&& ~~~xreg s d) → f old = v := by
  have hx := readX_ready hr d
  rcases hi with rfl | rfl | rfl
  · exact ⟨_, _, rfl, rfl, fun v old h => Eq.symm (by simpa [hx] using h)⟩
  · exact ⟨_, _, rfl, rfl, fun v old h => Eq.symm (by simpa [hx] using h)⟩
  · exact ⟨_, _, rfl, rfl, fun v old h => Eq.symm (by simpa [hx] using h)⟩

/-- Retirement without registers changes INSTRET and no other CSR (R46). -/
theorem csrValue_retired {s : State} {g k n : Nat} (hn : n ≠ 0x031) (pc : Code) :
    csrValue (modCtx s g k fun x => { x with pc := pc, instret := x.instret + 1, begun := false }) g k n = csrValue s g k n := by
  refine csrValue_modCtx fun x => ?_
  unfold ctxCsr
  split
  case h_6 => exact absurd rfl hn
  all_goals rfl

/-- An access that the checks refuse raises ILL (R35). -/
theorem csrForm_refused {s : State} {i : Instr} {p : Pfx} {d : Reg} {n : Nat}
    (hi : i = .csrr p d n ∧ n ∉ Rules.csrNumbers ∨
      (i = .csrw p d n ∨ i = .csrs p d n ∨ i = .csrc p d n) ∧ (n ∉ Rules.csrNumbers ∨ Rules.csrFixed s n ≠ none))
    (hr : ready s i = true) (ht : canTrap s = true) : ∃ t, exec i s = .next t ∧ Trapped s t 0x01 (firstWord i) := by
  rcases hi with ⟨rfl, hn⟩ | ⟨hi, hn⟩
  · exact ⟨_, rfl, issue_raises (code := causeILL) hr ht (by simp only [csrCheck_unassigned hn]) (by decide) (by decide)⟩
  · obtain ⟨body, f, he, hb, -⟩ := csrWrite_form hi hr
    have hc : csrCheck s s.cur (slotOf s) n true i = some (causeILL, firstWord i) :=
      hn.elim (fun h => csrCheck_unassigned h s true i) fun h => csrCheck_readOnly h i
    exact ⟨_, he, issue_raises (code := causeILL) hr ht (by simp only [hb, csrModify, hc]) (by decide) (by decide)⟩

/-- A write that the level may make. -/
theorem csrWritable_of_allowed {s : State} {n : Nat} (h : Rules.csrAllowed s n true = true) : ∃ fw, csrWritable fw n = true := by
  simp only [Rules.csrAllowed, Bool.and_eq_true, Bool.or_eq_true] at h
  exact ⟨_, (h.2.resolve_left (by decide)).1⟩

/-- Settles O7: a read retires with `csrValue`, a write retires and then stores, and the checks refuse the rest. -/
theorem csrAccessesComplete : Obligations.CsrAccessesComplete := by
  unfold Obligations.CsrAccessesComplete
  refine fun s p d n => ⟨csrr_completes, fun v hr hv => ?_, fun i hi hr ht => csrForm_refused hi hr ht, fun i v hi hr ha => ?_⟩
  · have hn := csrFixed_numbers (s := s) (n := n) (by rw [hv]; simp)
    have ha : Rules.csrAllowed s n false = true := by
      simp [Rules.csrAllowed, csrAssigned, csrFirmware]
      omega
    rw [← csrValue_fixed hv]
    exact csrr_completes hr ha (.inl (by omega))
  · have hform : i = .csrw p d n ∨ i = .csrs p d n ∨ i = .csrc p d n := hi.imp And.left (Or.imp And.left And.left)
    obtain ⟨body, f, he, hb, hf⟩ := csrWrite_form hform hr
    obtain ⟨fw, hw⟩ := csrWritable_of_allowed ha
    have h31 : n ≠ 0x031 := by have := csrWritable_firmware hw; omega
    obtain ⟨u, hu⟩ : ∃ u, u = modCtx s s.cur (slotOf s) fun x => { x with pc := nextOf s i, instret := x.instret + 1, begun := false } := ⟨_, rfl⟩
    obtain ⟨t, ht⟩ : ∃ t, t = csrStore u s.cur (slotOf s) n v := ⟨_, rfl⟩
    have hbody : body s s.cur (slotOf s) = .done t := by
      rw [hb, csrModify, csrCheck_of_allowed ha, hf v _ hi, retireTo_nil (portMode_of_ready hr), ht, hu]
      rfl
    have hctx : getCtx u s.cur (slotOf s) = { me s with pc := nextOf s i, instret := (me s).instret + 1, begun := false } := by
      rw [hu, getCtx_modCtx_self]
      rfl
    have hcore : getCore u s.cur = { getCore s s.cur with ctx := (getCore u s.cur).ctx } := by rw [hu, getCore_modCtx, if_pos rfl]
    have ho : CsrOnly u t s.cur (slotOf s) := ht ▸ csrStore_only u _ _ n v
    refine ⟨t, _, _, by rw [he, issue_done hr hbody], rfl, rfl, ?_, fun h hh => ?_, fun j hj => ?_, ?_, ?_, ?_, fun m hm hne hi => ?_⟩
    · rw [ho.rest, hu]
      rfl
    · rw [ho.others h hh, hu, getCore_modCtx, if_neg hh]
    · rw [ho.slots j hj, hu, getCtx_modCtx, if_neg fun e => hj e.2]
    · conv_lhs => rw [ho.core, hcore]
    · conv_lhs => rw [ho.ctx, hctx]
    · have hv : csrValue u s.cur (slotOf s) n = csrValue s s.cur (slotOf s) n := hu ▸ csrValue_retired h31 _
      rw [ht, csrValue_csrStore_self u _ _ v hw, hv, hctx]
    · rw [ht, csrValue_csrStore_of_ne v hm hne, hu, csrValue_retired hi]

end Sys2Proof.Machine


/-!
PROOFS. Context switching (O8, O9): whom a core passes to when its context leaves it, and that the end of a clock leaves no core idle that has a context
to run (R126).
-/
namespace Sys2Proof.Machine

/-! ### Whom a core passes to (R126) -/

/-- The slots after the one that ran last, itself at the end. -/
theorem nextReady_eq (s : State) (g : Nat) :
    nextReady s g = ((List.range 11).map fun n => ((getCore s g).slot + 1 + n) % 11).find? fun j => (getCtx s g j).mode == .ready && mayRun s g j := by
  have : (upFrom 1 11).map (fun i => ((getCore s g).slot + i) % 11) = (List.range 11).map fun n => ((getCore s g).slot + 1 + n) % 11 := by
    rw [upFrom_eq_range', List.range'_eq_map_range, List.map_map]
    exact List.map_congr_left fun n _ => by rw [Function.comp_apply, Nat.add_assoc]
  rw [nextReady, this]

/-- Every slot is among them. -/
theorem slot_mem_order {k : Nat} (hk : k < 11) (last : Nat) : k ∈ (List.range 11).map fun n => (last + 1 + n) % 11 :=
  List.mem_map.2 ⟨(k + 10 * (last + 1)) % 11, List.mem_range.2 (Nat.mod_lt _ (by decide)), by omega⟩

theorem nextReady_none {s : State} {g k : Nat} (h : nextReady s g = none) (hk : k < 11) (hm : (getCtx s g k).mode = .ready) : mayRun s g k = false := by
  rw [nextReady_eq, List.find?_eq_none] at h
  simpa [hm] using h k (slot_mem_order hk _)

theorem settle_picks {s : State} {g k : Nat} (hrun : (getCore s g).run = true) (hidle : busy (getCore s g) = false) (hk : nextReady s g = some k) :
    settle s g = modCore s g fun c => { c with slot := k, ctx := tput c.ctx k { tget {} c.ctx k with mode := .running } } := by
  simp only [settle, hrun, hidle, hk, Bool.not_false, Bool.and_self, if_true]

theorem settle_idles {s : State} {g : Nat} (hk : nextReady s g = none) : settle s g = s := by
  unfold settle
  rw [hk]
  exact ite_self s

/-- A busy core, and one that does not run, stays as it is. -/
theorem settle_stays {s : State} {g : Nat} (h : (getCore s g).run = false ∨ busy (getCore s g) = true) : settle s g = s := by
  unfold settle
  rcases h with h | h <;> simp [h]

/-! ### The end of a clock (R126) -/

/-- The core is not idle while a READY context may run on it. -/
def Occupied (s : State) (g : Nat) : Prop :=
  (getCore s g).run = true → busy (getCore s g) = false → ∀ k, k < 11 → (getCtx s g k).mode = .ready → mayRun s g k = false

theorem settle_occupied (s : State) (g : Nat) : Occupied (settle s g) g := by
  intro hrun hidle k hk hm
  cases hn : nextReady s g with
  | none =>
    rw [settle_idles hn] at hm ⊢
    exact nextReady_none hn hk hm
  | some j =>
    by_cases h : (getCore s g).run = false ∨ busy (getCore s g) = true
    · rw [settle_stays h] at hrun hidle
      rcases h with h | h
      · rw [h] at hrun; cases hrun
      · rw [h] at hidle; cases hidle
    · simp only [not_or, Bool.not_eq_false, Bool.not_eq_true] at h
      rw [settle_picks h.1 h.2 hn, getCore_modCore_self] at hidle
      simp [busy] at hidle

/-- What a core may run depends on it and on the work of the dies. -/
theorem mayRun_congr {s t : State} {g k : Nat} (hd : t.dies = s.dies) (hp : (getCore t g).preempting = (getCore s g).preempting)
    (hc : (getCtx t g k).pc = (getCtx s g k).pc) : mayRun t g k = mayRun s g k := by
  simp only [mayRun, owesWrite, hd, hp, hc]

theorem settle_dies (s : State) (g : Nat) : (settle s g).dies = s.dies := by rw [settle_rest]

theorem Occupied.settle {s : State} {g : Nat} (h : Occupied s g) (j : Nat) : Occupied (settle s j) g := by
  by_cases hj : g = j
  · rw [hj]
    exact settle_occupied s j
  · have hc : getCore (Machine.settle s j) g = getCore s g := getCore_settle_of_ne hj
    have hx (k : Nat) : getCtx (Machine.settle s j) g k = getCtx s g k := by rw [getCtx, hc, ← getCtx]
    intro hrun hidle k hk hm
    rw [mayRun_congr (settle_dies s j) (by rw [hc]) (by rw [hx])]
    exact h (hc ▸ hrun) (hc ▸ hidle) k hk (hx k ▸ hm)

theorem Occupied.foldl {s : State} {g : Nat} (h : Occupied s g) (l : List (Nat × Core)) :
    Occupied (l.foldl (fun s e => Machine.settle s e.1) s) g :=
  foldl_keeps (Occupied · g) _ (fun _ e ht => ht.settle e.1) l s h

/-- A core that the machine lists is settled. -/
theorem settleAll_occupied (l : List (Nat × Core)) (s : State) {g : Nat} (h : ∃ c, (g, c) ∈ l) :
    Occupied (l.foldl (fun s e => settle s e.1) s) g := by
  induction l generalizing s with
  | nil => obtain ⟨c, hc⟩ := h; cases hc
  | cons e l ih =>
    obtain ⟨c, hc⟩ := h
    rcases List.mem_cons.1 hc with rfl | hc
    · exact (settle_occupied s g).foldl l
    · exact ih _ ⟨c, hc⟩

/-- A core that the machine does not list is as at reset. -/
theorem getCore_unlisted {s : State} {g : Nat} (h : ¬ ∃ c, (g, c) ∈ s.cores) : getCore s g = {} := by
  have (l : Tbl Core) (hl : ∀ c, (g, c) ∉ l) : tget {} l g = {} := by
    induction l with
    | nil => rfl
    | cons e l ih =>
      rw [tget, if_neg fun he => hl e.2 (by simp [← he])]
      exact ih fun c hc => hl c (List.mem_cons_of_mem _ hc)
  exact this _ (not_exists.1 h)

theorem settleAll_run (l : List (Nat × Core)) (s : State) (g : Nat) : (getCore (l.foldl (fun s e => settle s e.1) s) g).run = (getCore s g).run :=
  (SameBeat.foldl (b := s) (fun _ _ ht => settle_beat ht) l (.refl s) g).1

/-- At the end of a clock no core that runs is idle while a READY context may run on it. -/
theorem clockEnd_occupied (s : State) (g : Nat) : Occupied (clockEnd s) g := by
  unfold clockEnd
  extract_lets s1 b s2 s3 u
  clear_value u
  by_cases h : ∃ c, (g, c) ∈ u.cores
  · exact settleAll_occupied u.cores u h
  · intro hrun
    rw [settleAll_run, getCore_unlisted h] at hrun
    cases hrun

/-! ### A core that passes on (R126) -/

/-- What a core that passes to a slot keeps and changes. -/
theorem settle_picked {s : State} {g k : Nat} (hrun : (getCore s g).run = true) (hidle : busy (getCore s g) = false) (hk : nextReady s g = some k) :
    getCore (settle s g) g = { getCore s g with ctx := (getCore (settle s g) g).ctx, slot := k } ∧
      ∀ j, getCtx (settle s g) g j = if j = k then { getCtx s g k with mode := .running } else getCtx s g j := by
  rw [settle_picks hrun hidle hk]
  refine ⟨by rw [getCore_modCore_self], fun j => ?_⟩
  rw [getCtx, getCore_modCore_self, tget_tput]
  rfl

/-- The first of the other slots that is READY and may run. -/
def nextOther (s : State) : Option Nat :=
  ((List.range 10).map fun n => (slotOf s + 1 + n) % 11).find? fun j => (getCtx s s.cur j).mode == .ready && mayRun s s.cur j

theorem nextOther_some {s : State} {k : Nat} (h : nextOther s = some k) :
    k < 11 ∧ k ≠ slotOf s ∧ (getCtx s s.cur k).mode = .ready ∧ mayRun s s.cur k = true := by
  have hp := List.find?_some h
  obtain ⟨n, hn, rfl⟩ := List.mem_map.1 (List.mem_of_find?_eq_some h)
  rw [List.mem_range] at hn
  simp only [Bool.and_eq_true, beq_iff_eq] at hp
  exact ⟨Nat.mod_lt _ (by decide), by omega, hp⟩

theorem nextOther_none {s : State} {k : Nat} (hslot : slotOf s < 11) (h : nextOther s = none) (hk : k < 11) (hne : k ≠ slotOf s) (hm : (getCtx s s.cur k).mode = .ready) :
    mayRun s s.cur k = false := by
  rw [nextOther, List.find?_eq_none] at h
  obtain ⟨n, hn, hkn⟩ := List.mem_map.1 (slot_mem_order hk (slotOf s))
  rw [List.mem_range] at hn
  have := h k (List.mem_map.2 ⟨n, List.mem_range.2 (by omega), hkn⟩)
  simpa [hm] using this

/-- Once the running context has changed, the core looks at the other slots first and at it last. -/
theorem nextReady_left {s : State} (hslot : slotOf s < 11) (f : Ctx → Ctx) :
    nextReady (modCtx s s.cur (slotOf s) f) s.cur =
      (nextOther s).or (if (f (me s)).mode = .ready ∧ mayRun (modCtx s s.cur (slotOf s) f) s.cur (slotOf s) = true then some (slotOf s) else none) := by
  have hcore : (getCore (modCtx s s.cur (slotOf s) f) s.cur).slot = slotOf s := by rw [getCore_modCtx, if_pos rfl]; rfl
  have hlast : (slotOf s + 1 + 10) % 11 = slotOf s := by omega
  rw [nextReady_eq, hcore, List.range_succ, List.map_append, List.find?_append]
  congr 1
  · refine List.find?_congr fun j hj => ?_
    obtain ⟨n, hn, rfl⟩ := List.mem_map.1 hj
    rw [List.mem_range] at hn
    have hx : getCtx (modCtx s s.cur (slotOf s) f) s.cur ((slotOf s + 1 + n) % 11) = getCtx s s.cur ((slotOf s + 1 + n) % 11) := by
      rw [getCtx_modCtx, if_neg (by omega)]
    have hm : mayRun (modCtx s s.cur (slotOf s) f) s.cur ((slotOf s + 1 + n) % 11) = mayRun s s.cur ((slotOf s + 1 + n) % 11) :=
      mayRun_congr rfl (by rw [getCore_modCtx, if_pos rfl]) (by rw [hx])
    rw [hx, hm]
  · rw [List.map_singleton, hlast, List.find?_singleton, getCtx_modCtx_self]
    exact if_congr (by simp [me]) rfl rfl

/-- A core whose table of contexts and running slot alone have changed. -/
theorem core_of_update {c c' : Core} {l : Tbl Ctx} {k : Nat} (h : c' = { c with ctx := l, slot := k }) : c' = { c with ctx := c'.ctx, slot := c'.slot } := by
  rw [h]

/-- A core whose running context no longer runs is idle. -/
theorem busy_left {s : State} {f : Ctx → Ctx} (hf : (f (me s)).mode ≠ .running) : busy (getCore (modCtx s s.cur (slotOf s) f) s.cur) = false := by
  have : tget {} (getCore (modCtx s s.cur (slotOf s) f) s.cur).ctx (getCore (modCtx s s.cur (slotOf s) f) s.cur).slot = f (me s) := by
    rw [getCore_modCtx, if_pos rfl]
    exact tget_tput_self ..
  rw [busy, this]
  simpa using hf

/-- A running context that leaves the core: the core passes on. One that stays READY leaves it only where another can run. -/
theorem passedOn_of_left {s : State} {f : Ctx → Ctx} (hslot : slotOf s < 11) (hrun : (getCore s s.cur).run = true) (hf : (f (me s)).mode ≠ .running)
    (hstay : (f (me s)).mode = .ready → nextOther s ≠ none) :
    Rules.PassedOn s (settle (modCtx s s.cur (slotOf s) f) s.cur) (f (me s)) := by
  obtain ⟨u, hu⟩ : ∃ u, u = modCtx s s.cur (slotOf s) f := ⟨_, rfl⟩
  have hcore : getCore u s.cur = { getCore s s.cur with ctx := (getCore u s.cur).ctx } := by rw [hu, getCore_modCtx, if_pos rfl]
  have hown : getCtx u s.cur (slotOf s) = f (me s) := by rw [hu, getCtx_modCtx_self]; rfl
  have hother (j : Nat) (hj : j ≠ slotOf s) : getCtx u s.cur j = getCtx s s.cur j := by rw [hu, getCtx_modCtx, if_neg fun e => hj e.2]
  have hcores (h : Nat) (hh : h ≠ s.cur) : getCore (settle u s.cur) h = getCore s h := by
    rw [getCore_settle_of_ne hh, hu, getCore_modCtx, if_neg hh]
  have hnext := nextReady_left hslot f
  have hrest : settle u s.cur = { s with cores := (settle u s.cur).cores } := by rw [settle_rest, hu]; rfl
  rw [← hu] at hnext ⊢
  cases hn : nextOther s with
  | none =>
    have hs : settle u s.cur = u := settle_idles (by rw [hnext, hn, if_neg fun h => hstay h.1 hn]; rfl)
    have hsl : (getCore u s.cur).slot = slotOf s := by rw [hcore]; rfl
    rw [hs] at hcores hrest ⊢
    refine ⟨hrest, hcores, core_of_update hcore, hown, fun k hk => ?_, fun _ => hsl, fun j hj _ => hother j hj⟩
    exact absurd (hn.symm.trans hk) (by simp)
  | some k =>
    obtain ⟨hk, hne, hready, hmay⟩ := nextOther_some hn
    have hidle : busy (getCore u s.cur) = false := hu ▸ busy_left hf
    obtain ⟨hc, hx⟩ := settle_picked (s := u) (g := s.cur) (by rw [hcore]; exact hrun) hidle (by rw [hnext, hn]; rfl)
    have hsl : (getCore (settle u s.cur) s.cur).slot = k := by rw [hc]
    have hc' : getCore (settle u s.cur) s.cur = { getCore s s.cur with ctx := (getCore (settle u s.cur) s.cur).ctx, slot := k } := by
      conv_lhs => rw [hc, hcore]
    refine ⟨hrest, hcores, core_of_update hc', ?_, fun k' hk' => ?_, fun hall => ?_, fun j hj hjk => ?_⟩
    · rw [hx, if_neg (Ne.symm hne), hown]
    · obtain rfl : k = k' := Option.some.inj (hn.symm.trans hk')
      exact ⟨hsl, by rw [hx, if_pos rfl, hother k hne]⟩
    · rw [hall k hk hne hready] at hmay
      cases hmay
    · rw [hx, if_neg (hsl ▸ hjk), hother j hj]

/-- A running context that leaves the core in a mode of its own. -/
theorem switchOut_passedOn {s : State} {i : Instr} (hr : ready s i = true) (hslot : slotOf s < 11) {m : Mode} (hm : m ≠ .running) (hm' : m ≠ .ready) :
    Rules.PassedOn s (switchOut s s.cur (slotOf s) m) { me s with mode := m } := by
  obtain ⟨hrun, hmode⟩ := running_of_ready hr
  have he : switchOut s s.cur (slotOf s) m = settle (modCtx s s.cur (slotOf s) fun c => { c with mode := m }) s.cur :=
    if_pos (beq_iff_eq.2 hmode)
  rw [he]
  exact passedOn_of_left hslot hrun hm fun h => absurd h hm'

end Sys2Proof.Machine


/-!
PROOFS. Helpers and `yield` (O8): starting, ending and joining them, and passing the core on (R127–R130).
-/
namespace Sys2Proof.Machine

/-! ### Updates one after another -/

theorem tdel_tins {α : Type} (k : Nat) (v : α) (t : Tbl α) : tdel (tins k v t) k = tdel t k := by
  induction t with
  | nil => simp [tins, tdel]
  | cons e t ih =>
    unfold tins
    split
    · simp [tdel]
    · have ih' : List.filter (fun e => decide (e.1 ≠ k)) (tins k v t) = List.filter (fun e => decide (e.1 ≠ k)) t := ih
      simp only [tdel, List.filter_cons, ih']

/-- A key set twice. -/
theorem tput_tput {α : Type} (t : Tbl α) (k : Nat) (v w : α) : tput (tput t k v) k w = tput t k w := by
  have : tdel (tput t k v) k = tdel t k := by
    rw [tput, tdel_tins, tdel, tdel, List.filter_filter]
    simp
  rw [tput, this, ← tput]

theorem modCore_modCore (s : State) (g : Nat) (f e : Core → Core) : modCore (modCore s g f) g e = modCore s g fun c => e (f c) := by
  have : getCore (modCore s g f) g = f (getCore s g) := getCore_modCore_self s g f
  rw [modCore, this]
  simp only [modCore, putCore, tput_tput]

theorem modCtx_eq_modCore (s : State) (g k : Nat) (f : Ctx → Ctx) :
    modCtx s g k f = modCore s g fun c => { c with ctx := tput c.ctx k (f (tget {} c.ctx k)) } := rfl

/-- Two updates of one context are one update. -/
theorem modCtx_twice (s : State) (g k : Nat) (f e : Ctx → Ctx) : modCtx (modCtx s g k f) g k e = modCtx s g k fun x => e (f x) := by
  simp only [modCtx_eq_modCore, modCore_modCore, tput_tput, tget_tput_self]

theorem modCtx_eq_putCtx {s : State} {g k : Nat} {x : Ctx} (h : getCtx s g k = x) (f : Ctx → Ctx) : modCtx s g k f = putCtx s g k (f x) := by
  rw [modCtx, h]

/-! ### Another slot beside the running one -/

theorem MemSame.of_cores {s r t : State} (h : MemSame s r) (ht : t = { r with cores := t.cores }) : MemSame s t := by
  refine ⟨by rw [ht, h.rest], fun key a => ?_, fun e he => ?_⟩
  · rw [← h.bytes, ht]
    rfl
  · rw [ht] at he
    exact h.parity e he

theorem MemSame.of_onlyCores {s t : State} (h : t = { s with cores := t.cores }) : MemSame s t :=
  MemSame.of_cores ⟨rfl, fun _ _ => rfl, fun _ he => he⟩ h

/-- An instruction that retires and, beside that, gives another slot a new context. -/
theorem RegisterOnly.andSlot {s r : State} {pc : Code} {ws : List (Reg × Word)} (hr : RegisterOnly s r pc ws) {h : Nat} (hh : h ≠ slotOf s) (x : Ctx) :
    Retired s (putCtx r s.cur h x) pc ws ∧ MemSame s (putCtx r s.cur h x) ∧ OnlySlots s (putCtx r s.cur h x) [slotOf s, h] ∧
      getCtx (putCtx r s.cur h x) s.cur h = x := by
  have he : putCtx r s.cur h x = modCtx r s.cur h fun _ => x := rfl
  have hown : getCtx (putCtx r s.cur h x) s.cur (slotOf s) = getCtx r s.cur (slotOf s) := by rw [he, getCtx_modCtx, if_neg fun e => hh e.2.symm]
  refine ⟨⟨by rw [hown]; exact hr.retired.ctx, fun q => by rw [hown]; exact hr.retired.regs q⟩, hr.same.of_cores rfl,
    ⟨fun g hg => ?_, ?_, fun j hj => ?_⟩, ?_⟩
  · rw [he, getCore_modCtx, if_neg hg, hr.only.others g hg]
  · have hc : getCore (putCtx r s.cur h x) s.cur = { getCore r s.cur with ctx := (getCore (putCtx r s.cur h x) s.cur).ctx } := by
      rw [he, getCore_modCtx, if_pos rfl]
    conv_lhs => rw [hc, hr.only.core]
  · have hj' : j ≠ slotOf s ∧ j ≠ h := by simpa using hj
    rw [he, getCtx_modCtx, if_neg fun e => hj'.2 e.2, hr.only.slots j (by simp [hj'.1])]
  · rw [he, getCtx_modCtx_self]

/-! ### `hstart` and `hjoin` (R127, R129) -/

theorem freeSlot_some {s : State} {g n h : Nat} (h1 : 1 ≤ h) (hn : h ≤ n) (hf : (getCtx s g h).mode = .free)
    (hlow : ∀ j, 1 ≤ j → j < h → (getCtx s g j).mode ≠ .free) : freeSlot s g n = some h := by
  rw [freeSlot, upFrom_eq_range', List.find?_range'_eq_some]
  refine ⟨beq_iff_eq.2 hf, List.mem_range'_1.2 ⟨h1, by omega⟩, fun j h1 h2 => ?_⟩
  simpa using hlow j h1 h2

theorem freeSlot_none {s : State} {g n : Nat} (h : ∀ j, 1 ≤ j → j ≤ n → (getCtx s g j).mode ≠ .free) : freeSlot s g n = none := by
  rw [freeSlot, List.find?_eq_none]
  intro j hj
  rw [mem_upFrom] at hj
  simpa using h j hj.1 (by omega)

theorem newHelper_eq (s : State) (imm : Int) (x0 : Word) : newHelper (me s) (target (me s).pc imm) x0 =
    { mode := .ready, kind := .helper, pc := (me s).pc + BitVec.ofInt 16 (2 * imm), x := tset 0 [] 0 x0
      priv := BitVec.ofNat 64 (fget F.ten (me s).priv * 2 ^ 16), strm := (me s).strm } := by
  have hp : fput F.ten (0 : Word) (fget F.ten (me s).priv) = BitVec.ofNat 64 (fget F.ten (me s).priv * 2 ^ 16) := by
    have : fget F.ten (me s).priv % 2 ^ 12 = fget F.ten (me s).priv := Nat.mod_mod _ _
    apply BitVec.eq_of_toNat_eq
    simp [fput, F.ten, fget]
  rw [newHelper, hp]
  rfl

section
variable {s : State} {p : Pfx} {d a : Reg} {imm : Int}

/-- A slot that is FREE or ENDED does not run. -/
theorem slot_ne_of_mode {i : Instr} (hr : ready s i = true) {h : Nat} {m : Mode} (hm : (getCtx s s.cur h).mode = m) (hne : m ≠ .running) : h ≠ slotOf s := by
  rintro rfl
  exact hne (hm.symm.trans (running_of_ready hr).2)

theorem hstart_starts (hr : ready s (.hstart p d a imm) = true) {h : Nat} (h1 : 1 ≤ h) (hn : h ≤ (getCore s s.cur).helpers)
    (hf : (getCtx s s.cur h).mode = .free) (hlow : ∀ j, 1 ≤ j → j < h → (getCtx s s.cur j).mode ≠ .free) :
    ∃ t, exec (.hstart p d a imm) s = .next t ∧ Retired s t (nextOf s (.hstart p d a imm)) [(d, BitVec.ofNat 64 h)] ∧ MemSame s t ∧
      OnlySlots s t [slotOf s, h] ∧ getCtx t s.cur h =
        { mode := .ready, kind := .helper, pc := (me s).pc + BitVec.ofInt 16 (2 * imm), x := tset 0 [] 0 (xreg s a)
          priv := BitVec.ofNat 64 (fget F.ten (me s).priv * 2 ^ 16), strm := (me s).strm } := by
  have hreg := retireTo_plain (s := s) (.hstart p d a imm) (ws := [(d, BitVec.ofNat 64 h)]) (nextOf s (.hstart p d a imm)) (portMode_of_ready hr) (by simp)
  rw [← newHelper_eq, ← readX_ready hr]
  refine ⟨_, rfl, ?_⟩
  rw [issue_done hr (by simp only [freeSlot_some h1 hn hf hlow]; rfl)]
  exact hreg.andSlot (slot_ne_of_mode hr hf (by simp)) _

theorem hstart_full (hr : ready s (.hstart p d a imm) = true) (hf : ∀ j, 1 ≤ j → j ≤ (getCore s s.cur).helpers → (getCtx s s.cur j).mode ≠ .free) :
    ∃ t, exec (.hstart p d a imm) s = .next t ∧ RegisterOnly s t (nextOf s (.hstart p d a imm)) [(d, 0)] :=
  ⟨_, rfl, issue_retires hr (by simp only [freeSlot_none hf]; rfl)⟩

/-- What `hjoin` asks of the slot that it names. -/
def noHelper (s : State) (h : Nat) : Prop := h < 1 ∨ 10 < h ∨ (getCtx s s.cur h).mode = .free ∨ (getCtx s s.cur h).kind = .drain

theorem hjoin_none (hr : ready s (.hjoin p d a) = true) (h : noHelper s (xreg s a).toNat) :
    ∃ t, exec (.hjoin p d a) s = .next t ∧ RegisterOnly s t (nextOf s (.hjoin p d a)) [(d, 0)] := by
  unfold noHelper at h
  refine ⟨_, rfl, issue_retires hr ?_⟩
  simp only [readX_ready hr, if_pos h]
  rfl

theorem hjoin_collects (hr : ready s (.hjoin p d a) = true) {h : Nat} (hh : h = (xreg s a).toNat) (hn : ¬ noHelper s h)
    (he : (getCtx s s.cur h).mode = .ended) :
    ∃ t, exec (.hjoin p d a) s = .next t ∧ Retired s t (nextOf s (.hjoin p d a)) [(d, (getCtx s s.cur h).result)] ∧ MemSame s t ∧
      OnlySlots s t [slotOf s, h] ∧ getCtx t s.cur h = { getCtx s s.cur h with mode := .free } := by
  have hreg := retireTo_plain (s := s) (.hjoin p d a) (ws := [(d, (getCtx s s.cur h).result)]) (nextPc s s.cur (slotOf s) (.hjoin p d a))
    (portMode_of_ready hr) (by simp)
  have hne := slot_ne_of_mode hr he (by simp)
  have hx := hreg.only.slots h (by simp [hne])
  refine ⟨_, rfl, ?_⟩
  unfold noHelper at hn
  rw [issue_done hr (by simp only [readX_ready hr, ← hh, if_neg hn, if_pos he]; rfl), modCtx_eq_putCtx hx]
  exact hreg.andSlot hne _

theorem hjoin_blocks (hr : ready s (.hjoin p d a) = true) (hslot : slotOf s < 11) {h : Nat} (hh : h = (xreg s a).toNat) (hn : ¬ noHelper s h)
    (he : (getCtx s s.cur h).mode ≠ .ended) :
    ∃ t, exec (.hjoin p d a) s = .next t ∧ Rules.PassedOn s t { me s with mode := .blockedJoin h } := by
  refine ⟨_, rfl, ?_⟩
  unfold noHelper at hn
  rw [issue_done hr (by simp only [readX_ready hr, ← hh, if_neg hn, if_neg he]; rfl)]
  exact switchOut_passedOn hr hslot (by simp) (by simp)

end

end Sys2Proof.Machine


/-!
PROOFS. `hend` and `yield` (O8): a context that leaves the core after its instruction (R128, R130).
-/
namespace Sys2Proof.Machine

/-! ### Leaving the core and waking -/

theorem switchOut_of_running {s : State} {g k : Nat} (h : (getCtx s g k).mode = .running) (m : Mode) :
    switchOut s g k m = settle (modCtx s g k fun c => { c with mode := m }) g :=
  if_pos (beq_iff_eq.2 h)

/-- A RUNNING context that changes and then leaves. -/
theorem switchOut_modCtx {s : State} {g k : Nat} {f : Ctx → Ctx} (h : (f (getCtx s g k)).mode = .running) (m : Mode) :
    switchOut (modCtx s g k f) g k m = settle (modCtx s g k fun c => { f c with mode := m }) g := by
  rw [switchOut_of_running (by rw [getCtx_modCtx_self]; exact h), modCtx_twice]

theorem switchOut_rest (s : State) (g k : Nat) (m : Mode) : switchOut s g k m = { s with cores := (switchOut s g k m).cores } := by
  unfold switchOut
  extract_lets t
  have ht : OnlyCores s t := rfl
  split
  · exact ht.trans (settle_rest t g)
  · exact ht

/-- The slot that left is in the mode given it, where that is not READY. -/
theorem getCtx_switchOut_self {s : State} {g k : Nat} {m : Mode} (hm : m ≠ .ready) : getCtx (switchOut s g k m) g k = { getCtx s g k with mode := m } := by
  have hown : getCtx (modCtx s g k fun c => { c with mode := m }) g k = { getCtx s g k with mode := m } := getCtx_modCtx_self s g k _
  unfold switchOut
  extract_lets t
  split
  · rw [getCtx_settle fun _ => by rw [hown]; exact hm, hown]
  · exact hown

/-- A slot that the core passes to runs; every other is left as it is. -/
theorem settle_mode (s : State) (g j : Nat) : getCtx (settle s g) g j = getCtx s g j ∨ (getCtx (settle s g) g j).mode = .running := by
  rcases settle_cases s g with e | ⟨k, _, _, e⟩ <;> rw [e]
  · exact .inl rfl
  · rw [getCtx, getCore_modCore_self, tget_tput]
    split
    · exact .inr rfl
    · exact .inl rfl

theorem getCtx_wake (s : State) (g k h j : Nat) :
    getCtx (wake s g k) h j = if h = g ∧ j = k then { getCtx s g k with mode := .ready } else getCtx s h j :=
  getCtx_modCtx s g k h j _

/-- The contexts that pass the test are READY, and every other one is as it was. -/
theorem getCtx_wakeEach (s : State) (g j : Nat) (p : Mode → Bool) (l : List Nat) :
    getCtx (l.foldl (fun s k => if p (getCtx s g k).mode then wake s g k else s) s) g j =
      if j ∈ l ∧ p (getCtx s g j).mode = true then { getCtx s g j with mode := .ready } else getCtx s g j := by
  induction l generalizing s with
  | nil => simp
  | cons k l ih =>
    rw [List.foldl_cons, ih]
    by_cases hk : p (getCtx s g k).mode = true
    · rw [if_pos hk, getCtx_wake]
      by_cases hj : j = k
      · subst hj
        simp [hk]
      · simp [hj]
    · rw [if_neg hk]
      by_cases hj : j = k
      · subst hj
        simp [hk]
      · simp [hj]

theorem getCtx_wakeIf {s : State} {g j : Nat} (hj : j < 11) (p : Mode → Bool) :
    getCtx (wakeIf s g p) g j = if p (getCtx s g j).mode = true then { getCtx s g j with mode := .ready } else getCtx s g j := by
  have hmem : j ∈ upFrom 0 11 := (mem_upFrom 0 11 j).2 (by omega)
  rw [wakeIf, getCtx_wakeEach]
  simp only [hmem, true_and]

theorem getCore_wakeIf_of_ne {s : State} {g h : Nat} (hh : h ≠ g) (p : Mode → Bool) : getCore (wakeIf s g p) h = getCore s h := by
  refine foldl_keeps (fun t => getCore t h = getCore s h) _ (fun t k ht => ?_) (upFrom 0 11) s rfl
  split
  · exact (getCore_modCtx t g k h _).trans (by rw [if_neg hh, ht])
  · exact ht

/-- Nothing passes the test: nothing happens. -/
theorem wakeIf_none {s : State} {g : Nat} {p : Mode → Bool} (h : ∀ j, j < 11 → p (getCtx s g j).mode = false) : wakeIf s g p = s := by
  have (l : List Nat) (hl : ∀ j ∈ l, j < 11) : l.foldl (fun s k => if p (getCtx s g k).mode then wake s g k else s) s = s := by
    induction l with
    | nil => rfl
    | cons k l ih =>
      rw [List.foldl_cons, h k (hl k (by simp))]
      exact ih fun j hj => hl j (by simp [hj])
  exact this _ fun j hj => by have := (mem_upFrom 0 11 j).1 hj; omega

/-- A context sends a message and leaves the core. -/
theorem switchOut_sendFrom (s : State) (src : Nat) (slots : List Nat) (cls : Nat) (route : Route) (home dst : Nat) (body : Body) (g k : Nat) {m : Mode}
    (hm : m ≠ .ready) :
    ∃ msg : Msg, msg.id = s.nextId ∧ msg.cls = cls ∧ msg.route = route ∧ msg.dst = dst ∧ msg.body = body ∧
      (switchOut (sendFrom s src slots cls route home dst none body) g k m).net = s.net ++ [msg] ∧
      (switchOut (sendFrom s src slots cls route home dst none body) g k m).mem = s.mem ∧
      (getCtx (switchOut (sendFrom s src slots cls route home dst none body) g k m) g k).mode = m := by
  rw [getCtx_switchOut_self hm, switchOut_rest]
  exact ⟨_, rfl, rfl, rfl, rfl, rfl, rfl, rfl, rfl⟩

/-! ### `hend` (R128) -/

/-- An instruction whose context has no earlier write to wait for goes on at once. -/
theorem releaseThen_quiet {s : State} {scope : Nat} (h : quiet s scope = true) (next : State → Eff) :
    releaseThen s s.cur (slotOf s) scope next = next s := by
  simp only [quiet, Bool.and_eq_true, Bool.not_eq_true'] at h
  rw [releaseThen, h.1, h.2]
  rfl

/-- The helper as `hend` leaves it. -/
def endedCtx (pc : Code) (v : Word) (x : Ctx) : Ctx := { x with mode := .ended, result := v, pc := pc, instret := x.instret + 1, begun := false }

theorem endHelper_eq {s : State} {i : Instr} (hr : ready s i = true) (pc : Code) (v : Word) :
    endHelper (retireTo s s.cur (slotOf s) i [] pc) s.cur (slotOf s) v =
      wakeIf (settle (modCtx s s.cur (slotOf s) (endedCtx pc v)) s.cur) s.cur fun m => m == .blockedJoin (slotOf s) := by
  rw [retireTo_nil (portMode_of_ready hr), endHelper, modCtx_twice, switchOut_modCtx (running_of_ready hr).2]
  rfl

section
variable {s : State} {p : Pfx} {a : Reg}

theorem hend_helper (hr : ready s (.hend p a) = true) (hk : (me s).kind = .helper) (hq : quiet s 4 = true) :
    exec (.hend p a) s = .next (wakeIf (settle (modCtx s s.cur (slotOf s) (endedCtx (nextOf s (.hend p a)) (xreg s a))) s.cur) s.cur
      fun m => m == .blockedJoin (slotOf s)) := by
  have hk' : (getCtx s s.cur (slotOf s)).kind = .helper := hk
  rw [← endHelper_eq hr, ← readX_ready hr]
  exact congrArg Host.Outcome.next (issue_done hr (by rw [releaseThen_quiet hq]; simp only [hk']; rfl))

theorem hend_unjoined (hr : ready s (.hend p a) = true) (hslot : slotOf s < 11) (hk : (me s).kind = .helper) (hq : quiet s 4 = true)
    (hj : ∀ j, j < 11 → (getCtx s s.cur j).mode ≠ .blockedJoin (slotOf s)) :
    ∃ t, exec (.hend p a) s = .next t ∧ Rules.PassedOn s t (endedCtx (nextOf s (.hend p a)) (xreg s a) (me s)) := by
  refine ⟨_, hend_helper hr hk hq, ?_⟩
  rw [wakeIf_none fun j hlt => ?_]
  · exact passedOn_of_left hslot (running_of_ready hr).1 (by simp [endedCtx]) (by simp [endedCtx])
  · rw [beq_eq_false_iff_ne]
    rcases settle_mode (modCtx s s.cur (slotOf s) (endedCtx (nextOf s (.hend p a)) (xreg s a))) s.cur j with h | h
    · rw [h, getCtx_modCtx]
      split
      · simp [endedCtx]
      · exact hj j hlt
    · rw [h]
      simp

theorem hend_joined (hr : ready s (.hend p a) = true) (hslot : slotOf s < 11) (hk : (me s).kind = .helper) (hq : quiet s 4 = true) :
    ∃ t, exec (.hend p a) s = .next t ∧ t = { s with cores := t.cores } ∧ (∀ h, h ≠ s.cur → getCore t h = getCore s h) ∧
      getCtx t s.cur (slotOf s) = endedCtx (nextOf s (.hend p a)) (xreg s a) (me s) ∧
      ∀ j, j < 11 → (getCtx s s.cur j).mode = .blockedJoin (slotOf s) → getCtx t s.cur j = { getCtx s s.cur j with mode := .ready } := by
  refine ⟨_, hend_helper hr hk hq, ?_⟩
  have hleft (j : Nat) (hm : (getCtx s s.cur j).mode = .blockedJoin (slotOf s)) :
      getCtx (settle (modCtx s s.cur (slotOf s) (endedCtx (nextOf s (.hend p a)) (xreg s a))) s.cur) s.cur j = getCtx s s.cur j := by
    have hne : j ≠ slotOf s := slot_ne_of_mode hr hm (by simp)
    have hx : getCtx (modCtx s s.cur (slotOf s) (endedCtx (nextOf s (.hend p a)) (xreg s a))) s.cur j = getCtx s s.cur j := by
      rw [getCtx_modCtx, if_neg fun e => hne e.2]
    rw [getCtx_settle fun _ => by rw [hx, hm]; simp, hx]
  have hown : getCtx (settle (modCtx s s.cur (slotOf s) (endedCtx (nextOf s (.hend p a)) (xreg s a))) s.cur) s.cur (slotOf s) =
      endedCtx (nextOf s (.hend p a)) (xreg s a) (me s) := by
    rw [getCtx_settle fun _ => by rw [getCtx_modCtx_self]; simp [endedCtx], getCtx_modCtx_self]
    rfl
  have hrest := settle_rest (modCtx s s.cur (slotOf s) (endedCtx (nextOf s (.hend p a)) (xreg s a))) s.cur
  refine ⟨OnlyCores.trans (s := s) hrest (wakeIf_onlyCores _ _ _), fun h hh => ?_, ?_, fun j hlt hm => ?_⟩
  · rw [getCore_wakeIf_of_ne hh, getCore_settle_of_ne hh, getCore_modCtx, if_neg hh]
  · rw [getCtx_wakeIf hslot, hown]
    exact if_neg (by simp [endedCtx])
  · rw [getCtx_wakeIf hlt, hleft j hm, hm]
    exact if_pos (by simp)

/-- A migrant's result sets out to its origin. -/
theorem hend_migrant {o k : Nat} {image : Word} {q : Option Nat} (hr : ready s (.hend p a) = true) (hk : (me s).kind = .migrant o k image q)
    (hq : quiet s 4 = true) :
    ∃ t m, exec (.hend p a) s = .next t ∧ t.net = s.net ++ [m] ∧ t.mem = s.mem ∧ m.body = .result o k q (xreg s a) ∧ m.dst = modOf o ∧
      (getCtx t s.cur (slotOf s)).mode = .free := by
  have hk' : (getCtx s s.cur (slotOf s)).kind = .migrant o k image q := hk
  obtain ⟨m, -, -, -, hdst, hbody, hnet, hmem, hmode⟩ :=
    switchOut_sendFrom (modCtx (retireTo s s.cur (slotOf s) (.hend p a) [] (nextOf s (.hend p a))) s.cur (slotOf s) fun x => { x with kind := .helper })
      s.cur [slotOf s] 1 .ordered (16 * o + 6) (modOf o) (.result o k q (xreg s a)) s.cur (slotOf s) (m := .free) (by simp)
  refine ⟨_, m, congrArg Host.Outcome.next (issue_done hr ?_), ?_, ?_, hbody, hdst, hmode⟩
  · rw [releaseThen_quiet hq]
    simp only [hk', readX_ready hr]
    rfl
  · rw [hnet, retireTo_nil (portMode_of_ready hr)]
    rfl
  · rw [hmem, retireTo_nil (portMode_of_ready hr)]
    rfl

/-! ### `yield` (R130) -/

/-- The context as `yield` leaves it. -/
def yieldedCtx (pc : Code) (x : Ctx) : Ctx := { x with pc := pc, instret := x.instret + 1, begun := false, mode := .ready }

theorem yield_eq {p : Pfx} (hr : ready s (.yield p) = true) :
    exec (.yield p) s = .next (settle (modCtx s s.cur (slotOf s) (yieldedCtx (nextOf s (.yield p)))) s.cur) := by
  refine congrArg Host.Outcome.next (issue_done hr ?_)
  rw [retireTo_nil (portMode_of_ready hr), switchOut_modCtx (running_of_ready hr).2]
  rfl

theorem mayRun_of_not_preempting {g k : Nat} (h : (getCore s g).preempting = false) : mayRun s g k = true := by
  rw [mayRun, h]
  rfl

/-- No other context can run: the one that yielded runs on. -/
theorem yield_goesOn {p : Pfx} (hr : ready s (.yield p) = true) (hslot : slotOf s < 11) (hnone : ∀ j, j < 11 → (getCtx s s.cur j).mode ≠ .ready)
    (hpre : (getCore s s.cur).preempting = false) :
    ∃ t, exec (.yield p) s = .next t ∧ RegisterOnly s t (nextOf s (.yield p)) [] := by
  obtain ⟨hrun, hmode⟩ := running_of_ready hr
  refine ⟨_, yield_eq hr, ?_⟩
  obtain ⟨u, hu⟩ : ∃ u, u = modCtx s s.cur (slotOf s) (yieldedCtx (nextOf s (.yield p))) := ⟨_, rfl⟩
  have hcore : getCore u s.cur = { getCore s s.cur with ctx := (getCore u s.cur).ctx } := by rw [hu, getCore_modCtx, if_pos rfl]
  have hown : getCtx u s.cur (slotOf s) = yieldedCtx (nextOf s (.yield p)) (me s) := by rw [hu, getCtx_modCtx_self]; rfl
  have hother : nextOther s = none := by
    cases h : nextOther s with
    | none => rfl
    | some k =>
      obtain ⟨hk, -, hm, -⟩ := nextOther_some h
      exact absurd hm (hnone k hk)
  have hnext : nextReady u s.cur = some (slotOf s) := by
    have hmay : mayRun u s.cur (slotOf s) = true := mayRun_of_not_preempting (by rw [hcore]; exact hpre)
    rw [hu] at hmay ⊢
    rw [nextReady_left hslot, hother, if_pos ⟨rfl, hmay⟩]
    rfl
  have hidle : busy (getCore u s.cur) = false := hu ▸ busy_left (by simp [yieldedCtx])
  obtain ⟨hc, hx⟩ := settle_picked (s := u) (g := s.cur) (by rw [hcore]; exact hrun) hidle hnext
  have hrest : settle u s.cur = { s with cores := (settle u s.cur).cores } := by rw [settle_rest, hu]; rfl
  rw [← hu]
  have hself : getCtx (settle u s.cur) s.cur (slotOf s) = { me s with pc := nextOf s (.yield p), instret := (me s).instret + 1, begun := false } := by
    rw [hx, if_pos rfl, hown, yieldedCtx, ← hmode]
  refine ⟨⟨fun h hh => ?_, ?_, fun j hj => ?_⟩, ⟨by rw [hself], fun r => by rw [hself]; rfl⟩, MemSame.of_onlyCores hrest⟩
  · rw [getCore_settle_of_ne hh, hu, getCore_modCtx, if_neg hh]
  · conv_lhs => rw [hc, hcore]
    rfl
  · have hj' : j ≠ slotOf s := by simpa using hj
    rw [hx, if_neg hj', hu, getCtx_modCtx, if_neg fun e => hj' e.2]

/-- Another context is READY: the core passes on. -/
theorem yield_passesOn {p : Pfx} (hr : ready s (.yield p) = true) (hslot : slotOf s < 11) (hsome : ∃ j, j < 11 ∧ (getCtx s s.cur j).mode = .ready)
    (hpre : (getCore s s.cur).preempting = false) :
    ∃ t, exec (.yield p) s = .next t ∧ Rules.PassedOn s t (yieldedCtx (nextOf s (.yield p)) (me s)) := by
  refine ⟨_, yield_eq hr, passedOn_of_left hslot (running_of_ready hr).1 (by simp [yieldedCtx]) fun _ hnone => ?_⟩
  obtain ⟨j, hj, hm⟩ := hsome
  have := nextOther_none hslot hnone hj (slot_ne_of_mode hr hm (by simp)) hm
  rw [mayRun_of_not_preempting hpre] at this
  cases this

end

/-! ### The obligation -/

/-- Settles O8: `clockEnd_occupied` for the end of a clock, `settle_picked` for what a core passes to, and a lemma for each outcome of `hstart`, `hjoin`,
`hend` and `yield`. -/
theorem contextsStartEndJoinAndYield : Obligations.ContextsStartEndJoinAndYield := by
  refine ⟨fun s g k hrun hidle => clockEnd_occupied s g hrun hidle k, fun s g k hrun hidle hk => ?_, fun s p d a imm hslot => ?_⟩
  · obtain ⟨hc, hx⟩ := settle_picked hrun hidle ((nextReady_eq s g).trans hk)
    exact ⟨hc, hx, fun h hh => getCore_settle_of_ne hh⟩
  refine ⟨fun hr h h1 hn hf hlow => hstart_starts hr h1 hn hf hlow, fun hr hf => hstart_full hr hf, fun hr => ?_,
    fun hr hk hq hj => hend_unjoined hr hslot hk hq hj, fun hr hk hq => ?_, fun o k image q hr hk hq => hend_migrant hr hk hq, fun hr => ?_⟩
  · refine ⟨fun h => hjoin_none hr h, fun h1 h10 he hk => hjoin_collects hr rfl ?_ he, fun h1 h10 hf he hk => hjoin_blocks hr hslot rfl ?_ he⟩
    · rintro (h | h | h | h)
      · omega
      · omega
      · rw [he] at h; cases h
      · exact hk h
    · rintro (h | h | h | h)
      · omega
      · omega
      · exact hf h
      · exact hk h
  · obtain ⟨t, he, hrest, hothers, hown, hwoken⟩ := hend_joined hr hslot hk hq
    exact ⟨t, he, hrest, hothers, hown, fun j hj hm => by rw [hwoken j hj hm]; exact ⟨rfl, .inl rfl⟩⟩
  · exact ⟨fun hnone hpre => yield_goesOn hr hslot hnone hpre, fun hsome hpre => yield_passesOn hr hslot hsome hpre⟩

end Sys2Proof.Machine


/-!
PROOFS. Events and the control of cores by instructions (O9): `wfe`, `sev`, `cstart`, `cstop`, `finv` and `rng` (R135–R139).
-/
namespace Sys2Proof.Machine

/-! ### An instruction that retires and changes a core beside its contexts -/

theorem Retired.of_ctx {s r t : State} {pc : Code} {ws : List (Reg × Word)} (h : Retired s r pc ws)
    (ht : getCtx t s.cur (slotOf s) = getCtx r s.cur (slotOf s)) : Retired s t pc ws :=
  ⟨by rw [ht]; exact h.ctx, fun q => by rw [ht]; exact h.regs q⟩

theorem RegisterOnly.thenCore {s r : State} {pc : Code} {ws : List (Reg × Word)} (hr : RegisterOnly s r pc ws) {f : Core → Core}
    (hf : ∀ c, (f c).ctx = c.ctx) (g : Nat) : Retired s (modCore r g f) pc ws ∧ MemSame s (modCore r g f) :=
  ⟨hr.retired.of_ctx (getCtx_modCore r g _ _ f hf), hr.same.of_cores rfl⟩

/-! ### Events (R135) -/

theorem evNext_setEvent (s : State) (g h : Nat) : (getCore (setEvent s g) h).evNext = if h = g then true else (getCore s h).evNext := by
  rw [setEvent, getCore_modCore]
  split <;> rfl

theorem evNext_setEvents (l : List Nat) (s : State) (h : Nat) :
    (getCore (l.foldl setEvent s) h).evNext = if h ∈ l then true else (getCore s h).evNext := by
  induction l generalizing s with
  | nil => rfl
  | cons g l ih =>
    rw [List.foldl_cons, ih, evNext_setEvent]
    by_cases hl : h ∈ l <;> simp [hl]

theorem getCtx_setEvents (l : List Nat) (s : State) (g k : Nat) : getCtx (l.foldl setEvent s) g k = getCtx s g k :=
  foldl_keeps (fun t => getCtx t g k = getCtx s g k) setEvent (fun t h ht => (getCtx_modCore t h g k (fun c => { c with evNext := true }) fun _ => rfl).trans ht) l s rfl

theorem setEvents_onlyCores (l : List Nat) (s : State) : OnlyCores s (l.foldl setEvent s) :=
  foldl_keeps (OnlyCores s) setEvent (fun _ _ ht => ht.trans rfl) l s rfl

/-- An event that is due sets EV at the end of the clock, where nothing waits for it. -/
theorem coreClockEnd_ev {s : State} {g : Nat} (h : (getCore s g).evNext = true) (hw : ∀ x ∈ (getCore s g).ctx, x.2.mode ≠ .blockedEvent) :
    (getCore (coreClockEnd s g) g).ev = true := by
  have hc : getCore (modCore s g fun c => { takeDeposits c with ev := c.ev || c.evNext, evNext := false }) g =
      { takeDeposits (getCore s g) with ev := (getCore s g).ev || (getCore s g).evNext, evNext := false } := getCore_modCore_self s g _
  have hany : ((getCore s g).ctx.any fun x => x.2.mode == .blockedEvent) = false := by
    rw [List.any_eq_false]
    exact fun x hx => by simpa using hw x hx
  rw [coreClockEnd, eventWake, hc]
  simp only [takeDeposits, hany, Bool.and_false, Bool.false_eq_true, if_false, getCore_modCore_self, h, Bool.or_true]

section
variable {s : State} {p : Pfx} {d a b : Reg}

theorem wfe_consumes (hr : ready s (.wfe p) = true) (hev : (getCore s s.cur).ev = true) :
    ∃ t, exec (.wfe p) s = .next t ∧ Retired s t (nextOf s (.wfe p)) [] ∧ MemSame s t ∧ (getCore t s.cur).ev = false := by
  refine ⟨_, congrArg Host.Outcome.next (issue_done hr (by rw [if_pos hev])), ?_⟩
  obtain ⟨hret, hsame⟩ := (retireTo_plain (.wfe p) (ws := []) (nextOf s (.wfe p)) (portMode_of_ready hr) (by simp)).thenCore
    (f := fun c => { c with ev := false }) (fun _ => rfl) s.cur
  exact ⟨hret, hsame, by rw [getCore_modCore_self]⟩

theorem wfe_blocks (hr : ready s (.wfe p) = true) (hslot : slotOf s < 11) (hev : (getCore s s.cur).ev = false) :
    ∃ t, exec (.wfe p) s = .next t ∧ Rules.PassedOn s t { me s with mode := .blockedEvent } :=
  ⟨_, congrArg Host.Outcome.next (issue_done hr (by rw [hev]; rfl)), switchOut_passedOn hr hslot (by simp) (by simp)⟩

/-- The cores that `sev` names with a value of its register. -/
def Named (s : State) (n g : Nat) : Prop := clusterOf g = clusterOf s.cur ∧ g % 64 < 52 ∧ (n % 64 = g % 64 ∨ n % 64 = 63)

/-- The events that `sev` sets. -/
def sevEvents (s : State) (n : Nat) : List Nat :=
  if n % 64 < 52 then [clusterOf s.cur * 64 + n % 64] else if n % 64 = 63 then upFrom (clusterOf s.cur * 64) 52 else []

theorem mem_sevEvents (s : State) (n g : Nat) : g ∈ sevEvents s n ↔ Named s n g := by
  unfold sevEvents Named clusterOf
  split
  · rw [List.mem_singleton]; omega
  · split
    · rw [mem_upFrom]; omega
    · simp only [List.not_mem_nil, false_iff]; omega

theorem RegisterOnly.evNext {s r : State} {pc : Code} {ws : List (Reg × Word)} (h : RegisterOnly s r pc ws) (g : Nat) :
    (getCore r g).evNext = (getCore s g).evNext := by
  by_cases hg : g = s.cur
  · rw [hg, h.only.core]
  · rw [h.only.others g hg]

theorem sev_signals (hr : ready s (.sev p a) = true) :
    ∃ t, exec (.sev p a) s = .next t ∧ Retired s t (nextOf s (.sev p a)) [] ∧ MemSame s t ∧
      (∀ g, Named s (xreg s a).toNat g → (getCore t g).evNext = true) ∧
      ∀ g, ¬ Named s (xreg s a).toNat g → (getCore t g).evNext = (getCore s g).evNext := by
  obtain ⟨l, hl⟩ : ∃ l, l = sevEvents s (xreg s a).toNat := ⟨_, rfl⟩
  have hnamed (g : Nat) : g ∈ l ↔ Named s (xreg s a).toNat g := hl ▸ mem_sevEvents s _ g
  have hreg := retireTo_plain (s := s) (.sev p a) (ws := []) (nextOf s (.sev p a)) (portMode_of_ready hr) (by simp)
  refine ⟨l.foldl setEvent (retireTo s s.cur (slotOf s) (.sev p a) [] (nextOf s (.sev p a))), congrArg Host.Outcome.next (issue_done hr ?_),
    hreg.retired.of_ctx (getCtx_setEvents l _ _ _), hreg.same.of_cores (setEvents_onlyCores l _), fun g hg => ?_, fun g hg => ?_⟩
  · rw [hl, sevEvents]
    simp only [readX_ready hr]
    split
    · rfl
    · split <;> rfl
  · rw [evNext_setEvents, if_pos ((hnamed g).2 hg)]
  · rw [evNext_setEvents, if_neg fun hm => hg ((hnamed g).1 hm), hreg.evNext]

/-! ### Starting and stopping cores (R136, R137) -/

theorem cstart_sends (hr : ready s (.cstart p d a b) = true) (hq : quiet s 4 = true) :
    ∃ t m, exec (.cstart p d a b) s = .next t ∧ t.net = s.net ++ [m] ∧ t.mem = s.mem ∧ m.route = .ordered ∧ m.cls = 1 ∧
      (∃ dest, m.body = .start (xreg s a).toNat (xreg s b) dest ∧ dest.reg = some d) ∧
      (getCtx t s.cur (slotOf s)).mode = .waiting (.reply m.id) := by
  obtain ⟨m, hid, hcls, hroute, -, hbody, hnet, hmem, hmode⟩ :=
    switchOut_sendFrom s s.cur [slotOf s] 1 .ordered ((xreg s a).toNat * 16 + 6) (modOf s.cur)
      (.start (xreg s a).toNat (xreg s b) { reg := some d, next := nextOf s (.cstart p d a b), pops := popList s s.cur (slotOf s) (.cstart p d a b) })
      s.cur (slotOf s) (m := .waiting (.reply s.nextId)) (by simp)
  refine ⟨_, m, congrArg Host.Outcome.next (issue_done hr ?_), hnet, hmem, hroute, hcls, ⟨_, hbody, rfl⟩, by rw [hmode, hid]⟩
  rw [releaseThen_quiet hq]
  simp only [readX_ready hr]
  rfl

theorem cstop_sends (hr : ready s (.cstop p d a) = true) (ht : (xreg s a).toNat ≠ s.cur % 131072) (hq : quiet s 4 = true) :
    ∃ t m, exec (.cstop p d a) s = .next t ∧ t.net = s.net ++ [m] ∧ t.mem = s.mem ∧ m.route = .ordered ∧ m.cls = 1 ∧
      (∃ dest, m.body = .stop (xreg s a).toNat dest false ∧ dest.reg = some d) ∧
      (getCtx t s.cur (slotOf s)).mode = .waiting (.reply m.id) := by
  obtain ⟨m, hid, hcls, hroute, -, hbody, hnet, hmem, hmode⟩ :=
    switchOut_sendFrom s s.cur [slotOf s] 1 .ordered ((xreg s a).toNat * 16 + 6) (modOf s.cur)
      (.stop (xreg s a).toNat { reg := some d, next := nextOf s (.cstop p d a), pops := popList s s.cur (slotOf s) (.cstop p d a) } false)
      s.cur (slotOf s) (m := .waiting (.reply s.nextId)) (by simp)
  refine ⟨_, m, congrArg Host.Outcome.next (issue_done hr ?_), hnet, hmem, hroute, hcls, ⟨_, hbody, rfl⟩, by rw [hmode, hid]⟩
  simp only [readX_ready hr]
  rw [if_neg ht, releaseThen_quiet hq]
  rfl

theorem cstop_stopsSelf (hr : ready s (.cstop p d a) = true) (ht : (xreg s a).toNat = s.cur % 131072) :
    ∃ t, exec (.cstop p d a) s = .next t ∧ (getCore t s.cur).run = false := by
  refine ⟨_, congrArg Host.Outcome.next (issue_done hr (by simp only [readX_ready hr]; rw [if_pos ht])), ?_⟩
  exact (stopCore_stopped _ s.cur).run

/-! ### Code frames and the generator (R138, R139) -/

theorem RegisterOnly.frameV {s r : State} {pc : Code} {ws : List (Reg × Word)} (h : RegisterOnly s r pc ws) :
    (getCore r s.cur).frameV = (getCore s s.cur).frameV := by
  rw [h.only.core]

/-- A frame's V bit cleared. -/
theorem getLsbD_clearBit (v : BitVec 64) {n f : Nat} (hf : f < 64) :
    (v &&& ~~~((1 : BitVec 64) <<< n)).getLsbD f = if f = n then false else v.getLsbD f := by
  have hone : ((1 : BitVec 64) <<< n).getLsbD f = decide (f = n) := by
    rw [BitVec.getLsbD_shiftLeft]
    by_cases h : f = n
    · subst h; simp [hf]
    · by_cases hlt : f < n
      · simp [hlt, h]
      · have : f - n ≠ 0 := by omega
        simp [hlt, h, this, hf]
  rw [BitVec.getLsbD_and, BitVec.getLsbD_not, hone]
  by_cases h : f = n <;> simp [h, hf]

theorem finv_invalidates (hr : ready s (.finv p a) = true) :
    ∃ t, exec (.finv p a) s = .next t ∧ Retired s t (nextOf s (.finv p a)) [] ∧ MemSame s t ∧
      ∀ f, f < 64 → (getCore t s.cur).frameV.getLsbD f =
        (if f = (xreg s a).toNat ∧ f < frameCount s.cur then false else (getCore s s.cur).frameV.getLsbD f) := by
  have hreg := retireTo_plain (s := s) (.finv p a) (ws := []) (nextOf s (.finv p a)) (portMode_of_ready hr) (by simp)
  by_cases hn : (xreg s a).toNat < frameCount s.cur
  · obtain ⟨hret, hsame⟩ := hreg.thenCore (f := fun c => { c with frameV := c.frameV &&& ~~~((1 : BitVec 64) <<< (xreg s a).toNat) }) (fun _ => rfl) s.cur
    refine ⟨_, congrArg Host.Outcome.next (issue_done hr (by simp only [readX_ready hr]; rw [if_pos hn]; rfl)), hret, hsame, fun f hf => ?_⟩
    rw [getCore_modCore_self]
    dsimp only
    rw [hreg.frameV, getLsbD_clearBit _ hf]
    by_cases h : f = (xreg s a).toNat
    · rw [if_pos h, if_pos ⟨h, h ▸ hn⟩]
    · rw [if_neg h, if_neg fun e => h e.1]
  · refine ⟨_, congrArg Host.Outcome.next (issue_done hr (by simp only [readX_ready hr]; rw [if_neg hn]; rfl)), hreg.retired, hreg.same, fun f _ => ?_⟩
    rw [hreg.frameV, if_neg fun e : f = (xreg s a).toNat ∧ f < frameCount s.cur => hn (e.1 ▸ e.2)]

theorem rng_draws (hr : ready s (.rng p d a) = true) :
    ∃ t, exec (.rng p d a) s = .next t ∧ Retired s t (nextOf s (.rng p d a)) [(d, (getCore s s.cur).rng)] ∧ MemSame s t ∧
      (getCore t s.cur).rng = if xreg s a = 0 then rngStep (getCore s s.cur).rng else xreg s a := by
  have hreg := retireTo_plain (s := s) (.rng p d a) (ws := [(d, (getCore s s.cur).rng)]) (nextOf s (.rng p d a)) (portMode_of_ready hr) (by simp)
  obtain ⟨hret, hsame⟩ := hreg.thenCore
    (f := fun c => { c with rng := if xreg s a = 0 then rngStep (getCore s s.cur).rng else xreg s a }) (fun _ => rfl) s.cur
  refine ⟨_, congrArg Host.Outcome.next (issue_done hr (by simp only [readX_ready hr]; rfl)), hret, hsame, ?_⟩
  rw [getCore_modCore_self]

end

/-! ### The obligation -/

/-- Settles O9, instruction by instruction. -/
theorem eventsAndCoreControlComplete : Obligations.EventsAndCoreControlComplete := by
  refine ⟨fun s p a hslot => ⟨wfe_consumes, fun hr hev => wfe_blocks hr hslot hev, fun hr => ?_⟩,
    fun s p d a b => ⟨cstart_sends, cstop_sends, cstop_stopsSelf, finv_invalidates, fun hr => ?_⟩⟩
  · obtain ⟨t, he, hret, hsame, hnamed, hothers⟩ := sev_signals hr
    exact ⟨t, he, hret, hsame, fun g hg => ⟨hnamed g hg, coreClockEnd_ev (hnamed g hg)⟩, hothers⟩
  · obtain ⟨t, he, hret, hsame, hrng⟩ := rng_draws hr
    exact ⟨t, he, hret, hsame, fun h0 => hrng.trans (if_neg h0), fun h0 => ⟨_, _, rfl, rfl, hrng.trans (if_pos h0)⟩⟩

end Sys2Proof.Machine


/-!
PROOFS. Messages that start and stop cores (O49; R136, R137, R267, R268).
-/
namespace Sys2Proof.Machine

/-! ### The status that goes back (R136) -/

theorem findMsg_id {s : State} {k : Nat} {m : Msg} (h : findMsg s k = some m) : m.id = k := by
  simpa using List.find?_some h

/-- The reply goes back to its source, and nothing but the messages under way changes. -/
theorem replyWord_status (s : State) (m : Msg) (v : Nat) (dest : Dest) : Rules.status s (replyWord s m (BitVec.ofNat 64 v) dest) m v dest := by
  unfold Rules.status
  rw [← leBytes_eq_bytesOf]
  rfl

/-- A status goes back and nothing else changes. -/
theorem replyWord_only {s : State} {m : Msg} {v : Nat} {dest : Dest} :
    Rules.status s (replyWord s m (BitVec.ofNat 64 v) dest) m v dest ∧
      replyWord s m (BitVec.ofNat 64 v) dest = { s with net := (replyWord s m (BitVec.ofNat 64 v) dest).net } :=
  ⟨replyWord_status s m v dest, rfl⟩

/-! ### A base context that starts (R267, R268) -/

/-- Nothing but the groups differs. -/
theorem joinGroups_rest (s : State) (g : Nat) : joinGroups s g = { s with groups := (joinGroups s g).groups } := by
  refine foldl_keeps (fun t => t = { s with groups := t.groups }) _ (fun t level h => ?_) (upFrom 0 4) s rfl
  split
  · split
    · rw [h]; rfl
    · exact h
  · exact h

theorem getCore_joinGroups (s : State) (g h : Nat) : getCore (joinGroups s g) h = getCore s h := by
  rw [joinGroups_rest]
  rfl

theorem getCtx_joinGroups (s : State) (g h k : Nat) : getCtx (joinGroups s g) h k = getCtx s h k := by
  rw [getCtx, getCore_joinGroups, ← getCtx]

/-- A core whose base context alone is READY runs it. -/
theorem settle_base {s : State} {g : Nat} (hrun : (getCore s g).run = true) (hslot : (getCore s g).slot = 0) (hpre : (getCore s g).preempting = false)
    (h0 : (getCtx s g 0).mode = .ready) (hfree : ∀ k, 1 ≤ k → k < 11 → (getCtx s g k).mode = .free) :
    getCore (settle s g) g = { getCore s g with ctx := (getCore (settle s g) g).ctx } ∧
      getCtx (settle s g) g 0 = { getCtx s g 0 with mode := .running } := by
  have hidle : busy (getCore s g) = false := by
    have : tget {} (getCore s g).ctx 0 = getCtx s g 0 := rfl
    rw [busy, hslot, this, h0]
    rfl
  have hnext : nextReady s g = some 0 := by
    cases h : nextReady s g with
    | none =>
      have := nextReady_none h (by decide) h0
      rw [mayRun_of_not_preempting hpre] at this
      cases this
    | some k =>
      have hk : k < 11 := by
        rw [nextReady_eq] at h
        obtain ⟨n, -, rfl⟩ := List.mem_map.1 (List.mem_of_find?_eq_some h)
        exact Nat.mod_lt _ (by decide)
      by_cases hk0 : k = 0
      · rw [hk0]
      · have := (nextReady_ready h).symm.trans (hfree k (by omega) hk)
        cases this
  obtain ⟨hc, hx⟩ := settle_picked hrun hidle hnext
  refine ⟨?_, by rw [hx, if_pos rfl]⟩
  conv_lhs => rw [hc, ← hslot]

/-- A core that has changed joins its groups and runs its base context. -/
structure Begun (s t : State) (g : Nat) (c : Core) : Prop where
  core : getCore t g = { c with ctx := (getCore t g).ctx }
  base : getCtx t g 0 = { tget {} c.ctx 0 with mode := .running }
  others : ∀ h, h ≠ g → getCore t h = getCore s h
  net : t.net = s.net
  mem : t.mem = s.mem

theorem settle_begun {s : State} {g : Nat} {f : Core → Core} {c : Core} (hc : f (getCore s g) = c) (hrun : c.run = true) (hslot : c.slot = 0)
    (hpre : c.preempting = false) (h0 : (tget {} c.ctx 0).mode = .ready) (hfree : ∀ k, 1 ≤ k → k < 11 → (tget {} c.ctx k).mode = .free) :
    Begun s (settle (joinGroups (modCore s g f) g) g) g c := by
  have hu : getCore (joinGroups (modCore s g f) g) g = c := by rw [getCore_joinGroups, getCore_modCore_self, hc]
  have hx (k : Nat) : getCtx (joinGroups (modCore s g f) g) g k = tget {} c.ctx k := by rw [getCtx, hu]
  obtain ⟨hcore, hbase⟩ := settle_base (s := joinGroups (modCore s g f) g) (g := g) (by rw [hu, hrun]) (by rw [hu, hslot]) (by rw [hu, hpre])
    (by rw [hx, h0]) fun k h1 h2 => by rw [hx, hfree k h1 h2]
  refine ⟨by rw [hu] at hcore; exact hcore, by rw [hbase, hx], fun h hh => ?_, ?_, ?_⟩
  · rw [getCore_settle_of_ne hh, getCore_joinGroups, getCore_modCore, if_neg hh]
  · rw [settle_rest, joinGroups_rest]
    rfl
  · rw [settle_rest, joinGroups_rest]
    rfl

/-- Entries of a table updated one after another. -/
theorem tget_updateEach {α : Type} (d : α) (f : α → α) (l : List Nat) (hl : l.Nodup) (t : Tbl α) (j : Nat) :
    tget d (l.foldl (fun t k => tput t k (f (tget d t k))) t) j = if j ∈ l then f (tget d t j) else tget d t j := by
  induction l generalizing t with
  | nil => rfl
  | cons k l ih =>
    obtain ⟨hk, hl⟩ := List.nodup_cons.1 hl
    rw [List.foldl_cons, ih hl, tget_tput]
    by_cases hj : j = k
    · subst hj
      simp [hk]
    · simp [hj]

theorem nodup_upFrom (a n : Nat) : (upFrom a n).Nodup := by
  rw [upFrom_eq_range']
  exact List.nodup_range'

/-- The level that a start message gives the base context. -/
theorem lvl_start (v : Word) (l : Nat) (hl : l < 2) : fget F.lvl (fput F.plvl (fput F.lvl v l) 0) = l := by
  rw [fget_fput_of_disjoint (by decide) (by decide), fget_fput (by decide)]
  exact Nat.mod_eq_of_lt hl

theorem bit16_eq (v : Word) : (if v.getLsbD 16 then 1 else 0) = v.toNat / 65536 % 2 := by
  rw [BitVec.getLsbD, Nat.testBit_eq_decide_div_mod_eq]
  have := Nat.mod_two_eq_zero_or_one (v.toNat / 65536)
  rcases this with h | h <;> simp [h]

theorem regTarget_eq_ofNat (v : Word) : regTarget v = BitVec.ofNat 16 (v.toNat % 65536) &&& 0xFFFE := by
  rw [regTarget, ← BitVec.ofNat_toNat]
  congr 1
  apply BitVec.eq_of_toNat_eq
  simp

/-- The base context as `cstart` starts it. -/
def startedCtx (xb : Word) (x : Ctx) : Ctx :=
  { x with mode := .ready, kind := .base, begun := false, held := none, pc := regTarget xb, instret := 0
           priv := fput F.plvl (fput F.lvl x.priv (if xb.getLsbD 16 then 1 else 0)) 0 }

/-- A slot that is made FREE. -/
def freedCtx (x : Ctx) : Ctx := { x with mode := .free, kind := .helper }

/-- The core as `cstart` starts it. -/
def startedCore (xb : Word) (c : Core) : Core :=
  { c with
    run := true, ev := false, evNext := false, cycle := 0, slot := 0, preempting := false, phase := 0
    ctx := (upFrom 1 10).foldl (fun l k => tput l k (freedCtx (tget {} l k))) (tput c.ctx 0 (startedCtx xb (tget {} c.ctx 0))) }

theorem startedCore_base (xb : Word) (c : Core) : tget {} (startedCore xb c).ctx 0 = startedCtx xb (tget {} c.ctx 0) := by
  unfold startedCore
  dsimp only
  rw [tget_updateEach {} freedCtx _ (nodup_upFrom 1 10), if_neg (by simp [mem_upFrom]), tget_tput_self]

theorem startedCore_free (xb : Word) (c : Core) {k : Nat} (h1 : 1 ≤ k) (h2 : k < 11) : (tget {} (startedCore xb c).ctx k).mode = .free := by
  unfold startedCore
  dsimp only
  rw [tget_updateEach {} freedCtx _ (nodup_upFrom 1 10), if_pos ((mem_upFrom 1 10 k).2 (by omega))]
  rfl

theorem startCore_begun (s : State) (g : Nat) (xb : Word) : Begun s (startCore s g xb) g (startedCore xb (getCore s g)) := by
  refine settle_begun (f := startedCore xb) rfl rfl rfl rfl ?_ fun k h1 h2 => startedCore_free xb _ h1 h2
  rw [startedCore_base]
  rfl

/-- The base context as the launch unit starts it. -/
def launchedCtx (entry : Code) (x : Ctx) : Ctx := { x with mode := .ready, kind := .base, pc := entry }

/-- The core as the launch unit starts it. -/
def launchedCore (entry : Code) (c : Core) : Core :=
  { c with run := true, slot := 0, cycle := 0, ev := false, evNext := false, ctx := tput c.ctx 0 (launchedCtx entry (tget {} c.ctx 0)) }

/-! ### Start messages (R136, R267) -/

section
variable {s : State} {m : Msg}

/-- What the machine does with a start message that has arrived. -/
theorem coreStartMessage_start (hm : findMsg s s.argA = some m) (hh : m.here = m.dst) {tgt g : Nat} {xb : Word} {dest : Dest}
    (hb : m.body = .start tgt xb dest) (hg : g = m.src / 131072 * 131072 + tgt) :
    coreStartMessage s s.argA = if (!reachable s (m.src / 131072) tgt) = true then replyWord s m (BitVec.ofNat 64 2) dest
      else if (getCore s g).run = true then replyWord s m (BitVec.ofNat 64 1) dest else startCore (replyWord s m (BitVec.ofNat 64 0) dest) g xb := by
  subst hg
  rw [coreStartMessage, hm]
  dsimp only
  rw [if_neg (not_not.2 hh), hb]
  rfl

/-- A core that is READY and stopped starts. -/
theorem start_starts (hm : findMsg s s.argA = some m) (hh : m.here = m.dst) {tgt g : Nat} {xb : Word} {dest : Dest}
    (hb : m.body = .start tgt xb dest) (hg : g = m.src / 131072 * 131072 + tgt) (hreach : reachable s (m.src / 131072) tgt = true)
    (hrun : (getCore s g).run = false) :
    ∃ t, exec .coreStartMessage s = .next t ∧ Rules.status s t m 0 dest ∧
      (getCore t g).run = true ∧ (getCore t g).cycle = 0 ∧ (getCtx t g 0).pc = BitVec.ofNat 16 (xb.toNat % 65536) &&& 0xFFFE ∧
      (getCtx t g 0).instret = 0 ∧ fget F.lvl (getCtx t g 0).priv = xb.toNat / 65536 % 2 ∧ (getCtx t g 0).x = (getCtx s g 0).x ∧
      (getCtx t g 0).mode = .running ∧ (getCore t g).phase = 0 ∧ (getCore t g).ev = false ∧ t.mem = s.mem ∧ ∀ h, h ≠ g → getCore t h = getCore s h := by
  obtain ⟨hcore, hbase, hothers, hnet, hmem⟩ := startCore_begun (replyWord s m (BitVec.ofNat 64 0) dest) g xb
  rw [startedCore_base] at hbase
  have hexec : coreStartMessage s s.argA = startCore (replyWord s m (BitVec.ofNat 64 0) dest) g xb := by
    rw [coreStartMessage_start hm hh hb hg, hreach, hrun]
    rfl
  refine ⟨_, congrArg Host.Outcome.next hexec, ?_, ?_⟩
  · exact hnet.trans (replyWord_status s m 0 dest)
  · rw [hbase, hcore, ← regTarget_eq_ofNat, ← bit16_eq]
    refine ⟨rfl, rfl, rfl, rfl, lvl_start _ _ ?_, rfl, rfl, rfl, rfl, hmem, hothers⟩
    split <;> decide

/-- The launch unit's message starts the base context at its entry. -/
theorem launchStart_starts (hm : findMsg s s.argA = some m) (hh : m.here = m.dst) {g : Nat} {entry : Code} (hb : m.body = .launchStart g entry false)
    (hfree : ∀ k, 1 ≤ k → (getCtx s g k).mode = .free) (hpre : (getCore s g).preempting = false) :
    ∃ t, exec .coreStartMessage s = .next t ∧ Rules.gone s t m ∧ (getCore t g).run = true ∧ (getCtx t g 0).pc = entry ∧
      (getCtx t g 0).mode = .running ∧ (getCore t g).cycle = 0 ∧ (getCore t g).ev = false ∧ t.mem = s.mem ∧ ∀ h, h ≠ g → getCore t h = getCore s h := by
  have hb0 : tget {} (launchedCore entry (getCore s g)).ctx 0 = launchedCtx entry (getCtx s g 0) := tget_tput_self _ _ _ _
  obtain ⟨u, hu⟩ : ∃ u, u = coreStartMessage s s.argA := ⟨_, rfl⟩
  have hbegun : Begun (dropMsg s s.argA) u g (launchedCore entry (getCore s g)) := by
    rw [hu, coreStartMessage, hm]
    dsimp only
    rw [if_neg (not_not.2 hh), hb]
    refine settle_begun rfl rfl rfl hpre (by rw [hb0]; rfl) fun k h1 h2 => ?_
    refine (congrArg Ctx.mode (tget_tput {} (getCore s g).ctx 0 k _)).trans ?_
    rw [if_neg (by omega)]
    exact hfree k h1
  obtain ⟨hcore, hbase, hothers, hnet, hmem⟩ := hbegun
  refine ⟨u, hu ▸ rfl, ?_, ?_⟩
  · rw [Rules.gone, hnet, findMsg_id hm]
    rfl
  · rw [hbase, hb0, hcore]
    exact ⟨rfl, rfl, rfl, rfl, rfl, hmem, hothers⟩

/-! ### Stop messages (R137) -/

theorem flushOldest_standing (s : State) (g : Nat) : Standing s (flushOldest s g) := by
  unfold flushOldest
  split
  · exact .refl s
  · exact .foldl (fun _ _ h => sendFrom_standing h) _ (modCore_standing (fun _ => ⟨rfl, rfl⟩) (.refl s))

theorem flushOldest_comb (s : State) (g : Nat) : (getCore (flushOldest s g) g).comb = (getCore s g).comb.tail := by
  unfold flushOldest
  split
  · next h => rw [h]; rfl
  · next e rest h =>
    refine foldl_keeps (fun t => (getCore t g).comb = (getCore s g).comb.tail) (fun s cells => sendPart s g e cells) (fun _ _ ht => ht) _ _ ?_
    rw [getCore_modCore_self, h]
    rfl

theorem flushN_standing (s : State) (g n : Nat) : Standing s (flushN s g n) := by
  induction n generalizing s with
  | zero => exact .refl s
  | succ n ih => exact (flushOldest_standing s g).trans (ih _)

theorem flushN_comb (s : State) (g n : Nat) : (getCore (flushN s g n) g).comb = (getCore s g).comb.drop n := by
  induction n generalizing s with
  | zero => rfl
  | succ n ih => rw [flushN, ih, flushOldest_comb, List.drop_tail]

theorem flushAll_comb (s : State) (g : Nat) : (getCore (flushAll s g) g).comb = [] := by
  rw [flushAll, flushN_comb, List.drop_length]

/-- What the machine does with a stop message that has arrived. -/
theorem coreStopMessage_stop (hm : findMsg s s.argA = some m) (hh : m.here = m.dst) {tgt g : Nat} {dest : Dest} {did : Bool}
    (hb : m.body = .stop tgt dest did) (hg : g = m.src / 131072 * 131072 + tgt) :
    coreStopMessage s s.argA = if did = true then
        if (s.net.any (fun n => n.src == g && isWrite n.body) || !(getCore s g).comb.isEmpty) = true then flushAll s g else replyWord s m (BitVec.ofNat 64 0) dest
      else if (!reachable s (m.src / 131072) tgt) = true then replyWord s m (BitVec.ofNat 64 2) dest
      else if (getCore s g).run = true then setMsg (flushAll (stopCore s g) g) { m with body := .stop tgt dest true }
      else replyWord s m (BitVec.ofNat 64 1) dest := by
  subst hg
  rw [coreStopMessage, hm]
  dsimp only
  rw [if_neg (not_not.2 hh), hb]
  rfl

/-- A core that runs stops, and its held stores leave. -/
theorem stop_stops (hm : findMsg s s.argA = some m) (hh : m.here = m.dst) {tgt g : Nat} {dest : Dest}
    (hb : m.body = .stop tgt dest false) (hg : g = m.src / 131072 * 131072 + tgt) (hreach : reachable s (m.src / 131072) tgt = true)
    (hrun : (getCore s g).run = true) :
    ∃ t, exec .coreStopMessage s = .next t ∧ (getCore t g).run = false ∧ (getCore t g).comb = [] ∧ t.mem = s.mem ∧
      ∀ h, h ≠ g → (getCore t h).run = (getCore s h).run := by
  have hstop : Stopped s (flushAll (stopCore s g) g) g := (stopCore_stopped s g).then (flushN_standing _ g _)
  have hexec : coreStopMessage s s.argA = setMsg (flushAll (stopCore s g) g) { m with body := .stop tgt dest true } := by
    rw [coreStopMessage_stop hm hh hb hg, hreach, hrun]
    rfl
  exact ⟨_, congrArg Host.Outcome.next hexec, hstop.run, flushAll_comb _ g, hstop.mem, hstop.others⟩

/-- Once no write of the core is held or under way, the status goes back. -/
theorem stop_answers (hm : findMsg s s.argA = some m) (hh : m.here = m.dst) {tgt g : Nat} {dest : Dest}
    (hb : m.body = .stop tgt dest true) (hg : g = m.src / 131072 * 131072 + tgt) (hcomb : (getCore s g).comb = []) (hnet : ∀ x ∈ s.net, x.src ≠ g) :
    coreStopMessage s s.argA = replyWord s m (BitVec.ofNat 64 0) dest := by
  have hany : s.net.any (fun n => n.src == g && isWrite n.body) = false := by
    rw [List.any_eq_false]
    exact fun x hx => by simp [hnet x hx]
  rw [coreStopMessage_stop hm hh hb hg, hany, hcomb]
  rfl

end

/-! ### The obligation -/

/-- Settles O49, message by message. -/
theorem coreMessagesStartAndStop : Obligations.CoreMessagesStartAndStop := by
  intro s m hm hh
  refine ⟨fun tgt xb dest g hb hg => ⟨start_starts hm hh hb hg, fun hreach hrun => ?_, fun hreach => ?_⟩, fun g entry hb => launchStart_starts hm hh hb,
    fun tgt dest did g hb hg => ⟨fun hreach hrun hd => stop_stops hm hh (hd ▸ hb) hg hreach hrun, fun hreach hrun hd => ?_, fun hreach hd => ?_,
      fun hd hcomb hnet => ?_⟩⟩
  · have h : coreStartMessage s s.argA = replyWord s m (BitVec.ofNat 64 1) dest := by rw [coreStartMessage_start hm hh hb hg, hreach, hrun]; rfl
    exact ⟨_, congrArg Host.Outcome.next h, replyWord_only⟩
  · have h : coreStartMessage s s.argA = replyWord s m (BitVec.ofNat 64 2) dest := by rw [coreStartMessage_start hm hh hb hg, hreach]; rfl
    exact ⟨_, congrArg Host.Outcome.next h, replyWord_only⟩
  · have h : coreStopMessage s s.argA = replyWord s m (BitVec.ofNat 64 1) dest := by rw [coreStopMessage_stop hm hh hb hg, hreach, hrun, hd]; rfl
    exact ⟨_, congrArg Host.Outcome.next h, replyWord_only⟩
  · have h : coreStopMessage s s.argA = replyWord s m (BitVec.ofNat 64 2) dest := by rw [coreStopMessage_stop hm hh hb hg, hreach, hd]; rfl
    exact ⟨_, congrArg Host.Outcome.next h, replyWord_only⟩
  · exact ⟨_, congrArg Host.Outcome.next (stop_answers hm hh (hd ▸ hb) hg hcomb hnet), replyWord_only⟩

end Sys2Proof.Machine
